-- ==== Sys2Proof/Word.lean ====
section
/-!
DEFINITION. The word types of the complex and their plainest arithmetic: 32-bit registers and
words, bytes, 64 B lines, and the two-register pair of R7 and R111.
-/
namespace Sys2Proof

/-- A 32-bit register or memory word. -/
abbrev Word := BitVec 32

/-- A byte. -/
abbrev Byte := BitVec 8

/-- The 64 B line of R301: 512 bits, the byte at the lowest address least significant (R6). -/
abbrev Line := BitVec 512

/-- A 64-bit quantity from its low and high words (R7, R111). -/
def Word.pair (lo hi : Word) : BitVec 64 := hi ++ lo

/-- The low word of a 64-bit quantity (R7). -/
def Word.lo (x : BitVec 64) : Word := x.extractLsb' 0 32

/-- The high word of a 64-bit quantity (R7). -/
def Word.hi (x : BitVec 64) : Word := x.extractLsb' 32 32

end Sys2Proof
end

