-- ==== Sys2Proof/Syntax.lean ====
section
/-!
DEFINITION. The commands of the block: `Instr`, one constructor for each row of
spec/opcode_table.json, with the operands each row's step takes. An operand that the outside of the
complex decides (the data of a response, the level of a pin, the number of PCLK or TCLK cycles that
have passed, whether a port B access met BUSY) is an operand of the command.
-/
namespace Sys2Proof

/-- A global thread number GT = core * 64 + thread. -/
abbrev GT := Fin 2048
/-- A core, and the bay it hosts (R28). -/
abbrev Core := Fin 32
/-- A sequencer number within its bay. -/
abbrev Seq := Fin 8
/-- A lane 0 to 1023. -/
abbrev Lane := Fin 1024
/-- A timer 0 to 1023. -/
abbrev Timer := Fin 1024
/-- A DMA channel 0 to 127. -/
abbrev Chan := Fin 128
/-- A global bank number (R301). -/
abbrev Bank := Fin 320
/-- A buffer pool. -/
abbrev Pool := Fin 64
/-- A virtual complex. -/
abbrev VC := Fin 64
/-- PCLK cycles of a quadrant that have passed since its last row: PT counts on by them (R200). -/
abbrev PinTime := BitVec 24
/-- A general register field of an instruction. -/
abbrev Reg := BitVec 5

/-- What an instruction row takes of the fetched word beside its fields: the issuing thread; with the
PAIR marker (bit 31) set, the word at the next word address, which R86 judges with it; and whether the
word is an undefined encoding (R163), in which case it raises ILLEGAL whatever row presents it. -/
structure Issue where
  gt    : GT
  pair  : Option (BitVec 32)
  undef : Bool
  deriving DecidableEq, Repr

/-- Operands of format MEM: register field d, base a, segment and byte offset (R161, R164).
`clash` says of the first part of the access, and `clash2` of the second half of a split one, that it
met another at its bank port in the same cycle: a port A read meets a port B write of its word, or a
port B access receives BUSY (R313). -/
structure MemOp where
  d      : Reg
  a      : Reg
  seg    : Fin 8
  imm    : BitVec 12
  clash  : Bool
  clash2 : Bool
  deriving DecidableEq, Repr

/-- The agent whose access a register or memory block sees, with the path the access took. -/
inductive Agent where
  | thread (gt : GT)
  /-- The host through the Manager window (R570). -/
  | manager
  /-- The host through the window of virtual complex v, its aperture included (R465, R467). -/
  | window (v : VC)
  /-- The host through the Debug-safety window, or the register access instrument (R536). -/
  | debug
  | chan (c : Chan)
  /-- An inbound request of bridge port p. -/
  | bridge (p : Fin 4)
  deriving DecidableEq, Repr

/-- A crossing queue between two clock domains (R34). -/
inductive Crossing where
  /-- CCLK to PCLK of a bay: TXW words, EDGE requests, bay and lane register accesses (R231). -/
  | toBay (n : Core)
  /-- PCLK of a bay to CCLK: read data. -/
  | fromBay (n : Core)
  /-- CCLK to TCLK: timer and timebase register accesses. -/
  | toTclk
  | fromTclk
  /-- CCLK to TCLK: the global GO synchroniser (R264). -/
  | goSync
  /-- CCLK to AON: loft controller and wake register accesses. -/
  | toAon
  | fromAon
  /-- CCLK to BCLK of a bridge port: register accesses. -/
  | toBridge (p : Fin 4)
  | fromBridge (p : Fin 4)
  /-- TCLK to PCLK of a quadrant: the timebase epoch (R237). -/
  | epoch (q : Fin 4)
  /-- CCLK to SCLK of a system initiator port: requests of the ledger (R49). -/
  | toSip (p : Fin 2)
  /-- CCLK to BCLK of a bridge port: the outbound path (R553 to R555). -/
  | toLink (p : Fin 4)
  deriving DecidableEq, Repr

/-- What a credit return gives back to the hosting core (R225, R232). -/
inductive Credit where
  | tx (k : Seq)
  | edge
  deriving DecidableEq, Repr

/-- Which event an EVENT_DELIVERY takes from the routing pipeline: one of signal A or B of a
producer port (R269), or a force write to a select (R273). -/
inductive EventRef where
  | routed (port : BitVec 13) (b : Bool)
  | force (x : Fin 11776)
  deriving DecidableEq, Repr

/-- What a timer sees in TCLK: an event on input 0 or 1, or a transition of its counting or its
capture lane (R249, R251). -/
inductive TimerIn where
  | ev0 | ev1 | cntLane | capLane
  deriving DecidableEq, Repr

/-- The latching registers of R259. -/
inductive Latch where
  | tbNow
  | timer (m : Timer)
  deriving DecidableEq, Repr

/-- A _LO/_HI pair of the timers chapter that an aligned 64-bit read returns whole (R260). -/
inductive WidePair where
  | tbNow | tbSnap | tbPps | tbStep | goAt
  | tmrCount (m : Timer) | tmrSnap (m : Timer)
  deriving DecidableEq, Repr

/-- Form of an access that arrives at the host target port (R570). -/
inductive HostAccess where
  | read32 | read64
  | write32 (data : Word)
  | write64 (lo hi : Word)
  | readBytes (n : Fin 65)
  | writeBytes (data : List Byte)
  deriving DecidableEq, Repr

/-- What a beat at a bulk data window meets: it continues the burst of the beat before it (R417); its bin
accesses, and those of the read-ahead after it, meet BUSY so many times (R421). -/
structure Beat where
  cont  : Bool
  busy  : BitVec 8
  ahead : BitVec 8
  deriving DecidableEq, Repr

/-- The wake sources that show their event in the cycle of a wake, beside the one its row names: the
lowest-numbered such lane, the timer, the SoC (R535). -/
structure Wakes where
  lane  : Option (Fin 64)
  timer : Bool
  soc   : Bool
  deriving DecidableEq, Repr

/-- The commands: one constructor per row of spec/opcode_table.json. -/
inductive Instr where
  -- core control (02_wheel_and_threads.md) and the register fabric (00, 01)
  | registerWrite (who : Agent) (addr : BitVec 48) (data : Word)
  | crossingQueueDelivery (q : Crossing) (t : BitVec 32)
  | eventSynchroniserDelivery (port : BitVec 13) (b : Bool)
  | slotCommit (who : Agent) (n : Core)
  | slotTableApply (n : Core)
  | threadStart (who : Agent) (gt : GT)
  | threadHalt (who : Agent) (gt : GT)
  | threadResume (who : Agent) (gt : GT)
  | threadStop (who : Agent) (gt : GT)
  | handlerEntry (gt : GT)
  | faultEntry (gt : GT)
  | icacheRefill (gt : GT) (line : BitVec 42) (way : Fin 4) (lost : Word)
  | icacheInvAll (who : Agent) (n : Core)
  | longOpRetire (gt : GT) (i : Fin 4) (late : Bool)
  | storeCompletion (gt : GT) (late : Bool)
  -- arithmetic and logic (04, R171 to R176)
  | add (x : Issue) (f : Bool) (d a b : Reg)
  | addc (x : Issue) (f : Bool) (d a b : Reg)
  | sub (x : Issue) (f : Bool) (d a b : Reg)
  | subc (x : Issue) (f : Bool) (d a b : Reg)
  | and (x : Issue) (f : Bool) (d a b : Reg)
  | or (x : Issue) (f : Bool) (d a b : Reg)
  | xor (x : Issue) (f : Bool) (d a b : Reg)
  | sll (x : Issue) (f : Bool) (d a b : Reg)
  | srl (x : Issue) (f : Bool) (d a b : Reg)
  | sra (x : Issue) (f : Bool) (d a b : Reg)
  | ror (x : Issue) (f : Bool) (d a b : Reg)
  | slt (x : Issue) (f : Bool) (d a b : Reg)
  | sltu (x : Issue) (f : Bool) (d a b : Reg)
  | cmp (x : Issue) (a b : Reg)
  | addi (x : Issue) (d a : Reg) (imm : BitVec 15)
  | andi (x : Issue) (d a : Reg) (imm : BitVec 15)
  | ori (x : Issue) (d a : Reg) (imm : BitVec 15)
  | xori (x : Issue) (d a : Reg) (imm : BitVec 15)
  | slli (x : Issue) (d a : Reg) (cnt : BitVec 5)
  | srli (x : Issue) (d a : Reg) (cnt : BitVec 5)
  | srai (x : Issue) (d a : Reg) (cnt : BitVec 5)
  | rori (x : Issue) (d a : Reg) (cnt : BitVec 5)
  | cmpi (x : Issue) (a : Reg) (imm : BitVec 15)
  | lui (x : Issue) (d : Reg) (imm : BitVec 20)
  | mul (x : Issue) (d a b : Reg)
  | mulh (x : Issue) (d a b : Reg)
  | mulhu (x : Issue) (d a b : Reg)
  | mulw (x : Issue) (d a b : Reg)
  | mulwu (x : Issue) (d a b : Reg)
  | div (x : Issue) (d a b : Reg)
  | divu (x : Issue) (d a b : Reg)
  | rem (x : Issue) (d a b : Reg)
  | remu (x : Issue) (d a b : Reg)
  | addp (x : Issue) (f : Bool) (d a b : Reg)
  | subp (x : Issue) (f : Bool) (d a b : Reg)
  | shasig (x : Issue) (d a : Reg) (which : Fin 4)
  -- memory (04, R177 to R198)
  | ldb (x : Issue) (m : MemOp)
  | ldbu (x : Issue) (m : MemOp)
  | ldh (x : Issue) (m : MemOp)
  | ldhu (x : Issue) (m : MemOp)
  | ldw (x : Issue) (m : MemOp)
  | ldd (x : Issue) (m : MemOp)
  | stb (x : Issue) (m : MemOp)
  | sth (x : Issue) (m : MemOp)
  | stw (x : Issue) (m : MemOp)
  | std (x : Issue) (m : MemOp)
  | agree (x : Issue) (m : MemOp)
  | tli (x : Issue) (d a b : Reg) (seg : Fin 8) (w : Bool) (n : BitVec 6) (clash : BitVec 2)
  | tli2 (x : Issue) (d a b : Reg) (seg : Fin 8) (w : Bool) (n : BitVec 6) (clash : BitVec 4)
  | crc (x : Issue) (d a b : Reg) (w n : BitVec 5)
  | crcr (x : Issue) (d a b : Reg) (w n : BitVec 5)
  -- control transfers (04, R180 to R182)
  | b (x : Issue) (cond : BitVec 4) (disp : BitVec 21)
  | call (x : Issue) (disp : BitVec 25)
  | br (x : Issue) (a : Reg)
  | callr (x : Issue) (a : Reg)
  | ret (x : Issue)
  | eret (x : Issue)
  | fret (x : Issue)
  | trapi (x : Issue) (n : BitVec 7)
  -- loops, waiting, messages, system (04, R183 to R199)
  | loop (x : Issue) (k : BitVec 2) (a : Reg) (imm : BitVec 15)
  | lprd (x : Issue) (d : Reg) (k f : BitVec 2)
  | lpwr (x : Issue) (k f : BitVec 2) (a : Reg)
  | nop (x : Issue)
  | wait (x : Issue) (d : Reg) (mask : BitVec 4)
  | waitComplete (gt : GT)
  | recv (x : Issue) (d : Reg) (wt : Bool)
  | recvComplete (gt : GT)
  | send (x : Issue) (d a b : Reg)
  | settle (x : Issue)
  | settleComplete (gt : GT)
  | isync (x : Issue)
  | seal (x : Issue)
  | rdfeat (x : Issue) (d : Reg) (n : Fin 8)
  | totask (x : Issue)
  | rspush (x : Issue) (a : Reg)
  | rspop (x : Issue) (d : Reg)
  | mvfl (x : Issue) (d : Reg)
  | mvtf (x : Issue) (a : Reg)
  | setseg (x : Issue) (si : Fin 8) (a b : Reg) (rights : BitVec 5)
  | getseg (x : Issue) (d : Reg) (si : Fin 8) (w : Fin 4)
  | edge (x : Issue) (a : Reg) (seg : Fin 8) (lane : BitVec 5) (act : BitVec 2)
  -- descriptors and latching reads (03, 06)
  | segDescriptorWrite (who : Agent) (gt : GT) (i : Fin 8) (w : Fin 4) (data : Word)
  | ceilingWrite (who : Agent) (gt : GT) (i : Fin 8) (w : Fin 4) (data : Word)
  | latchingRead (gt : GT) (r : Latch) (dt : BitVec 32)
  | shadowHiRead (gt : GT) (r : Latch)
  | widePairRead (who : Agent) (r : WidePair) (dt : BitVec 32)
  -- lanes and sequencers (05)
  | laneInputTransition (l : Lane) (level : Bool) (time held : BitVec 26)
  | laneLastRead (who : Agent) (l : Lane)
  | bayCommit (who : Agent) (n : Core) (dt : PinTime)
  | progWrite (who : Agent) (n : Core) (i : Fin 64) (data : Word)
  | seqStart (who : Agent) (n : Core) (k : Seq)
  | seqStop (who : Agent) (n : Core) (k : Seq)
  | seqContinue (who : Agent) (n : Core) (k : Seq)
  | seqFlush (who : Agent) (n : Core) (k : Seq)
  | seqJmp (n : Core) (k : Seq) (dt : PinTime)
  | seqWait (n : Core) (k : Seq) (dt : PinTime)
  | seqIn (n : Core) (k : Seq) (dt : PinTime)
  | seqOut (n : Core) (k : Seq) (dt : PinTime)
  | seqPush (n : Core) (k : Seq) (dt : PinTime)
  | seqPull (n : Core) (k : Seq) (dt : PinTime)
  | seqMov (n : Core) (k : Seq) (dt : PinTime)
  | seqSet (n : Core) (k : Seq) (dt : PinTime)
  | seqEvt (n : Core) (k : Seq) (dt : PinTime)
  | seqStamp (n : Core) (k : Seq) (dt : PinTime)
  | seqStallRelease (n : Core) (k : Seq) (dt : PinTime)
  | seqEventLatch (n : Core) (k : Seq) (i : Fin 2)
  | txwWrite (who : Agent) (n : Core) (k : Seq) (data : Word)
  | rxwRead (who : Agent) (n : Core) (k : Seq)
  | creditReturn (n : Core) (c : Credit)
  | edgeEntryCheck (n : Core) (dt : PinTime)
  | edgeEntryApply (n : Core) (dt : PinTime)
  | anchorTake (q : Fin 4) (dt : BitVec 32) (time : BitVec 26)
  -- timebase and timers (06)
  | tbRate (who : Agent) (dt : BitVec 32)
  | tbStep (who : Agent) (dt : BitVec 32)
  | tbSnap (who : Agent) (dt : BitVec 32)
  | tbAdjEnd
  | ppsRecord (dt : BitVec 32)
  | gsGo (who : Agent) (dt : BitVec 32)
  | goAtDue (dt : BitVec 32)
  | tmrStart (who : Agent) (m : Timer)
  | tmrStop (who : Agent) (m : Timer)
  | tmrCommit (who : Agent) (m : Timer)
  | tmrForceReload (who : Agent) (m : Timer)
  | tmrSnap (who : Agent) (m : Timer)
  | timerCount (m : Timer) (dt : BitVec 32)
  | timerZero (m : Timer) (dt : BitVec 32)
  | timerInputSeen (m : Timer) (i : TimerIn) (dt : BitVec 32)
  | timerCapture (m : Timer)
  | tmrCapRead (who : Agent) (m : Timer) (wide : Bool)
  -- event router and messages (07)
  | evselWrite (who : Agent) (x : Fin 11776) (data : Word)
  | forceWrite (who : Agent) (x : Fin 11776) (data : Word)
  | eventDelivery (e : EventRef) (coincide : Bool)
  | levelDelivery (x : Fin 11776)
  | msgAccept (n : Core) (here : List GT)
  -- banks, march engine, loft (09)
  | portBRetry (i : Nat) (clash : Bool)
  | bankHandover (who : Agent) (g : Bank) (kind : BitVec 3) (engine : BitVec 2)
  | drainComplete (g : Bank)
  | bankPowerRequest (who : Agent) (g : Bank) (p : BitVec 2)
  | bankEnterDone (g : Bank)
  | bankWakeDone (g : Bank)
  | bankClearDone (g : Bank)
  | marchGo (who : Agent)
  | marchDone (fails : List (BitVec 11 × BitVec 9)) (again : Bool)
  | loftStoreGo (who : Agent) (r : Fin 2048) (secret : Bool)
  | loftStoreDone (ok : Bool)
  -- coherence and ledger (10)
  | rdShared (c : Fin 33) (line : BitVec 42)
  | rdUnique (c : Fin 33) (line : BitVec 42)
  | upgrade (c : Fin 33) (line : BitVec 42)
  | snpShared (c : Fin 33) (line : BitVec 42)
  | snpInv (c : Fin 33) (line : BitVec 42)
  | ackShared (c : Fin 33) (line : BitVec 42)
  | ackInv (c : Fin 33) (line : BitVec 42)
  | snpData (c : Fin 33) (line : BitVec 42) (inv : Bool) (data : Line)
  | invWbInflight (c : Fin 33) (line : BitVec 42)
  | wbData (c : Fin 33) (line : BitVec 42) (data : Line)
  | evictClean (c : Fin 33) (line : BitVec 42)
  | wbAck (c : Fin 33) (line : BitVec 42)
  | compAck (c : Fin 33) (line : BitVec 42)
  | fillS (c : Fin 33) (line : BitVec 42)
  | fillE (c : Fin 33) (line : BitVec 42)
  | grantE (c : Fin 33) (line : BitVec 42)
  | retry (c : Fin 33) (line : BitVec 42)
  | proceed (c : Fin 33) (line : BitVec 42)
  | dcacheFlushAll (who : Agent) (n : Core)
  | dcacheDisable (who : Agent) (n : Core)
  | sysCacheDisable (who : Agent) (n : Core)
  | dirFenceGo (who : Agent)
  | fenceComplete
  | ledgerIssue (i : Nat)
  | sipResponse (tag : BitVec 14) (err : Bool) (data : Line)
  | ledgerTimeout (tag : BitVec 14)
  -- DMA, pools, silo, bulk port (11)
  | chCommit (who : Agent) (c : Chan)
  | chGo (who : Agent) (c : Chan)
  | chAbort (who : Agent) (c : Chan)
  | chTrigger (c : Chan) (i : Fin 2)
  | dmaTransferDone (c : Chan) (n : Word)
  | descriptorLoad (c : Chan)
  | descriptorWriteback (c : Chan)
  | dmaAccessFail (c : Chan)
  | engineError (e : Fin 4)
  | poolEnable (who : Agent) (p : Pool)
  | poolDisable (who : Agent) (p : Pool)
  | poolAlloc (who : Agent) (p : Pool)
  | poolRefill (p : Pool)
  | poolSpill (p : Pool)
  | bmFree (who : Agent) (h : Word)
  | siloEnable (who : Agent)
  | siloPut (who : Agent) (lo hi : Word)
  | siloRecordWrite (lag : BitVec 3)
  | siloRecordDone
  | siloTrigger (who : Agent)
  | siloRearm (who : Agent)
  | bulkWindowAccess (k : Fin 65) (acc : HostAccess) (beat : Beat)
  | bulkAddrWrite (k : Fin 65) (data : Word)
  | bulkStatusRead (k : Fin 65) (addr : Bool)
  | bulkWritePerform (k : Fin 65) (clash : Bool)
  -- twin threads and the winnower (12)
  | twinSeed (who : Agent) (p : Fin 256)
  | twinBreak (who : Agent) (p : Fin 256)
  | windowEnd (gt : GT)
  | twinCompare (p : Fin 256) (brk : Bool)
  | twinReportTimeout (p : Fin 256) (brk : Bool)
  | coreSelftestDone (n : Core) (pass : Bool)
  | winInjectGo (who : Agent) (u : Fin 8)
  | injectionTestDone (u : Fin 8) (pass : Bool)
  -- virtual complexes (13)
  | ownerByteWrite (who : Agent) (off : Fin 16384) (data : Word)
  | vcCreate (who : Agent) (v : VC)
  | vcReset (who : Agent) (v : VC)
  | vcGenAdvance (v : VC)
  | vcRemove (who : Agent) (v : VC)
  | vcFreeze (who : Agent) (v : VC)
  | vcFreezeComplete (v : VC)
  | vcThaw (who : Agent) (v : VC)
  | vcSave (who : Agent) (v : VC)
  | vcRestore (who : Agent) (v : VC)
  | imageDone (v : VC)
  | ifaceSelect (v : VC) (data : Word)
  | apertureAccess (v : VC) (write : Option Word)
  | mbxTx (v : VC) (lo hi : Word)
  | mbxMove (v : VC)
  | vcMbxPost (who : Agent) (v : VC) (lo hi : Word)
  | mbxRx (v : VC)
  | vcrReq (v : VC)
  -- resets, supply and start-up (14, 17)
  | coldReset (boardDie : BitVec 2)
  | warmReset
  | supplyUp (boardDie : BitVec 2) (lc : BitVec 3)
  | supplyLoss
  | fuseLoad (words : List Word) (parityOk : Bool)
  | repairAndHeader
  | bankWakeAndMarch (fails : List (Bank × List (BitVec 11 × BitVec 9) × Bool))
  | comparatorInjection (pass : BitVec 8)
  | bootAuthentication (rom man : List Byte) (stored : List (List Byte))
      (placed : List (Option (List Byte))) (busErr : Bool)
  | bootDoorbellReady (who : Agent)
  | bootDoorbellRecovery (who : Agent)
  | secDone (pass : Bool)
  | loftConfiguration
  | bootRelease (who : Agent)
  | releaseStart
  | startTimeout
  | renameEnter (who : Agent) (n : Core) (t : Fin 64)
  | renameExit (who : Agent) (n : Core)
  -- modes, power, safety, debug (15)
  | modeReqDormant (who : Agent)
  | modeReqRun (who : Agent)
  | modeReqLimp (who : Option Agent)
  | modeReqService (who : Agent)
  | clockChange (who : Agent)
  | clkAck (i : Fin 5)
  | pdReqWrite (who : Agent) (hi : Bool) (data : Word)
  | pdAck (i : Fin 50)
  | fcSafe (who : Agent)
  | fcRelease (who : Agent)
  | safeReq
  | wdogKick (who : Agent) (key : BitVec 8)
  | wdogExpire
  | safetyPowerLost
  | laneWake (i : Fin 64) (also : Wakes)
  | aonTimerWake (count : BitVec 48) (also : Wakes)
  | socWake (also : Wakes)
  | lifecycleChange (lc : BitVec 3)
  | debugAccess (off : BitVec 30) (acc : HostAccess)
  | dbgHalt (who : Agent) (gt : GT)
  | dbgResume (who : Agent) (gt : GT)
  | dbgStep (who : Agent) (gt : GT)
  -- bridge links (16)
  | brEnable (who : Agent) (p : Fin 4)
  | brDisable (who : Agent) (p : Fin 4)
  | linkUp (p : Fin 4) (partner : BitVec 2) (offer : BitVec 2) (id : BitVec 16)
  | trainingTimeout (p : Fin 4)
  | linkDown (p : Fin 4) (cause : BitVec 4)
  | serdesLockLost (p : Fin 4)
  | flitReceive (p : Fin 4) (good : Bool) (seq : Nat) (ack : Option Nat)
  | flitNak (p : Fin 4) (seq : Nat)
  | ackTimeout (p : Fin 4)
  | downNotice (p : Fin 4)
  | retrain (p : Fin 4)
  | inboundRequest (p : Fin 4) (addr : BitVec 32) (acc : HostAccess)
  | inboundBridgeEvent (p : Fin 4) (i : Fin 64) (hop : Fin 9) (level : Option Bool)
  | inboundMessage (p : Fin 4) (dst : GT) (role : BitVec 12) (data : BitVec 64)
  | msgNack (p : Fin 4) (full : Bool)
  | timeExchangeStart (p : Fin 4) (t1 : BitVec 64)
  | timeExchangeReply (p : Fin 4) (t2 t3 t4 : BitVec 64) (stepped : Bool)
  -- the boundary (17)
  | htpRequest (off : BitVec 30) (acc : HostAccess) (beat : Beat)
  | gwSnoop (line : BitVec 42) (inv : Bool)
  | testAccessUpdate (write : Bool) (off : BitVec 29) (data : Word)
  | testScan
  | pdLate
  | safetyPowerReturn
  | serdesLockGained (p : Fin 4)
  | dbgClassChange (cls : BitVec 2) (v : VC)
  deriving DecidableEq, Repr

end Sys2Proof
end

