-- ==== Sys2Proof/Decode.lean ====
section
/-!
DEFINITION. The instruction words of a thread (R161 to R163): the formats' fields by their bit places,
the major opcodes, and the decoder from a word to the command that issues its instruction. A row's other
operands, which no bit of a word gives, stand at rest in what the decoder answers.
-/
namespace Sys2Proof

/-! ## Fields by their places (R161) -/

/-- The major opcode, bits [30:25]. -/
def opcodeOf (w : BitVec 32) : Nat := (w.extractLsb' 25 6).toNat
/-- Register fields d, a and b. -/
def fieldD (w : BitVec 32) : Reg := w.extractLsb' 20 5
def fieldA (w : BitVec 32) : Reg := w.extractLsb' 15 5
def fieldB (w : BitVec 32) : Reg := w.extractLsb' 10 5
/-- func of format REG, and its F bit func[9]. -/
def funcOf (w : BitVec 32) : BitVec 10 := w.extractLsb' 0 10
def flagBit (w : BitVec 32) : Bool := w.getLsbD 9
/-- Immediates. -/
def imm15Of (w : BitVec 32) : BitVec 15 := w.extractLsb' 0 15
def imm5Of (w : BitVec 32) : BitVec 5 := w.extractLsb' 0 5
/-- Segment fields of MEM and EDG, and of TAB. -/
def segMem (w : BitVec 32) : Fin 8 := (w.extractLsb' 12 3).toFin
def segTab (w : BitVec 32) : Fin 8 := (w.extractLsb' 7 3).toFin
/-- The operands of format MEM. -/
def memOpOf (w : BitVec 32) : MemOp := ⟨fieldD w, fieldA w, segMem w, w.extractLsb' 0 12, false, false⟩

/-- The instruction, provided its zero fields are zero. -/
def whenZero (zero : Bool) (i : Instr) : Option Instr := if zero then some i else none

/-! ## The groups -/

/-- ALU group (R171): func[8:6] zero. -/
def decodeAlu (x : Issue) (w : BitVec 32) : Option Instr :=
  let f := flagBit w
  let d := fieldD w
  let a := fieldA w
  let b := fieldB w
  if w.extractLsb' 6 3 ≠ 0 then none
  else match (w.extractLsb' 0 6).toNat with
    | 0x00 => some (.add x f d a b)
    | 0x01 => some (.addc x f d a b)
    | 0x02 => some (.sub x f d a b)
    | 0x03 => some (.subc x f d a b)
    | 0x04 => some (.and x f d a b)
    | 0x05 => some (.or x f d a b)
    | 0x06 => some (.xor x f d a b)
    | 0x08 => some (.sll x f d a b)
    | 0x09 => some (.srl x f d a b)
    | 0x0A => some (.sra x f d a b)
    | 0x0B => some (.ror x f d a b)
    | 0x0C => some (.slt x f d a b)
    | 0x0D => some (.sltu x f d a b)
    | 0x0E => whenZero (d == 0) (.cmp x a b)
    | _ => none

/-- SHI group (R173): imm15[12:5] zero. -/
def decodeShi (x : Issue) (w : BitVec 32) : Option Instr :=
  let d := fieldD w
  let a := fieldA w
  let n := imm5Of w
  if w.extractLsb' 5 8 ≠ 0 then none
  else match (w.extractLsb' 13 2).toNat with
    | 0 => some (.slli x d a n)
    | 1 => some (.srli x d a n)
    | 2 => some (.srai x d a n)
    | _ => some (.rori x d a n)

/-- MD group (R175): func[9:6] zero. -/
def decodeMd (x : Issue) (w : BitVec 32) : Option Instr :=
  let d := fieldD w
  let a := fieldA w
  let b := fieldB w
  match (funcOf w).toNat with
  | 0x00 => some (.mul x d a b)
  | 0x01 => some (.mulh x d a b)
  | 0x02 => some (.mulhu x d a b)
  | 0x03 => some (.mulw x d a b)
  | 0x04 => some (.mulwu x d a b)
  | 0x08 => some (.div x d a b)
  | 0x09 => some (.divu x d a b)
  | 0x0A => some (.rem x d a b)
  | 0x0B => some (.remu x d a b)
  | _ => none

/-- WIDE group (R174): func[9:6] zero but for F in ADDP and SUBP; field b of SHASIG zero. -/
def decodeWide (x : Issue) (w : BitVec 32) : Option Instr :=
  let d := fieldD w
  let a := fieldA w
  let b := fieldB w
  match (funcOf w).toNat with
  | 0x000 => some (.addp x false d a b)
  | 0x200 => some (.addp x true d a b)
  | 0x001 => some (.subp x false d a b)
  | 0x201 => some (.subp x true d a b)
  | 0x008 => whenZero (b == 0) (.shasig x d a 0)
  | 0x009 => whenZero (b == 0) (.shasig x d a 1)
  | 0x00A => whenZero (b == 0) (.shasig x d a 2)
  | 0x00B => whenZero (b == 0) (.shasig x d a 3)
  | _ => none

/-- XFER group (R181): func[9:6], field d and the fields an instruction does not name are zero. -/
def decodeXfer (x : Issue) (w : BitVec 32) : Option Instr :=
  let a := fieldA w
  let none2 := fieldD w == 0 && fieldB w == 0
  match (funcOf w).toNat with
  | 0 => whenZero none2 (.br x a)
  | 1 => whenZero none2 (.callr x a)
  | 2 => whenZero (none2 && a == 0) (.ret x)
  | 3 => whenZero (none2 && a == 0) (.eret x)
  | 4 => whenZero (none2 && a == 0) (.fret x)
  | _ => none

/-- LOOP (R183): the zero field, k 3 and imm 0 are undefined. -/
def decodeLoop (x : Issue) (w : BitVec 32) : Option Instr :=
  let k : BitVec 2 := w.extractLsb' 23 2
  whenZero (w.extractLsb' 20 3 == 0 && k != 3 && imm15Of w != 0) (.loop x k (fieldA w) (imm15Of w))

/-- LPRD and LPWR (R183): dir is bit 14. -/
def decodeLpm (x : Issue) (w : BitVec 32) : Option Instr :=
  let k : BitVec 2 := w.extractLsb' 12 2
  let f : BitVec 2 := w.extractLsb' 10 2
  let ok := funcOf w == 0 && k != 3
  if w.getLsbD 14 then whenZero (ok && fieldD w == 0) (.lpwr x k f (fieldA w))
  else whenZero (ok && fieldA w == 0) (.lprd x (fieldD w) k f)

/-- SYS group (R183, R192 to R195, R199): every field an instruction does not name is zero. -/
def decodeSys (x : Issue) (w : BitVec 32) : Option Instr :=
  let d := fieldD w
  let a := fieldA w
  let b := fieldB w
  let i := imm5Of w
  let d0 := d == 0
  let a0 := a == 0
  let b0 := b == 0
  let i0 := i == 0
  match (w.extractLsb' 5 5).toNat with
  | 0x00 => whenZero (d0 && a0 && b0 && i0) (.nop x)
  | 0x01 => whenZero (a0 && b0 && !i.getLsbD 4 && i.extractLsb' 0 4 != 0) (.wait x d (i.extractLsb' 0 4))
  | 0x02 => whenZero (a0 && b0 && i.extractLsb' 1 4 == 0) (.recv x d (i.getLsbD 0))
  | 0x03 => whenZero i0 (.send x d a b)
  | 0x04 => whenZero (d0 && a0 && b0 && i0) (.settle x)
  | 0x05 => whenZero (d0 && a0 && b0 && i0) (.isync x)
  | 0x06 => whenZero (d0 && a0 && b0 && i0) (.seal x)
  | 0x07 => whenZero (a0 && b0 && i.extractLsb' 3 2 == 0) (.rdfeat x d (i.extractLsb' 0 3).toFin)
  | 0x08 => whenZero (d0 && a0 && b0 && i0) (.totask x)
  | 0x09 => whenZero (d0 && b0 && i0) (.rspush x a)
  | 0x0A => whenZero (a0 && b0 && i0) (.rspop x d)
  | 0x0B => whenZero (a0 && b0 && i0) (.mvfl x d)
  | 0x0C => whenZero (d0 && b0 && i0) (.mvtf x a)
  | 0x0D => whenZero (d.extractLsb' 3 2 == 0) (.setseg x (d.extractLsb' 0 3).toFin a b i)
  | 0x0E => whenZero (a0 && b0) (.getseg x d (i.extractLsb' 2 3).toFin (i.extractLsb' 0 2).toFin)
  | _ => none

/-- EDGE (R197): two zero fields. -/
def decodeEdge (x : Issue) (w : BitVec 32) : Option Instr :=
  whenZero (fieldD w == 0 && imm5Of w == 0)
    (.edge x (fieldA w) (segMem w) (w.extractLsb' 5 5) (w.extractLsb' 10 2))

/-- TLI and TLI2 (R186, R187): of TLI, n[5:4] is zero and an n of 0 undefined. -/
def decodeTli (x : Issue) (w : BitVec 32) : Option Instr :=
  let n : BitVec 6 := w.extractLsb' 0 6
  whenZero (n != 0 && n.extractLsb' 4 2 == 0)
    (.tli x (fieldD w) (fieldA w) (fieldB w) (segTab w) (w.getLsbD 6) n 0)
def decodeTli2 (x : Issue) (w : BitVec 32) : Instr :=
  .tli2 x (fieldD w) (fieldA w) (fieldB w) (segTab w) (w.getLsbD 6) (w.extractLsb' 0 6) 0

/-! ## The major opcodes (R162) -/

/-- The instruction of a word, issued as x says; none for an undefined encoding (R163). -/
def decodeInstr (x : Issue) (w : BitVec 32) : Option Instr :=
  let d := fieldD w
  let a := fieldA w
  let b := fieldB w
  match opcodeOf w with
  | 0x00 => decodeAlu x w
  | 0x01 => some (.addi x d a (imm15Of w))
  | 0x02 => some (.andi x d a (imm15Of w))
  | 0x03 => some (.ori x d a (imm15Of w))
  | 0x04 => some (.xori x d a (imm15Of w))
  | 0x05 => decodeShi x w
  | 0x06 => whenZero (d == 0) (.cmpi x a (imm15Of w))
  | 0x07 => some (.lui x d (w.extractLsb' 0 20))
  | 0x08 => decodeMd x w
  | 0x09 => decodeWide x w
  | 0x10 => some (.ldb x (memOpOf w))
  | 0x11 => some (.ldbu x (memOpOf w))
  | 0x12 => some (.ldh x (memOpOf w))
  | 0x13 => some (.ldhu x (memOpOf w))
  | 0x14 => some (.ldw x (memOpOf w))
  | 0x15 => some (.ldd x (memOpOf w))
  | 0x18 => some (.stb x (memOpOf w))
  | 0x19 => some (.sth x (memOpOf w))
  | 0x1A => some (.stw x (memOpOf w))
  | 0x1B => some (.std x (memOpOf w))
  | 0x1C => some (.agree x (memOpOf w))
  | 0x1D => decodeTli x w
  | 0x1E => some (decodeTli2 x w)
  | 0x1F => some (.crc x d a b (w.extractLsb' 5 5) (w.extractLsb' 0 5))
  | 0x20 => some (.crcr x d a b (w.extractLsb' 5 5) (w.extractLsb' 0 5))
  | 0x28 => whenZero (w.extractLsb' 21 4 != 0xF) (.b x (w.extractLsb' 21 4) (w.extractLsb' 0 21))
  | 0x29 => some (.call x (w.extractLsb' 0 25))
  | 0x2A => decodeXfer x w
  | 0x2B => whenZero (w.extractLsb' 7 18 == 0) (.trapi x (w.extractLsb' 0 7))
  | 0x30 => decodeLoop x w
  | 0x31 => decodeLpm x w
  | 0x38 => decodeSys x w
  | 0x3A => decodeEdge x w
  | _ => none

/-- The command that a fetched word is to a thread: the instruction it encodes, with its PAIR marker in
bit 31 and the word after it; an undefined encoding is presented as a NOP marked so (R163). -/
def fetchedInstr (gt : GT) (w next : BitVec 32) : Instr :=
  let x : Issue := ⟨gt, if w.getLsbD 31 then some next else none, false⟩
  (decodeInstr x w).getD (.nop { x with undef := true })

/-- The command that a 32-bit word spells: its instruction, issued by thread 0 of core 0. No row of the
command table is given bits of its own, so words of any other length spell none. -/
def decodeTableWord (nbits w : Nat) : Option Instr :=
  if nbits = 32 then decodeInstr ⟨0, none, false⟩ (BitVec.ofNat 32 w) else none

end Sys2Proof
end

