-- ==== Sys2Proof/Machine/Map.lean ====
section
/-!
DEFINITION. Sparse maps from numbers to data, in one canonical form: keys strictly rising, and no
entry equal to what an unlisted key reads as, so that equal maps are equal lists. Memory, the
control registers and every numbered unit of the complex are held in such maps.
-/
namespace Sys2Proof.Machine

/-- A sparse map: rising keys, each with its value. -/
abbrev Map (α : Type) := List (Nat × α)

/-- The value at key k, where an unlisted key reads as d. -/
def Map.get {α : Type} (d : α) (m : Map α) (k : Nat) : α :=
  match m with
  | [] => d
  | p :: r => if p.1 = k then p.2 else Map.get d r k

/-- Remove every entry of key k. -/
def Map.erase {α : Type} (m : Map α) (k : Nat) : Map α :=
  m.filter (fun p => p.1 != k)

/-- Insert an entry before the first higher key. -/
def Map.insert {α : Type} (m : Map α) (k : Nat) (v : α) : Map α :=
  match m with
  | [] => [(k, v)]
  | p :: r => if k < p.1 then (k, v) :: p :: r else p :: Map.insert r k v

/-- Write v at key k; the value d of an unlisted key removes the entry. -/
def Map.set {α : Type} [DecidableEq α] (d : α) (m : Map α) (k : Nat) (v : α) : Map α :=
  if v = d then Map.erase m k else Map.insert (Map.erase m k) k v

/-- Keys strictly rising, all above b. -/
def Map.rising {α : Type} (b : Nat) (m : Map α) : Bool :=
  match m with
  | [] => true
  | p :: r => decide (b ≤ p.1) && Map.rising (p.1 + 1) r

/-- The canonical form: keys strictly rising and no entry equal to the default d of its key. -/
def Map.wf {α : Type} [DecidableEq α] (d : Nat → α) (m : Map α) : Bool :=
  Map.rising 0 m && m.all (fun p => decide (p.2 ≠ d p.1))

end Sys2Proof.Machine
end

