-- ==== Sys2Proof/Machine/RegTable.lean ====
section
/-!
DEFINITION. The control registers of the complex: the blocks of R45, and for each block its
registers with their offsets, their values at cold reset and the access and write class of every
field that a write or a read changes (R12, R17). A field not listed is read-only. A register or
field that the spec loads from fuses or the loft, or marks live, has 0 here until the step that
loads it (log 2, log 3).
-/
namespace Sys2Proof.Machine

/-- Access codes of R12 (RO fields are not listed). -/
inductive Acc where
  | rw | wo | w1c | w1s | rc
  deriving DecidableEq, Repr

/-- When a written value acts (R17). -/
inductive Cls where
  | live | next | reload | commit | stopped | frozen
  deriving DecidableEq, Repr

/-- One field: bits, access and class. -/
structure FieldSpec where
  hi  : Nat
  lo  : Nat
  acc : Acc
  cls : Cls
  deriving DecidableEq, Repr

/-- One field of a row. -/
def fd (hi lo : Nat) (acc : Acc) (cls : Cls) : FieldSpec := ⟨hi, lo, acc, cls⟩

/-- A register, or n registers at a stride: offset, count, stride, reset value, fields. -/
structure Row where
  off    : Nat
  n      : Nat
  stride : Nat
  reset  : Nat
  fields : List FieldSpec
  deriving DecidableEq, Repr

/-- The row holds a register at the offset. -/
def Row.has (r : Row) (off : Nat) : Bool :=
  decide (r.off ≤ off) && decide ((off - r.off) % r.stride = 0) && decide ((off - r.off) / r.stride < r.n)

/-- Rows of the global block (R15, R47, R159, R484, R599). -/
def globalRows : List Row := [
  ⟨0x0, 1, 0x4, 0x2B000C17, []⟩,  -- CITAR_ID
  ⟨0x40, 1, 0x4, 0x0, [fd 0 0 .w1c .live]⟩,  -- GLOBAL_STATUS
  ⟨0x100, 1, 0x4, 0x4380572, []⟩,  -- FEAT0
  ⟨0x104, 1, 0x4, 0x0, []⟩,  -- FEAT1
  ⟨0x108, 1, 0x4, 0x0, []⟩,  -- FEAT2
  ⟨0x10C, 1, 0x4, 0x0, []⟩,  -- FEAT3
  ⟨0x110, 1, 0x4, 0x0, []⟩,  -- FEAT4
  ⟨0x114, 1, 0x4, 0x0, []⟩,  -- FEAT5
  ⟨0x118, 1, 0x4, 0x0, []⟩,  -- FEAT6
  ⟨0x11C, 1, 0x4, 0x13A, []⟩,  -- FEAT7
  ⟨0x200, 32, 0x4, 0x0, []⟩,  -- PRES_LANE
  ⟨0x280, 32, 0x4, 0x0, []⟩,  -- PRES_TIMER
  ⟨0x300, 4, 0x4, 0x0, []⟩,  -- PRES_CHAN
  ⟨0x310, 1, 0x4, 0x0, []⟩,  -- PRES_CORE
  ⟨0x314, 1, 0x4, 0x0, []⟩,  -- PRES_BAY
  ⟨0x318, 1, 0x4, 0x0, []⟩,  -- PRES_UNIT
  ⟨0x800, 1, 0x4, 0x1, []⟩,  -- START_STATUS
  ⟨0x804, 7, 0x4, 0x0, []⟩,  -- START_STAMP
  ⟨0x820, 1, 0x4, 0x0, [fd 1 1 .wo .live, fd 0 0 .wo .live]⟩,  -- BOOT_DOORBELL
  ⟨0x828, 1, 0x4, 0x0, [fd 31 6 .rw .frozen]⟩,  -- BOOT_RECOVERY_LO
  ⟨0x82C, 1, 0x4, 0x0, [fd 15 0 .rw .frozen]⟩,  -- BOOT_RECOVERY_HI
  ⟨0x830, 1, 0x4, 0x0, [fd 0 0 .wo .live]⟩,  -- BOOT_RELEASE
  ⟨0x834, 1, 0x4, 0x20003, []⟩,  -- BOOT_ROM_ID
  ⟨0x900, 64, 0x4, 0x0, [fd 31 0 .rw .frozen]⟩]  -- REL_MASK_LO, _HI

/-- Rows of the core block (R63, R68, R117, R120, R338, R493). -/
def coreRows : List Row := [
  ⟨0x0, 1, 0x4, 0x0, []⟩,  -- WHEEL_STATUS
  ⟨0x4, 1, 0x4, 0x0, [fd 0 0 .wo .live]⟩,  -- SLOT_COMMIT
  ⟨0x8, 1, 0x4, 0x1, [fd 8 8 .wo .live, fd 7 4 .rw .live, fd 0 0 .rw .live]⟩,  -- ICACHE_CTL
  ⟨0xC, 1, 0x4, 0x0, [fd 0 0 .w1c .live]⟩,  -- CORE_REFUSED
  ⟨0x40, 1, 0x4, 0x1, [fd 8 8 .wo .live, fd 1 1 .rw .live, fd 0 0 .rw .live]⟩,  -- DCACHE_CTL
  ⟨0x44, 1, 0x4, 0x0, [fd 31 0 .rc .live]⟩,  -- DCACHE_MISS
  ⟨0x80, 1, 0x4, 0x0, [fd 8 8 .rw .frozen, fd 5 0 .rw .frozen]⟩,  -- RENAME_CTL
  ⟨0x84, 1, 0x4, 0x0, []⟩,  -- RENAME_STATUS
  ⟨0x100, 64, 0x4, 0x0, [fd 31 31 .rw .commit, fd 5 0 .rw .commit]⟩,  -- SLOT_TABLE
  ⟨0x1000, 64, 0x40, 0x0, [fd 3 3 .wo .live, fd 2 2 .wo .live, fd 1 1 .wo .live, fd 0 0 .wo .live]⟩,  -- THREAD_CTL
  ⟨0x1004, 64, 0x40, 0x0, [fd 8 8 .w1c .live]⟩,  -- THREAD_STATUS
  ⟨0x1008, 64, 0x40, 0x0, [fd 31 2 .rw .next]⟩,  -- THREAD_ENTRY
  ⟨0x100C, 64, 0x40, 0x0, []⟩,  -- THREAD_PC
  ⟨0x1010, 64, 0x40, 0xF0, [fd 7 4 .rw .stopped, fd 1 1 .rw .live, fd 0 0 .rw .stopped]⟩,  -- THREAD_DET
  ⟨0x1014, 64, 0x40, 0x0, [fd 15 0 .rc .live]⟩,  -- CONTRACT_COUNT
  ⟨0x1018, 64, 0x40, 0x0, [fd 3 0 .rw .live]⟩,  -- EVT_CTL
  ⟨0x101C, 64, 0x40, 0x0, [fd 3 0 .w1c .live]⟩,  -- EVT_PENDING
  ⟨0x1020, 64, 0x40, 0x0, [fd 31 6 .rw .live]⟩,  -- EVT_VECTOR
  ⟨0x1024, 64, 0x40, 0x0, []⟩,  -- BEATS_ISSUED
  ⟨0x1028, 64, 0x40, 0x0, [fd 31 0 .rc .live]⟩,  -- ICMISS_BEATS
  ⟨0x102C, 64, 0x40, 0x0, [fd 31 0 .rc .live]⟩,  -- PAIR_SPLIT
  ⟨0x1030, 64, 0x40, 0x0, [fd 31 31 .w1c .live]⟩,  -- FAULT_INFO
  ⟨0x1034, 64, 0x40, 0x0, [fd 31 2 .rw .live]⟩,  -- FAULT_PC
  ⟨0x1038, 64, 0x40, 0x0, []⟩,  -- FAULT_ADDR_LO
  ⟨0x103C, 64, 0x40, 0x0, []⟩,  -- FAULT_ADDR_HI
  ⟨0x2000, 64, 0x20, 0x0, [fd 4 4 .rw .live, fd 0 0 .rw .stopped]⟩,  -- THREAD_MODE
  ⟨0x2004, 64, 0x20, 0x0, [fd 31 6 .rw .live, fd 0 0 .rw .live]⟩,  -- FAULT_VECTOR
  ⟨0x2008, 64, 0x20, 0x0, [fd 31 2 .rw .live]⟩,  -- FAULT_NPC
  ⟨0x200C, 64, 0x20, 0x0, []⟩,  -- FAULT_OPPC
  ⟨0x2010, 64, 0x20, 0x0, [fd 4 4 .w1c .live]⟩,  -- RS_STATUS
  ⟨0x4000, 1024, 0x10, 0x0, [fd 31 0 .rw .stopped]⟩,  -- SEG_BASE_LO
  ⟨0x4004, 1024, 0x10, 0x0, [fd 15 0 .rw .stopped]⟩,  -- SEG_BASE_HI
  ⟨0x4008, 1024, 0x10, 0x0, [fd 31 0 .rw .stopped]⟩,  -- SEG_LIMIT
  ⟨0x400C, 1024, 0x10, 0x0, [fd 5 5 .rw .stopped, fd 3 3 .rw .stopped, fd 2 2 .rw .stopped, fd 1 1 .rw .stopped, fd 0 0 .rw .stopped]⟩,  -- SEG_RIGHTS
  ⟨0x200, 64, 0x4, 0x0, []⟩]  -- SLOT_LIVE

/-- Rows of the bay block (R209, R210). -/
def bayRows : List Row := [
  ⟨0x100, 8, 0x40, 0x0, [fd 3 3 .wo .live, fd 2 2 .wo .live, fd 1 1 .wo .live, fd 0 0 .wo .live]⟩,  -- SEQ_CTL
  ⟨0x104, 8, 0x40, 0x0, [fd 15 15 .w1c .live, fd 14 14 .w1c .live, fd 13 13 .w1c .live, fd 12 12 .w1c .live]⟩,  -- SEQ_STATUS
  ⟨0x108, 8, 0x40, 0x0, [fd 21 16 .rw .stopped, fd 13 8 .rw .stopped, fd 5 0 .rw .stopped]⟩,  -- SEQ_RANGE
  ⟨0x10C, 8, 0x40, 0x8000, [fd 27 23 .rw .commit, fd 22 18 .rw .commit, fd 17 15 .rw .commit, fd 14 10 .rw .commit, fd 9 5 .rw .commit, fd 4 0 .rw .commit]⟩,  -- SEQ_PINS
  ⟨0x110, 8, 0x40, 0x200, [fd 9 4 .rw .stopped, fd 3 3 .rw .stopped, fd 2 2 .rw .stopped, fd 1 1 .rw .stopped, fd 0 0 .rw .stopped]⟩,  -- SEQ_SHIFT
  ⟨0x114, 8, 0x40, 0x0, [fd 31 0 .rw .stopped]⟩,  -- SEQ_X
  ⟨0x118, 8, 0x40, 0x0, [fd 31 0 .rw .stopped]⟩,  -- SEQ_Y
  ⟨0x11C, 8, 0x40, 0x0, []⟩,  -- SEQ_OSR
  ⟨0x120, 8, 0x40, 0x0, []⟩,  -- SEQ_ISR
  ⟨0x124, 8, 0x40, 0x0, []⟩,  -- SEQ_LEVEL
  ⟨0x128, 8, 0x40, 0x0, [fd 31 0 .wo .live]⟩,  -- TXW
  ⟨0x12C, 8, 0x40, 0x0, [fd 31 0 .rc .live]⟩,  -- RXW
  ⟨0x300, 1, 0x4, 0x0, [fd 0 0 .rw .live]⟩,  -- BAY_CTL
  ⟨0x304, 1, 0x4, 0x0, [fd 23 16 .wo .live, fd 15 8 .wo .live, fd 7 0 .wo .live]⟩,  -- BAY_GO
  ⟨0x308, 1, 0x4, 0x0, [fd 0 0 .wo .live]⟩,  -- BAY_COMMIT
  ⟨0x30C, 1, 0x4, 0x0, [fd 1 1 .w1c .live, fd 0 0 .w1c .live]⟩,  -- BAY_STATUS
  ⟨0x310, 1, 0x4, 0x0, []⟩,  -- PT_NOW
  ⟨0xF00, 1, 0x4, 0xA, [fd 8 8 .rw .live, fd 4 0 .rw .live]⟩,  -- ANCHOR_CTL
  ⟨0xF04, 1, 0x4, 0x0, []⟩,  -- ANCHOR_PT
  ⟨0xF08, 1, 0x4, 0x0, []⟩,  -- ANCHOR_NS_LO
  ⟨0xF0C, 1, 0x4, 0x0, []⟩,  -- ANCHOR_NS_HI
  ⟨0xF10, 1, 0x4, 0x0, []⟩,  -- ANCHOR_FRAC
  ⟨0xF14, 1, 0x4, 0x0, []⟩,  -- ANCHOR_COUNT
  ⟨0x0, 64, 0x4, 0x0, [fd 15 0 .rw .live]⟩]  -- PROG

/-- Rows of the lane block (R208). -/
def laneRows : List Row := [
  ⟨0x0, 1, 0x4, 0x9, [fd 9 9 .rw .commit, fd 8 8 .rw .commit, fd 5 5 .rw .live, fd 4 4 .rw .live, fd 3 0 .rw .commit]⟩,  -- LANE_CTL
  ⟨0x4, 1, 0x4, 0x0, [fd 9 8 .rw .frozen, fd 7 6 .rw .live, fd 5 0 .rw .live]⟩,  -- LANE_CFG
  ⟨0x8, 1, 0x4, 0x0, [fd 6 6 .w1c .live, fd 5 5 .w1c .live, fd 4 4 .w1c .live]⟩,  -- LANE_STATUS
  ⟨0xC, 1, 0x4, 0x0, [fd 26 26 .rc .live]⟩]  -- LANE_LAST

/-- Rows of the timer block (R248). -/
def timerRows : List Row := [
  ⟨0x0, 1, 0x4, 0x0, [fd 27 27 .rw .live, fd 26 26 .rw .live, fd 25 21 .rw .live, fd 20 19 .rw .live, fd 18 18 .rw .commit, fd 17 17 .rw .commit, fd 16 9 .rw .stopped, fd 8 4 .rw .stopped, fd 3 3 .rw .stopped, fd 2 2 .rw .stopped, fd 1 0 .rw .stopped]⟩,  -- TMR_CTL
  ⟨0x4, 1, 0x4, 0x0, [fd 4 4 .wo .live, fd 3 3 .wo .live, fd 2 2 .wo .live, fd 1 1 .wo .live, fd 0 0 .wo .live]⟩,  -- TMR_CMD
  ⟨0x8, 1, 0x4, 0x0, [fd 12 12 .w1c .live, fd 10 10 .w1c .live, fd 9 9 .w1c .live]⟩,  -- TMR_STATUS
  ⟨0xC, 1, 0x4, 0xFFFFFFFF, [fd 31 0 .rw .commit]⟩,  -- TMR_RELOAD
  ⟨0x10, 1, 0x4, 0x0, [fd 31 0 .rw .commit]⟩,  -- TMR_CMP0
  ⟨0x14, 1, 0x4, 0x0, [fd 31 0 .rw .commit]⟩,  -- TMR_CMP1
  ⟨0x18, 1, 0x4, 0x0, []⟩,  -- TMR_COUNT_LO
  ⟨0x1C, 1, 0x4, 0x0, []⟩,  -- TMR_COUNT_HI
  ⟨0x20, 1, 0x4, 0x0, [fd 31 0 .rc .live]⟩,  -- TMR_CAP_LO
  ⟨0x24, 1, 0x4, 0x0, []⟩,  -- TMR_CAP_HI
  ⟨0x28, 1, 0x4, 0x0, []⟩,  -- TMR_SNAP_LO
  ⟨0x2C, 1, 0x4, 0x0, []⟩]  -- TMR_SNAP_HI

/-- Rows of the timebase block (R244). -/
def tbRows : List Row := [
  ⟨0x0, 1, 0x4, 0x0, [fd 2 2 .wo .live, fd 1 1 .wo .live, fd 0 0 .wo .live]⟩,  -- TB_CMD
  ⟨0x4, 1, 0x4, 0x0, [fd 20 20 .w1c .live, fd 19 19 .w1c .live, fd 18 18 .w1c .live]⟩,  -- TB_STATUS
  ⟨0x8, 1, 0x4, 0x0, []⟩,  -- TB_REFUSED
  ⟨0x10, 1, 0x4, 0x0, []⟩,  -- TB_NOW_FRAC
  ⟨0x18, 1, 0x4, 0x0, []⟩,  -- TB_NOW_LO
  ⟨0x1C, 1, 0x4, 0x0, []⟩,  -- TB_NOW_HI
  ⟨0x20, 1, 0x4, 0x0, [fd 31 0 .rw .commit]⟩,  -- TB_INCR_FRAC
  ⟨0x24, 1, 0x4, 0x4, [fd 7 0 .rw .commit]⟩,  -- TB_INCR_INT
  ⟨0x28, 1, 0x4, 0x0, [fd 31 0 .rw .commit]⟩,  -- TB_ADJ_FRAC
  ⟨0x2C, 1, 0x4, 0x0, [fd 31 0 .rw .commit]⟩,  -- TB_ADJ_COUNT
  ⟨0x30, 1, 0x4, 0x0, []⟩,  -- TB_ADJ_LEFT
  ⟨0x34, 1, 0x4, 0x0, [fd 31 0 .rw .commit]⟩,  -- TB_STEP_FRAC
  ⟨0x38, 1, 0x4, 0x0, [fd 31 0 .rw .commit]⟩,  -- TB_STEP_LO
  ⟨0x3C, 1, 0x4, 0x0, [fd 31 0 .rw .commit]⟩,  -- TB_STEP_HI
  ⟨0x40, 1, 0x4, 0x0, []⟩,  -- TB_SNAP_FRAC
  ⟨0x44, 1, 0x4, 0x0, []⟩,  -- TB_SNAP_EPOCH
  ⟨0x48, 1, 0x4, 0x0, []⟩,  -- TB_SNAP_LO
  ⟨0x4C, 1, 0x4, 0x0, []⟩,  -- TB_SNAP_HI
  ⟨0x50, 1, 0x4, 0x0, [fd 13 4 .rw .live, fd 0 0 .rw .live]⟩,  -- TB_PPS_CTL
  ⟨0x54, 1, 0x4, 0x0, []⟩,  -- TB_PPS_COUNT
  ⟨0x58, 1, 0x4, 0x0, []⟩,  -- TB_PPS_LO
  ⟨0x5C, 1, 0x4, 0x0, []⟩,  -- TB_PPS_HI
  ⟨0x60, 1, 0x4, 0x0, []⟩,  -- TB_PPS_FRAC
  ⟨0x70, 1, 0x4, 0x0, [fd 0 0 .wo .live]⟩,  -- GS_GO
  ⟨0x74, 1, 0x4, 0x0, [fd 0 0 .rw .live]⟩,  -- GS_GO_AT_CTL
  ⟨0x78, 1, 0x4, 0x0, [fd 31 0 .rw .stopped]⟩,  -- GS_GO_AT_LO
  ⟨0x7C, 1, 0x4, 0x0, [fd 31 0 .rw .stopped]⟩,  -- GS_GO_AT_HI
  ⟨0x100, 32, 0x4, 0x0, [fd 31 0 .rw .live]⟩]  -- GS_ARM

/-- Rows of the event router (R271, R283). -/
def routerRows : List Row := [
  ⟨0x0, 11776, 0x4, 0x0, [fd 31 31 .wo .live, fd 30 30 .w1c .live, fd 29 29 .w1c .live, fd 15 15 .rw .live, fd 14 13 .rw .live, fd 12 0 .rw .live]⟩,  -- EVSEL
  ⟨0x10000, 6068, 0x4, 0x0, [fd 3 3 .w1c .live, fd 1 1 .w1c .live, fd 0 0 .w1c .live]⟩,  -- EVFLAG
  ⟨0x18000, 2048, 0x8, 0x0, [fd 16 16 .rw .live, fd 11 0 .rw .live]⟩,  -- MSG_ROLE
  ⟨0x18004, 2048, 0x8, 0x0, [fd 23 16 .rc .live, fd 15 8 .rc .live]⟩,  -- MSG_STATUS
  ⟨0x1C000, 1, 0x4, 0x0, [fd 2 2 .w1c .live, fd 1 1 .w1c .live, fd 0 0 .w1c .live]⟩,  -- ROUTER_STATUS
  ⟨0x1C004, 1, 0x4, 0x0, []⟩,  -- ROUTER_REFUSED
  ⟨0x1C008, 1, 0x4, 0x0, [fd 15 0 .rc .live]⟩,  -- ROUTER_LOOP_COUNT
  ⟨0x1C00C, 1, 0x4, 0x0, []⟩,  -- ROUTER_LOOP_LAST
  ⟨0x1C010, 1, 0x4, 0x0, [fd 15 0 .rc .live]⟩,  -- ROUTER_OVERRUN_COUNT
  ⟨0x1C014, 1, 0x4, 0x0, [fd 15 0 .rc .live]⟩]  -- MSG_NODEST_COUNT

/-- Rows of the gleaner engine block (R373, R375). -/
def engineRows : List Row := [
  ⟨0x0, 32, 0x100, 0x0, [fd 2 2 .wo .live, fd 1 1 .wo .live, fd 0 0 .wo .live]⟩,  -- CH_CMD
  ⟨0x4, 32, 0x100, 0x0, []⟩,  -- CH_STATUS
  ⟨0x8, 32, 0x100, 0x0, [fd 27 23 .rw .commit, fd 22 18 .rw .commit, fd 17 17 .rw .commit, fd 16 16 .rw .commit, fd 15 14 .rw .commit, fd 13 12 .rw .commit]⟩,  -- CH_CFG
  ⟨0xC, 32, 0x100, 0x0, [fd 31 0 .rw .commit]⟩,  -- CH_COUNT
  ⟨0x10, 32, 0x100, 0x0, [fd 31 0 .rw .commit]⟩,  -- CH_SRC_LO
  ⟨0x14, 32, 0x100, 0x0, [fd 15 0 .rw .commit]⟩,  -- CH_SRC_HI
  ⟨0x18, 32, 0x100, 0x0, [fd 31 0 .rw .commit]⟩,  -- CH_DST_LO
  ⟨0x1C, 32, 0x100, 0x0, [fd 15 0 .rw .commit]⟩,  -- CH_DST_HI
  ⟨0x20, 32, 0x100, 0x0, []⟩,  -- CH_RESIDUE
  ⟨0x24, 32, 0x100, 0x10000, [fd 20 16 .rw .stopped, fd 0 0 .rw .stopped]⟩,  -- CH_RING_CTL
  ⟨0x28, 32, 0x100, 0x0, [fd 31 5 .rw .stopped]⟩,  -- CH_RING_BASE_LO
  ⟨0x2C, 32, 0x100, 0x0, [fd 15 0 .rw .stopped]⟩,  -- CH_RING_BASE_HI
  ⟨0x30, 32, 0x100, 0x0, [fd 15 0 .rw .stopped]⟩,  -- CH_RING_IDX
  ⟨0x38, 32, 0x100, 0x0, []⟩,  -- CH_ERR_ADDR_LO
  ⟨0x3C, 32, 0x100, 0x0, []⟩,  -- CH_ERR_ADDR_HI
  ⟨0x8000, 1, 0x4, 0x0, [fd 1 1 .w1c .live, fd 0 0 .w1c .live]⟩,  -- ENG_STATUS
  ⟨0x8004, 1, 0x4, 0x0, []⟩]  -- ENG_ACTIVE

/-- Rows of the buffer manager and silo (R399, R409). -/
def bmRows : List Row := [
  ⟨0x0, 64, 0x40, 0x400, [fd 31 31 .rw .live, fd 28 28 .rw .stopped, fd 27 22 .rw .stopped, fd 19 16 .rw .stopped, fd 12 8 .rw .stopped]⟩,  -- POOL_CTL
  ⟨0x4, 64, 0x40, 0x0, [fd 25 0 .rw .stopped]⟩,  -- POOL_COUNT
  ⟨0x8, 64, 0x40, 0x0, [fd 31 0 .rw .stopped]⟩,  -- POOL_BASE_LO
  ⟨0xC, 64, 0x40, 0x0, [fd 15 0 .rw .stopped]⟩,  -- POOL_BASE_HI
  ⟨0x10, 64, 0x40, 0x0, [fd 31 6 .rw .stopped]⟩,  -- POOL_STACK_LO
  ⟨0x14, 64, 0x40, 0x0, [fd 15 0 .rw .stopped]⟩,  -- POOL_STACK_HI
  ⟨0x18, 64, 0x40, 0x0, [fd 31 0 .rc .live]⟩,  -- POOL_ALLOC
  ⟨0x1C, 64, 0x40, 0x0, []⟩,  -- POOL_LEVEL
  ⟨0x20, 64, 0x40, 0x0, [fd 25 0 .rw .live]⟩,  -- POOL_LOW
  ⟨0x24, 64, 0x40, 0x0, [fd 15 0 .rc .live]⟩,  -- POOL_FAIL
  ⟨0x1000, 1, 0x4, 0x0, [fd 7 7 .rw .stopped, fd 6 0 .rw .stopped]⟩,  -- BM_CTL
  ⟨0x1004, 1, 0x4, 0x0, [fd 0 0 .w1c .live]⟩,  -- BM_STATUS
  ⟨0x1008, 1, 0x4, 0x0, [fd 31 0 .wo .live]⟩,  -- BM_FREE
  ⟨0x1010, 1, 0x4, 0x0, [fd 31 0 .w1c .live]⟩,  -- BM_LOW_PEND_LO
  ⟨0x1014, 1, 0x4, 0x0, [fd 31 0 .w1c .live]⟩,  -- BM_LOW_PEND_HI
  ⟨0x1018, 1, 0x4, 0x0, [fd 31 0 .w1c .live]⟩,  -- BM_EMPTY_PEND_LO
  ⟨0x101C, 1, 0x4, 0x0, [fd 31 0 .w1c .live]⟩,  -- BM_EMPTY_PEND_HI
  ⟨0x1020, 1, 0x4, 0x0, []⟩,  -- BM_BAD_FREE
  ⟨0x2000, 1, 0x4, 0x8000000, [fd 31 31 .rw .live, fd 30 30 .rw .stopped, fd 29 25 .rw .stopped, fd 23 8 .rw .stopped, fd 6 0 .rw .stopped]⟩,  -- SILO_CTL
  ⟨0x2004, 1, 0x4, 0x0, []⟩,  -- SILO_STATUS
  ⟨0x2008, 1, 0x4, 0x0, [fd 31 8 .rw .stopped]⟩,  -- SILO_BASE_LO
  ⟨0x200C, 1, 0x4, 0x0, [fd 15 0 .rw .stopped]⟩,  -- SILO_BASE_HI
  ⟨0x2010, 1, 0x4, 0x0, []⟩,  -- SILO_WR
  ⟨0x2014, 1, 0x4, 0x0, [fd 31 0 .rw .live]⟩,  -- SILO_RD
  ⟨0x2018, 1, 0x4, 0x0, []⟩,  -- SILO_TRIG_IDX
  ⟨0x201C, 1, 0x4, 0x0, [fd 1 1 .wo .live, fd 0 0 .wo .live]⟩,  -- SILO_CMD
  ⟨0x2020, 1, 0x4, 0x0, [fd 31 0 .wo .live]⟩,  -- SILO_PUT_LO
  ⟨0x2024, 1, 0x4, 0x0, [fd 31 0 .wo .live]⟩,  -- SILO_PUT_HI
  ⟨0x2028, 1, 0x4, 0x0, [fd 31 16 .rc .live, fd 15 0 .rc .live]⟩,  -- SILO_DROP
  ⟨0x202C, 1, 0x4, 0x0, []⟩]  -- SILO_DONE_SEQ

/-- Rows of the ledger block (R371). -/
def ledgerRows : List Row := [
  ⟨0x0, 1, 0x4, 0x15, [fd 4 0 .rw .next]⟩,  -- LEDGER_CTL
  ⟨0x4, 1, 0x4, 0x0, [fd 0 0 .w1c .live]⟩,  -- LEDGER_STATUS
  ⟨0x8, 1, 0x4, 0x3C00, [fd 13 0 .rw .live]⟩,  -- LEDGER_RESERVE
  ⟨0xC, 1, 0x4, 0x0, []⟩,  -- LEDGER_LIMBO
  ⟨0x10, 1, 0x4, 0x0, [fd 31 0 .rc .live]⟩,  -- LEDGER_STALE_COUNT
  ⟨0x14, 1, 0x4, 0x0, [fd 31 0 .rc .live]⟩,  -- LEDGER_TIMEOUT_COUNT
  ⟨0x18, 1, 0x4, 0x0, [fd 31 0 .rc .live]⟩,  -- LEDGER_LATE_COUNT
  ⟨0x1000, 64, 0x10, 0x0, [fd 13 0 .rw .live]⟩,  -- LEDGER_VC_QUOTA
  ⟨0x1004, 64, 0x10, 0x0, []⟩,  -- LEDGER_VC_COUNT
  ⟨0x1008, 64, 0x10, 0x0, []⟩]  -- LEDGER_VC_OLD

/-- Rows of the directory block (R360). -/
def dirRows : List Row := [
  ⟨0x0, 1, 0x4, 0x0, [fd 0 0 .w1c .live]⟩,  -- DIR_STATUS
  ⟨0x4, 1, 0x4, 0x0, [fd 0 0 .wo .live]⟩,  -- DIR_FENCE
  ⟨0x8, 1, 0x4, 0x0, [fd 31 0 .rc .live]⟩,  -- DIR_RETRY_COUNT
  ⟨0xC, 1, 0x4, 0x0, [fd 31 0 .rc .live]⟩,  -- DIR_RECALL_COUNT
  ⟨0x10, 1, 0x4, 0x0, [fd 31 0 .rc .live]⟩,  -- DIR_XWB_COUNT
  ⟨0x200, 1, 0x4, 0x0, []⟩,  -- GW_STATUS
  ⟨0x204, 1, 0x4, 0x0, [fd 31 0 .rc .live]⟩,  -- GW_SNOOP_COUNT
  ⟨0x100, 8, 0x4, 0x0, []⟩]  -- DIR_SLICE

/-- Rows of the bank control block (R307, R321). -/
def bankRows : List Row := [
  ⟨0x0, 320, 0x8, 0x8000, [fd 15 15 .rw .live, fd 9 8 .rw .stopped, fd 6 4 .rw .live, fd 1 0 .rw .live]⟩,  -- BANK_CTL
  ⟨0x4, 320, 0x8, 0x2, [fd 31 24 .rc .live]⟩,  -- BANK_STATUS
  ⟨0x1000, 10, 0x4, 0x0, []⟩,  -- BANK_PRESENT
  ⟨0x1040, 10, 0x4, 0x0, []⟩,  -- BANK_WITHDRAWN
  ⟨0x1080, 1, 0x4, 0x0, [fd 0 0 .w1c .live]⟩,  -- BANKS_REFUSED
  ⟨0x2000, 1, 0x4, 0x4, [fd 24 16 .rw .next, fd 2 2 .rw .next, fd 1 1 .rw .next, fd 0 0 .wo .live]⟩,  -- MARCH_CTL
  ⟨0x2004, 1, 0x4, 0x0, []⟩,  -- MARCH_STATUS
  ⟨0x2008, 1, 0x4, 0x0, []⟩,  -- MARCH_FAIL
  ⟨0x2010, 1, 0x4, 0x0, []⟩,  -- MARCH_REPAIR_LO
  ⟨0x2014, 1, 0x4, 0x0, []⟩]  -- MARCH_REPAIR_HI

/-- Rows of the winnower and fault collection (R449, R527). -/
def winRows : List Row := [
  ⟨0x0, 1, 0x4, 0x0, [fd 0 0 .w1c .live]⟩,  -- WIN_STATUS
  ⟨0x4, 1, 0x4, 0x0, [fd 10 8 .rw .next, fd 0 0 .wo .live]⟩,  -- WIN_INJECT
  ⟨0x8, 1, 0x4, 0x14, [fd 4 0 .rw .live]⟩,  -- WIN_CFG
  ⟨0x1000, 256, 0x40, 0x0, [fd 26 16 .rw .stopped, fd 10 0 .rw .stopped]⟩,  -- TWIN_MEMBERS
  ⟨0x1004, 256, 0x40, 0x2110A, [fd 21 21 .rw .live, fd 20 20 .rw .stopped, fd 19 16 .rw .stopped, fd 15 12 .rw .stopped, fd 11 8 .rw .stopped, fd 4 0 .rw .stopped]⟩,  -- TWIN_CTL
  ⟨0x1008, 256, 0x40, 0x0, [fd 31 2 .rw .next]⟩,  -- TWIN_ENTRY
  ⟨0x100C, 256, 0x40, 0x0, [fd 1 1 .wo .live, fd 0 0 .wo .live]⟩,  -- TWIN_CMD
  ⟨0x1010, 256, 0x40, 0x0, [fd 4 4 .w1c .live]⟩,  -- TWIN_STATUS
  ⟨0x1014, 256, 0x40, 0x0, []⟩,  -- TWIN_SEQ
  ⟨0x1018, 256, 0x40, 0x0, []⟩,  -- TWIN_SIG_P
  ⟨0x101C, 256, 0x40, 0x0, []⟩,  -- TWIN_SIG_S
  ⟨0x1020, 256, 0x40, 0x0, []⟩,  -- TWIN_BYTES_P
  ⟨0x1024, 256, 0x40, 0x0, []⟩,  -- TWIN_BYTES_S
  ⟨0x1028, 256, 0x40, 0x0, []⟩,  -- TWIN_INSTR
  ⟨0x102C, 256, 0x40, 0x0, [fd 15 8 .rc .live, fd 7 0 .rc .live]⟩,  -- TWIN_COUNTS
  ⟨0x8000, 1, 0x4, 0x0, [fd 3 3 .w1c .live, fd 1 1 .w1c .live]⟩,  -- FC_STATUS
  ⟨0x8004, 1, 0x4, 0x0, [fd 1 1 .wo .live, fd 0 0 .wo .live]⟩,  -- FC_CMD
  ⟨0x8008, 1, 0x4, 0x0, []⟩,  -- FC_FENCED
  ⟨0x800C, 1, 0x4, 0x0, [fd 15 0 .rc .live]⟩,  -- FC_MINOR_COUNT
  ⟨0x8010, 1, 0x4, 0x0, [fd 16 16 .rw .live, fd 15 0 .rw .stopped]⟩,  -- FC_WDOG
  ⟨0x8014, 1, 0x4, 0x0, [fd 7 0 .wo .live]⟩,  -- FC_WDOG_KICK
  ⟨0x8018, 1, 0x4, 0x0, [fd 0 0 .w1c .live]⟩]  -- FC_REFUSED

/-- Rows of the power and modes block (R543). -/
def powerRows : List Row := [
  ⟨0x0, 1, 0x4, 0x0, [fd 4 4 .wo .live, fd 2 0 .wo .live]⟩,  -- MODE_CTL
  ⟨0x4, 1, 0x4, 0x2, [fd 8 8 .w1c .live]⟩,  -- MODE_STATUS
  ⟨0x8, 1, 0x4, 0x0, [fd 0 0 .w1c .live]⟩,  -- MODE_REFUSED
  ⟨0x10, 1, 0x4, 0x1900000, [fd 31 16 .rw .commit, fd 15 0 .rw .commit]⟩,  -- CLK_CTL
  ⟨0x14, 1, 0x4, 0x0, [fd 31 0 .rw .commit]⟩,  -- PCLK_CTL
  ⟨0x18, 1, 0x4, 0x0, [fd 31 0 .rw .live]⟩,  -- PD_REQ_LO
  ⟨0x1C, 1, 0x4, 0x0, [fd 17 0 .rw .live]⟩,  -- PD_REQ_HI
  ⟨0x20, 1, 0x4, 0x0, []⟩,  -- PD_STAT_LO
  ⟨0x24, 1, 0x4, 0x0, []⟩,  -- PD_STAT_HI
  ⟨0x30, 1, 0x4, 0x0, [fd 31 0 .rw .frozen]⟩,  -- LIMP_BAYS
  ⟨0x40, 1, 0x4, 0x0, [fd 23 16 .rw .live, fd 2 0 .rw .live]⟩,  -- WAKE_CTL
  ⟨0x44, 1, 0x4, 0x0, []⟩,  -- WAKE_STATUS
  ⟨0x48, 1, 0x4, 0x0, [fd 31 0 .rw .live]⟩,  -- WAKE_LANES_LO
  ⟨0x4C, 1, 0x4, 0x0, [fd 31 0 .rw .live]⟩,  -- WAKE_LANES_HI
  ⟨0x60, 1, 0x4, 0x0, []⟩,  -- AON_COUNT_LO
  ⟨0x64, 1, 0x4, 0x0, []⟩,  -- AON_COUNT_HI
  ⟨0x68, 1, 0x4, 0x0, [fd 31 0 .rw .live]⟩,  -- AON_WAKE_AT_LO
  ⟨0x6C, 1, 0x4, 0x0, [fd 15 0 .rw .live]⟩,  -- AON_WAKE_AT_HI
  ⟨0x70, 1, 0x4, 0x0, []⟩,  -- DBG_AUTH
  ⟨0x74, 1, 0x4, 0x0, [fd 17 16 .wo .live, fd 10 0 .wo .live]⟩,  -- DBG_CMD
  ⟨0x78, 1, 0x4, 0x0, [fd 15 0 .rc .live]⟩,  -- DBG_REFUSED
  ⟨0x7C, 1, 0x4, 0x0, []⟩,  -- DBG_LAST
  ⟨0x50, 4, 0x4, 0x0, [fd 31 0 .rw .live]⟩,  -- WAKE_EDGE
  ⟨0x100, 64, 0x4, 0x0, [fd 31 0 .rw .frozen]⟩]  -- LIMP_THREADS_LO, _HI

/-- Rows of the loft controller (R325). -/
def loftCtlRows : List Row := [
  ⟨0x0, 1, 0x4, 0x0, [fd 26 16 .wo .live, fd 1 1 .wo .live, fd 0 0 .wo .live]⟩,  -- LOFT_STORE
  ⟨0x4, 1, 0x4, 0x0, [fd 5 5 .w1c .live, fd 4 4 .w1c .live, fd 3 3 .w1c .live]⟩,  -- LOFT_STATUS
  ⟨0x8, 1, 0x4, 0x0, []⟩,  -- LOFT_REFUSED
  ⟨0x100, 64, 0x4, 0x0, [fd 31 0 .rw .live]⟩,  -- LOFT_STAGE
  ⟨0x8000, 2048, 0x4, 0x0, []⟩]  -- LOFT_REC_INFO

/-- Rows of the bridge port block (R548). -/
def bridgeRows : List Row := [
  ⟨0x0, 1, 0x4, 0xD202, [fd 15 12 .rw .next, fd 9 8 .rw .stopped, fd 2 2 .rw .live, fd 1 1 .rw .live, fd 0 0 .rw .live]⟩,  -- BR_CTL
  ⟨0x4, 1, 0x4, 0x0, [fd 7 7 .w1c .live, fd 3 3 .w1c .live]⟩,  -- BR_STATUS
  ⟨0x8, 1, 0x4, 0x300, []⟩,  -- BR_ID
  ⟨0xC, 1, 0x4, 0x0, []⟩,  -- BR_PARTNER
  ⟨0x10, 1, 0x4, 0x0, [fd 31 0 .rc .live]⟩,  -- BR_REPLAY_COUNT
  ⟨0x14, 1, 0x4, 0x0, [fd 15 0 .rc .live]⟩,  -- BR_DOWN_COUNT
  ⟨0x18, 1, 0x4, 0x0, [fd 31 16 .rc .live, fd 15 0 .rc .live]⟩,  -- BR_LOST
  ⟨0x1C, 1, 0x4, 0x0, [fd 31 16 .rc .live, fd 15 0 .rc .live]⟩,  -- BR_MSG_NACK
  ⟨0x20, 1, 0x4, 0x0, [fd 31 0 .rc .live]⟩,  -- BR_IN_DENIED
  ⟨0x30, 1, 0x4, 0x0, []⟩,  -- BR_TOFS
  ⟨0x34, 1, 0x4, 0x0, []⟩,  -- BR_RTT
  ⟨0x38, 1, 0x4, 0x0, []⟩,  -- BR_TCOUNT
  ⟨0x100, 10, 0x4, 0x0, [fd 31 0 .rw .live]⟩]  -- BR_IN_MASK

/-- Rows of the virtual complex table (R457). -/
def vctRows : List Row := [
  ⟨0x0, 64, 0x40, 0x0, [fd 6 6 .wo .live, fd 5 5 .wo .live, fd 4 4 .wo .live, fd 3 3 .wo .live, fd 2 2 .wo .live, fd 1 1 .wo .live, fd 0 0 .wo .live]⟩,  -- VC_CMD
  ⟨0x4, 64, 0x40, 0x0, []⟩,  -- VC_STATUS
  ⟨0x8, 64, 0x40, 0x1, [fd 9 9 .rw .live, fd 8 8 .rw .next, fd 1 0 .rw .stopped]⟩,  -- VC_CTL
  ⟨0xC, 64, 0x40, 0x0, [fd 25 25 .rw .live, fd 24 16 .rw .live, fd 11 11 .rw .live, fd 10 0 .rw .live]⟩,  -- VC_MBX_CTL
  ⟨0x10, 64, 0x40, 0x0, [fd 31 0 .wo .live]⟩,  -- VC_MBX_POST_LO
  ⟨0x14, 64, 0x40, 0x0, [fd 31 0 .wo .live]⟩,  -- VC_MBX_POST_HI
  ⟨0x18, 64, 0x40, 0x0, []⟩,  -- VC_MBX_LEVEL
  ⟨0x1C, 64, 0x40, 0x0, [fd 31 16 .rc .live, fd 15 0 .rc .live]⟩,  -- VC_MBX_DROP
  ⟨0x20, 64, 0x40, 0x0, [fd 31 6 .rw .stopped]⟩,  -- VC_IMAGE_LO
  ⟨0x24, 64, 0x40, 0x0, [fd 15 0 .rw .stopped]⟩,  -- VC_IMAGE_HI
  ⟨0x28, 64, 0x40, 0x30, [fd 7 4 .rw .next]⟩,  -- VC_IMAGE_CTL
  ⟨0x2C, 64, 0x40, 0x0, []⟩,  -- VC_IMAGE_LEN
  ⟨0x4000, 1, 0x4, 0x0, [fd 0 0 .w1c .live]⟩,  -- VCT_STATUS
  ⟨0x2000, 1664, 0x4, 0x0, [fd 31 0 .rw .live]⟩]  -- owner bytes

/-- Rows of the host vectors and bulk port (R293, R415). -/
def hvRows : List Row := [
  ⟨0x0, 16, 0x4, 0x0, [fd 31 0 .w1c .live]⟩,  -- HV_PEND
  ⟨0x40, 16, 0x4, 0x0, [fd 31 0 .rw .live]⟩,  -- HV_ENABLE
  ⟨0x80, 1, 0x4, 0x0, [fd 15 0 .rc .live]⟩,  -- HV_STALE
  ⟨0x84, 1, 0x4, 0x0, [fd 0 0 .w1c .live]⟩,  -- HV_REFUSED
  ⟨0x100, 65, 0x20, 0x0, [fd 27 0 .rw .live]⟩,  -- BULK_ADDR
  ⟨0x104, 65, 0x20, 0x0, [fd 0 0 .rw .live]⟩,  -- BULK_CTL
  ⟨0x108, 65, 0x20, 0x0, [fd 3 3 .w1c .live, fd 2 2 .w1c .live]⟩,  -- BULK_STATUS
  ⟨0x10C, 65, 0x20, 0x0, []⟩,  -- BULK_ERR_ADDR
  ⟨0x110, 65, 0x20, 0x0, [fd 27 0 .rw .live]⟩,  -- BULK_BASE
  ⟨0x114, 65, 0x20, 0x0, [fd 27 0 .rw .live]⟩,  -- BULK_LIMIT
  ⟨0x118, 65, 0x20, 0x0, [fd 31 0 .rc .live]⟩]  -- BULK_BUSY_COUNT

/-- The register blocks of R45. -/
inductive Blk where
  | glob
  | core (n : Nat)
  | bay (n : Nat)
  | lane (l : Nat)
  | timer (m : Nat)
  | timebase
  | router
  | engine (e : Nat)
  | bm
  | ledger
  | dir
  | banks
  | win
  | power
  | loftCtl
  | loftWin
  | bridge (p : Nat)
  | vct
  | hv
  deriving DecidableEq, Repr

/-- Base address of a block (R45). -/
def Blk.base (b : Blk) : Nat :=
  match b with
  | .glob => 0x10000000
  | .core n => 0x10100000 + n * 0x10000
  | .bay n => 0x10300000 + n * 0x1000
  | .lane l => 0x10340000 + l * 0x10
  | .timer m => 0x10400000 + m * 0x40
  | .timebase => 0x10480000
  | .router => 0x10500000
  | .engine e => 0x10600000 + e * 0x10000
  | .bm => 0x10680000
  | .ledger => 0x106C0000
  | .dir => 0x10700000
  | .banks => 0x10780000
  | .win => 0x10800000
  | .power => 0x10900000
  | .loftCtl => 0x10A00000
  | .loftWin => 0x10B00000
  | .bridge p => 0x10C00000 + p * 0x10000
  | .vct => 0x10D00000
  | .hv => 0x10E00000

/-- The block a complex address lies in, if any block decodes it (R9, R45). -/
def blockOf (a : Nat) : Option Blk :=
  if a < 0x10000000 then none
  else if a < 0x10010000 then some .glob
  else if a < 0x10100000 then none
  else if a < 0x10300000 then some (.core ((a - 0x10100000) / 0x10000))
  else if a < 0x10320000 then some (.bay ((a - 0x10300000) / 0x1000))
  else if a < 0x10340000 then none
  else if a < 0x10344000 then some (.lane ((a - 0x10340000) / 0x10))
  else if a < 0x10400000 then none
  else if a < 0x10410000 then some (.timer ((a - 0x10400000) / 0x40))
  else if a < 0x10480000 then none
  else if a < 0x10481000 then some .timebase
  else if a < 0x10500000 then none
  else if a < 0x10520000 then some .router
  else if a < 0x10600000 then none
  else if a < 0x10640000 then some (.engine ((a - 0x10600000) / 0x10000))
  else if a < 0x10680000 then none
  else if a < 0x10690000 then some .bm
  else if a < 0x106C0000 then none
  else if a < 0x106D0000 then some .ledger
  else if a < 0x10700000 then none
  else if a < 0x10710000 then some .dir
  else if a < 0x10780000 then none
  else if a < 0x10790000 then some .banks
  else if a < 0x10800000 then none
  else if a < 0x10810000 then some .win
  else if a < 0x10900000 then none
  else if a < 0x10910000 then some .power
  else if a < 0x10A00000 then none
  else if a < 0x10A10000 then some .loftCtl
  else if a < 0x10B00000 then none
  else if a < 0x10B80000 then some .loftWin
  else if a < 0x10C00000 then none
  else if a < 0x10C40000 then some (.bridge ((a - 0x10C00000) / 0x10000))
  else if a < 0x10D00000 then none
  else if a < 0x10D10000 then some .vct
  else if a < 0x10E00000 then none
  else if a < 0x10E10000 then some .hv
  else none

/-- The registers of a block. -/
def Blk.rows (b : Blk) : List Row :=
  match b with
  | .glob => globalRows
  | .core _ => coreRows
  | .bay _ => bayRows
  | .lane _ => laneRows
  | .timer _ => timerRows
  | .timebase => tbRows
  | .router => routerRows
  | .engine _ => engineRows
  | .bm => bmRows
  | .ledger => ledgerRows
  | .dir => dirRows
  | .banks => bankRows
  | .win => winRows
  | .power => powerRows
  | .loftCtl => loftCtlRows
  | .loftWin => []
  | .bridge _ => bridgeRows
  | .vct => vctRows
  | .hv => hvRows

/-- The register at an offset of a block; none where the block decodes the address and holds no
register there (R10). -/
def Blk.row (b : Blk) (off : Nat) : Option Row := b.rows.find? (fun r => r.has off)

/-- The one address of a register that several addresses name: the quadrant registers appear in the
blocks of all eight bays of a quadrant (R209), and so does the one pin-time `PT_NOW` shows (R200). -/
def canon (a : Nat) : Nat :=
  if 0x10300000 ≤ a ∧ a < 0x10320000 ∧
      (0xF00 ≤ (a - 0x10300000) % 0x1000 ∨ (a - 0x10300000) % 0x1000 = 0x310) then
    let n := (a - 0x10300000) / 0x1000
    a - (n % 8) * 0x1000
  else a

/-- The value of a control register at cold reset. Lanes 256q to 256q + 15 report a wake detector
(R29, R208); a lane's safe-state code is 0b10 until START has loaded record 0x001 (R482). -/
def regReset (a : Nat) : Word :=
  match blockOf a with
  | none => 0
  | some b =>
    let off := a - b.base
    match b with
    | .lane l =>
      if off = 0 then (if l % 256 < 16 then 0x1009 else 0x9)
      else if off = 4 then 0x200 else 0
    | _ =>
      match b.row off with
      | some r => BitVec.ofNat 32 r.reset
      | none => 0

end Sys2Proof.Machine
end

