-- ==== Sys2Proof/Config.lean ====
section
/-!
DEFINITION. The values the spec leaves open: opaque constants, so that nothing can be proved about
any of them but that it is a value. A free value drawn at a step is applied to the counter
`State.freeCtr`, which the step reads and advances (log 10).
-/
namespace Sys2Proof

/-- A fresh undefined or unpredictable word (R24, R25), for the draw numbered by the counter. -/
opaque Config.freeWord : Nat → Word

/-- A fresh undefined yes or no. -/
opaque Config.freeBool : Nat → Bool

/-- Contents of bank memory that the spec leaves undefined (R313, R319): the stamp of the loss and
the complex address. -/
opaque Config.freeMem : Nat → Nat → Byte

/-- TCLK runs at a fixed frequency of 200 to 300 MHz (R32); which, the integrator decides: the number
of MHz above 200. -/
opaque Config.tclkAbove200 : Fin 101

end Sys2Proof
end

