-- ==== Sys2Proof/Machine/State.lean ====
section
/-!
DEFINITION. The state of the complex, as plain data. Control registers are one sparse map from
complex address to word (`regs`; an unlisted address reads as its reset value, `regReset`), with a
second map of the pending values of Commit fields (`pend`). Everything no register shows stands in
the typed parts below. Units are numbered as R28 and the scope chapter number them.
-/
namespace Sys2Proof.Machine

/-! ## Threads (02, 03, 04) -/

/-- A hardware loop register lp0 to lp2 (R139). -/
structure Loop where
  start  : Word
  stop   : Word
  count  : Word
  active : Bool
  deriving DecidableEq, Repr

/-- A fault as its record will show it (R153). -/
structure FaultRec where
  cls       : BitVec 4
  detail    : Byte
  seg       : BitVec 3
  acc       : BitVec 3
  addr      : BitVec 48
  imprecise : Bool
  atSettle  : Bool
  inDelay   : Bool
  partialSt : Bool
  second    : Bool
  extra     : Bool
  pc        : Word
  npc       : Word
  oppc      : Word
  deriving DecidableEq, Repr

/-- How the bytes a load or table read gathers become its result (R177, R186, R187). -/
inductive LoadForm where
  /-- n bytes, sign-extended. -/
  | sext (n : Nat)
  /-- n bytes, zero-extended. -/
  | zext (n : Nat)
  /-- 8 bytes into a register pair. -/
  | pair
  /-- Entries i and i + 1 of a table, interpolated at fraction f. -/
  | tli (w : Nat) (f : Nat)
  /-- Four entries of a map, interpolated at fractions fx and fy. -/
  | tli2 (w : Nat) (fx fy : Nat)
  deriving DecidableEq, Repr

/-- The result of an outstanding operation when it has arrived. -/
inductive OpResult where
  /-- The register value, or the pair low and high. -/
  | value (lo hi : Word)
  /-- A target error at an address (R131, R150). -/
  | busError (addr : BitVec 48) (second : Bool)
  /-- A zero divisor (R176). -/
  | divZero
  deriving DecidableEq, Repr

/-- An unretired long operation (R145). `need` parts of its data are still to arrive into `data`,
whose keys are byte positions. -/
structure LongOp where
  id     : Nat
  pc     : Word
  d      : Reg
  pair   : Bool
  seg    : BitVec 3
  acc    : BitVec 3
  form   : LoadForm
  need   : Nat
  data   : Map Byte
  result : Option OpResult
  /-- Fills the pair's agreement buffer when it retires (R428). -/
  agree  : Bool
  /-- It reads the own bay's or the own core's timers' registers, so that XPAD times it (R93). -/
  padded : Bool
  deriving DecidableEq, Repr

/-- A store that awaits its completion response (R145, R151). `rest` is the second half of a split
store, presented after the first half's response (R130): address and bytes. `answer` is the response
once it has arrived: an error or not. `quiet` is a store whose thread was stopped: it is performed and
its outcome discarded (R76). `long` is a store to the system region or a remote window, or a split one:
a long operation (R145). -/
structure StoreOp where
  id     : Nat
  pc     : Word
  seg    : BitVec 3
  acc    : BitVec 3
  addr   : BitVec 48
  rest   : Option (Nat × List Byte)
  /-- The part outstanding is the second half. -/
  second : Bool
  answer : Option Bool
  quiet  : Bool
  long   : Bool
  deriving DecidableEq, Repr

/-- A write of the thread's own that settles later (R105, R126). -/
inductive Delayed where
  | reg (addr : Nat) (data : Word)
  | seg7 (base : BitVec 48) (limit : Word) (rights : Word)
  deriving DecidableEq, Repr

/-- The instruction a thread is waiting in (R97, R151, R194, R108). -/
inductive Waiting where
  | wait (d : Reg) (mask : BitVec 4)
  | recv (d : Reg)
  | settle
  | isync
  deriving DecidableEq, Repr

/-- What follows a marked instruction: the second half of a pair that issues in one beat (R86), its
registers read and written and whether it accesses memory; or an instruction in a beat of its own (R87),
whose own marker is ignored (R88). -/
inductive PairInfo where
  | pair (reads writes : List Reg) (access : Bool)
  | split
  deriving DecidableEq, Repr

/-- What a thread holds beside its control registers (R110). -/
structure Thread where
  /-- g1 to g31 by number; an unlisted register is 0. -/
  g        : Map Word := []
  fn       : Bool := false
  fz       : Bool := false
  fc       : Bool := false
  fv       : Bool := false
  /-- Address of the next instruction, and of the one after it. -/
  pc       : Word := 0
  npc      : Word := 4
  /-- The instruction at pc is in a delay slot (R133). -/
  inDelay  : Bool := false
  /-- RS, newest entry first (R136). -/
  rs       : List Word := []
  lp0      : Loop := ⟨0, 0, 0, false⟩
  lp1      : Loop := ⟨0, 0, 0, false⟩
  lp2      : Loop := ⟨0, 0, 0, false⟩
  /-- Unretired long operations and outstanding stores, in issue order. -/
  ops      : List LongOp := []
  stores   : List StoreOp := []
  nextOp   : Nat := 0
  /-- Own writes with the number of instructions still to complete before they act. -/
  delayed  : List (Nat × Delayed) := []
  waiting  : Option Waiting := none
  pairOpen : Option PairInfo := none
  /-- A fault raised whose entry beat has not come (R156). -/
  raised   : Option FaultRec := none
  /-- Imprecise faults that await a boundary, by operation number (R150, R152). -/
  late     : Map FaultRec := []
  /-- A contract break that TRAP turns into a fault at the next boundary: the breaking
  instruction's address, none where no instruction broke (R95). -/
  broke    : Option (Option Word) := none
  /-- A HALT that awaits a boundary and the retirement of long operations (R73); true for debug. -/
  haltReq  : Option Bool := none
  /-- A STOP that awaits a boundary (R71). -/
  stopReq  : Bool := false
  /-- A freeze that awaits the same (R459). -/
  freezeReq : Bool := false
  /-- One instruction is to run under a debug step (R539). -/
  stepping : Bool := false
  /-- Timer high-half shadow (R259). -/
  shadowHi : Word := 0
  /-- Inbox, oldest message first (R287). -/
  inbox    : List (BitVec 64) := []
  /-- Carried hop (R280), and the hop of the event held on each input. -/
  hop      : Nat := 0
  evHop    : Map Nat := []
  /-- An event return has just completed: no handler entry before the next instruction (R101). -/
  noEntry  : Bool := false
  /-- A line fetch from the system region or a bridge window under way: the line and the fetch's number; and
  the line once it has arrived, not yet filled (R123). -/
  fetched  : Option Line := none
  fetching : Option (Nat × Nat) := none
  /-- Lines in the line buffer, newest first, two at most (R80). -/
  lineBuf  : List Nat := []
  /-- The next sequential line, which the predictor found in neither the line buffer nor the cache
  (R80). -/
  ahead    : Option Nat := none
  /-- The instruction at pc is held back and its contract break is counted (R51, R94). -/
  held     : Bool := false
  /-- Twin pair of a member, true for its shadow (R422). -/
  twin     : Option (Nat × Bool) := none
  /-- A mismatch stops the member at its next boundary: DETAIL of its fault (R442). -/
  twinStop : Option Byte := none
  /-- Signature accumulator and window: instructions, bytes, sequence; the window has ended (R435). -/
  sig      : Word := 0
  winInstr : Nat := 0
  winBytes : Nat := 0
  winSeq   : Nat := 0
  winEnd   : Bool := false
  deriving DecidableEq, Repr

/-! ## Twin pairs (12) -/

/-- An entry of an agreement buffer (R428): the primary's operation that fills it, and once filled
the value, the Z flag a RECV left, and the fault class and DETAIL of an instruction that faulted. -/
structure Agreed where
  op     : Nat
  filled : Bool
  value  : Option (BitVec 64)
  z      : Option Bool
  fault  : Option (BitVec 4 × Byte)
  deriving DecidableEq, Repr

/-- A window report (R435). -/
structure Report where
  sig   : Word
  bytes : Nat
  instr : Nat
  seq   : Nat
  deriving DecidableEq, Repr

/-- What a twin pair holds beside its registers. -/
structure Pair where
  agreed : List Agreed := []
  repP   : List Report := []
  repS   : List Report := []
  /-- Windows of a rerun still to compare (R443). -/
  rerun  : Nat := 0
  /-- Automatic sequence: the primary's core, the shadow's core, the unit; none until tested. -/
  coreP  : Option Bool := none
  coreS  : Option Bool := none
  unit   : Option Bool := none
  /-- The unit that served the comparison that mismatched. -/
  served : Nat := 0
  deriving DecidableEq, Repr

/-! ## Events and crossings (01, 07) -/

/-- An event in the routing pipeline, with the selects that named it when it was presented (R274,
R275) and, for a host vector that a virtual complex owns, that complex and its generation then
(R295). -/
inductive Routed where
  | event (port : Nat) (b : Bool) (hop : Nat) (targets : List (Nat × Option (Nat × Nat)))
  | force (x : Nat) (hop : Nat) (gen : Option (Nat × Nat))
  deriving DecidableEq, Repr

/-- Who awaits the data or the completion of an access. -/
inductive ReqRef where
  /-- A thread's long operation: its bytes at positions pos and up. -/
  | op (gt : Nat) (id : Nat) (pos : Nat)
  /-- A thread's store, first or second half. -/
  | store (gt : Nat) (id : Nat)
  /-- A line fetch of a thread, by its number. -/
  | fetch (gt id : Nat)
  /-- A channel's access outside the banks, by its number (R362, R600). -/
  | chan (c : Nat) (seq : Nat)
  /-- A host request, by its answer number. -/
  | host (id : Nat)
  /-- A piece of a virtual complex's image, by its number (R475, R478). -/
  | image (v : Nat) (seq : Nat)
  /-- Nobody: posted. -/
  | posted
  deriving DecidableEq, Repr

/-- An item of a crossing queue (R34). -/
inductive XItem where
  | write (who : Agent) (addr : Nat) (data : Word) (hi : Option Word) (ref : ReqRef)
  | read (who : Agent) (addr : Nat) (wide : Bool) (ref : ReqRef)
  | data (ref : ReqRef) (bytes : List Byte)
  | edge (n : Nat) (req : Word) (lane : Nat) (act : Nat)
  /-- The request of a ledger entry, on its way to a system initiator port (R363). -/
  | sip (tag : Nat)
  /-- A reset of a lane by its virtual complex (R460). -/
  | laneReset (l : Nat)
  deriving DecidableEq, Repr

/-! ## Lanes and sequencers (05) -/

/-- A lane: the level its filter passes, before the inversion; the value and enable that each of its
sources 0 to 8 last gave it (R201); the four values and enables its bundle carries, one for each fine
phase, and the PCLK cycle to which they apply (R202, R591); and the pin-time at which FILT_LEN or FILT_UNIT
was last written (R205). -/
structure LaneS where
  pad  : Bool := false
  kept : Map (Bool × Bool) := []
  lnOut : BitVec 4 := 0
  lnOe  : BitVec 4 := 0
  lnAt  : Nat := 0
  filtFrom : Option Nat := none
  deriving DecidableEq, Repr

/-- A sequencer beside its registers: TXW and RXW, oldest word first; a timed instruction's late test
has been made (R223); the pin-time at which a WAIT of fixed length ends; the lane whose next recording
a STAMP waits for, and whether it has come; carried hop; the STATE it had when its virtual complex
froze. -/
structure SeqS where
  tx     : List Word := []
  rx     : List Word := []
  judged : Bool := false
  ends   : Option Nat := none
  stamp  : Option (Nat × Bool) := none
  hop    : Nat := 0
  was    : Word := 0
  deriving DecidableEq, Repr

/-- An edge queue entry (R232, R233): bay-relative lane, action, time in quarter units, and whether
its arrival has been checked. -/
structure EdgeE where
  lane    : Nat
  act     : Nat
  time    : Nat
  checked : Bool
  deriving DecidableEq, Repr

/-! ## Timers (06) -/

/-- A timer beside its registers: source ticks counted by the prescaler, the capture queue (value and
tag word, oldest first), the full epoch of the last capture appended, lane transitions on their way
into TCLK for counting and for capture (and for the latter whether it rose; none where two merged),
whether it ran when its virtual complex froze, and the compare values and NOMATCH levels that the last load
took (R252, R253). -/
structure TimerS where
  presc   : Nat := 0
  caps    : List (Word × Word) := []
  epoch   : Option Nat := none
  cntEdge : Bool := false
  capEdge : Option (Option Bool) := none
  wasRun  : Bool := false
  cmps    : Nat × Nat := (0, 0)
  noMatch : Bool × Bool := (false, false)
  deriving DecidableEq, Repr

/-! ## The ledger and coherence (10) -/

/-- What a ledger entry's request is for (R362, R363). -/
inductive LedgerUse where
  | access (ref : ReqRef)
  /-- A line the gateway fetches for a core, to own it alone or not, or writes back (R341). -/
  | gwFill (line : Nat) (unique : Bool)
  | gwWrite (line : Nat)
  deriving DecidableEq, Repr

/-- A ledger entry, or a request the ledger holds unissued (R363 to R369): the requester (a global thread
number, 2048 + a channel, 4096 for the gateway), the address and size, the write data, the virtual complex
and its generation at allocation, the timeout exponent, and whether it is in limbo. -/
structure LEntry where
  use   : LedgerUse
  reqr  : Nat
  addr  : Nat
  n     : Nat
  wr    : Option (List Byte)
  vc    : Option (Nat × Nat)
  tmo   : Nat
  limbo : Bool
  deriving DecidableEq, Repr

/-- The kind of a request on a system initiator port (R575). -/
inductive SipKind where
  | read | write | rdShared | rdUnique | wbData
  deriving DecidableEq, Repr

/-- A request presented on `SIP0_REQ` or `SIP1_REQ` (R575, R576). -/
structure SipReq where
  port : Nat
  iova : BitVec 48
  tag  : BitVec 14
  sid  : BitVec 7
  kind : SipKind
  n    : Nat
  data : List Byte
  deriving DecidableEq, Repr

/-- A line of a data cache: 1 SHARED, 2 EXCLUSIVE, 3 MODIFIED (R335); `wb` while it stands in the
writeback buffer (R337). -/
structure CLine where
  st   : Nat
  data : Line
  wb   : Bool
  deriving DecidableEq, Repr

/-- How an access changes the bytes it names. -/
inductive MemAct where
  | read (n : Nat)
  | write (bs : List Byte)
  | setBits (bs : List Byte)
  | clrBits (bs : List Byte)
  deriving DecidableEq, Repr

/-- An access to bank memory that waits for its line: who awaits it, its address, its act. -/
structure MemAcc where
  ref  : ReqRef
  addr : Nat
  act  : MemAct
  deriving DecidableEq, Repr

/-- Coherence messages (R343). -/
inductive CohKind where
  | rdShared | rdUnique | upgrade | snpShared | snpInv | ackShared | ackInv | snpDataS | snpDataI
  | invWb | wbData | evictClean | wbAck | compAck | fillS | fillE | grantE | retry | proceed
  deriving DecidableEq, Repr

/-- A request that a home has received for a line it cannot serve yet, kept in the order received (R342):
one of a cache; a thread's access that does not cache (R349); the place of another agent w that does not
cache, whose access is made when its turn has come; a snoop of the SoC, by its answer number (R578). -/
inductive HomeReq where
  | cache (c : Nat) (k : CohKind) (line : Nat)
  | access (acc : MemAcc)
  | agent (w : Nat) (line : Nat) (write : Bool)
  | snoop (line : Nat) (inv : Bool) (id : Nat)
  deriving DecidableEq, Repr

/-- A flush under way (R339): the set it works on, of every line and of the system region's lines (64 when
it is through), lines whose WB_ACK is awaited, and whether a write that turned the caching of the system
region off began it. -/
structure FlushS where
  all : Nat := 64
  gw  : Nat := 64
  out : List Nat := []
  sys : Bool := false
  deriving DecidableEq, Repr

/-- A coherence message in flight between core c and the home of a line. -/
structure CohMsg where
  kind : CohKind
  c    : Nat
  line : Nat
  data : Line
  deriving DecidableEq, Repr

/-- What a home's open transaction is for (R342): a caching request, an access that does not cache
(R349), or a recall (R351, R355). -/
inductive TxnKind where
  | shared | unique | upgrade | access | recall
  deriving DecidableEq, Repr

/-- An open transaction: requester, holders still to answer, writebacks and INV_WB_INFLIGHT answers
seen (R353), data in hand, whether the gateway has asked the SoC for them, whether the fill has left,
whether the forwards invalidate, the access to perform, the request that waits for the way of a recall,
and the answer number of the SoC snoop whose forwards are open, with the data they returned (R341).
`shared` ends with FILL_S, `unique` with FILL_E, `upgrade` with GRANT_E. -/
structure Txn where
  kind  : TxnKind
  req   : Nat := 0
  wait  : List Nat := []
  wbGot : List Nat := []
  invWb : List Nat := []
  data  : Option Line := none
  fetch : Bool := false
  fill  : Bool := false
  inv   : Bool := false
  acc   : Option MemAcc := none
  next  : Option (Nat × CohKind × Nat) := none
  snoop : Option Nat := none
  snpData : Option Line := none
  deriving DecidableEq, Repr

/-- A directory or snoop filter entry (R340, R341): sharers (32 is the host-side agent), held
EXCLUSIVE or MODIFIED by one, open transaction, time of last use. -/
structure DEntry where
  sharers : List Nat
  excl    : Bool
  txn     : Option Txn
  used    : Nat
  deriving DecidableEq, Repr

/-! ## DMA, pools, the silo and the bulk port (11) -/

/-- What a channel is at: nothing; reading a descriptor; moving data; writing a descriptor back. -/
inductive ChanPhase where
  | idle | load | move | back
  deriving DecidableEq, Repr

/-- An access of a channel outside the banks (R362, R600): what it is for, its number, its address and size,
and once it has come the answer: the bytes, or none for an error. -/
structure ChanReq where
  job : Nat
  seq : Nat
  addr : Nat
  n   : Nat
  ans : Option (Option (List Byte))
  deriving DecidableEq, Repr

/-- A channel's transfer (R380 to R395): configuration, bytes, addresses as GO or a descriptor gave
them; of a descriptor its CTRL word, the handle to free and the words DST_LO and DST_HI to write back;
the hop count of its events; the stream bytes whose source access is issued, and whose destination access
is; staged stream bytes by first byte (R379); the failed access, by its lowest stream byte and address
(R396); accesses under way outside the banks, and the number of the next; an ABORT came after the last write
was issued (R395); the failure is the engine's (R397); the first step of a write-back is performed (R390);
how far the bytes left open at the end of the transfer have been dealt with (R387, R396). -/
structure ChanS where
  phase : ChanPhase := .idle
  cfg   : Word := 0
  count : Nat := 0
  src   : Nat := 0
  dst   : Nat := 0
  ctrl  : Word := 0
  srcHi : Word := 0
  dstLo : Word := 0
  dstHi : Word := 0
  hop   : Nat := 0
  rd    : Nat := 0
  wr    : Nat := 0
  stage : List (Nat × List Byte) := []
  bad   : Option (Nat × Nat) := none
  out   : List ChanReq := []
  seq   : Nat := 0
  late  : Bool := false
  eng   : Bool := false
  tail  : Bool := false
  close : Nat := 0
  deriving DecidableEq, Repr

/-- An ALLOC or FREE that a pool has received (R405): the read of POOL_ALLOC to answer, or the handle that
comes back. -/
inductive PoolOp where
  | alloc (ref : ReqRef)
  | free (h : Word)
  deriving DecidableEq, Repr

/-- A pool (R402): cached handles, newest first; handles on their way to the free stack; handles on it;
indices handed out at least once; operations that wait, oldest first: for a refill (R403), or for room in the
cache. -/
structure PoolS where
  cache  : List Word := []
  moving : List Word := []
  sp     : Nat := 0
  fresh  : Nat := 0
  ops    : List PoolOp := []
  deriving DecidableEq, Repr

/-- A put in the silo's queue (R410): payload address, HI word, source, the timebase and epoch of the last
TCLK cycles at its acceptance, newest first, and the number of the newest (R412), its number, and whether it
follows a trigger (R414). -/
structure Put where
  addr   : Nat
  hi     : Word
  source : Nat
  hist   : List (Nat × Nat)
  cycle  : Nat
  seq    : Nat
  after  : Bool
  deriving DecidableEq, Repr

/-- A record whose line writes are under way (R411): its SEQ, address and 256 bytes, and the lines, 0 to 3,
not yet performed. -/
structure SiloRec where
  seq  : Nat
  base : Nat
  data : List Byte
  left : List Nat
  deriving DecidableEq, Repr

/-- The silo: put queue, records whose line writes are under way, oldest first, accepted puts, puts still
to accept after a trigger, and the TCLK cycle of the last stamp (R411, R412, R414). -/
structure SiloS where
  queue   : List Put := []
  writing : List SiloRec := []
  seq     : Nat := 0
  post    : Nat := 0
  stamp   : Nat := 0
  deriving DecidableEq, Repr

/-- A bulk port context (R417 to R419): posted writes not yet performed, prefetched bytes and the address of
the first, reads of BULK_STATUS or BULK_ADDR, by register address, that wait for the writes, whether a
beat of the burst under way has failed, and whether a reset awaits the writes (R460). -/
structure BulkS where
  posted : List (Nat × List Byte) := []
  pre    : List Byte := []
  preAt  : Nat := 0
  reads  : List (ReqRef × Nat) := []
  bad    : Bool := false
  rst    : Bool := false
  deriving DecidableEq, Repr

/-! ## Virtual complexes, loft, start-up and modes (09, 13, 14, 15) -/

/-- A SAVE or a RESTORE under way (R475, R478): the stage of a RESTORE (0 its header, 1 the first pass, 2 the
second) and the header it read; the pieces asked for in order, by number, with their answers (none awaited;
an error is `some none`); and whether the image lies where it cannot be reached. -/
structure ImageJob where
  restore : Bool
  stage   : Nat := 0
  head    : List Byte := []
  parts   : List (Nat × Option (Option (List Byte))) := []
  bad     : Bool := false
  deriving DecidableEq, Repr

/-- A virtual complex beside its registers: mailbox rings, oldest entry first; the selected window
revision; the form of the freeze under way or in force; a SAVE or RESTORE under way. -/
structure VcS where
  toHost   : List (BitVec 64) := []
  fromHost : List (BitVec 64) := []
  select   : Nat := 1
  capture  : Bool := false
  job      : Option ImageJob := none
  deriving DecidableEq, Repr

/-- A loft record (R324): its two copies, and which is current. -/
structure LoftRec where
  a   : BitVec 2048 := 0
  b   : BitVec 2048 := 0
  cur : Bool := false
  deriving DecidableEq, Repr

/-- A boot image on its way through authentication (R500, R501): the bytes at its manifest's address,
stored bytes of each chunk as far as fetches brought them, whether a fetch failed, and what each
compressed chunk decompressed to. -/
structure BootImage where
  man    : List Byte
  stored : List (List Byte)
  busErr : Bool
  placed : List (Option (List Byte))
  deriving DecidableEq, Repr

/-- START beside its registers: the loft header as step 2 read it, empty where it was bad; step 5 has copied
the ROM; the image tried (0 the first slot, 1 the other, 2 recovery); doorbells seen; boot cores and
boot-reserved banks; the signature request outstanding with its image; the manifest's release masks; a
release accepted whose threads have not started; the hardware part of step 6 is done; a digest that the
boot engine is to store. -/
structure StartS where
  hdr      : List Byte := []
  booted   : Bool := false
  tries    : Nat := 0
  ready    : Bool := false
  recovery : Bool := false
  cores    : List Nat := []
  reserved : List Nat := []
  sec      : Option BootImage := none
  mask     : List Word := []
  release  : Bool := false
  loaded   : Bool := false
  digest   : List Byte := []
  deriving DecidableEq, Repr

/-- Modes and power beside their registers: the mode a transition under way leads to (0 for a clock
change alone); clocks that change, with their new values, 8 added to the number of one that has
answered; quadrants whose pads are held (R533); the
watchdog count has reached PERIOD (R531); the lifecycle for which clearing last completed (R542). -/
structure ModeS where
  goal    : Option Nat := none
  clocks  : List (Nat × Nat) := []
  hold    : List Nat := []
  expired : Bool := false
  cleared : Nat := 0
  deriving DecidableEq, Repr

/-! ## Bridge links (16) -/

/-- What a flit carries: a request of a ledger entry, a response (none for an error), an event or a
level of an outbound channel, a message, a report of a refused message, a sync flit, a down
notice. -/
inductive BrItem where
  | request (tag : Nat)
  | response (data : Option (List Byte))
  | event (ch hop : Nat)
  | level (ch : Nat) (v : Bool)
  | message (dst : Word) (data : BitVec 64)
  | nack (full : Bool)
  | sync (t1 : BitVec 64)
  | notice
  deriving DecidableEq, Repr

/-- A bridge link: SerDes lock; the outbound crossing queue; the replay buffer, with for each flit its
sequence number and replays in succession; the next sequence number; the last acknowledgement sent (false:
negative); the time exchange under way with the epoch it began in; and an inbound request that has left the
inbound crossing queue and waits for its bank (R559, R563). -/
structure LinkS where
  locked : Bool := false
  wait   : List BrItem := []
  out    : List (Nat × Nat × BrItem) := []
  seq    : Nat := 0
  ack    : Option (Bool × Nat) := none
  exch   : Option (BitVec 64 × Nat) := none
  req    : Option (Nat × HostAccess) := none
  deriving DecidableEq, Repr

/-! ## The whole -/

/-- The state of the complex. -/
structure State where
  /-- Control registers by complex address; unlisted: the reset value. -/
  regs    : Map Word
  /-- Pending values of Commit fields by complex address; unlisted: as `regs` (R17, R18). -/
  pend    : Map Word
  /-- Bins and granary, one byte per complex address; unlisted: as the bank's fill says. -/
  mem     : List Host.Cell
  /-- Fill of each bank: 0 for zeros, n for undefined contents stamped n (R313, R319). -/
  bankFill : Map Nat
  threads : Map Thread
  pairs   : Map Pair
  /-- Cores under logic self-test (R445); the unit of a requested injection test (R441). -/
  selfTest : List Nat
  inject  : Option Nat
  /-- Slot tables captured by an accepted commit, by core: the word of each slot (R60). -/
  capture : Map (List Word)
  /-- Instruction cache lines of each core: line number and way (R79 to R85). -/
  icache  : Map (List (Nat × Nat))
  /-- Event synchroniser toggles by 2 × port + signal: hop count + 1 (R37). -/
  toggles : Map Nat
  /-- Routing pipeline, oldest first (R275). -/
  routed  : List Routed
  /-- Events held by consumer inputs without a control register bit: hop count + 1 (R277). -/
  held    : Map Nat
  /-- Events that reached a sequencer's latch: hop count + 1 (R224). -/
  latched : Map Nat
  /-- Levels carried by the inbound bridge event channels (R269). -/
  inLevels : Map Bool
  /-- Crossing queues, oldest first (R34, R35). -/
  xq      : List (Crossing × XItem)
  lanes   : Map LaneS
  /-- Sequencers by 8 × bay + number. -/
  seqs    : Map SeqS
  /-- Words of program stores that an accepted write replaced in the present PCLK cycle: bay, word, the
  word before (R216). -/
  progOld : List (Nat × Nat × Word)
  /-- Edge queues by bay, in order of arrival. -/
  edges   : Map (List EdgeE)
  /-- Credits a core has used, and of these on their way back: transmit credits by 8 × bay +
  sequencer, edge credits by 256 + bay (R225, R232). -/
  credits : Map (Nat × Nat)
  timers  : Map TimerS
  /-- TCLK cycles so far, and the timebase and epoch of the last of them, newest first (R412). -/
  tcycle  : Nat
  tbHist  : List (Nat × Nat)
  /-- The TCLK cycle at which each quadrant last took an anchor, counted from 1 (R235). -/
  anchored : Map Nat
  /-- A rising transition of the pulse lane is on its way into TCLK (R246). -/
  ppsEdge : Bool
  /-- A start at a time was already due when it was enabled (R265). -/
  goLate  : Bool
  /-- Ledger entries by tag, and requests held unissued in the order received (R362 to R369). -/
  ledger  : Map (Option LEntry)
  ledgerQ : List LEntry
  /-- Data cache lines by core × 2^42 + line (R334, R335). -/
  caches  : Map (Option CLine)
  /-- Accesses of each core that wait for a cache line, oldest first. -/
  dwait   : List (Nat × MemAcc)
  /-- Directory and snoop filter entries by line (R340, R341), and a count of uses for their age. -/
  dir     : Map (Option DEntry)
  dirClock : Nat
  /-- Coherence messages in flight, oldest first. -/
  coh     : List CohMsg
  /-- Requests that wait at a home for a busy line (R342, R349). -/
  homeQ   : List HomeReq
  /-- Promises by set, oldest first: set, requester, line, and whether PROCEED was sent (R352). -/
  promises : List (Nat × Nat × Nat × Bool)
  /-- What an open global fence still waits for (R359): ledger tags, accesses, requests at homes, and
  transactions no younger than a count of uses. -/
  fence   : List Nat
  fenceAcc : List MemAcc
  fenceReq : List HomeReq
  fenceClock : Nat
  /-- Requests of the data caches that have had no fill or grant: core, line, kind (R337, R352). -/
  creq    : List (Nat × Nat × CohKind)
  /-- Flushes under way, by core (R339). -/
  flush   : Map FlushS
  /-- Port B accesses that received BUSY, oldest first (R314). -/
  portB   : List MemAcc
  /-- Requests numbered so far (the model's own). -/
  reqCtr  : Nat
  /-- DMA channels, pools, the silo, bulk port contexts. -/
  chans   : Map ChanS
  pools   : Map PoolS
  silo    : SiloS
  bulks   : Map BulkS
  /-- Bridge links by port; the route port + 1 of each die (R553); the level each outbound channel
  last had. -/
  links   : Map LinkS
  routes  : Map Nat
  outLevels : Map Bool
  /-- Virtual complexes, loft records, the store under way (record, secret, data), START, modes. -/
  vcs     : Map VcS
  loft    : Map LoftRec
  store   : Option (Nat × Bool × BitVec 2048)
  start   : StartS
  mode    : ModeS
  /-- Banks that have been OFF since they were last ON (R317, R319). -/
  offBanks : List Nat
  /-- Granary banks that leave CORES, whose lines are being recalled (R306). -/
  leaving : List Nat
  /-- The march test under way: bank, preserving, soft repair allowed (R322). -/
  march   : Option (Nat × Bool × Bool)
  /-- Messages on their way to another core: sender, operation, destination word, message. -/
  msgs    : List (Nat × Nat × Word × BitVec 64)
  /-- The core whose message each core accepted last; 31 before the first (R31, R290). -/
  msgTurn : Map Nat
  /-- Requests presented on the system initiator ports, in order (R575). -/
  sip     : List SipReq
  /-- Bulk port contexts held back for want of a burst buffer, in order of need (R420). -/
  bulkWait : List Nat
  /-- Answers to host requests not yet taken: request number, and data or none for an error (R570). -/
  answers : List (Nat × Option (List Byte))
  /-- Free values drawn so far (the model's own; log 10). -/
  freeCtr : Nat
  /-- Commands that wait, first in, first out (the model's own). -/
  pending : List Instr
  deriving DecidableEq, Repr

/-- Why a command could stop the model: nothing does. No command of the table is left without an
effect by the spec, so this type is empty. -/
inductive Fault where
  deriving DecidableEq, Repr

/-- Refusals. -/
inductive Refusal where
  /-- Raised by the dispatch alone, for a command that has no meaning yet. Safe: the model stops. -/
  | notModelled (mnemonic : String)
  deriving DecidableEq, Repr

/-- The complex right after cold reset, at step 1 of START (R481, R486): every control register at
its reset value, every typed part empty (log 4, log 15); loft and always-on are powered, and the rank 1
domains requested (R480, R526). -/
def State.reset : State where
  regs := [(0x1090001C, 0x39000), (0x10900024, 0x30000)]
  pend := []
  mem := []
  bankFill := []
  threads := []
  pairs := []
  selfTest := []
  inject := none
  capture := []
  icache := []
  toggles := []
  routed := []
  held := []
  latched := []
  inLevels := []
  xq := []
  lanes := []
  seqs := []
  progOld := []
  edges := []
  credits := []
  timers := []
  tcycle := 0
  tbHist := []
  anchored := []
  ppsEdge := false
  goLate := false
  ledger := []
  ledgerQ := []
  caches := []
  dwait := []
  dir := []
  dirClock := 0
  coh := []
  homeQ := []
  promises := []
  fence := []
  fenceAcc := []
  fenceReq := []
  fenceClock := 0
  creq := []
  flush := []
  portB := []
  reqCtr := 0
  chans := []
  pools := []
  silo := {}
  bulks := []
  links := []
  routes := []
  outLevels := []
  vcs := []
  loft := []
  store := none
  start := {}
  mode := {}
  offBanks := List.range 320
  leaving := []
  march := none
  msgs := []
  msgTurn := []
  sip := []
  bulkWait := []
  answers := []
  freeCtr := 0
  pending := []

end Sys2Proof.Machine
end

