-- ==== Sys2Proof/Machine/Ops.lean ====
section
/-!
DEFINITION. The named operations over control registers, owner bytes, refusals, events and bank
memory that every meaning is written with.
-/
namespace Sys2Proof.Machine

/-! ## Control registers -/

/-- The present value of the control register at a complex address. -/
def State.reg (s : State) (a : Nat) : Word := Map.get (regReset (canon a)) s.regs (canon a)

/-- Set the control register at a complex address. -/
def State.setReg (s : State) (a : Nat) (v : Word) : State :=
  { s with regs := Map.set (regReset (canon a)) s.regs (canon a) v }

/-- The pending value of a Commit register (R18); as the present value where none is pending. -/
def State.pendReg (s : State) (a : Nat) : Word := Map.get (s.reg a) s.pend (canon a)

/-- Set the pending value of a Commit register. -/
def State.setPend (s : State) (a : Nat) (v : Word) : State :=
  { s with pend := Map.set (s.reg a) s.pend (canon a) v }


/-- A field of a control register. -/
structure Fld where
  addr : Nat
  hi   : Nat
  lo   : Nat
  deriving DecidableEq, Repr

/-- The bits of a field in place. -/
def bitMask (hi lo : Nat) : Word := BitVec.ofNat 32 ((2 ^ (hi + 1 - lo) - 1) <<< lo)

/-- Bits [hi:lo] of a word, moved down. -/
def bitsOf (w : Word) (hi lo : Nat) : Word := (w &&& bitMask hi lo) >>> lo

/-- A word with bits [hi:lo] replaced. -/
def putBits (w : Word) (hi lo : Nat) (v : Word) : Word :=
  (w &&& ~~~ (bitMask hi lo)) ||| ((v <<< lo) &&& bitMask hi lo)

/-- The value of a field. -/
def State.fld (s : State) (x : Fld) : Word := bitsOf (s.reg x.addr) x.hi x.lo

/-- Set a field. -/
def State.setFld (s : State) (x : Fld) (v : Word) : State :=
  s.setReg x.addr (putBits (s.reg x.addr) x.hi x.lo v)

/-- A one-bit field as a truth value. -/
def State.bit (s : State) (x : Fld) : Bool := s.fld x != 0

/-- The word of a truth value. -/
def boolWord (b : Bool) : Word := if b then 1 else 0

/-- Set a one-bit field. -/
def State.setBit (s : State) (x : Fld) (b : Bool) : State := s.setFld x (boolWord b)

/-- Count up a counter field that saturates at its greatest value. -/
def State.countUp (s : State) (x : Fld) (k : Nat := 1) : State :=
  let m := 2 ^ (x.hi + 1 - x.lo) - 1
  s.setFld x (BitVec.ofNat 32 (min m ((s.fld x).toNat + k)))

/-- Count up a field that wraps. -/
def State.countWrap (s : State) (x : Fld) (k : Nat := 1) : State :=
  s.setFld x (BitVec.ofNat 32 ((s.fld x).toNat + k))

/-- Put the pending values of a register's Commit fields in force (R17). -/
def State.commitReg (s : State) (a : Nat) : State :=
  let p := s.pendReg a
  let fs := match blockOf a with
    | some b => (match b.row (a - b.base) with
      | some r => r.fields
      | none => [])
    | none => []
  let s := fs.foldl (fun s x =>
    if x.cls = .commit then s.setFld ⟨a, x.hi, x.lo⟩ (bitsOf p x.hi x.lo) else s) s
  { s with pend := Map.erase s.pend (canon a) }

/-- The next free value of the counter, and the state with the counter advanced (log 10). -/
def State.drawn (s : State) : State := { s with freeCtr := s.freeCtr + 1 }

/-! ## Refusals (R21) -/

/-- `CFG_REFUSED` of a block. A lane reports in its bay (R208), the loft record window in the loft
controller (R46). -/
def cfgRefused (b : Blk) (off : Nat) : Fld :=
  match b with
  | .glob => ⟨0x10000040, 0, 0⟩
  | .core n => ⟨(Blk.core n).base + 0xC, 0, 0⟩
  | .bay n => ⟨(Blk.bay n).base + 0x30C, 0, 0⟩
  | .lane l => ⟨(Blk.bay (l / 32)).base + 0x30C, 0, 0⟩
  | .timer m => ⟨(Blk.timer m).base + 8, 12, 12⟩
  | .timebase => ⟨0x10480004, 20, 20⟩
  | .router => ⟨0x1051C000, 0, 0⟩
  | .engine e => ⟨(Blk.engine e).base + 0x8000, 0, 0⟩
  | .bm => ⟨0x10681004, 0, 0⟩
  | .ledger => ⟨0x106C0004, 0, 0⟩
  | .dir => ⟨0x10700000, 0, 0⟩
  | .banks => ⟨0x10781080, 0, 0⟩
  | .win => if off < 0x8000 then ⟨0x10800000, 0, 0⟩ else ⟨0x10808018, 0, 0⟩
  | .power => ⟨0x10900008, 0, 0⟩
  | .loftCtl => ⟨0x10A00004, 4, 4⟩
  | .loftWin => ⟨0x10A00004, 4, 4⟩
  | .bridge p => ⟨(Blk.bridge p).base + 4, 3, 3⟩
  | .vct => ⟨0x10D04000, 0, 0⟩
  | .hv => ⟨0x10E00084, 0, 0⟩

/-- `REFUSED_AT` of a block. -/
def refusedAt (b : Blk) (off : Nat) : Fld :=
  match b with
  | .timer m => ⟨(Blk.timer m).base + 8, 21, 16⟩
  | .timebase => ⟨0x10480008, 11, 0⟩
  | .router => ⟨0x1051C004, 16, 0⟩
  | .loftCtl => ⟨0x10A00008, 19, 0⟩
  | .loftWin => ⟨0x10A00008, 19, 0⟩
  | _ => ⟨(cfgRefused b off).addr, 31, 16⟩

/-- The offset a refusal of a block records: a lane's within its bay (R208), the loft record
window's with 0x1_0000 added (R326). -/
def refusedOff (b : Blk) (off : Nat) : Nat :=
  match b with
  | .lane l => 0x1000 + 0x10 * (l % 32) + off
  | .loftWin => 0x10000 + off
  | _ => off

/-! ## Owner bytes (R451, R453) -/

/-- The owner bytes by kind: offset in the virtual complex table. -/
def ownThread (gt : Nat) : Nat := 0x2000 + gt
def ownBay (n : Nat) : Nat := 0x2800 + n
def ownLane (l : Nat) : Nat := 0x2900 + l
def ownTimer (m : Nat) : Nat := 0x3000 + m
def ownChan (c : Nat) : Nat := 0x3400 + c
def ownBank (g : Nat) : Nat := 0x3500 + g
def ownVec (v : Nat) : Nat := 0x3700 + v
def ownBridge (i : Nat) : Nat := 0x3900 + i

/-- The owner byte at an offset of the virtual complex table. -/
def State.ownByte (s : State) (off : Nat) : Word :=
  bitsOf (s.reg (0x10D00000 + off / 4 * 4)) (8 * (off % 4) + 7) (8 * (off % 4))

/-- STATE of a virtual complex: 0 is FREE (R458). -/
def vcState (v : Nat) : Fld := ⟨0x10D00004 + 0x40 * v, 3, 0⟩
/-- Generation of a virtual complex. -/
def vcGen (v : Nat) : Fld := ⟨0x10D00004 + 0x40 * v, 27, 16⟩

/-- The virtual complex a resource belongs to: its entry is VALID and the complex is not FREE. -/
def State.owner (s : State) (off : Nat) : Option Nat :=
  let b := s.ownByte off
  let v := (b &&& 0x3F).toNat
  if b &&& 0x80 != 0 ∧ s.fld (vcState v) ≠ 0 then some v else none

/-! ## Presence (R1, R2, R47, R48) -/

/-- Power of a domain (`PD_STAT`, R523, R524): core n is n, granary domain d is 32 + d, quadrant q
is 40 + q. -/
def State.powered (s : State) (i : Nat) : Bool :=
  (s.reg (0x10900020 + 4 * (i / 32))).getLsbD (i % 32)

/-- A resource is there when its die has it and its power domain is on: an unpowered one behaves as
an absent one (R524). -/
def State.corePresent (s : State) (n : Nat) : Bool :=
  (s.reg 0x10000310).getLsbD n && s.powered n
def State.bayPresent (s : State) (n : Nat) : Bool :=
  (s.reg 0x10000314).getLsbD n && s.powered (40 + n / 8)
def State.lanePresent (s : State) (l : Nat) : Bool :=
  (s.reg (0x10000200 + 4 * (l / 32))).getLsbD (l % 32) && s.powered (40 + l / 256)
def State.timerPresent (s : State) (m : Nat) : Bool :=
  (s.reg (0x10000280 + 4 * (m / 32))).getLsbD (m % 32) && s.powered 44
def State.chanPresent (s : State) (c : Nat) : Bool :=
  (s.reg (0x10000300 + 4 * (c / 32))).getLsbD (c % 32) && s.powered 45
/-- PRES_UNIT has the layout of FEAT4: quadrants [19:16], bridge ports [15:12], gleaner engines
[11:8], granary domains [7:0]. -/
def State.domainPresent (s : State) (d : Nat) : Bool := (s.reg 0x10000318).getLsbD d && s.powered (32 + d)
def State.enginePresent (s : State) (e : Nat) : Bool := (s.reg 0x10000318).getLsbD (8 + e) && s.powered 45
def State.portPresent (s : State) (p : Nat) : Bool := (s.reg 0x10000318).getLsbD (12 + p) && s.powered 46
def State.quadPresent (s : State) (q : Nat) : Bool := (s.reg 0x10000318).getLsbD (16 + q) && s.powered (40 + q)
def State.anyPort (s : State) : Bool := bitsOf (s.reg 0x10000318) 15 12 != 0
def State.bankPresent (s : State) (g : Nat) : Bool :=
  (s.reg (0x10781000 + 4 * (g / 32))).getLsbD (g % 32) &&
  s.powered (if g < 128 then g / 4 else 32 + (g - 128) / 24)
/-- The die has the unit of power domain i, whether powered or not. -/
def State.dieHas (s : State) (i : Nat) : Bool :=
  if i < 32 then (s.reg 0x10000310).getLsbD i
  else if i < 40 then (s.reg 0x10000318).getLsbD (i - 32)
  else if i < 44 then (s.reg 0x10000318).getLsbD (i - 24)
  else if i = 46 then s.anyPort
  else true
/-- A word whose bit j is f j, of n bits. -/
def bitWord (n : Nat) (f : Nat → Bool) : Word := (List.range n).foldl (fun w j => putBits w j j (boolWord (f j))) 0
/-- The lane of an AON lane index (R29, R535). -/
def aonLane (i : Nat) : Nat := i / 16 * 256 + i % 16
/-- The bits of a register of the global or the power block that report or control a resource the die has;
the others read zero and ignore writes (R2). -/
def State.thereMask (s : State) (b : Blk) (off : Nat) : Word :=
  let lane (i : Nat) : Bool := (s.reg (0x10000200 + 4 * (aonLane i / 32))).getLsbD (aonLane i % 32)
  let bytes : Word := bitWord 32 (fun j => s.dieHas (40 + j / 8))
  match b with
  | .glob =>
    if off = 0x10C then bytes
    else if 0x900 ≤ off ∧ off < 0xA00 then (if s.dieHas ((off - 0x900) / 8) then 0xFFFFFFFF else 0)
    else 0xFFFFFFFF
  | .power =>
    if off = 0x14 then bytes
    else if off = 0x18 ∨ off = 0x20 then bitWord 32 s.dieHas
    else if off = 0x1C ∨ off = 0x24 then bitWord 32 (fun j => s.dieHas (32 + j))
    else if off = 0x30 then s.reg 0x10000314
    else if off = 0x48 ∨ off = 0x4C then bitWord 32 (fun j => lane ((off - 0x48) * 8 + j))
    else if 0x50 ≤ off ∧ off < 0x60 then bitWord 32 (fun j => lane ((off - 0x50) * 4 + j / 2))
    else if 0x100 ≤ off ∧ off < 0x200 then (if s.dieHas ((off - 0x100) / 8) then 0xFFFFFFFF else 0)
    else 0xFFFFFFFF
  | _ => 0xFFFFFFFF
/-- FEAT0.TWIN and FEAT0.RENAME. -/
def State.twinFeat (s : State) : Bool := (s.reg 0x10000100).getLsbD 7
def State.renameFeat (s : State) : Bool := (s.reg 0x10000100).getLsbD 9

/-! ## Events (R37, R269 to R281) -/

/-- Router consumer index of each kind of input (R271). -/
def selThread (gt i : Nat) : Nat := 4 * gt + i
def selTimer (m i : Nat) : Nat := 8192 + 2 * m + i
def selSeq (n k i : Nat) : Nat := 10240 + 2 * (8 * n + k) + i
def selChan (c i : Nat) : Nat := 10752 + 2 * c + i
def selVec (v : Nat) : Nat := 11008 + v
def selOut (i : Nat) : Nat := 11520 + i

/-- Address of a select. -/
def selAddr (x : Nat) : Nat := 0x10500000 + 4 * x

/-- Address of the flag word of a port (R283). -/
def flagAddr (port : Nat) : Nat := 0x10510000 + 4 * port

/-- The port's producer is in CCLK, so that it presents to the router with no synchroniser (R27,
R275). Lanes, sequencers and bays are in PCLK; timers and the timebase in TCLK; bridge channels and
ports in BCLK; the loft controller in AON. -/
def portInCclk (port : Nat) : Bool :=
  if port < 0x1200 then false
  else if port < 0x1600 then true
  else if port < 0x1700 then false
  else if port < 0x1780 then true
  else if port < 0x17A2 then false
  else if port = 0x17AD then false
  else if port < 0x17AF then true
  else false

/-- The selects of edge form that name event A or B of a port and are enabled (R272, R275). A
select never written is disabled, so the listed registers hold every one of them. -/
def State.selectsOf (s : State) (port : Nat) (b : Bool) : List Nat :=
  s.regs.filterMap (fun p =>
    if 0x10500000 ≤ p.1 ∧ p.1 < 0x1050B800 then
      let w := p.2
      if w.getLsbD 15 ∧ bitsOf w 14 13 = boolWord b ∧ (bitsOf w 12 0).toNat = port then
        some ((p.1 - 0x10500000) / 4) else none
    else none)

/-- The generation tag of an event for a host vector that a virtual complex owns (R295). -/
def State.vecTag (s : State) (x : Nat) : Option (Nat × Nat) :=
  if 11008 ≤ x ∧ x < 11520 then
    match s.owner (ownVec (x - 11008)) with
    | some v => some (v, (s.fld (vcGen v)).toNat)
    | none => none
  else none

/-- An event enters the routing pipeline under the selects as they stand (R274, R275). -/
def State.routeEvent (s : State) (port : Nat) (b : Bool) (hop : Nat) : State :=
  { s with routed := s.routed ++
      [.event port b hop ((s.selectsOf port b).map (fun x => (x, s.vecTag x)))] }

/-- An event of hop count 8 is delivered nowhere and recorded; the router presents LOOP_DROP
(R281). `sig` is 0 for event A, 1 for B, 2 for a force write of the input. -/
def State.loopDrop (s : State) (port : Nat) (odd : Bool) (sig : Nat) (input : Nat) : State :=
  let s := s.setBit ⟨flagAddr port, if odd then 1 else 0, if odd then 1 else 0⟩ true
  let s := s.countUp ⟨0x1051C008, 15, 0⟩
  let s := s.setReg 0x1051C00C (BitVec.ofNat 32 (input * 2 ^ 16 + sig * 2 ^ 13 + port))
  let s := s.setBit ⟨0x1051C000, 1, 1⟩ true
  s.routeEvent 0x17A2 false 0

/-- An event presented to the router (R275, R281). -/
def State.routeIn (s : State) (port : Nat) (b : Bool) (hop : Nat) : State :=
  if hop < 8 then s.routeEvent port b hop
  else s.loopDrop port b (if b then 1 else 0) 0

/-- A producer presents event A or B of its port. One in CCLK reaches the router at once; any other
enters its event synchroniser, where a second event merges with the first and sets EVT_MERGED, the
larger hop count staying (R37). -/
def State.present (s : State) (port : Nat) (b : Bool) (hop : Nat) : State :=
  if portInCclk port then s.routeIn port b hop
  else
    let key := 2 * port + (if b then 1 else 0)
    let old := Map.get 0 s.toggles key
    let s' := { s with toggles := Map.set 0 s.toggles key (max old (hop + 1)) }
    if old = 0 then s' else s'.setBit ⟨flagAddr port, 3, 3⟩ true

/-- A force write of an input by an agent with a hop count and a port of its own (R273, R280,
R281, R283). -/
def State.forceInput (s : State) (x : Nat) (hop port : Nat) (odd : Bool) : State :=
  if hop < 8 then { s with routed := s.routed ++ [.force x hop (s.vecTag x)] }
  else s.loopDrop port odd 2 x

/-- An event reached a busy input (R278): OVERRUN, the count, and the router's own event. -/
def State.overrun (s : State) (x : Nat) : State :=
  let s := s.setBit ⟨selAddr x, 30, 30⟩ true
  let s := s.countUp ⟨0x1051C010, 15, 0⟩
  let s := s.setBit ⟨0x1051C000, 2, 2⟩ true
  s.routeEvent 0x17A2 true 0

/-- Record a refused write: set CFG_REFUSED, record the offset if it was clear, and for a bay
present its refusal event, port 0x1780 + n, event A (R21, R269). -/
def State.refuse (s : State) (b : Blk) (off : Nat) : State :=
  let c := cfgRefused b off
  let s1 := if s.bit c then s else s.setFld (refusedAt b off) (BitVec.ofNat 32 (refusedOff b off))
  let s2 := s1.setBit c true
  match b with
  | .bay n => s2.present (0x1780 + n) false 0
  | .lane l => s2.present (0x1780 + l / 32) false 0
  | _ => s2

/-- A minor fault: FAULT_MINOR is set and counted, and fault collection presents event A of its port
(R528). -/
def State.faultMinor (s : State) : State :=
  let s := s.setBit ⟨0x10808000, 1, 1⟩ true
  let s := s.countUp ⟨0x1080800C, 15, 0⟩
  s.present 0x17AC false 0

/-! ## Bank memory (R40, R301) -/

/-- The bank a memory address lies in: 4n + b for the bins, 128 + j for the granary. -/
def bankOf (a : Nat) : Option Nat :=
  if a < 0x800000 then some (a / 0x10000)
  else if 0x1000000 ≤ a ∧ a < 0x2800000 then some (128 + (a - 0x1000000) / 0x20000)
  else none

/-- First address and size of a bank. -/
def bankBase (g : Nat) : Nat := if g < 128 then g * 0x10000 else 0x1000000 + (g - 128) * 0x20000
def bankSize (g : Nat) : Nat := if g < 128 then 0x10000 else 0x20000

/-- What a byte that no cell lists reads as: zero, or an undefined value where the bank lost its
contents (R313, R319, log 1). -/
def unlisted (fill : Map Nat) (a : Nat) : Byte :=
  match bankOf a with
  | some g => if Map.get 0 fill g = 0 then 0 else Config.freeMem (Map.get 0 fill g) a
  | none => 0

/-- The canonical form of memory: addresses strictly rising, no cell equal to what its address
reads as when unlisted. -/
def Memory.wf (fill : Map Nat) (m : List Host.Cell) : Bool := Map.wf (unlisted fill) m

/-- One byte of bank memory. -/
def State.byte (s : State) (a : Nat) : Byte := Map.get (unlisted s.bankFill a) s.mem a

/-- Write one byte of bank memory. -/
def State.setByte (s : State) (a : Nat) (v : Byte) : State :=
  { s with mem := Map.set (unlisted s.bankFill a) s.mem a v }

/-- The bytes at n addresses from a. -/
def State.bytes (s : State) (a n : Nat) : List Byte := (List.range n).map (fun i => s.byte (a + i))

/-- Write bytes from address a up. -/
def State.setBytes (s : State) (a : Nat) (bs : List Byte) : State :=
  match bs with
  | [] => s
  | b :: r => State.setBytes (s.setByte a b) (a + 1) r

/-- Set every byte of a bank to zero. -/
def State.zeroBank (s : State) (g : Nat) : State :=
  { s with
    mem := s.mem.filter (fun c => bankOf c.1 != some g)
    bankFill := Map.set 0 s.bankFill g 0 }

/-- The contents of a bank become undefined (R319): a fresh stamp. -/
def State.loseBank (s : State) (g : Nat) : State :=
  { s with
    mem := s.mem.filter (fun c => bankOf c.1 != some g)
    bankFill := Map.set 0 s.bankFill g (s.freeCtr + 1)
    freeCtr := s.freeCtr + 1 }

/-- A number as n bytes, least significant first (R6), and back. -/
def toBytes (n v : Nat) : List Byte :=
  match n with
  | 0 => []
  | k + 1 => BitVec.ofNat 8 v :: toBytes k (v / 256)

def ofBytes (bs : List Byte) : Nat :=
  match bs with
  | [] => 0
  | b :: r => b.toNat + 256 * ofBytes r

/-- Words from bytes. -/
def wordsOf (bs : List Byte) (n : Nat) : List Word :=
  (List.range n).map (fun i => BitVec.ofNat 32 (ofBytes ((bs.drop (4 * i)).take 4)))

/-- n free bytes. -/
def State.freeBytes (s : State) (n : Nat) : List Byte × State :=
  ((List.range n).map (fun i => (Config.freeWord (s.freeCtr + i)).setWidth 8), { s with freeCtr := s.freeCtr + n })

end Sys2Proof.Machine
end

