-- ==== Sys2Proof/Machine/Access.lean ====
section
/-!
DEFINITION. Writes and reads of control register fields by their access codes and classes (R12, R17
to R22), the form and decoding rules of the control register range (R8 to R10), and the regions of
the complex address space (R40 to R43).
-/
namespace Sys2Proof.Machine

/-! ## Modes (R513, R514) -/

/-- `MODE_STATUS.MODE`. -/
def fMode : Fld := ⟨0x10900004, 2, 0⟩
def modeOff : Word := 0
def modeDormant : Word := 1
def modeStart : Word := 2
def modeRun : Word := 3
def modeLimp : Word := 4
def modeService : Word := 5

/-- Frozen-in-RUN fields accept writes in START and SERVICE (R17). -/
def State.thawed (s : State) : Bool := s.fld fMode == modeStart || s.fld fMode == modeService

/-- Between the entry into START and release, commands that would set the image's units going are
refused (R483). -/
def State.unreleased (s : State) : Bool := s.fld fMode == modeStart

/-! ## Paths -/

/-- An access that counts as made through the Manager window (R601). -/
def isManager (w : Agent) : Bool :=
  match w with
  | .manager => true
  | .debug => true
  | _ => false

/-! ## Writing by field (R12, R17 to R22) -/

/-- One field of a write: the new state, and whether the write to the field is refused. `ok` is
judged against the state before the write (R22). -/
def State.writeField (s s0 : State) (a : Nat) (x : FieldSpec) (data : Word)
    (ok : FieldSpec → Word → Bool) : State × Bool :=
  let new := bitsOf data x.hi x.lo
  let fl : Fld := ⟨a, x.hi, x.lo⟩
  match x.acc with
  | .rw =>
    if x.cls = .commit then
      if new = bitsOf (s0.pendReg a) x.hi x.lo then (s, false)
      else if ok x new then (s.setPend a (putBits (s.pendReg a) x.hi x.lo new), false)
      else (s, true)
    else if new = s0.fld fl then (s, false)
    else if ok x new then (s.setFld fl new, false) else (s, true)
  | .w1c => (s.setFld fl (s.fld fl &&& ~~~ new), false)
  | .w1s => (s.setFld fl (s.fld fl ||| new), false)
  | .wo => (s, false)
  | .rc => (s, false)

/-- The fields of a write in turn; whether any was refused. -/
def State.writeFieldList (s s0 : State) (a : Nat) (fs : List FieldSpec) (data : Word)
    (ok : FieldSpec → Word → Bool) : State × Bool :=
  match fs with
  | [] => (s, false)
  | x :: r =>
    let p := s.writeField s0 a x data ok
    let q := State.writeFieldList p.1 s0 a r data ok
    (q.1, p.2 || q.2)

/-- A write of a register: every field by its own access and class; a refusal is recorded once. -/
def State.writeRow (s : State) (b : Blk) (off : Nat) (r : Row) (data : Word)
    (ok : FieldSpec → Word → Bool) : State :=
  let p := s.writeFieldList s (b.base + off) r.fields data ok
  if p.2 then p.1.refuse b off else p.1

/-- The registers from lo up to hi read as after cold reset. -/
def State.resetRange (s : State) (lo hi : Nat) : State :=
  { s with
    regs := s.regs.filter (fun p => decide (p.1 < lo) || decide (hi ≤ p.1))
    pend := s.pend.filter (fun p => decide (p.1 < lo) || decide (hi ≤ p.1)) }

/-- Put the RW fields of a register at their pending values (R17). -/
def State.commitAll (s : State) (as : List Nat) : State := as.foldl (fun s a => s.commitReg a) s

/-- Clear the RC fields of a register by a read (R12). -/
def State.clearRC (s : State) (a : Nat) (fs : List FieldSpec) : State :=
  fs.foldl (fun s x => if x.acc = .rc then s.setFld ⟨a, x.hi, x.lo⟩ 0 else s) s

/-- The bits of a register that a read returns: WO fields read zero (R12); a Commit field returns
its pending value (R18). -/
def State.readValue (s : State) (a : Nat) (fs : List FieldSpec) : Word :=
  fs.foldl (fun w x =>
    if x.acc = .wo then putBits w x.hi x.lo 0
    else if x.cls = .commit then putBits w x.hi x.lo (bitsOf (s.pendReg a) x.hi x.lo)
    else w) (s.reg a)

/-! ## The presence of a block (R1, R2, R27, R524) -/

/-- The unit behind a block is there and its power domain on. -/
def State.blkPresent (s : State) (b : Blk) : Bool :=
  match b with
  | .glob => true
  | .core n => s.corePresent n
  | .bay n => s.bayPresent n
  | .lane l => s.lanePresent l
  | .timer m => s.timerPresent m
  | .timebase => s.powered 44
  | .router => s.powered 44
  | .engine e => s.enginePresent e
  | .bm => s.powered 45
  | .ledger => s.powered 45
  | .dir => s.powered 44
  | .banks => s.powered 44
  | .win => s.powered 47
  | .power => true
  | .loftCtl => true
  | .loftWin => true
  | .bridge p => s.portPresent p
  | .vct => s.powered 44
  | .hv => s.powered 44

/-! ## Writes that arrive through a window (R465, R467) -/

/-- A register of window `VCWv`, kept beside the complex's own. -/
def vcwReg (v off : Nat) : Nat := 2 ^ 48 + 0x10000 * v + off

/-- A write through a window is refused (R465). -/
def State.refuseWin (s : State) (v off : Nat) : State :=
  let c : Fld := ⟨vcwReg v 0xC, 0, 0⟩
  let s := if s.bit c then s else s.setFld ⟨vcwReg v 0xC, 31, 16⟩ (BitVec.ofNat 32 off)
  s.setBit c true

/-- Run a write of a block and say whether it was refused: `CFG_REFUSED` starts clear, and with
`REFUSED_AT`, and for a bay the event, is put back as it was (R465, R505). The write of a register that
holds `CFG_REFUSED` refuses nothing. -/
def State.watched (s : State) (b : Blk) (off : Nat) (f : State → State) : State × Bool :=
  let c := cfgRefused b off
  let at' := refusedAt b off
  if c.addr = b.base + off then (f s, false)
  else
    let s1 := f (s.setBit c false)
    let no := s1.bit c
    let s2 := (s1.setBit c (s.bit c)).setFld at' (s.fld at')
    let port (n : Nat) : State :=
      { (s2.setBit ⟨flagAddr (0x1780 + n), 3, 3⟩ (s.bit ⟨flagAddr (0x1780 + n), 3, 3⟩)) with
        toggles := Map.set 0 s2.toggles (2 * (0x1780 + n)) (Map.get 0 s.toggles (2 * (0x1780 + n))) }
    match no, b with
    | true, .bay n => (port n, true)
    | true, .lane l => (port (l / 32), true)
    | no, _ => (s2, no)

/-- A write of a register by an agent: nothing where the unit is absent (R2), and a refusal of a write
that came through a virtual complex window is reported by that window, at `APT_DATA` (R465, R467). -/
def State.atBlock (s : State) (who : Agent) (b : Blk) (off : Nat) (f : State → State) : State :=
  if !s.blkPresent b then s
  else match who with
    | .window v =>
      let p := s.watched b off f
      if p.2 then p.1.refuseWin v.val 0x2008 else p.1
    | _ => f s

/-! ## Form of an access to the control register range (R8) -/

/-- The register at an offset is named with the suffix _LO and the next word is its _HI half. -/
def isLoHalf (b : Blk) (off : Nat) : Bool :=
  match b with
  | .glob => off == 0x828 || (decide (0x900 ≤ off) && decide (off < 0xA00) && off % 8 == 0)
  | .core _ =>
    (decide (0x4000 ≤ off) && decide (off < 0x8000) && off % 0x10 == 0) ||
    (decide (0x1000 ≤ off) && decide (off < 0x2000) && off % 0x40 == 0x38)
  | .bay _ => off == 0xF08
  | .timer _ => off == 0x18 || off == 0x20 || off == 0x28
  | .timebase => off == 0x18 || off == 0x38 || off == 0x48 || off == 0x58 || off == 0x78
  | .engine _ =>
    decide (off < 0x2000) &&
      (off % 0x100 == 0x10 || off % 0x100 == 0x18 || off % 0x100 == 0x28 || off % 0x100 == 0x38)
  | .bm =>
    (decide (off < 0x1000) && (off % 0x40 == 0x8 || off % 0x40 == 0x10)) ||
    off == 0x1010 || off == 0x1018 || off == 0x2008 || off == 0x2020
  | .banks => off == 0x2010
  | .power =>
    off == 0x18 || off == 0x20 || off == 0x48 || off == 0x60 || off == 0x68 ||
    (decide (0x100 ≤ off) && decide (off < 0x200) && off % 8 == 0)
  | .vct => decide (off < 0x1000) && (off % 0x40 == 0x10 || off % 0x40 == 0x20)
  | _ => false

/-- Why an access of n bytes to the control register range is refused, as the BUS fault detail:
0x02 for its form (R8), 0x03 for an address no block decodes (R9). -/
def ctlRefusal (a n : Nat) (write : Bool) : Option Byte :=
  match blockOf a with
  | none => if a % n = 0 ∧ (n = 4 ∨ n = 8) then some 3 else some 2
  | some b =>
    if a % n ≠ 0 then some 2
    else if n = 4 then none
    else if n = 8 then
      if b = .loftWin then (if write then some 2 else none)
      else if isLoHalf b (a - b.base) then none else some 2
    else some 2

/-! ## Regions (R40 to R43) -/

/-- The regions of the complex address space. An alias carries the address it stands for (R42). -/
inductive Region where
  | bank (g : Nat)
  | aliasSet (a : Nat)
  | aliasClr (a : Nat)
  | ctl
  | remote (k : Nat)
  | system
  | unmapped
  deriving DecidableEq, Repr

/-- A bank that is present, not withdrawn and mapped. -/
def State.bankMapped (s : State) (g : Nat) : Bool := s.bankPresent g

/-- The board die number of this die (`BR_ID.SELF`, R548). -/
def State.selfDie (s : State) : Nat := (s.fld ⟨0x10C00008, 1, 0⟩).toNat

/-- The route port of die k (R553); the own number has none. -/
def State.route (s : State) (k : Nat) : Option Nat :=
  match Map.get 0 s.routes k with
  | 0 => none
  | p + 1 => if k = s.selfDie then none else some p

/-- A bridge link, and its outbound path, which an item enters by the crossing queue. -/
def State.link (s : State) (p : Nat) : LinkS := Map.get {} s.links p
def State.modLink (s : State) (p : Nat) (f : LinkS → LinkS) : State :=
  { s with links := Map.set {} s.links p (f (s.link p)) }

def State.linkPush (s : State) (p : Nat) (it : BrItem) : State :=
  s.modLink p (fun l => { l with wait := l.wait ++ [it] })

/-- The class of a flit, in the order of sending: responses, then events and messages, then requests
(R554). What the time exchange, refusals and down notices need goes with the events. -/
def BrItem.cls (it : BrItem) : Nat :=
  match it with
  | .response _ => 0
  | .request _ => 2
  | _ => 1

/-- The port sends the next item of its outbound crossing queue, which takes its place in the replay buffer
of 16 KiB, 204 flits of 80 bytes (R49, R554, R555). -/
def State.linkSend (s : State) (p : Nat) : State :=
  let l := s.link p
  match [0, 1, 2].findSome? (fun k => l.wait.find? (fun it => it.cls == k)) with
  | some it =>
    if l.out.length < 204 then
      s.modLink p (fun l => { l with wait := l.wait.erase it, out := l.out ++ [(l.seq, 0, it)], seq := l.seq + 1 })
    else s
  | none => s

/-- The die an address in a remote window lies on (R43). -/
def remoteDie (a : Nat) : Nat := a / 0x100000000 - 1
def isRemote (a : Nat) : Bool := decide (0x100000000 ≤ a) && decide (a < 0x500000000)

/-- `BANK_CTL` and `BANK_STATUS` of a bank (R308). -/
def bankCtl (g : Nat) : Nat := 0x10780000 + 8 * g
def fOwnerKind (g : Nat) : Fld := ⟨bankCtl g, 6, 4⟩
def fOwnerEngine (g : Nat) : Fld := ⟨bankCtl g, 1, 0⟩
def fDraining (g : Nat) : Fld := ⟨bankCtl g + 4, 5, 5⟩

/-- The owner in force is CORES (R302). -/
def State.coresBank (s : State) (g : Nat) : Bool := s.bankMapped g && s.fld (fOwnerKind g) == 1

/-- The region of an address in the first 64 MiB. -/
def State.memRegion (s : State) (a : Nat) : Region :=
  match bankOf a with
  | some g => if s.bankMapped g then .bank g else .unmapped
  | none => .unmapped

/-- The region of a complex address (R40); an alias of an unmapped address (R42) and the window of
the die's own number (R43) are unmapped. -/
def State.region (s : State) (a : Nat) : Region :=
  if a < 0x4000000 then s.memRegion a
  else if a < 0x8000000 then
    (match s.memRegion (a - 0x4000000) with
      | .bank _ => .aliasSet (a - 0x4000000)
      | _ => .unmapped)
  else if a < 0xC000000 then
    (match s.memRegion (a - 0x8000000) with
      | .bank _ => .aliasClr (a - 0x8000000)
      | _ => .unmapped)
  else if a < 0x10000000 then .unmapped
  else if a < 0x20000000 then .ctl
  else if a < 0x100000000 then .unmapped
  else if a < 0x500000000 then
    (let k := a / 0x100000000 - 1
     if k = s.selfDie then .unmapped else .remote k)
  else if a < 0x100000000000 then .unmapped
  else if a < 0x1000000000000 then .system
  else .unmapped

/-- The region as a thread's access is judged: a bank that CORES does not own is unmapped to it
(R304). -/
def State.threadRegion (s : State) (a : Nat) : Region :=
  let ok (x : Nat) : Bool := match bankOf x with
    | some g => s.coresBank g
    | none => false
  match s.region a with
  | .bank g => if s.coresBank g then .bank g else .unmapped
  | .aliasSet x => if ok x then .aliasSet x else .unmapped
  | .aliasClr x => if ok x then .aliasClr x else .unmapped
  | r => r

/-- The parts of an access of n bytes at a: itself, or two halves divided at the lowest multiple of
n above a (R127). Every region and bank begins at a multiple of 8, so that the boundary of R44 is that
multiple. -/
def splitParts (a n : Nat) : List (Nat × Nat) :=
  if a % n ≠ 0 then
    let m := a / n * n + n
    [(a, m - a), (m, n - (m - a))]
  else [(a, n)]

end Sys2Proof.Machine
end

