-- ==== Sys2Proof/Machine/Levels.lean ====
section
/-!
DEFINITION. The registers and typed state that the levels of router ports come from (R269, R284), and the
inputs that a level holds (R13, R276).
-/
namespace Sys2Proof.Machine

/-! ## Lanes (R204) -/

def laneReg (l off : Nat) : Nat := 0x10340000 + l * 0x10 + off
def fDriver (l : Nat) : Fld := ⟨laneReg l 0, 3, 0⟩
def fStaticOut (l : Nat) : Fld := ⟨laneReg l 0, 4, 4⟩
def fStaticOe (l : Nat) : Fld := ⟨laneReg l 0, 5, 5⟩
def fInvIn (l : Nat) : Fld := ⟨laneReg l 0, 9, 9⟩
def fSafe (l : Nat) : Fld := ⟨laneReg l 4, 9, 8⟩
def fNew (l : Nat) : Fld := ⟨laneReg l 0xC, 26, 26⟩

def State.lane (s : State) (l : Nat) : LaneS := Map.get {} s.lanes l
def State.modLane (s : State) (l : Nat) (f : LaneS → LaneS) : State :=
  { s with lanes := Map.set {} s.lanes l (f (s.lane l)) }

/-- The lane's input: the filter's output with INV_IN. -/
def State.laneIn (s : State) (l : Nat) : Bool := (s.lane l).pad != s.bit (fInvIn l)

/-! ## Bays and sequencers (R209, R210) -/

def bayReg (n off : Nat) : Nat := 0x10300000 + n * 0x1000 + off
def seqReg (n k off : Nat) : Nat := bayReg n (0x100 + 0x40 * k + off)
def fSeqState (n k : Nat) : Fld := ⟨seqReg n k 4, 2, 0⟩

def sqStopped : Word := 0
def sqRunning : Word := 1
def sqWaiting : Word := 2
def sqStalled : Word := 3
def sqFaulted : Word := 4

def State.seq (s : State) (n k : Nat) : SeqS := Map.get {} s.seqs (8 * n + k)
def State.modSeq (s : State) (n k : Nat) (f : SeqS → SeqS) : State :=
  { s with seqs := Map.set {} s.seqs (8 * n + k) (f (s.seq n k)) }

/-! ## Fault collection, timebase, timers (R240, R249, R527) -/

/-- `FAULT_SAFE` is asserted (R527). -/
def fFaultSafe : Fld := ⟨0x10808000, 0, 0⟩

def tbReg (off : Nat) : Nat := 0x10480000 + off
def fEpoch : Fld := ⟨tbReg 4, 15, 0⟩
def fGoAtEn : Fld := ⟨tbReg 0x74, 0, 0⟩
def tmrReg (m off : Nat) : Nat := 0x10400000 + m * 0x40 + off
def fLevel (m c : Nat) : Fld := ⟨tmrReg m 8, 2 + c, 2 + c⟩

/-! ## Bridge ports (R548) -/

def brReg (p off : Nat) : Nat := 0x10C00000 + p * 0x10000 + off
def fLinkState (p : Nat) : Fld := ⟨brReg p 4, 2, 0⟩
def fPartner (p : Nat) : Fld := ⟨brReg p 4, 5, 4⟩
def fLinkVer (p : Nat) : Fld := ⟨brReg p 4, 9, 8⟩
def linkDownSt : Word := 0
def linkTraining : Word := 1
def linkUpSt : Word := 2
def linkFailed : Word := 3

/-- The port is UP. -/
def State.linkIsUp (s : State) (p : Nat) : Bool := s.portPresent p && s.fld (fLinkState p) == linkUpSt

/-! ## Levels and the inputs they hold (R269, R271, R276) -/

/-- The port has the signal that KIND names: 0 event A, 1 event B, 2 and 3 the level (the dashes of
R269). -/
def hasSignal (port kind : Nat) : Bool :=
  let a := decide (kind = 0)
  let b := decide (kind = 1)
  let l := decide (2 ≤ kind)
  if port < 0x400 then true
  else if port < 0x800 then
    (if port % 4 < 2 then a || b else if port % 4 = 2 then true else a || l)
  else if port < 0x1000 then true
  else if port < 0x1600 then a || b
  else if port < 0x1700 then a || l
  else if port < 0x1780 then true
  else if port < 0x17A0 then a || b
  else if port = 0x17A0 then true
  else if port = 0x17A1 then a || l
  else if port = 0x17A2 then a || b
  else if port = 0x17A3 then false
  else if port < 0x17A8 then a || l
  else if port < 0x17AC then a || b
  else if port = 0x17AC then a || l
  else if port = 0x17AD then a || b
  else if port = 0x17AE then a
  else if port = 0x17AF then false
  else decide (port < 0x17B4)

/-- `ENG_ACTIVE` of an engine: its channels that are ACTIVE or ABORTING (R374). -/
def State.engActive (s : State) (e : Nat) : Word :=
  (List.range 32).foldl (fun w k =>
    let st := s.fld ⟨0x10600004 + e * 0x10000 + 0x100 * k, 1, 0⟩
    if st = 1 ∨ st = 2 then w ||| ((1 : Word) <<< k) else w) 0

/-- The present level of a port; false for one without (R269, R284). -/
def State.portLevel (s : State) (port : Nat) : Bool :=
  if !hasSignal port 2 then false
  else if port < 0x400 then s.laneIn port
  else if port < 0x800 then
    (let q := port - 0x400
     if q % 4 = 2 then !(s.seq (q / 32) (q / 4 % 8)).rx.isEmpty
     else s.fld (fSeqState (q / 32) (q / 4 % 8)) == sqFaulted)
  else if port < 0x1000 then s.bit (fLevel ((port - 0x800) / 2) (port % 2))
  else if port < 0x1700 then Map.get false s.inLevels (port - 0x1600)
  else if port < 0x1780 then
    (let c := port - 0x1700
     s.fld ⟨0x10600004 + c / 32 * 0x10000 + 0x100 * (c % 32), 1, 0⟩ == 1)
  else if port = 0x17A0 then s.bit ⟨tbReg 4, 17, 17⟩
  else if port = 0x17A1 then s.bit fGoAtEn
  else if port < 0x17A8 then s.engActive (port - 0x17A4) != 0
  else if port = 0x17AC then s.bit fFaultSafe
  else s.linkIsUp (port - 0x17B0)

/-- The consumer input is there (R2, R48, R560). -/
def State.inputPresent (s : State) (x : Nat) : Bool :=
  s.powered 44 &&
  (if x < 8192 then s.corePresent (x / 256)
  else if x < 10240 then s.timerPresent ((x - 8192) / 2)
  else if x < 10752 then s.bayPresent ((x - 10240) / 16)
  else if x < 11008 then s.chanPresent ((x - 10752) / 2)
  else if x < 11520 then true
  else s.anyPort)

/-- The level an input in level mode follows. -/
def State.selLevel (s : State) (x : Nat) : Bool :=
  let w := s.reg (selAddr x)
  s.portLevel (bitsOf w 12 0).toNat != w.getLsbD 13

/-- An input in level mode is held by a level of 1, so that it is set again in each cycle: a W1C write loses
to the set (R13, R276, R294). -/
def State.levelHeld (s : State) (x : Nat) : Bool :=
  (s.reg (selAddr x)).getLsbD 15 && (s.reg (selAddr x)).getLsbD 14 && s.inputPresent x && s.selLevel x

end Sys2Proof.Machine
end

