-- ==== Sys2Proof/Machine/Threads.lean ====
section
/-!
DEFINITION. Threads: their control registers and general registers, the complement domain of a twin
shadow, segments and the access checks, contract breaks, faults raised and taken, instruction
boundaries, the return stack, hardware loops, and the thread commands.
-/
namespace Sys2Proof.Machine

/-! ## Registers of a thread (R63, R68, R117) -/

/-- Base of the core block of a thread. -/
def coreBase (gt : Nat) : Nat := 0x10100000 + (gt / 64) * 0x10000
/-- Register set, configuration set and segment set of a thread. -/
def tReg (gt off : Nat) : Nat := coreBase gt + 0x1000 + 0x40 * (gt % 64) + off
def tCfg (gt off : Nat) : Nat := coreBase gt + 0x2000 + 0x20 * (gt % 64) + off
def tSeg (gt i off : Nat) : Nat := coreBase gt + 0x4000 + 0x100 * (gt % 64) + 0x10 * i + off

/-- Fields of `THREAD_STATUS` (R69). -/
def fState (gt : Nat) : Fld := ⟨tReg gt 0x04, 2, 0⟩
def fInHandler (gt : Nat) : Fld := ⟨tReg gt 0x04, 3, 3⟩
def fHinput (gt : Nat) : Fld := ⟨tReg gt 0x04, 5, 4⟩
def fHaltCause (gt : Nat) : Fld := ⟨tReg gt 0x04, 7, 6⟩
def fBroken (gt : Nat) : Fld := ⟨tReg gt 0x04, 8, 8⟩
def fPriorWait (gt : Nat) : Fld := ⟨tReg gt 0x04, 10, 10⟩
/-- Fields of the other thread registers. -/
def fXpad (gt : Nat) : Fld := ⟨tReg gt 0x10, 7, 4⟩
def fTrap (gt : Nat) : Fld := ⟨tReg gt 0x10, 1, 1⟩
def fDet (gt : Nat) : Fld := ⟨tReg gt 0x10, 0, 0⟩
def fContract (gt : Nat) : Fld := ⟨tReg gt 0x14, 15, 0⟩
def fHen (gt : Nat) : Fld := ⟨tReg gt 0x18, 3, 0⟩
def fPend (gt : Nat) : Fld := ⟨tReg gt 0x1C, 3, 0⟩
def fVector (gt : Nat) : Fld := ⟨tReg gt 0x20, 31, 6⟩
def fBeats (gt : Nat) : Fld := ⟨tReg gt 0x24, 31, 0⟩
def fIcmiss (gt : Nat) : Fld := ⟨tReg gt 0x28, 31, 0⟩
def fPairSplit (gt : Nat) : Fld := ⟨tReg gt 0x2C, 31, 0⟩
def fInFault (gt : Nat) : Fld := ⟨tCfg gt 0, 8, 8⟩
def fRsTrap (gt : Nat) : Fld := ⟨tCfg gt 0, 4, 4⟩
def fCurLead (gt : Nat) : Fld := ⟨tCfg gt 0, 1, 1⟩
def fLeadAllowed (gt : Nat) : Fld := ⟨tCfg gt 0, 0, 0⟩
def fFaultBase (gt : Nat) : Fld := ⟨tCfg gt 4, 31, 6⟩
def fFaultEnable (gt : Nat) : Fld := ⟨tCfg gt 4, 0, 0⟩
def fWrapped (gt : Nat) : Fld := ⟨tCfg gt 0x10, 4, 4⟩

/-- Codes of STATE (R69). -/
def stIdle : Word := 0
def stReady : Word := 1
def stWait : Word := 2
def stHalted : Word := 3
def stFrozen : Word := 4
def stFaulted : Word := 5

/-- A thread's typed part. -/
def State.thread (s : State) (gt : Nat) : Thread := Map.get {} s.threads gt
def State.setThread (s : State) (gt : Nat) (t : Thread) : State :=
  { s with threads := Map.set {} s.threads gt t }
def State.modThread (s : State) (gt : Nat) (f : Thread → Thread) : State :=
  s.setThread gt (f (s.thread gt))

/-! ## General registers and flags; the complement domain (R111, R170, R423) -/

/-- The thread is a twin shadow. -/
def Thread.isShadow (t : Thread) : Bool :=
  match t.twin with
  | some (_, b) => b
  | none => false

/-- The plain value of a general register: g0 is zero (R111); a shadow holds complements (R423). -/
def Thread.rd (t : Thread) (r : Reg) : Word :=
  if r = 0 then 0
  else if t.isShadow then ~~~ (Map.get 0 t.g r.toNat) else Map.get 0 t.g r.toNat

/-- Write the plain value of a general register; a write to g0 is discarded (R111). -/
def Thread.wr (t : Thread) (r : Reg) (v : Word) : Thread :=
  if r = 0 then t
  else { t with g := Map.set 0 t.g r.toNat (if t.isShadow then ~~~ v else v) }

/-- An even register pair, low half in the even register (R111). -/
def Thread.rdPair (t : Thread) (r : Reg) : BitVec 64 := Word.pair (t.rd r) (t.rd (r + 1))
def Thread.wrPair (t : Thread) (r : Reg) (v : BitVec 64) : Thread :=
  (t.wr r (Word.lo v)).wr (r + 1) (Word.hi v)

/-- The four flags as plain values. -/
structure Flags where
  n : Bool
  z : Bool
  c : Bool
  v : Bool
  deriving DecidableEq, Repr

/-- The plain flags of a thread; a shadow holds complements (R170). -/
def Thread.flags (t : Thread) : Flags :=
  let x := t.isShadow
  ⟨t.fn != x, t.fz != x, t.fc != x, t.fv != x⟩

/-- Write all four flags. -/
def Thread.setFlags (t : Thread) (fl : Flags) : Thread :=
  let x := t.isShadow
  { t with fn := fl.n != x, fz := fl.z != x, fc := fl.c != x, fv := fl.v != x }

/-! ## Slots (R56, R58) -/

/-- Slots of the live table that a thread owns. -/
def State.slotsOwned (s : State) (gt : Nat) : Nat :=
  let base := coreBase gt + 0x200
  (s.regs.filter (fun p => decide (base ≤ p.1) && decide (p.1 < base + 0x100) &&
    p.2.getLsbD 31 && decide ((bitsOf p.2 5 0).toNat = gt % 64))).length

/-- Core n runs in rename mode, and its slot table has no effect (R77). -/
def State.renaming (s : State) (n : Nat) : Bool := s.bit ⟨0x10100000 + n * 0x10000 + 0x84, 0, 0⟩

/-- The thread that runs on a core in rename mode. -/
def State.renameThread (s : State) (n : Nat) : Nat :=
  (s.fld ⟨0x10100000 + n * 0x10000 + 0x80, 5, 0⟩).toNat

/-- The core issues for the thread at all: it is present, not under self-test (R445), not paused for a
clock change (R521), and either runs the thread in rename mode (R77) or gives it a slot of the live
table (R56). -/
def State.hasBeats (s : State) (gt : Nat) : Bool :=
  s.corePresent (gt / 64) && !(s.selfTest.contains (gt / 64)) && s.mode.clocks.isEmpty &&
  (if s.renaming (gt / 64) then decide (s.renameThread (gt / 64) = gt % 64)
   else decide (0 < s.slotsOwned gt))

/-! ## Twin records (R433, R434) -/

/-- One CRCR step of R190 over n data bits with state width w: reflected, least significant bit
first. -/
def crcrStep (w n : Nat) (p st dat : Nat) : Nat :=
  (List.range n).foldl (fun st i =>
    let fb := (st ^^^ (dat >>> i)) % 2
    let st := st / 2
    if fb = 1 then st ^^^ p else st) (st % 2 ^ w)

/-- Step a record byte into the accumulator; a shadow steps its complement. -/
def Thread.sigByte (t : Thread) (b : Byte) : Thread :=
  let b := if t.isShadow then ~~~ b else b
  { t with
    sig := BitVec.ofNat 32 (crcrStep 32 8 0x82F63B78 t.sig.toNat b.toNat)
    winBytes := t.winBytes + 1 }

/-- Form a record of a twin member: tag and bytes (R433); no other thread forms any. -/
def Thread.record (t : Thread) (bs : List Byte) : Thread :=
  if t.twin.isSome then bs.foldl Thread.sigByte t else t

/-- Tag 0x02: a control transfer taken to an offset in s7. -/
def recTransfer (target : Word) : List Byte := [2, 0, 0, 0] ++ toBytes 4 target.toNat

/-! ## Contract breaks (R94, R95) -/

/-- The thread is in deterministic mode. -/
def State.det (s : State) (gt : Nat) : Bool := s.bit (fDet gt)

/-- One contract break: `CONTRACT_COUNT` and CONTRACT_BROKEN. -/
def State.countBreak (s : State) (gt : Nat) : State :=
  (s.countUp (fContract gt)).setBit (fBroken gt) true

/-- Count one contract break of a deterministic thread; with TRAP set, a CONTRACT fault falls due at
its next boundary. `at` is the breaking instruction's address, none where no instruction broke. Of two
breaks before one boundary FAULT_OPPC names the first: the spec does not say whose address it holds
(DESIGN CHOICE, log 71). -/
def State.contractBreak (s : State) (gt : Nat) (at' : Option Word) : State :=
  if s.det gt then
    let s := s.countBreak gt
    if s.bit (fTrap gt) then
      s.modThread gt (fun t => if t.broke.isSome then t else { t with broke := some at' })
    else s
  else s

/-- The break of an instruction that is held back is counted once for each time it is held (R51). -/
def State.holdBreak (s : State) (gt : Nat) : State :=
  if (s.thread gt).held then s
  else (if s.det gt then s.countBreak gt else s).modThread gt (fun t => { t with held := true })

/-- An instruction that was held back completes: with TRAP set its break falls due as a CONTRACT fault
only now, so that the fault follows the breaking instruction (R95). -/
def State.heldBreak (s : State) (gt : Nat) : State :=
  let t := s.thread gt
  if t.held && s.det gt && s.bit (fTrap gt) && t.broke.isNone then
    s.setThread gt { t with broke := some (some t.pc) }
  else s

/-! ## Hardware loops (R139 to R142) -/

/-- Loop register k. -/
def Thread.loop (t : Thread) (k : Nat) : Loop :=
  if k = 0 then t.lp0 else if k = 1 then t.lp1 else t.lp2
def Thread.setLoop (t : Thread) (k : Nat) (l : Loop) : Thread :=
  if k = 0 then { t with lp0 := l } else if k = 1 then { t with lp1 := l } else { t with lp2 := l }

/-- Some active loop ends at an address. -/
def Thread.atLoopEnd (t : Thread) (pc : Word) : Bool :=
  [t.lp0, t.lp1, t.lp2].any (fun l => l.active && l.stop == pc)

/-- What follows the instruction at an active loop's end (R140, R141): the highest-numbered loop
first; none where no loop ends there. Instructions are word-aligned, so the low bits of a start address
that a loop move wrote are ignored (log 72). -/
def Thread.loopBack (t : Thread) (pc : Word) (ks : List Nat) : Thread × Option Word :=
  match ks with
  | [] => (t, none)
  | k :: r =>
    let l := t.loop k
    if l.active ∧ l.stop = pc then
      if 1 < l.count then (t.setLoop k { l with count := l.count - 1 }, some (l.start &&& ~~~ 3))
      else
        let t := t.setLoop k { l with count := 0, active := false }
        match Thread.loopBack t pc r with
        | (t', some x) => (t', some x)
        | (t', none) => (t', some (pc + 4))
    else Thread.loopBack t pc r

/-- The address the successor of the instruction at pc has: its loop's, or npc. -/
def Thread.successor (t : Thread) : Word :=
  if t.inDelay then t.npc
  else match (t.loopBack t.pc [2, 1, 0]).2 with
    | some x => x
    | none => t.npc

/-- Why arming loop k with a range is refused (R142): 0x01 order, 0x02 nesting. -/
def Thread.loopFault (t : Thread) (k : Nat) (start stop : Word) : Option Byte :=
  if stop < start then some 1
  else if (List.range 3).any (fun j => decide (j < k) && (t.loop j).active &&
      !(decide ((t.loop j).start ≤ start) && decide (stop ≤ (t.loop j).stop))) then some 2
  else if (List.range 3).any (fun j => decide (k < j) && (t.loop j).active) then some 2
  else none

/-! ## The return stack (R136 to R138) -/

/-- A push: none where RS is full and RS_TRAP is 1 (R137); a push onto a full RS with RS_TRAP 0
drops the oldest entry and sets WRAPPED (R136). -/
def State.push (s : State) (gt : Nat) (v : Word) : Option State :=
  let t := s.thread gt
  if 8 ≤ t.rs.length then
    if s.bit (fRsTrap gt) then none
    else some ((s.setThread gt { t with rs := v :: t.rs.take 7 }).setBit (fWrapped gt) true)
  else some (s.setThread gt { t with rs := v :: t.rs })

/-- A pop: none where RS is empty (R138). -/
def State.pop (s : State) (gt : Nat) : Option (Word × State) :=
  let t := s.thread gt
  match t.rs with
  | [] => none
  | v :: r => some (v, s.setThread gt { t with rs := r })

/-! ## Faults (R150 to R157) -/

/-- A fault at the present instruction, precise. Every field of the record is written (R153): SEG of a
fault that names no segment and FAULT_OPPC of one that is neither imprecise nor CONTRACT 0x02 are 0, for
which the spec gives no value (DESIGN CHOICE, log 73). -/
def precise (cls : BitVec 4) (detail : Byte) : FaultRec :=
  ⟨cls, detail, 0, 0, 0, false, false, false, false, false, false, 0, 0, 0⟩

/-- Raise a fault: the record's addresses are those of the instruction at pc (R135, R150). A thread
that waits leaves its waiting instruction, which is the one not yet executed. -/
def State.raise (s : State) (gt : Nat) (r : FaultRec) : State :=
  let t := s.thread gt
  let r := { r with pc := t.pc, npc := t.successor, inDelay := t.inDelay }
  let s := s.setThread gt { t with raised := some r, waiting := none, pairOpen := none, held := false, noEntry := false }
  if s.fld (fState gt) = stWait then s.setFld (fState gt) stReady else s

/-- The FAULT_INFO word of a fault as it is taken (R153). -/
def State.faultInfo (s : State) (gt : Nat) (r : FaultRec) : Word :=
  let b (x : Bool) (i : Nat) : Nat := if x then 2 ^ i else 0
  BitVec.ofNat 32 (2 ^ 31 + b r.imprecise 30 + b r.atSettle 29 + b r.inDelay 28 + b r.partialSt 27 +
    b r.second 26 + b r.extra 25 + b (s.bit (fInFault gt)) 24 + b (s.bit (fCurLead gt)) 23 +
    b (s.bit (fInHandler gt)) 22 + r.cls.toNat * 2 ^ 16 + r.seg.toNat * 2 ^ 13 +
    r.acc.toNat * 2 ^ 10 + r.detail.toNat)

/-- Write the whole fault record (R153). -/
def State.writeRecord (s : State) (gt : Nat) (r : FaultRec) : State :=
  let s := s.setReg (tReg gt 0x30) (s.faultInfo gt r)
  let s := s.setReg (tReg gt 0x34) (r.pc &&& ~~~ 3)
  let s := s.setReg (tReg gt 0x38) (r.addr.setWidth 32)
  let s := s.setReg (tReg gt 0x3C) (BitVec.ofNat 32 (r.addr.toNat / 2 ^ 32))
  let s := s.setReg (tCfg gt 8) (r.npc &&& ~~~ 3)
  s.setReg (tCfg gt 0xC) (r.oppc &&& ~~~ 3)

/-- What a thread that stops leaves of what it had under way: its long operations complete and their
results are discarded, far stores among them; of a split store the half still to come is performed
(R76, R145). -/
def Thread.dropped (t : Thread) : Thread :=
  { t with
    ops := [], stores := (t.stores.filter (fun o => o.rest.isSome)).map (fun o => { o with quiet := true })
    waiting := none, pairOpen := none, raised := none, late := [], broke := none, twinStop := none
    haltReq := none, stopReq := false, freezeReq := false, stepping := false, held := false, noEntry := false
    ahead := none }

/-- The thread enters FAULTED: its long operations complete and their results are discarded (R76,
R157). -/
def State.enterFaulted (s : State) (gt : Nat) : State :=
  (s.modThread gt (fun t => t.dropped)).setFld (fState gt) stFaulted

/-- A twin member that a mismatch stops: its record is written and it enters FAULTED whatever its
handler, with no signature record (R442). -/
def State.takeTwin (s : State) (gt : Nat) (r : FaultRec) : State :=
  ((s.writeRecord gt r).enterFaulted gt).present (0x1200 + gt / 2) (gt % 2 == 1) 0

/-- Take a raised fault (R156, R157): write the record, and enter the handler, or stop the thread in
FAULTED, present its fault producer and report it to fault collection. -/
def State.takeFault (s : State) (gt : Nat) (r : FaultRec) : State :=
  if r.cls = 8 then s.takeTwin gt r else
  let s1 := s.modThread gt (fun t =>
    t.record ([5, BitVec.ofNat 8 r.cls.toNat, r.detail, 0] ++ toBytes 4 (r.pc &&& ~~~ 3).toNat))
  let s2 := s1.writeRecord gt r
  if s.bit (fFaultEnable gt) ∧ !s.bit (fInFault gt) then
    let s3 := (s2.setBit (fInFault gt) true).setFld (fCurLead gt) (s.fld (fLeadAllowed gt))
    let pc := s.fld (fFaultBase gt) * 64
    (s3.modThread gt (fun t => { t with
      raised := none, pc := pc, npc := pc + 4, inDelay := false, pairOpen := none })).countWrap (fBeats gt)
  else
    let s3 := s2.enterFaulted gt
    let s4 := s3.present (0x1200 + gt / 2) (gt % 2 == 1) 0
    s4.faultMinor

/-- The record of late errors as one fault: the operation issued first, EXTRA when there are more
(R150 to R152). -/
def lateFault (r : FaultRec) (rest : Map FaultRec) (atSettle : Bool) : FaultRec :=
  { r with imprecise := true, atSettle := atSettle, extra := !rest.isEmpty }

/-! ## Boundaries (R73, R95, R100, R102, R103, R150) -/

/-- The thread is at an instruction boundary: not between a branch and its delay slot, nor between
the halves of a pair. -/
def Thread.boundary (t : Thread) : Bool :=
  !t.inDelay && (match t.pairOpen with | some (.pair _ _ _) => false | _ => true)

/-- Every long operation has retired, stores to far places and split ones included (R73, R145). -/
def Thread.longDone (t : Thread) : Bool := t.ops.isEmpty && t.stores.all (fun o => o.quiet || !o.long)

/-! ## Stopping, and own register writes and their settle distance (R105, R126) -/

/-- A thread counts as stopped for a Stopped-only field of its sets: IDLE, HALTED, FAULTED (R91),
and for the fields of the programming model FROZEN too (R119). -/
def State.threadStopped (s : State) (gt : Nat) (frozenToo : Bool) : Bool :=
  let st := s.fld (fState gt)
  st == stIdle || st == stHalted || st == stFaulted || (frozenToo && st == stFrozen)

/-- Class and rule checks of a write to a field of the thread sets. -/
def State.threadFieldOk (s : State) (who : Agent) (gt off : Nat) (x : FieldSpec) (new : Word) : Bool :=
  (match x.cls with
    | .stopped => s.threadStopped gt (decide (0x2000 ≤ off))
    | _ => true) &&
  -- LEAD_ALLOWED only through the Manager window (R119)
  (!(decide (0x2000 ≤ off) && (off - 0x2000) % 0x20 == 0 && x.lo == 0) || isManager who) &&
  -- no bit of HEN is set in a running twin member (R426)
  (!(decide (off < 0x2000) && off % 0x40 == 0x18 && (s.thread gt).twin.isSome) ||
    (new &&& ~~~ (s.fld (fHen gt)) == 0))

/-- The inputs of a thread that a level holds: a W1C write of `EVT_PENDING` loses to it (R13, R276). -/
def State.levelInputs (s : State) (gt : Nat) : Word :=
  (List.range 4).foldl (fun w i => if s.levelHeld (selThread gt i) then w ||| ((1 : Word) <<< i) else w) 0

/-- A write to a register of a thread's register set or configuration set that holds no command. -/
def State.writeThreadRow (s : State) (who : Agent) (gt off : Nat) (data : Word) : State :=
  if off < 0x2000 ∧ off % 0x40 = 0 then s
  else match (Blk.core (gt / 64)).row off with
    | none => s
    | some r =>
      let data := if off < 0x2000 ∧ off % 0x40 = 0x1C then data &&& ~~~ (s.levelInputs gt) else data
      s.writeRow (.core (gt / 64)) off r data (s.threadFieldOk who gt off)

/-- A thread as the agent of its own writes. -/
def ownAgent (gt : Nat) : Agent := .thread (BitVec.toFin (BitVec.ofNat 11 gt))

/-- The s7 that a SETSEG gave comes into force (R126). It was contained in the ceiling when SETSEG
executed and is not judged again: where the manager has narrowed ceiling 7 meanwhile the spec is silent
(DESIGN CHOICE, log 74). -/
def State.setSeg7 (s : State) (gt : Nat) (base : BitVec 48) (limit rights : Word) : State :=
  let s := s.setReg (tSeg gt 7 0) (base.setWidth 32)
  let s := s.setReg (tSeg gt 7 4) (BitVec.ofNat 32 (base.toNat / 2 ^ 32))
  let s := s.setReg (tSeg gt 7 8) limit
  s.setReg (tSeg gt 7 0xC) rights

/-- A delayed write of a stopped thread acts; one of its own commands no longer does. -/
def State.settleDelayed (s : State) (gt : Nat) (d : Delayed) : State :=
  match d with
  | .reg a v => s.writeThreadRow (ownAgent gt) gt (a - coreBase gt) v
  | .seg7 base limit rights => s.setSeg7 gt base limit rights

/-- Every delayed write acts: the thread has stopped (R76). -/
def State.flushDelayed (s : State) (gt : Nat) : State :=
  let all := (s.thread gt).delayed
  let s := s.modThread gt (fun t => { t with delayed := [] })
  all.foldl (fun s p => s.settleDelayed gt p.2) s

/-- A stop at once (R72, R76, R102): long operations complete and their results are discarded. -/
def State.stopThread (s : State) (gt : Nat) : State :=
  let s := s.modThread gt (fun t => { t.dropped with inDelay := false })
  let s := s.setFld (fHaltCause gt) 0
  let s := s.setBit (fPriorWait gt) false
  s.setFld (fState gt) stIdle

/-- The same, and the thread's own writes settle: no instruction of it follows (R105). -/
def State.stopNow (s : State) (gt : Nat) : State := (s.stopThread gt).flushDelayed gt

/-! ## What falls due at a boundary -/

/-- HALT or a debug halt is taken (R74). -/
def State.haltNow (s : State) (gt : Nat) (debug : Bool) : State :=
  let w := decide (s.fld (fState gt) = stWait)
  let s := s.modThread gt (fun t => { t with
    haltReq := none, waiting := none, stepping := false, held := false
    pairOpen := if t.waiting.isSome then none else t.pairOpen })
  let s := s.setFld (fState gt) stHalted
  let s := s.setFld (fHaltCause gt) (if debug then 2 else 1)
  s.setBit (fPriorWait gt) w

/-- The freeze of a thread's virtual complex is of the capture form, which does not wait for stores
(R472). -/
def State.freezeCaptures (s : State) (gt : Nat) : Bool :=
  match s.owner (ownThread gt) with
  | some v => (Map.get {} s.vcs v).capture
  | none => false

/-- A freeze is taken (R472). -/
def State.freezeNow (s : State) (gt : Nat) : State :=
  let w := s.fld (fState gt) == stWait || s.bit (fPriorWait gt)
  let s := s.modThread gt (fun t => { t with
    freezeReq := false, waiting := none, held := false
    pairOpen := if t.waiting.isSome then none else t.pairOpen })
  let s := (s.setFld (fHaltCause gt) 0).setBit (fPriorWait gt) w
  s.setFld (fState gt) stFrozen

/-- The freeze asked of a thread may be taken at a boundary (R472). -/
def State.freezeDue (s : State) (gt : Nat) : Bool :=
  let t := s.thread gt
  t.freezeReq && t.ops.isEmpty && (t.stores.isEmpty || s.freezeCaptures gt)

/-- What falls due at a boundary of a READY or WAIT thread (a HALTED one, at a boundary already, only
freezes): a STOP that awaits it (R71), before all else (log 75); then in the order of R103 a fault raised by
a mismatch, a contract break or a late error, then the freeze, then HALT. An imprecise fault of an earlier long
operation comes first (R155); a twin member keeps it for SETTLE or SEAL (R432). -/
def State.atBoundary (s : State) (gt : Nat) : State :=
  let t := s.thread gt
  if !(s.fld (fState gt) == stReady || s.fld (fState gt) == stWait) then
    (if s.fld (fState gt) = stHalted ∧ s.freezeDue gt then s.freezeNow gt else s)
  else if !t.boundary then s
  else if t.stopReq then s.stopNow gt
  else if t.raised.isSome then s
  else if t.twinStop.isSome then s.raise gt (precise 8 (t.twinStop.getD 1))
  else match t.late, t.twin with
    | r :: rest, none =>
      let st := decide (t.waiting = some .settle)
      (s.setThread gt { t with late := [] }).raise gt (lateFault r.2 rest st)
    | _, _ =>
      match t.broke with
      | some at' =>
        (s.setThread gt { t with broke := none }).raise gt
          { precise 7 2 with oppc := at'.getD t.pc }
      | none =>
        if s.freezeDue gt then s.freezeNow gt
        else match t.haltReq with
          | some d => if t.longDone then s.haltNow gt d else s
          | none => s

/-- A handler entry falls due: a pending enabled input at a boundary, outside handlers (R100, R101,
R156). -/
def State.handlerDue (s : State) (gt : Nat) : Bool :=
  let t := s.thread gt
  t.boundary && !t.noEntry && !s.bit (fInHandler gt) && !s.bit (fInFault gt) &&
  s.fld (fPend gt) &&& s.fld (fHen gt) != 0

/-- The lowest-numbered input of a non-empty mask (R99, R100). -/
def lowestInput (m : Word) : Nat :=
  if m.getLsbD 0 then 0 else if m.getLsbD 1 then 1 else if m.getLsbD 2 then 2 else 3

/-- A thread consumes the event on an input: PEND is cleared and the carried hop becomes the event's
plus one (R99, R100, R280). -/
def State.consume (s : State) (gt i : Nat) : State :=
  let s := s.setFld (fPend gt) (s.fld (fPend gt) &&& ~~~ ((1 : Word) <<< i))
  s.modThread gt (fun t => { t with hop := min 8 (Map.get 0 t.evHop i + 1) })

/-! ## Thread commands (R70 to R76, R112) -/

/-- Clear a thread's inbox and advance its role generation (R288). -/
def State.newRole (s : State) (gt : Nat) : State :=
  let role : Fld := ⟨0x10518000 + 8 * gt, 11, 0⟩
  (s.countWrap role).modThread gt (fun t => { t with inbox := [] })

/-- The owner entry names a FREE virtual complex, so that START is refused (R452). -/
def State.ownerFree (s : State) (gt : Nat) : Bool :=
  let b := s.ownByte (ownThread gt)
  b &&& 0x80 != 0 && (s.owner (ownThread gt)).isNone

/-- What START does to an IDLE thread (R75, R112, R261, R280, R288). -/
def State.startThread (s : State) (gt : Nat) : State :=
  let entry := s.reg (tReg gt 0x08) &&& ~~~ 3
  let s := s.modThread gt (fun t =>
    { t with
      pc := entry, npc := entry + 4, inDelay := false, rs := []
      lp0 := { t.lp0 with active := false }
      lp1 := { t.lp1 with active := false }
      lp2 := { t.lp2 with active := false }
      fn := false, fz := false, fc := false, fv := false
      waiting := none, pairOpen := none, raised := none, late := [], broke := none, twinStop := none
      haltReq := none, stopReq := false, freezeReq := false, stepping := false, held := false
      ahead := none, shadowHi := 0, hop := 0, evHop := [], noEntry := false })
  let s := s.setFld (fPend gt) 0
  let s := s.setBit (fInHandler gt) false
  let s := s.setBit (fInFault gt) false
  let s := s.setFld (fCurLead gt) (s.fld (fLeadAllowed gt))
  let s := s.setBit (fWrapped gt) false
  let s := s.newRole gt
  s.setFld (fState gt) stReady

/-- Command START (R72); until release only on a core in rename mode (R483). -/
def State.cmdStart (s : State) (gt : Nat) (off : Nat) : State :=
  if s.fld (fState gt) = stIdle then
    if s.ownerFree gt ∨ (s.unreleased ∧ !s.renaming (gt / 64)) then s.refuse (.core (gt / 64)) off else s.startThread gt
  else s.refuse (.core (gt / 64)) off

/-- Command HALT, or a debug halt (R72, R73, R102): at once at a boundary with no long operation
outstanding, otherwise when both hold. -/
def State.cmdHalt (s : State) (gt : Nat) (off : Nat) (debug : Bool) : State :=
  let st := s.fld (fState gt)
  if st = stReady ∨ st = stWait then
    (s.modThread gt (fun t => { t with haltReq := some debug })).atBoundary gt
  else if st = stFrozen ∨ st = stFaulted then s.refuse (.core (gt / 64)) off
  else s

/-- Command RESUME (R72, R74); an error that arrived while the thread was HALTED is raised at the boundary
it stands at (R150). -/
def State.cmdResume (s : State) (gt : Nat) (off : Nat) : State :=
  let st := s.fld (fState gt)
  if st = stHalted then
    let s := s.setFld (fState gt) stReady
    let s := s.setFld (fHaltCause gt) 0
    (s.setBit (fPriorWait gt) false).atBoundary gt
  else if st = stReady ∨ st = stWait then s
  else s.refuse (.core (gt / 64)) off

/-- Command STOP (R71, R72): a READY thread stops at its first boundary; one that waits stops at once,
in a delay slot too (R102). -/
def State.cmdStop (s : State) (gt : Nat) (off : Nat) : State :=
  let st := s.fld (fState gt)
  if st = stFrozen then s.refuse (.core (gt / 64)) off
  else if st = stIdle then s
  else if st = stReady ∧ !(s.thread gt).boundary then s.modThread gt (fun t => { t with stopReq := true })
  else s.stopNow gt

/-- A write of `THREAD_CTL`: one command bit, or a refusal when more than one is set (R70). -/
def State.writeThreadCtl (s : State) (gt : Nat) (data : Word) : State :=
  let off := 0x1000 + 0x40 * (gt % 64)
  let d := data &&& 0xF
  if d = 1 then s.cmdStart gt off
  else if d = 2 then s.cmdHalt gt off false
  else if d = 4 then s.cmdResume gt off
  else if d = 8 then s.cmdStop gt off
  else if d = 0 then s
  else s.refuse (.core (gt / 64)) off

/-- A write to a register of a thread's register set or configuration set. -/
def State.writeThreadSet (s : State) (who : Agent) (gt off : Nat) (data : Word) : State :=
  if off < 0x2000 ∧ off % 0x40 = 0 then s.writeThreadCtl gt data else s.writeThreadRow who gt off data

/-- A thread's write of its own sets waits for its settle distance of two instructions (R105). -/
def State.delayWrite (s : State) (gt a : Nat) (data : Word) : State :=
  s.modThread gt (fun t => { t with delayed := t.delayed ++ [(2, .reg a data)] })

/-- A write of a thread's sets as it arrives at the core block: the thread's own settles later. -/
def State.setWrite (s : State) (who : Agent) (gt off : Nat) (data : Word) : State :=
  if who = ownAgent gt then s.delayWrite gt (coreBase gt + off) data else s.writeThreadSet who gt off data

/-- A command of a thread by a row of its own: the thread's own command settles as a write of its
`THREAD_CTL` does. -/
def State.ownOr (s : State) (who : Agent) (gt : Nat) (data : Word) (f : State → State) : State :=
  if who = ownAgent gt then s.delayWrite gt (tReg gt 0) data else f s

/-! ## Segments (R120 to R126) -/

/-- A descriptor. -/
structure Desc where
  base   : Nat
  limit  : Nat
  rights : Word
  deriving DecidableEq, Repr

/-- Live descriptor i, or with i + 8 ceiling descriptor i, of a thread. -/
def State.desc (s : State) (gt i : Nat) : Desc :=
  ⟨(s.reg (tSeg gt i 0)).toNat + 2 ^ 32 * (bitsOf (s.reg (tSeg gt i 4)) 15 0).toNat,
   (s.reg (tSeg gt i 8)).toNat, s.reg (tSeg gt i 0xC)⟩

def Desc.valid (d : Desc) : Bool := d.rights.getLsbD 0
def Desc.r (d : Desc) : Bool := d.rights.getLsbD 1
def Desc.w (d : Desc) : Bool := d.rights.getLsbD 2
def Desc.x (d : Desc) : Bool := d.rights.getLsbD 3
def Desc.lead (d : Desc) : Bool := d.rights.getLsbD 5

/-- A live descriptor is contained in its ceiling (the four conditions under R120). -/
def Desc.within (d c : Desc) : Bool :=
  c.valid && decide (c.base ≤ d.base) && decide (d.base + d.limit ≤ c.base + c.limit) &&
  (!d.r || c.r) && (!d.w || c.w) && (!d.x || c.x) && (!c.lead || d.lead)

/-- BASE + LIMIT exceeds the 48-bit address space (R121). -/
def Desc.overflow (d : Desc) : Bool := decide (0xFFFFFFFFFFFF < d.base + d.limit)

/-- Bits of word w of a descriptor that are fields. -/
def descMask (w : Nat) : Word := if w = 1 then 0xFFFF else if w = 3 then 0x2F else 0xFFFFFFFF

/-- The words of one access to a descriptor: one, or BASE_LO and BASE_HI together (R8). -/
def descWords (w : Nat) (data : Word) (hi : Option Word) : List (Nat × Word) :=
  (w, data &&& descMask w) :: (match hi with
    | some h => [(w + 1, h &&& descMask (w + 1))]
    | none => [])

/-- What follows an accepted write of descriptor i (R121, R122): a live descriptor whose base or limit
was written loses VALID, and so does the live descriptor that a written ceiling no longer contains. -/
def State.descWritten (s : State) (gt i w : Nat) : State :=
  if i < 8 then
    if w = 3 then s else s.setReg (tSeg gt i 0xC) (s.reg (tSeg gt i 0xC) &&& ~~~ 1)
  else
    let l := s.desc gt (i - 8)
    if l.valid && !l.within (s.desc gt i) then s.setReg (tSeg gt (i - 8) 0xC) (l.rights &&& ~~~ 1) else s

/-- A write of word w (0 to 3) of descriptor i of a thread, with `hi` for a 64-bit write of the base; i
from 8 is ceiling i − 8 (R119 to R122). One access acts as a whole (R8). -/
def State.writeDesc (s : State) (who : Agent) (gt i w : Nat) (data : Word) (hi : Option Word) : State :=
  let blk := Blk.core (gt / 64)
  match (descWords w data hi).filter (fun p => p.2 != s.reg (tSeg gt i (4 * p.1))) with
  | [] => s
  | p :: r =>
    let off := 0x4000 + 0x100 * (gt % 64) + 0x10 * i + 4 * p.1
    if !s.threadStopped gt true then s.refuse blk off
    else if 8 ≤ i ∧ !isManager who then s.refuse blk off
    else
      let s1 := (p :: r).foldl (fun s q => s.setReg (tSeg gt i (4 * q.1)) q.2) s
      let d := s1.desc gt i
      if w = 3 && p.2.getLsbD 0 && (d.overflow || (decide (i < 8) && !d.within (s.desc gt (i + 8)))) then
        -- the descriptor is checked whole, so the write is refused whole (R121, log 16)
        s.refuse blk off
      else s1.descWritten gt i w

/-! ## Access checks (R123) -/

/-- Kinds of access and their ACCESS codes (R153). -/
inductive AccKind where
  | fetch | load | store | aliasAcc | table
  deriving DecidableEq, Repr

def AccKind.code (k : AccKind) : BitVec 3 :=
  match k with
  | .fetch => 1
  | .load => 2
  | .store => 3
  | .aliasAcc => 4
  | .table => 5

/-- A check failed: class, detail, fault address, ACCESS code. -/
structure CheckFail where
  cls    : BitVec 4
  detail : Byte
  addr   : BitVec 48
  code   : BitVec 3
  deriving DecidableEq, Repr

/-- The record of a failed check, on segment i, of the second half or not (R128). -/
def CheckFail.toRec (c : CheckFail) (i : Nat) (second : Bool) : FaultRec :=
  { precise c.cls c.detail with
    seg := BitVec.ofNat 3 i, acc := c.code, addr := c.addr, second := second }

/-- Steps 1 to 3 of R123: VALID, LEAD_ONLY, the rights of the access; rd and wr say which rights
the access needs beside fetch's X. -/
def checkRights (d : Desc) (lead : Bool) (k : AccKind) (rd wr : Bool) (offset : BitVec 48) :
    Option CheckFail :=
  let fail (c : BitVec 4) (x : Byte) : Option CheckFail := some ⟨c, x, offset, k.code⟩
  if !d.valid then fail 0 1
  else if d.lead && !lead then fail 1 4
  else if k = .fetch ∧ !d.x then fail 1 3
  else if rd && !d.r then fail 1 1
  else if wr && !d.w then fail 1 2
  else none

/-- An address in the alias windows (R40, R42). -/
def aliasAt (a : Nat) : Bool := decide (0x4000000 ≤ a) && decide (a < 0xC000000)

/-- Steps 1 to 5 of R123 for a part of n bytes at an offset of segment i. An access through an alias
needs R for its read half, and W too for an alias write, whatever it stands for (R42). -/
def State.checkAccess (s : State) (gt i : Nat) (k : AccKind) (offset n : Nat) : Except CheckFail Nat :=
  let d := s.desc gt i
  let a := d.base + offset
  let rgn := s.threadRegion a
  let isAlias : Bool := aliasAt a
  let k' := if isAlias ∧ (k = .load ∨ k = .store) then AccKind.aliasAcc else k
  let rd := decide (k = .load) || decide (k = .table) || (decide (k = .store) && isAlias)
  let wr := decide (k = .store)
  let off48 := BitVec.ofNat 48 offset
  match checkRights d (s.bit (fCurLead gt)) k' rd wr off48 with
  | some c => .error c
  | none =>
    if d.limit < offset + n - 1 then .error ⟨0, 2, off48, k'.code⟩
    else if 0x1000000000000 ≤ a then .error ⟨4, 1, BitVec.ofNat 48 a, k'.code⟩
    else match rgn with
      | .unmapped => .error ⟨4, 1, BitVec.ofNat 48 a, k'.code⟩
      | .ctl =>
        if k = .fetch then .error ⟨4, 5, BitVec.ofNat 48 a, k'.code⟩
        else match ctlRefusal a n (k = .store) with
          | some x => .error ⟨4, x, BitVec.ofNat 48 a, k'.code⟩
          | none => .ok a
      | _ => .ok a

/-- An address in the own core's bins, or their aliases. -/
def ownBin (gt a : Nat) : Bool :=
  let m := if a < 0xC000000 then a % 0x4000000 else a
  decide (m / 0x40000 = gt / 64) && decide (m < 0x800000)

/-- The fetch checks of R123 and R92 at pc. -/
def State.fetchFault (s : State) (gt : Nat) : Option FaultRec :=
  match s.checkAccess gt 7 .fetch (s.thread gt).pc.toNat 4 with
  | .error c => some (c.toRec 7 false)
  | .ok a => if s.det gt && !ownBin gt a then some { precise 7 1 with acc := 1, seg := 7 } else none

/-- The thread whose register or configuration set holds an offset of a core block. -/
def setThreadOf (n off : Nat) : Option Nat :=
  if 0x1000 ≤ off ∧ off < 0x2000 then some (64 * n + (off - 0x1000) / 0x40)
  else if 0x2000 ≤ off ∧ off < 0x2800 then some (64 * n + (off - 0x2000) / 0x20)
  else none

/-- A delayed write acts. -/
def State.applyDelayed (s : State) (gt : Nat) (d : Delayed) : State :=
  match d with
  | .reg a v => s.writeThreadSet (ownAgent gt) gt (a - coreBase gt) v
  | d => s.settleDelayed gt d

/-- One instruction has completed: delayed writes that are due act, the others come nearer
(R105). -/
def State.tickDelayed (s : State) (gt : Nat) : State :=
  let due := (s.thread gt).delayed.filter (fun p => p.1 = 0)
  let rest := ((s.thread gt).delayed.filter (fun p => p.1 ≠ 0)).map (fun p => (p.1 - 1, p.2))
  let s := s.modThread gt (fun t => { t with delayed := rest })
  due.foldl (fun s p => s.applyDelayed gt p.2) s

end Sys2Proof.Machine
end

