-- ==== Sys2Proof/Machine/Flags.lean ====
section
/-!
DEFINITION. Every flag computation of the instruction set (R172, R174): the exact sum is formed in
the integers and the flags are read off it.
-/
namespace Sys2Proof.Machine

/-- The sum a + b + c of 32-bit words with its flags: C the carry out of bit 31, V the signed
overflow of the addition as written (R172). -/
def addFlags (a b : Word) (c : Bool) : Word × Flags :=
  let k : Nat := if c then 1 else 0
  let sum := a.toNat + b.toNat + k
  let r := BitVec.ofNat 32 sum
  let si := a.toInt + b.toInt + k
  (r, ⟨r.getLsbD 31, r == 0, decide (2 ^ 32 ≤ sum), decide (r.toInt ≠ si)⟩)

/-- The same on 64-bit pairs (R174). -/
def addFlags64 (a b : BitVec 64) (c : Bool) : BitVec 64 × Flags :=
  let k : Nat := if c then 1 else 0
  let sum := a.toNat + b.toNat + k
  let r := BitVec.ofNat 64 sum
  let si := a.toInt + b.toInt + k
  (r, ⟨r.getLsbD 63, r == 0, decide (2 ^ 64 ≤ sum), decide (r.toInt ≠ si)⟩)

/-- Flags of an instruction whose list is NZ: C and V stay (R172). -/
def Flags.setNZ (fl : Flags) (r : Word) : Flags := { fl with n := r.getLsbD 31, z := r == 0 }

/-- The conditions of B (R180); condition 0xF is undefined. -/
def Flags.holds (fl : Flags) (cond : BitVec 4) : Bool :=
  match cond.toNat with
  | 0x0 => fl.z
  | 0x1 => !fl.z
  | 0x2 => fl.c
  | 0x3 => !fl.c
  | 0x4 => fl.n
  | 0x5 => !fl.n
  | 0x6 => fl.v
  | 0x7 => !fl.v
  | 0x8 => fl.c && !fl.z
  | 0x9 => !fl.c || fl.z
  | 0xA => fl.n == fl.v
  | 0xB => fl.n != fl.v
  | 0xC => !fl.z && fl.n == fl.v
  | 0xD => fl.z || fl.n != fl.v
  | _ => true

/-- The flags as the word of MVFL, and back (R183). -/
def Flags.toWord (fl : Flags) : Word :=
  boolWord fl.n * 8 + boolWord fl.z * 4 + boolWord fl.c * 2 + boolWord fl.v

def Flags.ofWord (w : Word) : Flags := ⟨w.getLsbD 3, w.getLsbD 2, w.getLsbD 1, w.getLsbD 0⟩

end Sys2Proof.Machine
end

