-- ==== Sys2Proof/Machine/Operands.lean ====
section
/-!
DEFINITION. The operand forms of the thread instructions: immediates and targets (R164), register
pairs (R111), and the properties (`Ins`) of each instruction format.
-/
namespace Sys2Proof.Machine

/-- What the columns of the instruction tables and R163 say of one instruction. -/
structure Ins where
  /-- The encoding is defined (R163). -/
  wf       : Bool := true
  /-- An odd register is named where a pair is required (R111). -/
  odd      : Bool := false
  reads    : List Reg := []
  writes   : List Reg := []
  rdFlags  : Bool := false
  wrFlags  : Bool := false
  /-- A long operation in every form (R145), not a store. -/
  long     : Bool := false
  pairOk   : Bool := true
  /-- Accesses memory or a register block (R86). -/
  access   : Bool := false
  /-- Class C: a control transfer. -/
  transfer : Bool := false
  /-- Illegal in a delay slot (R134). -/
  delayIll : Bool := false
  /-- Privileged (R115). -/
  priv     : Bool := false
  /-- Form VIA in a shadow (R169), decided by the instruction alone. -/
  via      : Bool := false
  deriving DecidableEq, Repr

/-- imm15 sign-extended (ADDI, CMPI) and zero-extended (ANDI, ORI, XORI, LOOP). -/
def simm15 (i : BitVec 15) : Word := i.signExtend 32
def zimm15 (i : BitVec 15) : Word := i.setWidth 32
/-- imm20 in bits [31:12]. -/
def uimm20 (i : BitVec 20) : Word := i.setWidth 32 <<< 12
/-- Targets: the address of the transfer plus 4 times the signed word count. -/
def target21 (pc : Word) (d : BitVec 21) : Word := pc + (d.signExtend 32 <<< 2)
def target25 (pc : Word) (d : BitVec 25) : Word := pc + (d.signExtend 32 <<< 2)
/-- The byte offset of format MEM, modulo 2^32 (R123). -/
def memOffset (base : Word) (imm : BitVec 12) : Word := base + imm.signExtend 32

/-- A register number names no pair. -/
def oddReg (r : Reg) : Bool := r.getLsbD 0

/-- The two registers of a pair. -/
def pairRegs (r : Reg) : List Reg := [r, r + 1]

/-- Three-register format of the ALU group. -/
def insAlu (d a b : Reg) (rdF wrF : Bool) : Ins :=
  { reads := [a, b], writes := [d], rdFlags := rdF, wrFlags := wrF }

/-- Immediate format. -/
def insImm (d a : Reg) : Ins := { reads := [a], writes := [d] }

/-- WIDE group: every field an even pair (R174). -/
def insWide (d a b : Reg) (wrF : Bool) : Ins :=
  { odd := oddReg d || oddReg a || oddReg b
    reads := pairRegs a ++ pairRegs b, writes := pairRegs d, wrFlags := wrF }

/-- Control transfers (R181): never paired, class C, illegal in a delay slot. -/
def insXfer (reads : List Reg) : Ins :=
  { reads := reads, pairOk := false, transfer := true, delayIll := true }

/-- The registers of n bytes of memory data: a pair for 8. -/
def memRegs (d : Reg) (n : Nat) : List Reg := if n = 8 then pairRegs d else [d]

/-- A load's columns that its word alone decides. -/
def insLoadWord (m : MemOp) (n : Nat) : Ins :=
  { odd := n == 8 && oddReg m.d, reads := [m.a], writes := memRegs m.d n, access := true }

/-- A store's columns. -/
def insStore (m : MemOp) (n : Nat) : Ins :=
  { odd := n == 8 && oddReg m.d, reads := m.a :: memRegs m.d n, access := true }

/-- A CRC step's columns: the state register is read and written (R190). -/
def insCrc (d a b : Reg) : Ins := { reads := [d, a, b], writes := [d] }

/-- Columns of the multiplies to a pair, of the divides and of SHASIG (R174, R175). -/
def insMulWide (d a b : Reg) : Ins := { odd := oddReg d, reads := [a, b], writes := pairRegs d }
def insDiv (d a b : Reg) : Ins := { insAlu d a b false false with long := true }
def insSha (d a : Reg) : Ins := { odd := oddReg d || oddReg a, reads := pairRegs a, writes := pairRegs d }

/-- Columns of RDFEAT, MVFL and EDGE (R183, R197). -/
def insRdfeat (d : Reg) : Ins := { writes := [d], via := true }
def insMvfl (d : Reg) : Ins := { writes := [d], rdFlags := true }
def insEdge (a : Reg) : Ins := { reads := [a], access := true }

/-- The columns of a pairing-legal instruction; none for one that is never paired (R86, and the Pair
columns of the instruction reference). -/
def pairIns (i : Instr) : Option Ins :=
  match i with
  | .add _ f d a b | .sub _ f d a b | .and _ f d a b | .or _ f d a b | .xor _ f d a b
  | .sll _ f d a b | .srl _ f d a b | .sra _ f d a b | .ror _ f d a b
  | .slt _ f d a b | .sltu _ f d a b => some (insAlu d a b false f)
  | .addc _ f d a b | .subc _ f d a b => some (insAlu d a b true f)
  | .cmp _ a b => some (insAlu 0 a b false true)
  | .addi _ d a _ | .andi _ d a _ | .ori _ d a _ | .xori _ d a _ => some (insImm d a)
  | .slli _ d a _ | .srli _ d a _ | .srai _ d a _ | .rori _ d a _ => some (insImm d a)
  | .cmpi _ a _ => some { insImm 0 a with wrFlags := true }
  | .lui _ d _ => some { writes := [d] }
  | .mul _ d a b | .mulh _ d a b | .mulhu _ d a b => some (insAlu d a b false false)
  | .mulw _ d a b | .mulwu _ d a b => some (insMulWide d a b)
  | .div _ d a b | .divu _ d a b | .rem _ d a b | .remu _ d a b => some (insDiv d a b)
  | .addp _ f d a b | .subp _ f d a b => some (insWide d a b f)
  | .shasig _ d a _ => some (insSha d a)
  | .ldb _ m | .ldbu _ m => some (insLoadWord m 1)
  | .ldh _ m | .ldhu _ m => some (insLoadWord m 2)
  | .ldw _ m => some (insLoadWord m 4)
  | .ldd _ m => some (insLoadWord m 8)
  | .stb _ m => some (insStore m 1)
  | .sth _ m => some (insStore m 2)
  | .stw _ m => some (insStore m 4)
  | .std _ m => some (insStore m 8)
  | .crc _ d a b _ _ | .crcr _ d a b _ _ => some (insCrc d a b)
  | .nop _ => some {}
  | .rdfeat _ d _ => some (insRdfeat d)
  | .mvfl _ d => some (insMvfl d)
  | .edge _ a _ _ _ => some (insEdge a)
  | _ => none

/-- The access to memory that a word's instruction makes: its operands, its bytes, and whether it
stores. -/
def memOf (i : Instr) : Option (MemOp × Nat × Bool) :=
  match i with
  | .ldb _ m | .ldbu _ m => some (m, 1, false)
  | .ldh _ m | .ldhu _ m => some (m, 2, false)
  | .ldw _ m => some (m, 4, false)
  | .ldd _ m => some (m, 8, false)
  | .stb _ m => some (m, 1, true)
  | .sth _ m => some (m, 2, true)
  | .stw _ m => some (m, 4, true)
  | .std _ m => some (m, 8, true)
  | _ => none

end Sys2Proof.Machine
end

