-- ==== Sys2Proof/Machine/Held.lean ====
section
/-!
DEFINITION. Where an access of a thread leads (R94, R127, R178), and what holds it back in its beat: a
draining bank, the thread's own earlier accesses, a flush, full request queues, credits (R49, R51, R149,
R225, R232, R305, R339); and whether the line of an instruction is at hand (R79 to R85).
-/
namespace Sys2Proof.Machine

/-! ## Lines and acts -/

/-- The line of a byte address. -/
def lineOf (a : Nat) : Nat := a / 64

/-- The line is one of the system region, whose home is the gateway (R341). -/
def isGwLine (line : Nat) : Bool := decide (0x4000000000 ≤ line)

def MemAct.size (m : MemAct) : Nat :=
  match m with
  | .read n => n
  | .write bs => bs.length
  | .setBits bs => bs.length
  | .clrBits bs => bs.length

/-- Whoever awaits an access is that thread. -/
def ReqRef.ofThread (r : ReqRef) (gt : Nat) : Bool :=
  match r with
  | .op g _ _ => g == gt
  | .store g _ => g == gt
  | _ => false

/-- The core of the thread that awaits an access. -/
def ReqRef.ofCore (r : ReqRef) (c : Nat) : Bool :=
  match r with
  | .op g _ _ => g / 64 == c
  | .store g _ => g / 64 == c
  | _ => false

/-- Two ranges of bytes overlap. -/
def overlap (a n b m : Nat) : Bool := decide (a < b + m) && decide (b < a + n)

/-! ## Where an access leads -/

/-- The thread's own register set, reached in its issuing cycle (R179). -/
def ownSet (gt a : Nat) : Bool := decide (tReg gt 0 ≤ a) && decide (a < tReg gt 0 + 0x40)

/-- Own core's bins, their aliases, and the own register set: simple accesses (R178). -/
def nearAt (gt a : Nat) : Bool := ownBin gt a || ownSet gt a

/-- A register of the thread's own bay or of its own core's timers, whose response XPAD times (R93). -/
def paddedAt (gt a : Nat) : Bool :=
  match blockOf a with
  | some (.bay n) => decide (n = gt / 64)
  | some (.timer m) => decide (m / 32 = gt / 64)
  | _ => false

/-- An access there counts no contract break (R94). -/
def contractFree (gt a : Nat) : Bool := nearAt gt a || paddedAt gt a

/-- The system region and the bridge remote windows. -/
def farAt (a : Nat) : Bool := decide (0x100000000 ≤ a)

/-- The address in the memory window that an address or an alias of it stands for (R42). -/
def underlying (a : Nat) : Nat := if a < 0xC000000 then a % 0x4000000 else a

/-- A part of an access: complex address, offset in its segment, bytes. -/
abbrev Part := Nat × Nat × Nat

/-- The parts of an access of n bytes at offset off of a segment (R127). -/
def partsOf (base off n : Nat) : List Part :=
  (splitParts (base + off) n).map (fun p => (p.1, p.1 - base, p.2))

/-- The offset and the address of a MEM operand in plain values (R123, R170). -/
def State.memOff (s : State) (gt : Nat) (m : MemOp) : Nat := (memOffset ((s.thread gt).rd m.a) m.imm).toNat
def State.memBase (s : State) (gt : Nat) (m : MemOp) : Nat := (s.desc gt m.seg.val).base
def State.memParts (s : State) (gt : Nat) (m : MemOp) (n : Nat) : List Part :=
  partsOf (s.memBase gt m) (s.memOff gt m) n

/-- The access has form VIA in a twin: it reaches the control register range, the system region or a
remote window, within its segment (R177). -/
def State.memVia (s : State) (gt : Nat) (m : MemOp) (n : Nat) : Bool :=
  let d := s.desc gt m.seg.val
  (s.thread gt).twin.isSome && d.valid && decide (s.memOff gt m + n - 1 ≤ d.limit) &&
  (match s.region (s.memBase gt m + s.memOff gt m) with
    | .ctl => true
    | .remote _ => true
    | .system => true
    | _ => false)

/-- A load's columns. -/
def State.insLoad (s : State) (gt : Nat) (m : MemOp) (n : Nat) : Ins :=
  { insLoadWord m n with
    via := s.memVia gt m n
    long := !(s.memVia gt m n && (s.thread gt).isShadow) && !(s.memParts gt m n).all (fun p => nearAt gt p.1) }

/-! ## When an access is held back -/

/-- The bank of an address, if it is DRAINING (R305). -/
def State.drainingAt (s : State) (a : Nat) : Bool :=
  match bankOf (underlying a) with
  | some g => decide (a < 0xC000000) && s.bit (fDraining g)
  | none => false

/-- `DCACHE_CTL.FLUSH_BUSY`, ENABLE and SYS_CACHE. -/
def fFlushBusy (c : Nat) : Fld := ⟨0x10100040 + c * 0x10000, 9, 9⟩
def fDcEnable (c : Nat) : Fld := ⟨0x10100040 + c * 0x10000, 0, 0⟩
def fSysCache (c : Nat) : Fld := ⟨0x10100040 + c * 0x10000, 1, 1⟩

/-- The access waits for a flush, since the setting that began it no longer caches it (R339). -/
def State.flushHolds (s : State) (c a : Nat) : Bool :=
  s.bit (fFlushBusy c) &&
  (if 0x1000000 ≤ a ∧ a < 0x4000000 then !s.bit (fDcEnable c)
   else decide (0x100000000000 ≤ a) && !(s.bit (fDcEnable c) && s.bit (fSysCache c)) &&
     (Map.get {} s.flush c).sys)

/-- Accesses that wait anywhere between their issue and their bank. -/
def State.waitingAccs (s : State) : List MemAcc :=
  s.homeQ.filterMap (fun q => match q with
    | .access acc => some acc
    | _ => none) ++
  s.portB ++ s.dwait.map (fun p => p.2) ++
  s.dir.filterMap (fun p => p.2.bind (fun e => e.txn.bind (fun t => t.acc)))

/-- The requests of a core on their way to the granary and to other cores' bins (R49). -/
def State.coreRequests (s : State) (c : Nat) : Nat := (s.waitingAccs.filter (fun x => x.ref.ofCore c)).length

/-- Credits a core has used of a kind, and of these on their way back (R225, R232). -/
def State.credit (s : State) (key : Nat) : Nat × Nat := Map.get (0, 0) s.credits key
def txKey (n k : Nat) : Nat := 8 * n + k
def edgeKey (n : Nat) : Nat := 256 + n

/-- The TXW of the own bay that a store goes to (R225). -/
def ownTxw (gt a : Nat) : Option Nat :=
  match blockOf a with
  | some (.bay n) =>
    let off := a - (Blk.bay n).base
    if n = gt / 64 ∧ 0x100 ≤ off ∧ off < 0x300 ∧ off % 0x40 = 0x28 then some ((off - 0x100) / 0x40) else none
  | _ => none

/-- An access of the thread's own to overlapping bytes still waits: for a cache line, when this one does
not cache; or as the second half of a far split store, behind its first (R130, R149). -/
def State.overtakes (s : State) (gt : Nat) (p : Part) : Bool :=
  let u := underlying p.1
  (decide (0x4000000 ≤ p.1) && decide (p.1 < 0xC000000) &&
    s.dwait.any (fun q => q.2.ref.ofThread gt && overlap u p.2.2 q.2.addr q.2.act.size)) ||
  (s.thread gt).stores.any (fun o => match o.rest with
    | some (a, bs) => overlap p.1 p.2.2 a bs.length
    | none => false)

/-- Why an access does not issue in this beat: none when it does; otherwise whether a contract break
is counted (R49, R51, R225, R305, R339). -/
def State.accessHeld (s : State) (gt : Nat) (store : Bool) (ps : List Part) : Option Bool :=
  let c := gt / 64
  let queued := ps.filter (fun p => !nearAt gt p.1 && decide (p.1 < 0xC000000))
  if ps.any (fun p => s.drainingAt p.1) then some false
  else if ps.any (fun p => s.overtakes gt p) then some false
  else if ps.any (fun p => s.flushHolds c p.1) then some true
  else if !queued.isEmpty && decide (16 < s.coreRequests c + queued.length) then some true
  else if store && ps.any (fun p => match ownTxw gt p.1 with
      | some k => decide (2 ≤ (s.credit (txKey c k)).1)
      | none => false) then some true
  else none

/-! ## Lines of instructions (R79 to R85) -/

def fIcEnable (n : Nat) : Fld := ⟨0x10100008 + n * 0x10000, 0, 0⟩
def fLockWays (n : Nat) : Fld := ⟨0x10100008 + n * 0x10000, 7, 4⟩

/-- The line is in the core's instruction cache, and lookups are on. -/
def State.icacheHit (s : State) (gt line : Nat) : Bool :=
  s.bit (fIcEnable (gt / 64)) && (Map.get [] s.icache (gt / 64)).any (fun p => p.1 == line)

/-- The line is in the thread's line buffer or the instruction cache. -/
def State.lineHit (s : State) (gt line : Nat) : Bool :=
  (s.thread gt).lineBuf.contains line || s.icacheHit gt line

/-- The instruction at an offset of s7 is at hand: its line is (R82), or its check faults instead; a
deterministic thread reads its own bins, unless the bank drains (R92, R305). -/
def State.lineReady (s : State) (gt : Nat) (pc : Word) : Bool :=
  match s.checkAccess gt 7 .fetch pc.toNat 4 with
  | .error _ => true
  | .ok a => if s.det gt then !(ownBin gt a && s.drainingAt a) else s.lineHit gt (lineOf (underlying a))

/-- A line enters the line buffer of two lines (R80). -/
def Thread.useLine (t : Thread) (line : Nat) : Thread :=
  { t with lineBuf := (line :: t.lineBuf.filter (fun l => l != line)).take 2 }

/-- The line of an issuing instruction comes into the line buffer, and from its second half the next-line
predictor brings the next line from the instruction cache into the other entry; a line found in neither is
to be fetched (R80). -/
def State.fetchAhead (s : State) (gt : Nat) : State :=
  match s.checkAccess gt 7 .fetch (s.thread gt).pc.toNat 4 with
  | .error _ => s
  | .ok a =>
    if s.det gt then s
    else
      let l := lineOf (underlying a)
      let next := l + 1
      s.modThread gt (fun t =>
        if a % 64 < 32 then t.useLine l
        else if t.lineBuf.contains next then (t.useLine next).useLine l
        else if s.icacheHit gt next then { (t.useLine next).useLine l with ahead := none }
        else { t.useLine l with ahead := some next })

end Sys2Proof.Machine
end

