-- ==== Sys2Proof/Machine/Issue.lean ====
section
/-!
DEFINITION. Issuing one instruction of a thread: when it can issue (R56, R82, R146, R147), the faults
found before it acts in the order of R155, pairing (R86 to R89), the agreement of twin members
(R428 to R430), and completion: the next address, loop-back (R140), settle distances (R105), the
signature window (R435) and the boundary (R103).
-/
namespace Sys2Proof.Machine

/-- The instruction that follows. -/
inductive Next where
  | seq
  /-- A control transfer with a delay slot, taken or not (R133). -/
  | delay (target : Word) (taken : Bool)
  /-- At once, with no delay slot: pc, npc, in-delay mark, and whether it is a transfer taken. -/
  | goto (pc npc : Word) (inDelay : Bool) (taken : Bool)
  deriving DecidableEq, Repr

/-- What an instruction's operation came to. -/
inductive Exec where
  | done (s : State) (nx : Next)
  /-- It faults, having performed nothing of its own. -/
  | fault (s : State) (r : FaultRec)
  /-- It does not issue in this beat (R51, R146). -/
  | hold (s : State)
  /-- It waits (class W). -/
  | wait (s : State) (w : Waiting)

/-- An unretired long operation will write the register (R146). -/
def Thread.busy (t : Thread) (r : Reg) : Bool :=
  t.ops.any (fun o => o.d != 0 && (o.d == r) || (o.pair && o.d + 1 == r))

/-- The operands of an instruction are there, and the long-operation limit, of which `n` are already
spoken for, leaves room (R146, R147). -/
def Thread.operandsReady (t : Thread) (i : Ins) (n : Nat) : Bool :=
  !(i.reads ++ i.writes).any t.busy && !(i.long && decide (4 ≤ t.ops.length + n))

/-! ## Twin pairs -/

def State.pair (s : State) (p : Nat) : Pair := Map.get {} s.pairs p
def State.modPair (s : State) (p : Nat) (f : Pair → Pair) : State :=
  { s with pairs := Map.set {} s.pairs p (f (s.pair p)) }

/-- Registers of twin pair p (R449). -/
def twinReg (p off : Nat) : Nat := 0x10801000 + 0x40 * p + off
def fTwinState (p : Nat) : Fld := ⟨twinReg p 0x10, 2, 0⟩
def fAgreeLate (p : Nat) : Fld := ⟨twinReg p 0x10, 4, 4⟩

/-- The pair of a primary. -/
def Thread.primaryOf (t : Thread) : Option Nat :=
  match t.twin with
  | some (p, false) => some p
  | _ => none

/-- The buffer of a primary's pair has no room for n entries more (R429). -/
def State.agreeFull (s : State) (gt n : Nat) : Bool :=
  match (s.thread gt).primaryOf with
  | some p => decide (16 < (s.pair p).agreed.length + n)
  | none => false

/-! ## Pairing (R86 to R88) -/

/-- The second instruction of a pair meets R86 beside the first; FLAGS counts as a register (R168). -/
def Ins.pairsWith (i j : Ins) : Bool :=
  !(j.reads ++ j.writes).any (fun r => r != 0 && i.writes.contains r) &&
  !(i.wrFlags && (j.rdFlags || j.wrFlags)) && !(i.access && j.access)

/-- The second instruction of the pair that an instruction with a PAIR marker forms, when R86 holds, and
its columns. -/
def State.pairSecond (s : State) (gt : Nat) (x : Issue) (i : Ins) : Option (Instr × Ins) :=
  let t := s.thread gt
  match x.pair with
  | none => none
  | some w =>
    if t.pairOpen.isNone && decide (2 ≤ s.slotsOwned gt) && !s.det gt && i.wf && i.pairOk && !i.transfer &&
        !t.inDelay && !t.atLoopEnd t.pc then
      match decodeInstr ⟨x.gt, none, false⟩ w with
      | some ins =>
        match pairIns ins with
        | some j => if i.pairsWith j then some (ins, j) else none
        | none => none
      | none => none
    else none

/-- The columns of the second of a pair with those of its access: a load's by where it leads. -/
def State.secondIns (s : State) (gt : Nat) (ins : Instr) (j : Ins) : Ins :=
  match memOf ins with
  | some (m, n, true) => { j with via := s.memVia gt m n }
  | some (m, n, false) => s.insLoad gt m n
  | none => { j with via := j.via || ((s.thread gt).twin.isSome && j.access) }

/-- The second of a pair can issue in the same beat: its operands are there, its access is not held, its
edge credit and its place in the agreement buffer are there, and so is its line (after R87). -/
def State.pairReady (s : State) (gt : Nat) (i : Ins) (ins : Instr) (j : Ins) : Bool :=
  let t := s.thread gt
  let k := s.secondIns gt ins j
  t.operandsReady k (if i.long then 1 else 0) && s.lineReady gt (t.pc + 4) &&
  (match memOf ins with
    | some (m, n, st) => (s.accessHeld gt st (s.memParts gt m n)).isNone
    | none => !j.access || !s.bayPresent (gt / 64) || decide ((s.credit (edgeKey (gt / 64))).1 < 16)) &&
  !s.agreeFull gt ((if i.via then 1 else 0) + (if k.via then 1 else 0))

/-- What an instruction leaves for the one at the next word address: a pair; or a beat of its own (R87). -/
def State.pairAfter (s : State) (gt : Nat) (x : Issue) (i : Ins) : Option PairInfo :=
  let t := s.thread gt
  if t.pairOpen.isSome || x.pair.isNone || t.inDelay then none
  else match s.pairSecond gt x i with
    | some (_, j) => some (.pair j.reads j.writes j.access)
    | none => some .split

/-- The instruction is the one that the first half of a pair announced, or no half is announced. -/
def Thread.announced (t : Thread) (i : Ins) : Bool :=
  match t.pairOpen with
  | some (.pair rs ws acc) => i.reads == rs && i.writes == ws && i.access == acc
  | _ => true

/-- The thread's next instruction can issue in this beat; the first of a pair only with the second. -/
def State.canIssue (s : State) (gt : Nat) (x : Issue) (i : Ins) : Bool :=
  let t := s.thread gt
  s.fld (fState gt) == stReady && t.raised.isNone && t.waiting.isNone &&
  (!t.boundary || (t.haltReq.isNone && !t.freezeReq && !t.stopReq)) && !s.handlerDue gt &&
  !(t.winEnd && t.boundary) && s.hasBeats gt && s.lineReady gt t.pc &&
  t.operandsReady i 0 && t.announced i &&
  (match s.pairSecond gt x i with
    | some (ins, j) => s.pairReady gt i ins j
    | none => true)

/-- The beat of an instruction that issued: the second half of a pair takes none; marked
instructions that do not meet R86 count one in PAIR_SPLIT (R87). The marker of a second instruction
and of a delay slot is ignored (R88). -/
def State.beat (s : State) (gt : Nat) (after : Option PairInfo) : State :=
  match (s.thread gt).pairOpen with
  | some (.pair _ _ _) => s
  | some .split => s.countWrap (fBeats gt)
  | none => (if after = some .split then s.countUp (fPairSplit gt) else s).countWrap (fBeats gt)

/-! ## Twin agreement (R428 to R430) -/

/-- A primary appends an entry. -/
def State.agreeAdd (s : State) (gt : Nat) (e : Agreed) : State :=
  match (s.thread gt).primaryOf with
  | some p => s.modPair p (fun q => { q with agreed := q.agreed ++ [e] })
  | none => s

/-- The value registers hold, as an entry's value. -/
def Thread.agreedValue (t : Thread) (ws : List Reg) : Option (BitVec 64) :=
  match ws with
  | [] => none
  | [d] => some ((t.rd d).setWidth 64)
  | d :: _ => some (t.rdPair d)

/-- A primary appends the entry of an instruction that completed at once. -/
def State.agreeDone (s : State) (gt : Nat) (ws : List Reg) (z : Option Bool) : State :=
  s.agreeAdd gt ⟨0, true, (s.thread gt).agreedValue ws, z, none⟩

/-- A primary appends the entry of an instruction that faulted. -/
def State.agreeFault (s : State) (gt : Nat) (r : FaultRec) : State :=
  s.agreeAdd gt ⟨0, true, none, none, some (r.cls, r.detail)⟩

/-- The entries of a primary's long operations whose faults are raised are filled with them (R428). -/
def State.agreeLate (s : State) (gt : Nat) (late : Map FaultRec) : State :=
  match (s.thread gt).primaryOf with
  | some p => s.modPair p (fun q => { q with agreed := q.agreed.map (fun e =>
      if e.filled then e
      else match late.find? (fun r => r.1 == e.op) with
        | some r => { e with filled := true, fault := some (r.2.cls, r.2.detail) }
        | none => e) })
  | none => s

/-- Write an agreed value to a thread's registers and Z flag. -/
def Thread.takeAgreed (t : Thread) (ws : List Reg) (e : Agreed) : Thread :=
  let t := match ws, e.value with
    | [d], some v => t.wr d (Word.lo v)
    | d :: _ :: _, some v => t.wrPair d v
    | _, _ => t
  match e.z with
  | some z => t.setFlags { t.flags with z := z }
  | none => t

/-- A shadow performs nothing and takes the oldest entry: its value, or the fault it records; it
waits while the entry is not filled, which sets AGREE_LATE (R430). -/
def State.agreeTake (s : State) (gt p : Nat) (ws : List Reg) : Exec :=
  match (s.pair p).agreed with
  | e :: r =>
    if e.filled then
      match e.fault with
      | some (c, d) => .fault (s.modPair p (fun q => { q with agreed := r })) (precise c d)
      | none =>
        let s := s.modPair p (fun q => { q with agreed := r })
        .done (s.modThread gt (fun t => t.takeAgreed ws e)) .seq
    else .hold ((s.setBit (fAgreeLate p) true).holdBreak gt)
  | [] => .hold ((s.setBit (fAgreeLate p) true).holdBreak gt)

/-- The operation of an instruction of form VIA in each kind of thread. -/
def State.viaBody (s : State) (gt : Nat) (ws : List Reg) (z : Bool) (body : State → Exec) : Exec :=
  match (s.thread gt).twin with
  | none => body s
  | some (p, true) => s.agreeTake gt p ws
  | some (_, false) =>
    if s.agreeFull gt 1 then .hold (s.holdBreak gt)
    else match body s with
      | .done s' nx =>
        if (s'.thread gt).ops.length = (s.thread gt).ops.length then
          .done (s'.agreeDone gt ws (if z then some (s'.thread gt).flags.z else none)) nx
        else
          .done (s'.agreeAdd gt ⟨(s'.thread gt).nextOp - 1, false, none, none, none⟩) nx
      | .fault s' r => .fault (s'.agreeFault gt r) r
      | e => e

/-! ## Completion -/

/-- Count an executed instruction in the window of a twin member; the window ends at its N-th
(R435). One that faults is counted too: its fault entry's record belongs to the window in which it
counts. -/
def State.countWindow (s : State) (gt : Nat) : State :=
  match (s.thread gt).twin with
  | some (p, _) =>
    let n := 2 ^ (s.fld ⟨twinReg p 4, 4, 0⟩).toNat
    s.modThread gt (fun t => { t with
      winInstr := t.winInstr + 1, winEnd := t.winEnd || decide (n ≤ t.winInstr + 1) })
  | none => s

/-- The thread's addresses after its instruction (R133, R140, R182). -/
def Thread.advance (t : Thread) (nx : Next) : Thread :=
  match nx with
  | .seq =>
    if t.inDelay then { t with pc := t.npc, npc := t.npc + 4, inDelay := false }
    else match t.loopBack t.pc [2, 1, 0] with
      | (t', some x) =>
        let t' := if x = t.pc + 4 then t' else t'.record (recTransfer x)
        { t' with pc := x, npc := x + 4 }
      | (_, none) => { t with pc := t.npc, npc := t.npc + 4 }
  | .delay target taken =>
    let t := if taken then t.record (recTransfer target) else t
    { t with pc := t.npc, npc := target, inDelay := true }
  | .goto pc npc d taken =>
    let t := if taken then t.record (recTransfer pc) else t
    { t with pc := pc, npc := npc, inDelay := d }

/-- A debug step halts the thread at the boundary after its one instruction (R539). -/
def State.stepDue (s : State) (gt : Nat) : State :=
  let t := s.thread gt
  if t.stepping && t.boundary then s.setThread gt { t with stepping := false, haltReq := some true }
  else s

/-- An instruction completes: the thread moves on, and what falls due at a
boundary is taken. A loop move of LPWR that stands at a loop's end counts for R140 with the value it
wrote: the spec says both that it is in force from the next instruction and that R140 applies with the
new count (R185; DESIGN CHOICE, log 76). -/
def State.complete (s : State) (gt : Nat) (nx : Next) (after : Option PairInfo) : State :=
  let s := s.heldBreak gt
  let s := s.modThread gt (fun t => { t.advance nx with pairOpen := after, held := false, noEntry := false })
  let s := s.countWindow gt
  let s := s.tickDelayed gt
  (s.stepDue gt).atBoundary gt

/-- The fault of an instruction found before its operation (R155, steps 3 to 5). -/
def State.earlyFault (s : State) (gt : Nat) (i : Ins) : Option FaultRec :=
  let t := s.thread gt
  if !i.wf then some (precise 2 0)
  else if t.inDelay && i.delayIll then some (precise 2 1)
  else if i.odd then some (precise 2 2)
  else if i.priv && !s.bit (fCurLead gt) then some (precise 3 0)
  else if t.atLoopEnd t.pc && (i.transfer || t.inDelay) then some (precise 6 3)
  else none

/-- An instruction raises a fault of its own: a pending imprecise fault of an earlier long operation
comes first (R155), but in a twin member, which keeps those for SETTLE and SEAL (R432). -/
def State.raiseOwn (s : State) (gt : Nat) (r : FaultRec) : State :=
  let t := s.thread gt
  match t.late, t.twin with
  | q :: rest, none => (s.setThread gt { t with late := [] }).raise gt (lateFault q.2 rest false)
  | _, _ => s.raise gt r

/-- Issue one instruction of a thread from its line buffer (R80). Where it cannot issue now, the beat is
lost and nothing changes (R57, log 8). -/
def State.issue (s : State) (x : Issue) (i : Ins) (body : State → Exec) : State :=
  let gt := x.gt.val
  let i := if x.undef then { i with wf := false } else i
  let after := s.pairAfter gt x i
  if !s.canIssue gt x i then s
  else match s.fetchFault gt with
    | some r => ((if r.cls = 7 then s.countBreak gt else s).countWindow gt).raiseOwn gt r
    | none =>
      match s.earlyFault gt i with
      | some r => ((s.beat gt after).countWindow gt).raiseOwn gt r
      | none =>
        let s := s.fetchAhead gt
        match (if i.via then s.viaBody gt i.writes i.wrFlags body else body s) with
        | .done s' nx => (s'.beat gt after).complete gt nx after
        | .fault s' r => ((s'.beat gt after).countWindow gt).raiseOwn gt r
        | .hold s' => s'
        | .wait s' w =>
          ((s'.beat gt after).modThread gt (fun t =>
            { t with waiting := some w, pairOpen := after, noEntry := false })).setFld (fState gt) stWait

/-- A waiting instruction completes. -/
def State.completeWait (s : State) (gt : Nat) (ws : List Reg) (z : Bool) (via : Bool) : State :=
  let s := s.modThread gt (fun t => { t with waiting := none })
  let s := s.setFld (fState gt) stReady
  let s := if via then s.agreeDone gt ws (if z then some (s.thread gt).flags.z else none) else s
  s.complete gt .seq (s.thread gt).pairOpen

end Sys2Proof.Machine
end

