-- ==== Sys2Proof/Machine/Alu.lean ====
section
/-!
DEFINITION. The arithmetic and logic instructions (R171 to R176) and the CRC steps (R190): ALU,
immediate, WIDE and MD groups. A shadow's complement forms (R169) are these operations on the plain
values of its held operands (log 11).
-/
namespace Sys2Proof.Machine

/-- Write the result of a simple instruction, and its flags with F. -/
def State.aluDone (s : State) (gt : Nat) (d : Reg) (f : Bool) (r : Word) (fl : Flags) : Exec :=
  let t := (s.thread gt).wr d r
  .done (s.setThread gt (if f then t.setFlags fl else t)) .seq

/-- An ALU operation whose flags are NZ (R171). -/
def execNZ (x : Issue) (f : Bool) (d a b : Reg) (op : Word → Word → Word) (s : State) : State :=
  s.issue x (insAlu d a b false f) (fun s =>
    let t := s.thread x.gt.val
    let r := op (t.rd a) (t.rd b)
    s.aluDone x.gt.val d f r (t.flags.setNZ r))

/-- An addition of the ALU group whose flags are NZCV: operands and carry from the thread. -/
def execAdd4 (x : Issue) (f rdC : Bool) (d a b : Reg) (g : Word → Word) (cin : Flags → Bool) (s : State) :
    State :=
  s.issue x (insAlu d a b rdC f) (fun s =>
    let t := s.thread x.gt.val
    let p := addFlags (t.rd a) (g (t.rd b)) (cin t.flags)
    s.aluDone x.gt.val d f p.1 p.2)

def execAdd (x : Issue) (f : Bool) (d a b : Reg) (s : State) : Host.Outcome State Fault Refusal :=
  .next (execAdd4 x f false d a b id (fun _ => false) s)
def execAddc (x : Issue) (f : Bool) (d a b : Reg) (s : State) : Host.Outcome State Fault Refusal :=
  .next (execAdd4 x f true d a b id Flags.c s)
def execSub (x : Issue) (f : Bool) (d a b : Reg) (s : State) : Host.Outcome State Fault Refusal :=
  .next (execAdd4 x f false d a b (fun w => ~~~ w) (fun _ => true) s)
def execSubc (x : Issue) (f : Bool) (d a b : Reg) (s : State) : Host.Outcome State Fault Refusal :=
  .next (execAdd4 x f true d a b (fun w => ~~~ w) Flags.c s)
def execAnd (x : Issue) (f : Bool) (d a b : Reg) (s : State) : Host.Outcome State Fault Refusal :=
  .next (execNZ x f d a b (fun p q => p &&& q) s)
def execOr (x : Issue) (f : Bool) (d a b : Reg) (s : State) : Host.Outcome State Fault Refusal :=
  .next (execNZ x f d a b (fun p q => p ||| q) s)
def execXor (x : Issue) (f : Bool) (d a b : Reg) (s : State) : Host.Outcome State Fault Refusal :=
  .next (execNZ x f d a b (fun p q => p ^^^ q) s)

/-- A shift count is bits [4:0] of its register (R172). -/
def shiftCount (w : Word) : Nat := w.toNat % 32

def execSll (x : Issue) (f : Bool) (d a b : Reg) (s : State) : Host.Outcome State Fault Refusal :=
  .next (execNZ x f d a b (fun p q => p <<< shiftCount q) s)
def execSrl (x : Issue) (f : Bool) (d a b : Reg) (s : State) : Host.Outcome State Fault Refusal :=
  .next (execNZ x f d a b (fun p q => p >>> shiftCount q) s)
def execSra (x : Issue) (f : Bool) (d a b : Reg) (s : State) : Host.Outcome State Fault Refusal :=
  .next (execNZ x f d a b (fun p q => p.sshiftRight (shiftCount q)) s)
def execRor (x : Issue) (f : Bool) (d a b : Reg) (s : State) : Host.Outcome State Fault Refusal :=
  .next (execNZ x f d a b (fun p q => p.rotateRight (shiftCount q)) s)
def execSlt (x : Issue) (f : Bool) (d a b : Reg) (s : State) : Host.Outcome State Fault Refusal :=
  .next (execNZ x f d a b (fun p q => boolWord (decide (p.toInt < q.toInt))) s)
def execSltu (x : Issue) (f : Bool) (d a b : Reg) (s : State) : Host.Outcome State Fault Refusal :=
  .next (execNZ x f d a b (fun p q => boolWord (decide (p.toNat < q.toNat))) s)

/-- CMP writes the flags of a + ~b + 1 and no register (R171). -/
def execCmp (x : Issue) (a b : Reg) (s : State) : Host.Outcome State Fault Refusal :=
  .next (execAdd4 x true false 0 a b (fun w => ~~~ w) (fun _ => true) s)

/-- An immediate operation without flags (R173). -/
def execImm (x : Issue) (d a : Reg) (op : Word → Word) (s : State) : State :=
  s.issue x (insImm d a) (fun s =>
    let t := s.thread x.gt.val
    s.aluDone x.gt.val d false (op (t.rd a)) t.flags)

def execAddi (x : Issue) (d a : Reg) (imm : BitVec 15) (s : State) : Host.Outcome State Fault Refusal :=
  .next (execImm x d a (fun p => p + simm15 imm) s)
def execAndi (x : Issue) (d a : Reg) (imm : BitVec 15) (s : State) : Host.Outcome State Fault Refusal :=
  .next (execImm x d a (fun p => p &&& zimm15 imm) s)
def execOri (x : Issue) (d a : Reg) (imm : BitVec 15) (s : State) : Host.Outcome State Fault Refusal :=
  .next (execImm x d a (fun p => p ||| zimm15 imm) s)
def execXori (x : Issue) (d a : Reg) (imm : BitVec 15) (s : State) : Host.Outcome State Fault Refusal :=
  .next (execImm x d a (fun p => p ^^^ zimm15 imm) s)
def execSlli (x : Issue) (d a : Reg) (cnt : BitVec 5) (s : State) : Host.Outcome State Fault Refusal :=
  .next (execImm x d a (fun p => p <<< cnt.toNat) s)
def execSrli (x : Issue) (d a : Reg) (cnt : BitVec 5) (s : State) : Host.Outcome State Fault Refusal :=
  .next (execImm x d a (fun p => p >>> cnt.toNat) s)
def execSrai (x : Issue) (d a : Reg) (cnt : BitVec 5) (s : State) : Host.Outcome State Fault Refusal :=
  .next (execImm x d a (fun p => p.sshiftRight cnt.toNat) s)
def execRori (x : Issue) (d a : Reg) (cnt : BitVec 5) (s : State) : Host.Outcome State Fault Refusal :=
  .next (execImm x d a (fun p => p.rotateRight cnt.toNat) s)

/-- CMPI writes the flags of a + ~imm + 1. -/
def execCmpi (x : Issue) (a : Reg) (imm : BitVec 15) (s : State) : Host.Outcome State Fault Refusal :=
  .next (s.issue x { insImm 0 a with wrFlags := true } (fun s =>
    let t := s.thread x.gt.val
    let p := addFlags (t.rd a) (~~~ (simm15 imm)) true
    s.aluDone x.gt.val 0 true p.1 p.2))

def execLui (x : Issue) (d : Reg) (imm : BitVec 20) (s : State) : Host.Outcome State Fault Refusal :=
  .next (s.issue x { writes := [d] } (fun s =>
    s.aluDone x.gt.val d false (uimm20 imm) (s.thread x.gt.val).flags))

/-! ## Multiply and divide (R175, R176) -/

/-- A multiply: a register result of the two operands. -/
def execMul1 (x : Issue) (d a b : Reg) (op : Word → Word → Word) (s : State) : State :=
  s.issue x (insAlu d a b false false) (fun s =>
    let t := s.thread x.gt.val
    s.aluDone x.gt.val d false (op (t.rd a) (t.rd b)) t.flags)

/-- The low 64 bits of an exact product. -/
def prod64 (p : Int) : BitVec 64 := BitVec.ofInt 64 p

def execMul (x : Issue) (d a b : Reg) (s : State) : Host.Outcome State Fault Refusal :=
  .next (execMul1 x d a b (fun p q => p * q) s)
def execMulh (x : Issue) (d a b : Reg) (s : State) : Host.Outcome State Fault Refusal :=
  .next (execMul1 x d a b (fun p q => Word.hi (prod64 (p.toInt * q.toInt))) s)
def execMulhu (x : Issue) (d a b : Reg) (s : State) : Host.Outcome State Fault Refusal :=
  .next (execMul1 x d a b (fun p q => Word.hi (prod64 (p.toNat * q.toNat : Nat))) s)

/-- A widening multiply into an even pair. -/
def execMulPair (x : Issue) (d a b : Reg) (op : Word → Word → BitVec 64) (s : State) : State :=
  s.issue x (insMulWide d a b) (fun s =>
    let t := s.thread x.gt.val
    .done (s.setThread x.gt.val (t.wrPair d (op (t.rd a) (t.rd b)))) .seq)

def execMulw (x : Issue) (d a b : Reg) (s : State) : Host.Outcome State Fault Refusal :=
  .next (execMulPair x d a b (fun p q => prod64 (p.toInt * q.toInt)) s)
def execMulwu (x : Issue) (d a b : Reg) (s : State) : Host.Outcome State Fault Refusal :=
  .next (execMulPair x d a b (fun p q => prod64 (p.toNat * q.toNat : Nat)) s)

/-- A long operation enters the thread's list (R145). -/
def Thread.addOp (t : Thread) (o : LongOp) : Thread :=
  { t with ops := t.ops ++ [{ o with id := t.nextOp }], nextOp := t.nextOp + 1 }

/-- A division issues as a long operation with its result, or its zero divisor, to be delivered when
it retires (R176, R150). -/
def execDiv1 (x : Issue) (d a b : Reg) (op : Word → Word → Word) (s : State) : State :=
  s.issue x (insDiv d a b) (fun s =>
    let t := s.thread x.gt.val
    let res : OpResult := if t.rd b = 0 then .divZero else .value (op (t.rd a) (t.rd b)) 0
    .done (s.setThread x.gt.val (t.addOp ⟨0, t.pc, d, false, 0, 0, .zext 4, 0, [], some res, false, false⟩)) .seq)

/-- Signed division rounds toward zero; the remainder takes the dividend's sign (R176). -/
def execDiv (x : Issue) (d a b : Reg) (s : State) : Host.Outcome State Fault Refusal :=
  .next (execDiv1 x d a b (fun p q => BitVec.ofInt 32 (p.toInt.tdiv q.toInt)) s)
def execDivu (x : Issue) (d a b : Reg) (s : State) : Host.Outcome State Fault Refusal :=
  .next (execDiv1 x d a b (fun p q => BitVec.ofNat 32 (p.toNat / q.toNat)) s)
def execRem (x : Issue) (d a b : Reg) (s : State) : Host.Outcome State Fault Refusal :=
  .next (execDiv1 x d a b (fun p q => BitVec.ofInt 32 (p.toInt.tmod q.toInt)) s)
def execRemu (x : Issue) (d a b : Reg) (s : State) : Host.Outcome State Fault Refusal :=
  .next (execDiv1 x d a b (fun p q => BitVec.ofNat 32 (p.toNat % q.toNat)) s)

/-! ## WIDE group (R174) -/

/-- A 64-bit addition of pairs. -/
def execWide (x : Issue) (f : Bool) (d a b : Reg) (g : BitVec 64 → BitVec 64) (cin : Bool) (s : State) :
    State :=
  s.issue x (insWide d a b f) (fun s =>
    let t := s.thread x.gt.val
    let p := addFlags64 (t.rdPair a) (g (t.rdPair b)) cin
    let t := t.wrPair d p.1
    .done (s.setThread x.gt.val (if f then t.setFlags p.2 else t)) .seq)

def execAddp (x : Issue) (f : Bool) (d a b : Reg) (s : State) : Host.Outcome State Fault Refusal :=
  .next (execWide x f d a b id false s)
def execSubp (x : Issue) (f : Bool) (d a b : Reg) (s : State) : Host.Outcome State Fault Refusal :=
  .next (execWide x f d a b (fun w => ~~~ w) true s)

/-- The four functions of SHASIG. -/
def shasig (which : Fin 4) (v : BitVec 64) : BitVec 64 :=
  match which with
  | 0 => v.rotateRight 28 ^^^ v.rotateRight 34 ^^^ v.rotateRight 39
  | 1 => v.rotateRight 14 ^^^ v.rotateRight 18 ^^^ v.rotateRight 41
  | 2 => v.rotateRight 1 ^^^ v.rotateRight 8 ^^^ (v >>> 7)
  | 3 => v.rotateRight 19 ^^^ v.rotateRight 61 ^^^ (v >>> 6)

def execShasig (x : Issue) (d a : Reg) (which : Fin 4) (s : State) : Host.Outcome State Fault Refusal :=
  .next (s.issue x (insSha d a) (fun s =>
    let t := s.thread x.gt.val
    .done (s.setThread x.gt.val (t.wrPair d (shasig which (t.rdPair a)))) .seq))

/-! ## CRC steps (R190) -/

/-- CRC feeds the most significant data bit first. -/
def crcStep (w n : Nat) (p st dat : Nat) : Nat :=
  (List.range n).foldl (fun st i =>
    let fb := ((st >>> (w - 1)) ^^^ (dat >>> (n - 1 - i))) % 2
    let st := (st * 2) % 2 ^ w
    if fb = 1 then st ^^^ (p % 2 ^ w) else st) (st % 2 ^ w)

/-- A CRC step of state d, data a and polynomial b; w and n are one more than their fields. -/
def execCrc1 (x : Issue) (d a b : Reg) (step : Nat → Nat → Nat → Nat) (s : State) : State :=
  s.issue x (insCrc d a b) (fun s =>
    let t := s.thread x.gt.val
    let r := step (t.rd b).toNat (t.rd d).toNat (t.rd a).toNat
    s.aluDone x.gt.val d false (BitVec.ofNat 32 r) t.flags)

def execCrc (x : Issue) (d a b : Reg) (w n : BitVec 5) (s : State) : Host.Outcome State Fault Refusal :=
  .next (execCrc1 x d a b (crcStep (w.toNat + 1) (n.toNat + 1)) s)
def execCrcr (x : Issue) (d a b : Reg) (w n : BitVec 5) (s : State) : Host.Outcome State Fault Refusal :=
  .next (execCrc1 x d a b (fun p => crcrStep (w.toNat + 1) (n.toNat + 1) (p % 2 ^ (w.toNat + 1))) s)

end Sys2Proof.Machine
end

