-- ==== Sys2Proof/Machine/CoreCtl.lean ====
section
/-!
DEFINITION. Core control: the slot table (R55 to R62), the thread commands as rows of the table
(R70 to R76), instruction cache invalidation (R84), and the retirement of long operations (R145 to
R152).
-/
namespace Sys2Proof.Machine

/-! ## The slot table (R58 to R62) -/

def slotTable (n i : Nat) : Nat := 0x10100000 + n * 0x10000 + 0x100 + 4 * i
def slotLive (n i : Nat) : Nat := 0x10100000 + n * 0x10000 + 0x200 + 4 * i
def fSlotPending (n : Nat) : Fld := ⟨0x10100000 + n * 0x10000 + 4, 8, 8⟩

/-- The pending table of a core, the word of each slot. -/
def State.pendingTable (s : State) (n : Nat) : List Word :=
  (List.range 64).map (fun i => s.pendReg (slotTable n i) &&& 0x8000003F)

/-- The live table of a core, the word of each slot. -/
def State.liveTable (s : State) (n : Nat) : List Word := (List.range 64).map (fun i => s.reg (slotLive n i))

/-- The owned slots of a table: slot and thread. -/
def ownedSlots (tb : List Word) : List (Nat × Nat) :=
  tb.zipIdx.filterMap (fun p => if p.1.getLsbD 31 then some (p.2, (bitsOf p.1 5 0).toNat) else none)

/-- The cyclic distance of two slots. -/
def slotDistance (a b : Nat) : Nat :=
  let d := max a b - min a b
  min d (64 - d)

/-- A table gives no thread more than 16 slots, nor two slots at a distance below 4 (R59). -/
def tableLegal (tb : List (Nat × Nat)) : Bool :=
  tb.all (fun p =>
    decide ((tb.filter (fun q => q.2 == p.2)).length ≤ 16) &&
    tb.all (fun q => q.1 == p.1 || q.2 != p.2 || decide (4 ≤ slotDistance p.1 q.1)))

/-- `SLOT_COMMIT.COMMIT` (R59 to R61). -/
def State.slotCommit (s : State) (n : Nat) : State :=
  let tb := s.pendingTable n
  if tableLegal (ownedSlots tb) then
    ({ s with capture := Map.set [] s.capture n tb }).setBit (fSlotPending n) true
  else s.refuse (.core n) 4

/-- A write that R456 refuses: from a thread that belongs to a virtual complex, or through a
window. -/
def State.slotPathBad (s : State) (who : Agent) : Bool :=
  match who with
  | .thread gt => (s.owner (ownThread gt.val)).isSome
  | .window _ => true
  | _ => false

/-- `SLOT_COMMIT.COMMIT` by an agent (R59, R456). -/
def State.slotCommitBy (s : State) (who : Agent) (n : Nat) : State :=
  if s.slotPathBad who then s.refuse (.core n) 4 else s.slotCommit n

/-- The slots a table gives thread t. -/
def slotsFor (tb : List Word) (t : Nat) : List Nat :=
  ((ownedSlots tb).filter (fun p => p.2 == t)).map (fun p => p.1)

/-- The captured table is applied at wheel position 0 (R60); a deterministic thread that is READY or
WAIT and whose slots change counts one contract break (R62). -/
def State.slotApply (s : State) (n : Nat) : State :=
  if s.bit (fSlotPending n) then
    let tb := Map.get [] s.capture n
    let old := s.liveTable n
    let s1 := (List.range 64).foldl (fun s i => s.setReg (slotLive n i) (tb.getD i 0)) s
    let s2 := { (s1.setBit (fSlotPending n) false) with capture := Map.erase s1.capture n }
    (List.range 64).foldl (fun s t =>
      let gt := 64 * n + t
      let st := s.fld (fState gt)
      if s.det gt ∧ (st = stReady ∨ st = stWait) ∧ slotsFor old t ≠ slotsFor tb t then
        (s.contractBreak gt none).atBoundary gt
      else s) s2
  else s

def execSlotCommit (who : Agent) (n : Core) (s : State) : Host.Outcome State Fault Refusal :=
  .next (s.atBlock who (.core n.val) 4 (fun s => s.slotCommitBy who n.val))

def execSlotTableApply (n : Core) (s : State) : Host.Outcome State Fault Refusal :=
  .next (s.slotApply n.val)

/-! ## Thread commands (R70 to R76) -/

/-- Offset of a thread's `THREAD_CTL` in its core block. -/
def ctlOff (gt : Nat) : Nat := 0x1000 + 0x40 * (gt % 64)

/-- A thread command at its core block; the thread's own settles later (R71, R105). -/
def State.threadCommand (s : State) (who : Agent) (gt : Nat) (cmd : Word) (f : State → State) : State :=
  s.atBlock who (.core (gt / 64)) (ctlOff gt) (fun s => s.ownOr who gt cmd f)

def execThreadStart (who : Agent) (gt : GT) (s : State) : Host.Outcome State Fault Refusal :=
  .next (s.threadCommand who gt.val 1 (fun s => s.cmdStart gt.val (ctlOff gt.val)))
def execThreadHalt (who : Agent) (gt : GT) (s : State) : Host.Outcome State Fault Refusal :=
  .next (s.threadCommand who gt.val 2 (fun s => s.cmdHalt gt.val (ctlOff gt.val) false))
def execThreadResume (who : Agent) (gt : GT) (s : State) : Host.Outcome State Fault Refusal :=
  .next (s.threadCommand who gt.val 4 (fun s => s.cmdResume gt.val (ctlOff gt.val)))
def execThreadStop (who : Agent) (gt : GT) (s : State) : Host.Outcome State Fault Refusal :=
  .next (s.threadCommand who gt.val 8 (fun s => s.cmdStop gt.val (ctlOff gt.val)))

/-! ## Instruction cache (R79 to R85) -/

/-- `ICACHE_CTL.INV_ALL`: every line of the core's cache is invalidated. The 128 cycles it takes
pass within the step, so INV_BUSY is never seen 1 (log 7). -/
def State.icacheInv (s : State) (n : Nat) : State := { s with icache := Map.erase s.icache n }

def execIcacheInvAll (who : Agent) (n : Core) (s : State) : Host.Outcome State Fault Refusal :=
  .next (s.atBlock who (.core n.val) 8 (fun s => s.icacheInv n.val))

/-! ## Long operations (R145 to R152, R166) -/

/-- rnd of R187: floor((v + 0x8000) / 0x1_0000). -/
def rnd16 (v : Int) : Int := (v + 0x8000).fdiv 0x10000

/-- Entry k of w bytes among the bytes gathered, as a signed number. -/
def entryAt (data : Map Byte) (w k : Nat) : Int :=
  (BitVec.ofNat (8 * w) (ofBytes ((List.range w).map (fun i => Map.get 0 data (k * w + i))))).toInt

/-- The interpolation of TLI between two entries at fraction f (R186). -/
def interpolate (e0 e1 : Int) (f : Nat) : Int := e0 + rnd16 ((e1 - e0) * f)

/-- The result of gathered bytes by form (R177, R186, R187). -/
def LoadForm.result (form : LoadForm) (data : Map Byte) : OpResult :=
  let raw (n : Nat) : Nat := ofBytes ((List.range n).map (fun i => Map.get 0 data i))
  match form with
  | .sext n => .value (BitVec.ofInt 32 (BitVec.ofNat (8 * n) (raw n)).toInt) 0
  | .zext n => .value (BitVec.ofNat 32 (raw n)) 0
  | .pair => .value (BitVec.ofNat 32 (raw 8)) (BitVec.ofNat 32 (raw 8 / 2 ^ 32))
  | .tli w f => .value (BitVec.ofInt 32 (interpolate (entryAt data w 0) (entryAt data w 1) f)) 0
  | .tli2 w fx fy =>
    let r0 := interpolate (entryAt data w 0) (entryAt data w 1) fx
    let r1 := interpolate (entryAt data w 2) (entryAt data w 3) fx
    .value (BitVec.ofInt 32 (r0 + rnd16 ((r1 - r0) * fy))) 0

/-- Bytes arrive for an operation, at a position; when none is still to come its result stands. -/
def LongOp.arrive (o : LongOp) (pos : Nat) (bs : List Byte) : LongOp :=
  let data := (bs.zipIdx pos).foldl (fun m p => Map.set 0 m p.2 p.1) o.data
  let need := o.need - 1
  { o with
    data := data, need := need
    result := match o.result with
      | some r => some r
      | none => if need = 0 then some (o.form.result data) else none }

/-- The reads of a table are no split access (R188). -/
def LoadForm.isTable (f : LoadForm) : Bool :=
  match f with
  | .tli _ _ => true
  | .tli2 _ _ _ => true
  | _ => false

/-- A target error arrives for an operation: its result is the first error to arrive (R131, R150). -/
def LongOp.fail (o : LongOp) (addr : BitVec 48) (second : Bool) : LongOp :=
  { o with
    need := o.need - 1
    result := match o.result with
      | some (.busError a x) => some (.busError a x)
      | _ => some (.busError addr (second && !o.form.isTable)) }

/-- Change the operation of a thread with a number; one that was discarded is gone (R76). -/
def State.modOp (s : State) (gt id : Nat) (f : LongOp → LongOp) : State :=
  s.modThread gt (fun t => { t with ops := t.ops.map (fun o => if o.id = id then f o else o) })

/-- The operation has its result and nothing of it is still to arrive. -/
def LongOp.ready (o : LongOp) : Bool := o.result.isSome && o.need == 0

/-- The late fault of a failed operation (R150). -/
def LongOp.lateRec (o : LongOp) : Option FaultRec :=
  match o.result with
  | some (.busError a second) =>
    some { precise 4 4 with seg := o.seg, acc := o.acc, addr := a, second := second, oppc := o.pc }
  | some .divZero => some { precise 9 0 with oppc := o.pc }
  | _ => none

/-- The registers an operation writes when it retires; a failed one writes none (R150). -/
def Thread.retire (t : Thread) (o : LongOp) : Thread :=
  match o.result with
  | some (.value lo hi) => if o.pair then t.wrPair o.d (Word.pair lo hi) else t.wr o.d lo
  | _ => t

/-- Fill the agreement entry of a primary's operation that retires with a value; that of one that failed is
filled when its fault is raised (R428, R432). -/
def State.agreeFill (s : State) (gt : Nat) (o : LongOp) : State :=
  match (s.thread gt).primaryOf, o.result with
  | some p, some (.value lo hi) =>
    if o.agree then
      s.modPair p (fun q => { q with agreed := q.agreed.map (fun e =>
        if !e.filled && e.op == o.id then { e with filled := true, value := some (Word.pair lo hi) } else e) })
    else s
  | _, _ => s

/-- A response that comes later than the pad is a contract break of the accessing instruction (R93, R94). -/
def State.padBreak (s : State) (gt : Nat) (padded late : Bool) (pc : Word) : State :=
  if padded && late then s.contractBreak gt (some pc) else s

/-- Retire an operation: its result is written, or its error falls due at the first boundary. -/
def State.retireOp (s : State) (gt : Nat) (o : LongOp) : State :=
  let s := s.agreeFill gt o
  let t := s.thread gt
  let t := { (t.retire o) with ops := t.ops.filter (fun p => p.id != o.id) }
  let t := match o.lateRec with
    | some r => { t with late := Map.insert t.late o.id r }
    | none => t
  (s.setThread gt t).atBoundary gt

/-- LONG_OP_RETIRE: the i-th outstanding operation of a thread retires, in any order (R167). `late` says
that the response of a bay or timer register came later than the pad (R93). -/
def execLongOpRetire (gt : GT) (i : Fin 4) (late : Bool) (s : State) : Host.Outcome State Fault Refusal :=
  .next (match (s.thread gt.val).ops[i.val]? with
    | some o => if o.ready then (s.padBreak gt.val o.padded late o.pc).retireOp gt.val o else s
    | none => s)

end Sys2Proof.Machine
end

