-- ==== Sys2Proof/Machine/Ledger.lean ====
section
/-!
DEFINITION. The ledger (R362 to R372): allocation, shares and quotas, completion against the
generation, timeouts and limbo; the requests it presents on the system initiator ports (R575, R576); and
the delivery of a response to whoever awaits it.
-/
namespace Sys2Proof.Machine

def fNovcUsed : Fld := ⟨0x106C0004, 14, 1⟩
def fLimbo : Fld := ⟨0x106C000C, 14, 0⟩
def fQuota (v : Nat) : Fld := ⟨0x106C1000 + 0x10 * v, 13, 0⟩
def fCount (v : Nat) : Fld := ⟨0x106C1004 + 0x10 * v, 13, 0⟩
def fOldCount (v : Nat) : Fld := ⟨0x106C1008 + 0x10 * v, 13, 0⟩
def fOldGen (v : Nat) : Fld := ⟨0x106C1008 + 0x10 * v, 27, 16⟩

/-! ## Channels as requesters (R375, R376) -/

def chReg (c off : Nat) : Nat := 0x10600000 + c / 32 * 0x10000 + 0x100 * (c % 32) + off
def fChState (c : Nat) : Fld := ⟨chReg c 4, 1, 0⟩
def chIdle : Word := 0
def chActive : Word := 1
def chAborting : Word := 2
def chReserved : Word := 3

def State.chan (s : State) (c : Nat) : ChanS := Map.get {} s.chans c
def State.setChan (s : State) (c : Nat) (x : ChanS) : State := { s with chans := Map.set {} s.chans c x }
def State.modChan (s : State) (c : Nat) (f : ChanS → ChanS) : State := s.setChan c (f (s.chan c))

/-- The answer to access `seq` of a channel: the bytes, or none for an error. -/
def ChanS.answered (x : ChanS) (seq : Nat) (ans : Option (List Byte)) : ChanS :=
  { x with out := x.out.map (fun r => if r.seq = seq then { r with ans := some ans } else r) }

/-! ## Virtual complexes as requesters (R475) -/

def State.vc (s : State) (v : Nat) : VcS := Map.get {} s.vcs v
def State.modVc (s : State) (v : Nat) (f : VcS → VcS) : State :=
  { s with vcs := Map.set {} s.vcs v (f (s.vc v)) }

/-- The answer to piece `seq` of an image. -/
def ImageJob.answered (j : ImageJob) (seq : Nat) (ans : Option (List Byte)) : ImageJob :=
  { j with parts := j.parts.map (fun p => if p.1 = seq then (p.1, some ans) else p) }

/-! ## Delivery -/

/-- The bytes of a line, and a line from bytes. -/
def lineBytes (l : Line) : List Byte := toBytes 64 l.toNat
def bytesLine (bs : List Byte) : Line := BitVec.ofNat 512 (ofBytes bs)

/-- Mark the response of a thread's store. -/
def State.answerStore (s : State) (gt id : Nat) (ok : Bool) : State :=
  s.modThread gt (fun t => { t with
    stores := t.stores.map (fun o => if o.id = id then { o with answer := some ok } else o) })

/-- Data arrive for whoever awaits an access. What a shadow reads itself it reads complemented
(R423). -/
def State.deliver (s : State) (ref : ReqRef) (bs : List Byte) : State :=
  match ref with
  | .op gt id pos =>
    s.modOp gt id (fun o => o.arrive pos
      (if (s.thread gt).isShadow then bs.map (fun b => ~~~ b) else bs))
  | .store gt id => s.answerStore gt id true
  | .fetch gt id => s.modThread gt (fun t =>
      if t.fetching.any (fun f => f.2 == id) then { t with fetched := some (bytesLine bs) } else t)
  | .chan c seq => s.modChan c (fun x => x.answered seq (some bs))
  | .host id => { s with answers := s.answers ++ [(id, some bs)] }
  | .image v seq => s.modVc v (fun x => { x with job := x.job.map (fun j => j.answered seq (some bs)) })
  | .posted => s

/-- A line fetch of a thread met a target error: the fault, of the instruction at pc, is raised where that
instruction needs the line; a line fetched ahead of need, or for a thread that has gone on to another line,
raises none (R80, R123; FAULT_ADDR is the address of the instruction, log 77). -/
def State.fetchError (s : State) (gt id line : Nat) : State :=
  if (s.thread gt).fetching.all (fun f => f.2 != id) then s else
  let s := s.modThread gt (fun t => { t with fetching := none })
  let t := s.thread gt
  match s.checkAccess gt 7 .fetch t.pc.toNat 4 with
  | .error _ => s
  | .ok a =>
    if lineOf a = line ∧ s.fld (fState gt) = stReady ∧ t.raised.isNone ∧ !s.lineHit gt line then
      s.raise gt { precise 4 4 with seg := 7, acc := 1, addr := BitVec.ofNat 48 a }
    else s

/-- A target error arrives for whoever awaits an access, at an address (R131, R150, R123). -/
def State.deliverError (s : State) (ref : ReqRef) (a : Nat) : State :=
  match ref with
  | .op gt id pos => s.modOp gt id (fun o => o.fail (BitVec.ofNat 48 a) (pos != 0))
  | .store gt id => s.answerStore gt id false
  | .fetch gt id => s.fetchError gt id (lineOf a)
  | .chan c seq => s.modChan c (fun x => x.answered seq none)
  | .host id => { s with answers := s.answers ++ [(id, none)] }
  | .image v seq => s.modVc v (fun x => { x with job := x.job.map (fun j => j.answered seq none) })
  | .posted => s

/-! ## Shares (R363, R365, R366, R369) -/

/-- The virtual complex of a resource and its generation, as they stand. -/
def State.vcTagOf (s : State) (own : Nat) : Option (Nat × Nat) :=
  match s.owner own with
  | some v => some (v, (s.fld (vcGen v)).toNat)
  | none => none

/-- The virtual complex of a requester and its generation, as they stand: a thread's, or a channel's that
is not reserved (R363, R407). -/
def State.reqTag (s : State) (r : Nat) : Option (Nat × Nat) :=
  if r < 2048 then s.vcTagOf (ownThread r)
  else if r < 2176 ∧ s.fld (fChState (r - 2048)) ≠ chReserved then s.vcTagOf (ownChan (r - 2048))
  else none

/-- Entries the gateway has in use, limbo excluded. -/
def State.gwInUse (s : State) : Nat :=
  (s.ledger.filter (fun p => match p.2 with
    | some e => !e.limbo && (match e.use with | .access _ => false | _ => true)
    | none => false)).length

/-- The share of a request has room. -/
def State.shareRoom (s : State) (e : LEntry) : Bool :=
  match e.use with
  | .access _ =>
    (match e.vc with
      | some (v, _) => decide (s.fld (fCount v) < s.fld (fQuota v))
      | none => decide (s.fld fNovcUsed < s.fld ⟨0x106C0008, 13, 0⟩))
  | _ => decide (s.gwInUse < 1024)

/-- The lowest index neither allocated nor in limbo. -/
def freeIndex (m : Map (Option LEntry)) (k : Nat) : Nat :=
  match m with
  | [] => k
  | p :: r => if p.1 = k then freeIndex r (k + 1) else k

/-- An index is free. -/
def State.indexFree (s : State) : Bool := decide (freeIndex s.ledger 0 < 16384)

/-- An earlier request of the same requester to the same line is outstanding (R364). -/
def State.lineHeld (s : State) (e : LEntry) : Bool :=
  s.ledger.any (fun p => match p.2 with
    | some x => !x.limbo && x.reqr == e.reqr && lineOf x.addr == lineOf e.addr
    | none => false)

/-- Count an entry in its share, and present QUOTA_REACHED when a virtual complex's count reaches its
quota (R366). -/
def State.shareUp (s : State) (e : LEntry) : State :=
  match e.use, e.vc with
  | .access _, some (v, _) =>
    let s := s.countUp (fCount v)
    if s.fld (fCount v) = s.fld (fQuota v) then s.present 0x17AA false 0 else s
  | .access _, none => s.countUp fNovcUsed
  | _, _ => s

/-- Subtract one from a counter field. -/
def State.countDown (s : State) (x : Fld) : State :=
  s.setFld x (BitVec.ofNat 32 ((s.fld x).toNat - 1))

/-- An entry leaves its share (R370): the count of its generation. -/
def State.shareDown (s : State) (e : LEntry) : State :=
  match e.use, e.vc with
  | .access _, some (v, g) =>
    if g = (s.fld (vcGen v)).toNat then s.countDown (fCount v) else s.countDown (fOldCount v)
  | .access _, none => s.countDown fNovcUsed
  | _, _ => s

/-! ## The way out (R49, R363) -/

/-- The system initiator port of a request: IOVA bit 6. -/
def sipPort (a : Nat) : Fin 2 := if a / 64 % 2 = 0 then 0 else 1

/-- The request crossing queue of a system initiator port has room: 64 requests (R49). -/
def State.sipRoom (s : State) (p : Fin 2) : Bool :=
  decide ((s.xq.filter (fun q => q.1 == .toSip p)).length < 64)

/-- The 16 KiB replay buffer of a bridge port has room for a flit of 80 bytes (R49). -/
def State.linkRoom (s : State) (p : Nat) : Bool := decide ((s.link p).out.length + (s.link p).wait.length < 204)

/-- A request finds room on its way out; one with no route needs none. -/
def State.wayRoom (s : State) (e : LEntry) : Bool :=
  if isRemote e.addr then
    (match s.route (remoteDie e.addr) with
      | some p => s.linkRoom p
      | none => true)
  else s.sipRoom (sipPort e.addr)

/-- A request with the virtual complex and the generation its requester has now (R363). -/
def State.tagged (s : State) (e : LEntry) : LEntry := { e with vc := s.reqTag e.reqr }

/-- A request can be issued now. -/
def State.canAllocate (s : State) (e : LEntry) : Bool :=
  s.shareRoom e && !s.lineHeld e && s.indexFree && s.wayRoom e

def fin5 (n : Nat) : Core := BitVec.toFin (BitVec.ofNat 5 n)
def fin2 (n : Nat) : Fin 4 := BitVec.toFin (BitVec.ofNat 2 n)

/-- An item enters a crossing queue. -/
def State.xqPush (s : State) (q : Crossing) (it : XItem) : State := { s with xq := s.xq ++ [(q, it)] }

/-- Take an entry. The request enters the outbound path of its route, or the crossing queue of its system
initiator port. -/
def State.allocate (s : State) (e : LEntry) : State :=
  let tmo := (s.fld ⟨0x106C0000, 4, 0⟩).toNat
  let i := freeIndex s.ledger 0
  let s := { s with ledger := Map.set none s.ledger i (some { e with tmo := tmo }) }
  let s := s.shareUp e
  if isRemote e.addr then
    (match s.route (remoteDie e.addr) with
      | some p => s.linkPush p (.request i)
      | none => s)
  else s.xqPush (.toSip (sipPort e.addr)) (.sip i)

/-- The request goes to a die with no route (R557). -/
def State.noRoute (s : State) (e : LEntry) : Bool :=
  isRemote e.addr && (s.route (remoteDie e.addr)).isNone

/-- Tell whoever awaits a request of the ledger that it failed. -/
def State.entryError (s : State) (e : LEntry) : State :=
  match e.use with
  | .access ref => s.deliverError ref e.addr
  | _ => s

/-- Send a request through the ledger: it takes an entry at once, or is held unissued (R366, R369);
with no route to its die it completes at once as a target error (R557). -/
def State.ledgerSend (s : State) (e : LEntry) : State :=
  let e := s.tagged e
  if s.noRoute e then s.entryError e
  else if s.canAllocate e ∧ s.ledgerQ.isEmpty then s.allocate e
  else { s with ledgerQ := s.ledgerQ ++ [e] }

/-- A request of a requester for an access, as it reaches the ledger. -/
def accessEntry (ref : ReqRef) (reqr a n : Nat) (wr : Option (List Byte)) : LEntry :=
  ⟨.access ref, reqr, a, n, wr, none, 0, false⟩

/-- LEDGER_ISSUE: a held request takes an entry when its share, its line, an index and its way out allow.
Requests to different lines are issued in the order received, so only one that cannot be issued is passed
over (R364). -/
def execLedgerIssue (i : Nat) (s : State) : Host.Outcome State Fault Refusal :=
  .next (match s.ledgerQ[i]? with
    | some e =>
      let e := s.tagged e
      if s.canAllocate e ∧ (s.ledgerQ.take i).all (fun x => !s.canAllocate (s.tagged x)) then
        let s := { s with ledgerQ := s.ledgerQ.eraseIdx i }
        if s.noRoute e then s.entryError e else s.allocate e
      else s
    | none => s)

/-- `LEDGER_STATUS.NO_INDEX`: a request whose share has room is held for want of an index (R369). -/
def State.noIndex (s : State) : Bool :=
  !s.indexFree && s.ledgerQ.any (fun e => s.shareRoom (s.tagged e))

/-! ## Requests on the system initiator ports (R575, R576) -/

/-- The stream identifier of an entry: its virtual complex, 0x40 without one, 0x41 for the gateway. -/
def LEntry.sid (e : LEntry) : BitVec 7 :=
  match e.use with
  | .access _ => (match e.vc with
    | some (v, _) => BitVec.ofNat 7 v
    | none => 0x40)
  | _ => 0x41

/-- The kind of an entry's request. -/
def LEntry.sipKind (e : LEntry) : SipKind :=
  match e.use with
  | .access _ => if e.wr.isSome then .write else .read
  | .gwFill _ true => .rdUnique
  | .gwFill _ false => .rdShared
  | .gwWrite _ => .wbData

/-- The request of an entry as its system initiator port presents it. -/
def LEntry.request (e : LEntry) (tag : Nat) : SipReq :=
  ⟨(sipPort e.addr).val, BitVec.ofNat 48 (e.addr - 0x100000000000), BitVec.ofNat 14 tag, e.sid, e.sipKind, e.n,
    e.wr.getD []⟩

/-- The request of a ledger entry leaves through its port. One whose entry is gone or in limbo leaves all
the same: its fields are those of the entry, which keeps its index until the response (R368). -/
def State.sipPresent (s : State) (tag : Nat) : State :=
  match Map.get none s.ledger tag with
  | some e => { s with sip := s.sip ++ [e.request tag] }
  | none => s

/-- The request of an index has left the complex. -/
def State.sipSent (s : State) (tag : Nat) : Bool :=
  !s.xq.any (fun q => q.2 == .sip tag) && s.links.all (fun l => !l.2.wait.contains (.request tag))

end Sys2Proof.Machine
end

