-- ==== Sys2Proof/Machine/Caches.lean ====
section
/-!
DEFINITION. The data caches (R334 to R339) and the coherence messages in flight with their credits (R343
to R345).
-/
namespace Sys2Proof.Machine

/-! ## Acts on bytes -/

def MemAct.isWrite (m : MemAct) : Bool :=
  match m with
  | .read _ => false
  | _ => true

/-- The bytes an act leaves (R309). -/
def MemAct.apply (m : MemAct) (old : List Byte) : List Byte :=
  match m with
  | .read _ => old
  | .write bs => bs
  | .setBits bs => List.zipWith (fun o b => o ||| b) old bs
  | .clrBits bs => List.zipWith (fun o b => o &&& ~~~ b) old bs

/-- Any agent writes a line of the bins or the granary: instruction cache lines that hold it are
invalidated (R83). -/
def State.icacheDrop (s : State) (line : Nat) : State :=
  let kept := s.icache.map (fun p => (p.1, p.2.filter (fun l => l.1 != line)))
  { s with icache := kept.filter (fun p => p.2 != []) }

/-- Write bank bytes within one line. -/
def State.bankWrite (s : State) (a : Nat) (bs : List Byte) : State :=
  (s.setBytes a bs).icacheDrop (lineOf a)

/-- Perform an access at its bank and answer whoever awaits it. -/
def State.performAt (s : State) (acc : MemAcc) : State :=
  let old := s.bytes acc.addr acc.act.size
  let s := if acc.act.isWrite then s.bankWrite acc.addr (acc.act.apply old) else s
  s.deliver acc.ref old

/-! ## Messages in flight (R343 to R345) -/

inductive CohClass where
  | req | fwd | rsp | dat
  deriving DecidableEq, Repr

/-- The class of a message (R343). -/
def CohKind.cls (k : CohKind) : CohClass :=
  match k with
  | .rdShared | .rdUnique | .upgrade => .req
  | .snpShared | .snpInv => .fwd
  | .ackShared | .ackInv | .invWb | .evictClean | .compAck | .grantE | .retry | .proceed | .wbAck => .rsp
  | .snpDataS | .snpDataI | .wbData | .fillS | .fillE => .dat

/-- The message travels from a home to a cache. -/
def CohKind.toCache (k : CohKind) : Bool :=
  match k with
  | .snpShared | .snpInv | .wbAck | .fillS | .fillE | .grantE | .retry | .proceed => true
  | _ => false

/-- Two messages share the credits of a core's class and direction (R345). -/
def CohMsg.alike (m x : CohMsg) : Bool :=
  x.c == m.c && x.kind.cls == m.kind.cls && x.kind.toCache == m.kind.toCache

/-- Requests of core c that a home has received and not yet taken into a transaction or answered: each
still holds its credit (R345). -/
def State.reqQueued (s : State) (c : Nat) : Nat :=
  (s.homeQ.filter (fun q => match q with
    | .cache d _ _ => d == c
    | _ => false)).length

/-- Credits of a class (R49). -/
def CohClass.credits (k : CohClass) : Nat :=
  match k with
  | .req => 8
  | .fwd => 8
  | .rsp => 16
  | .dat => 16

/-- A message has its credit: those sent before it, of its class and direction, leave it one. Until then
it waits where it was formed (R49, R345). -/
def State.credited (s : State) (m : CohMsg) : Bool :=
  let before := ((s.coh.takeWhile (fun x => x != m)).filter m.alike).length
  decide (before + (if m.kind.cls = .req then s.reqQueued m.c else 0) < m.kind.cls.credits)

def State.sendMsg (s : State) (k : CohKind) (c line : Nat) (data : Line) : State :=
  { s with coh := s.coh ++ [⟨k, c, line, data⟩] }

/-- Take the message of a kind between core c and the home of a line, if it has its credit. Messages of one
class from a home to one cache about one line arrive in the order sent; no class waits for another (R344,
log 17). -/
def State.takeMsg (s : State) (k : CohKind) (c line : Nat) : Option (CohMsg × State) :=
  let p (m : CohMsg) : Bool := m.c == c && m.line == line &&
    (if k.toCache then m.kind.toCache && m.kind.cls == k.cls else m.kind == k)
  match s.coh.find? p with
  | some m => if m.kind = k ∧ s.credited m then some (m, { s with coh := s.coh.erase m }) else none
  | none => none

/-! ## Data caches (R334 to R337) -/

def cacheKey (c line : Nat) : Nat := 2 ^ 42 * c + line
def State.cline (s : State) (c line : Nat) : Option CLine := Map.get none s.caches (cacheKey c line)
def State.setCline (s : State) (c line : Nat) (x : Option CLine) : State :=
  { s with caches := Map.set none s.caches (cacheKey c line) x }

/-- Lines of core c in the cache: line and contents. -/
def State.linesOf (s : State) (c : Nat) : List (Nat × CLine) :=
  s.caches.filterMap (fun p =>
    if p.1 / 2 ^ 42 = c then p.2.map (fun x => (p.1 % 2 ^ 42, x)) else none)

/-- Lines in the writeback buffer of core c. -/
def State.wbLines (s : State) (c : Nat) : List Nat := ((s.linesOf c).filter (fun p => p.2.wb)).map (fun p => p.1)

/-- The writeback buffer of core c has an entry free: four lines (R337). -/
def State.wbRoom (s : State) (c : Nat) : Bool := decide ((s.wbLines c).length < 4)

/-- A line leaves the cache through the writeback buffer (R337). -/
def State.evict (s : State) (c line : Nat) : State :=
  match s.cline c line with
  | some x =>
    if x.wb then s
    else (s.setCline c line (some { x with wb := true })).sendMsg
      (if x.st = 3 then .wbData else .evictClean) c line (if x.st = 3 then x.data else 0)
  | none => s

/-- Core c has a request outstanding for the line. -/
def State.requested (s : State) (c line : Nat) : Bool :=
  s.creq.any (fun r => r.1 == c && r.2.1 == line)

/-- A request of a cache has ended. -/
def State.reqDone (s : State) (c line : Nat) : State :=
  { s with creq := s.creq.filter (fun r => !(r.1 == c && r.2.1 == line)) }

/-- Ways of the line's set in use: lines held and lines requested that are not held. -/
def State.waysUsed (s : State) (c line : Nat) : Nat :=
  ((s.linesOf c).filter (fun p => !p.2.wb && p.1 % 64 == line % 64)).length +
  (s.creq.filter (fun r => r.1 == c && r.2.1 % 64 == line % 64 && (s.cline c r.2.1).isNone)).length

/-- Lines of the set that can be victims: held, with no request of their own. Which one is chosen is
not said, so it is a free value. -/
def State.victims (s : State) (c line : Nat) : List Nat :=
  ((s.linesOf c).filter (fun p =>
    !p.2.wb && p.1 % 64 == line % 64 && !s.requested c p.1)).map (fun p => p.1)

def State.sendReq (s : State) (c line : Nat) (k : CohKind) : State :=
  { (s.sendMsg k c line 0) with creq := s.creq ++ [(c, line, k)] }

/-- Send the request a waiting access needs, unless one is outstanding, the line stands in the
writeback buffer, or a victim is needed and the buffer is full (R335, R337). -/
def State.trySend (s : State) (c line : Nat) (write : Bool) : State :=
  if s.requested c line then s
  else match s.cline c line with
    | some x => if x.wb || !write || x.st != 1 then s else s.sendReq c line .upgrade
    | none =>
      let k := if write then CohKind.rdUnique else CohKind.rdShared
      if s.waysUsed c line < 4 then s.sendReq c line k
      else if s.wbRoom c then
        match s.victims c line with
        | [] => s
        | v :: vs =>
          let i := (Config.freeWord s.freeCtr).toNat % (vs.length + 1)
          ((s.drawn).evict c ((v :: vs).getD i v)).sendReq c line k
      else s

/-- The access can be performed in a line's state. -/
def CLine.serves (x : CLine) (write : Bool) : Bool := !x.wb && (if write then decide (2 ≤ x.st) else decide (1 ≤ x.st))

/-- Perform an access on a cached line; a store makes it MODIFIED. A line of the system region in an
instruction cache stays (R83). -/
def State.performCached (s : State) (c : Nat) (x : CLine) (acc : MemAcc) : State :=
  let bs := lineBytes x.data
  let o := acc.addr % 64
  let old := (bs.drop o).take acc.act.size
  let line := lineOf acc.addr
  let s :=
    if acc.act.isWrite then
      (let s := s.setCline c line (some { x with
        st := 3, data := bytesLine (bs.take o ++ acc.act.apply old ++ bs.drop (o + acc.act.size)) })
       if isGwLine line then s else s.icacheDrop line)
    else s
  s.deliver acc.ref old

/-- Serve the accesses of a core that wait for a line, in order, as far as its state allows. -/
def State.serveWait (s : State) (fuel c line : Nat) : State :=
  match fuel with
  | 0 => s
  | k + 1 =>
    match s.dwait.find? (fun p => p.1 == c && lineOf p.2.addr == line) with
    | none => s
    | some (_, acc) =>
      match s.cline c line with
      | some x =>
        if x.serves acc.act.isWrite then
          ((({ s with dwait := s.dwait.erase (c, acc) } : State).performCached c x acc)).serveWait k c line
        else s.trySend c line acc.act.isWrite
      | none => s.trySend c line acc.act.isWrite

/-! ## Flushes (R339) -/

def State.flushS (s : State) (c : Nat) : FlushS := Map.get {} s.flush c
def State.modFlush (s : State) (c : Nat) (f : FlushS → FlushS) : State :=
  { s with flush := Map.set {} s.flush c (f (s.flushS c)) }

/-- The flush has a line still to send: it is in a set not yet passed. -/
def FlushS.names (f : FlushS) (line : Nat) : Bool :=
  decide (f.all ≤ line % 64) || (isGwLine line && decide (f.gw ≤ line % 64))

/-- The line the flush sends next: of the lines it names, one of the lowest set. -/
def State.flushNext (s : State) (c : Nat) : Option Nat :=
  let f := s.flushS c
  (((s.linesOf c).filter (fun p => !p.2.wb && f.names p.1)).map (fun p => p.1)).foldl (fun best l =>
    match best with
    | some b => if l % 64 < b % 64 then some l else some b
    | none => some l) none

/-- The flush has come to a set. -/
def FlushS.reach (f : FlushS) (set : Nat) : FlushS := { f with all := max f.all set, gw := max f.gw set }

/-- A flush sends line after line, set after set, as the writeback buffer has room; a line with a request
of its own outstanding is sent when that has ended (R337, R339, log 78). -/
def State.flushPump (s : State) (fuel c : Nat) : State :=
  match fuel with
  | 0 => s
  | k + 1 =>
    match s.flushNext c with
    | none => s.modFlush c (fun f => f.reach 64)
    | some l =>
      let s := s.modFlush c (fun f => f.reach (l % 64))
      if s.wbRoom c && !s.requested c l then
        ((s.evict c l).modFlush c (fun f => { f with out := f.out ++ [l] })).flushPump k c
      else s

/-- FLUSH_BUSY clears when nothing is left to send or to be acknowledged. -/
def State.flushEnd (s : State) (c : Nat) : State :=
  let f := s.flushS c
  if s.bit (fFlushBusy c) && decide (64 ≤ f.all) && decide (64 ≤ f.gw) && f.out.isEmpty then
    ({ s with flush := Map.set {} s.flush c {} } : State).setBit (fFlushBusy c) false
  else s

/-- Whatever a core's cache can now send is sent. -/
def State.cachePump (s : State) (c : Nat) : State :=
  let s := if s.bit (fFlushBusy c) then s.flushPump 257 c else s
  let s := s.dwait.foldl (fun s p => if p.1 = c then s.serveWait 1 c (lineOf p.2.addr) else s) s
  s.flushEnd c

/-- A flush begins, of every line or of the system region's: `f` sets its place. The answers to lines that
stand in the writeback buffer already are awaited too (log 78). -/
def State.startFlush (s : State) (c : Nat) (f : FlushS → FlushS) : State :=
  let s := s.modFlush c (fun x => f { x with out := x.out ++ (s.wbLines c).filter (fun l => !x.out.contains l) })
  (s.setBit (fFlushBusy c) true).cachePump c

/-- An access of core c that its data cache serves (R334, R335, R149). -/
def State.cacheAccess (s : State) (c : Nat) (acc : MemAcc) : State :=
  let line := lineOf acc.addr
  let x := s.cline c line
  let s := if (x.all (fun l => l.wb)) then s.countUp ⟨0x10100044 + c * 0x10000, 31, 0⟩ else s
  let s := { s with dwait := s.dwait ++ [(c, acc)] }
  s.serveWait 1 c line

/-! ## Flush and setting commands (R339) -/

/-- FLUSH_ALL; without effect while a flush runs. -/
def State.flushAll (s : State) (n : Nat) : State :=
  if s.bit (fFlushBusy n) then s else s.startFlush n (fun f => { f with all := 0 })

def execDcacheFlushAll (who : Agent) (n : Core) (s : State) : Host.Outcome State Fault Refusal :=
  .next (s.atBlock who (.core n.val) 0x40 (fun s => s.flushAll n.val))

/-- Writing 0 to ENABLE flushes every line, and system accesses that were cached wait too; writing 0 to
SYS_CACHE flushes the system-region lines. -/
def State.dcacheOff (s : State) (n : Nat) : State :=
  if s.bit (fDcEnable n) then
    (s.setBit (fDcEnable n) false).startFlush n (fun f => { f with all := 0, sys := f.sys || s.bit (fSysCache n) })
  else s
def State.sysCacheOff (s : State) (n : Nat) : State :=
  if s.bit (fSysCache n) then
    (s.setBit (fSysCache n) false).startFlush n (fun f => { f with gw := 0, sys := f.sys || s.bit (fDcEnable n) })
  else s

def execDcacheDisable (who : Agent) (n : Core) (s : State) : Host.Outcome State Fault Refusal :=
  .next (s.atBlock who (.core n.val) 0x40 (fun s => s.dcacheOff n.val))
def execSysCacheDisable (who : Agent) (n : Core) (s : State) : Host.Outcome State Fault Refusal :=
  .next (s.atBlock who (.core n.val) 0x40 (fun s => s.sysCacheOff n.val))

end Sys2Proof.Machine
end

