-- ==== Sys2Proof/Machine/Coherence.lean ====
section
/-!
DEFINITION. The homes of granary and system lines (R340 to R354): entries, transactions, requests in the
order received, recalls and promises, accesses that do not cache, snoops of the SoC; and the global fence
(R359). A row of the coherence message classes is the arrival of one message in flight; the host-side
agent, number 32, is the SoC's, so its own messages come from outside (log 17).
-/
namespace Sys2Proof.Machine

/-! ## Entries (R340, R341) -/

/-- The set of a line: 256 sets in each of 8 slices, and 1,024 sets in the gateway. -/
def setOf (line : Nat) : Nat :=
  if isGwLine line then 2048 + line % 1024
  else
    let k := line - 0x1000000 / 64
    (k / 49152) * 256 + (k % 49152) % 256

def State.dentry (s : State) (line : Nat) : Option DEntry := Map.get none s.dir line
def State.setDentry (s : State) (line : Nat) (e : Option DEntry) : State :=
  { s with dir := Map.set none s.dir line e }

/-- The open transaction of a line. -/
def State.txn (s : State) (line : Nat) : Option Txn := (s.dentry line).bind (fun e => e.txn)

/-- A recall under way keeps its way for a request of the line (R351). -/
def State.wayAwaited (s : State) (line : Nat) : Bool :=
  s.dir.any (fun p => match p.2.bind (fun e => e.txn.bind (fun t => t.next)) with
    | some (_, _, l) => l == line
    | none => false)

/-- The line's entry is busy (R342), or a request of the line has been taken and waits for its way. -/
def State.lineBusy (s : State) (line : Nat) : Bool := (s.txn line).isSome || s.wayAwaited line

/-- Entries of a set, and ways reserved there for promises (R352). -/
def State.setEntries (s : State) (set : Nat) : List (Nat × DEntry) :=
  s.dir.filterMap (fun p => if setOf p.1 = set then p.2.map (fun e => (p.1, e)) else none)
def State.reserved (s : State) (set : Nat) : Nat :=
  (s.promises.filter (fun p => p.1 == set && p.2.2.2)).length

/-- Promises of a set for which no PROCEED has been sent. -/
def State.unserved (s : State) (set : Nat) : List (Nat × Nat × Nat × Bool) :=
  s.promises.filter (fun p => p.1 == set && !p.2.2.2)

/-- A way of the set is free: it holds no entry and is not reserved. -/
def State.wayFree (s : State) (set : Nat) : Bool :=
  decide ((s.setEntries set).length + s.reserved set < 8)

/-- The line of a request at a home. -/
def HomeReq.line (q : HomeReq) : Nat :=
  match q with
  | .cache _ _ l => l
  | .access acc => lineOf acc.addr
  | .agent _ l _ => l
  | .snoop l _ _ => l

/-! ## Transactions (R342, R346, R347, R349, R351) -/

/-- Send a forward to every holder named. -/
def State.sendSnoops (s : State) (hs : List Nat) (inv : Bool) (line : Nat) : State :=
  hs.foldl (fun s h => s.sendMsg (if inv then .snpInv else .snpShared) h line 0) s

/-- Open a transaction under an entry: it is busy, and used. -/
def State.openTxn (s : State) (line : Nat) (e : DEntry) (t : Txn) : State :=
  let s := { s with dirClock := s.dirClock + 1 }
  (s.setDentry line (some { e with txn := some t, used := s.dirClock })).sendSnoops t.wait t.inv line

/-- A recall of a line (R351, R355), for the request that waits for its way if there is one. -/
def State.openRecall (s : State) (line : Nat) (e : DEntry) (next : Option (Nat × CohKind × Nat)) : State :=
  (s.countUp ⟨0x1070000C, 31, 0⟩).openTxn line e { kind := .recall, wait := e.sharers, inv := true, next := next }

/-- The least recently used entry of a set that is not busy (R351). -/
def State.lruVictim (s : State) (set : Nat) : Option (Nat × DEntry) :=
  ((s.setEntries set).filter (fun p => p.2.txn.isNone)).foldl (fun best p =>
    match best with
    | some b => if p.2.used < b.2.used then some p else some b
    | none => some p) none

/-- A way of the set may have become free: it is reserved for the oldest promise, and PROCEED is sent. Where
an entry has only stopped being busy, it is recalled, so that its way becomes free for that promise (R351,
R352, log 79). -/
def State.servePromise (s : State) (set : Nat) : State :=
  match s.unserved set with
  | [] => s
  | (t, c, l, _) :: r =>
    if s.wayFree set then
      ({ s with promises := s.promises.map (fun p =>
          if p == (t, c, l, false) then (t, c, l, true) else p) } : State).sendMsg .proceed c l 0
    else
      let under := (s.setEntries set).filter (fun p => match p.2.txn with
        | some t => t.kind == .recall && t.next.isNone
        | none => false)
      if under.length ≤ r.length then
        match s.lruVictim set with
        | some (v, e) => s.openRecall v e none
        | none => s
      else s

/-- A promise has been kept, or is no longer wanted. -/
def State.dropPromise (s : State) (c line : Nat) : State :=
  { s with promises := s.promises.filter (fun p => !(p.1 == setOf line && p.2.1 == c && p.2.2.1 == line)) }

/-- The reissued request of a promise finds its way reserved. -/
def State.promised (s : State) (c line : Nat) : Bool := s.promises.contains (setOf line, c, line, true)

/-- A home takes a caching request into a transaction under an entry (R346, R347). -/
def State.homeTake (s : State) (c : Nat) (k : CohKind) (line : Nat) (e : DEntry) : State :=
  let hs := e.sharers.filter (fun h => h != c)
  let k := if k = .upgrade ∧ !e.sharers.contains c then CohKind.rdUnique else k
  s.openTxn line e (match k with
    | .upgrade => { kind := .upgrade, req := c, wait := hs, inv := true }
    | .rdUnique => { kind := .unique, req := c, wait := hs, inv := true }
    | _ =>
      if hs = [] then { kind := .unique, req := c }
      else if e.excl then { kind := .shared, req := c, wait := hs }
      else { kind := .shared, req := c })

/-- No entry. -/
def noEntryYet : DEntry := ⟨[], false, none, 0⟩

/-- RETRY is sent and a promise recorded (R352). -/
def State.homeRetry (s : State) (c line : Nat) : State :=
  let s := s.countUp ⟨0x10700008, 31, 0⟩
  { (s.sendMsg .retry c line 0) with promises := s.promises ++ [(setOf line, c, line, false)] }

/-- A caching request whose line is not busy: it takes the entry, a free way or its promised way; recalls a
victim; or is answered RETRY (R342, R346, R351, R352). -/
def State.homeReq (s : State) (c : Nat) (k : CohKind) (line : Nat) : State :=
  let set := setOf line
  match s.dentry line with
  | some e =>
    if s.promised c line then ((s.dropPromise c line).servePromise set).homeTake c k line e
    else s.homeTake c k line e
  | none =>
    if s.promised c line then (s.dropPromise c line).homeTake c k line noEntryYet
    else if s.wayFree set then s.homeTake c k line noEntryYet
    else if !(s.unserved set).isEmpty then s.homeRetry c line
    else match s.lruVictim set with
      | some (v, e) => s.openRecall v e (some (c, k, line))
      | none => s.homeRetry c line

/-- The holders an access that does not cache is preceded by forwards to (R349). -/
def DEntry.forwards (e : DEntry) (write : Bool) : List Nat := if write || e.excl then e.sharers else []

/-- Open the transaction of an access's or a snoop's forwards. -/
def State.openForwards (s : State) (line : Nat) (write : Bool) (acc : Option MemAcc) (snoop : Option Nat) : State :=
  match s.dentry line with
  | some e => s.openTxn line e { kind := .access, wait := e.forwards write, inv := write, acc := acc, snoop := snoop }
  | none => s

/-- The holders that must be asked before an access to a line. -/
def State.forwards (s : State) (line : Nat) (write : Bool) : List Nat :=
  match s.dentry line with
  | some e => e.forwards write
  | none => []

/-- Answer a request of the host or the SoC. -/
def State.answerWith (s : State) (id : Nat) (x : Option (List Byte)) : State :=
  { s with answers := s.answers ++ [(id, x)] }

/-- The first request of a line that is not busy is dealt with. An agent that does not cache and needs no
forwards makes its access itself. -/
def State.homeServe (s : State) (q : HomeReq) : State :=
  match q with
  | .cache c k line => s.homeReq c k line
  | .access acc =>
    if s.forwards (lineOf acc.addr) acc.act.isWrite = [] then s.performAt acc
    else s.openForwards (lineOf acc.addr) acc.act.isWrite (some acc) none
  | .agent _ line write =>
    if s.forwards line write = [] then s else s.openForwards line write none none
  | .snoop line inv id =>
    if s.forwards line inv = [] then s.answerWith id (some []) else s.openForwards line inv none (some id)

def HomeReq.isAgent (q : HomeReq) : Bool :=
  match q with
  | .agent _ _ _ => true
  | _ => false

/-! ## The end of a transaction -/

/-- The bank's copy of a granary line. -/
def State.bankLine (s : State) (line : Nat) : Line := bytesLine (s.bytes (line * 64) 64)

/-- A request of the gateway to the SoC home agents (R341). -/
def gwEntry (use : LedgerUse) (line : Nat) (wr : Option (List Byte)) : LEntry :=
  ⟨use, 4096, line * 64, 64, wr, none, 0, false⟩

/-- A home writes a line that its holder returned: to the bank, or for the gateway to the SoC. -/
def State.homeWrite (s : State) (line : Nat) (d : Line) : State :=
  if isGwLine line then s.ledgerSend (gwEntry (.gwWrite line) line (some (lineBytes d)))
  else s.bankWrite (line * 64) (lineBytes d)

/-- Change the open transaction of a line. -/
def State.modTxn (s : State) (line : Nat) (f : Txn → Txn) : State :=
  match s.dentry line with
  | some e => s.setDentry line (some { e with txn := e.txn.map f })
  | none => s

/-- A transaction closes: an entry with no holder is dropped, and its way is free. -/
def State.closeEntry (s : State) (line : Nat) (e : DEntry) : State :=
  (s.setDentry line (if e.sharers = [] then none else some { e with txn := none })).servePromise (setOf line)

/-- The transaction has what it waits for: every forward is answered, and data asked of the SoC have
come. -/
def Txn.ready (t : Txn) : Bool :=
  t.wait.isEmpty && !t.fill && !(t.fetch && t.data.isNone && t.snoop.isNone)

/-- The fill of a transaction leaves, once the data are in hand; the gateway asks the SoC for them (R346). -/
def State.homeFill (s : State) (line : Nat) (e : DEntry) (t : Txn) : State :=
  let u := decide (t.kind = .unique)
  match if isGwLine line then t.data else some (s.bankLine line) with
  | none =>
    (s.setDentry line (some { e with txn := some { t with fetch := true } })).ledgerSend
      (gwEntry (.gwFill line u) line none)
  | some d =>
    let e := { e with
      sharers := if u then [t.req] else t.req :: e.sharers.filter (fun x => x != t.req)
      excl := u, txn := some { t with fill := true } }
    (s.setDentry line (some e)).sendMsg (if u then .fillE else .fillS) t.req line d

/-- A ready transaction goes on to its end (R342, R346, R349, R351). A snoop of the SoC is answered with
the data it brought; one that came while the gateway's own request is in the SoC leaves that request under
way (R341, R578). -/
def State.homeAdvance (s : State) (line : Nat) (e : DEntry) (t : Txn) : State :=
  match t.snoop with
  | some id =>
    let s := s.answerWith id (some (match t.snpData with
      | some d => lineBytes d
      | none => []))
    if t.kind = .access then s.closeEntry line e
    else s.setDentry line (some { e with txn := some { t with snoop := none, snpData := none } })
  | none =>
    match t.kind with
    | .upgrade => (s.sendMsg .grantE t.req line 0).closeEntry line { e with sharers := [t.req], excl := true }
    | .access =>
      (match t.acc with
        | some a => s.performAt a
        | none => s).closeEntry line e
    | .recall =>
      match t.next with
      | some (c, k, l) => (s.setDentry line none).homeTake c k l noEntryYet
      | none => s.closeEntry line e
    | _ => s.homeFill line e t

/-- A snoop of the SoC for a line whose data the gateway has asked the SoC for is forwarded at once: its
answer never waits on a request of the gateway (R578). -/
def State.snoopFetching (s : State) (line : Nat) (e : DEntry) (t : Txn) (inv : Bool) (id : Nat) : State :=
  let hs := e.forwards inv
  if hs = [] then s.answerWith id (some [])
  else (s.setDentry line (some { e with txn := some { t with snoop := some id, inv := inv, wait := hs } })).sendSnoops hs inv line

/-- A granary line that its bank's handover recalls (R306, R355), or that the host-side agent holds on the way
into DORMANT (R519). -/
def State.mustRecall (s : State) (line : Nat) : Bool :=
  match bankOf (line * 64) with
  | some g =>
    !isGwLine line && (s.leaving.contains g ||
      (s.mode.goal == some 1 && (s.dentry line).any (fun e => e.sharers.contains 32)))
  | none => false

/-- One thing a home can do about a line, and the other line it concerns; none where it waits. -/
def State.homeStep (s : State) (line : Nat) : Option (State × List Nat) :=
  let first := s.homeQ.find? (fun q => q.line == line)
  match s.dentry line, s.txn line with
  | some e, some t =>
    if t.ready then
      some (s.homeAdvance line e t, match t.next with
        | some (_, _, l) => [l]
        | none => [])
    else if t.fetch && t.data.isNone && t.snoop.isNone then
      match s.homeQ.find? (fun q => match q with | .snoop l _ _ => l == line | _ => false) with
      | some (.snoop l inv id) =>
        some (({ s with homeQ := s.homeQ.erase (.snoop l inv id) } : State).snoopFetching line e t inv id, [])
      | _ => none
    else none
  | entry, _ =>
    if s.wayAwaited line then none
    else match first, entry with
      | some q, _ =>
        if q.isAgent then
          (if s.forwards line (match q with | .agent _ _ w => w | _ => false) = [] then none else some (s.homeServe q, []))
        else some (({ s with homeQ := s.homeQ.erase q } : State).homeServe q, [])
      | none, some e => if s.mustRecall line then some (s.openRecall line e none, []) else none
      | none, none => none

/-- The homes go on with lines, one after the other, until each waits. -/
def State.homeRun (s : State) (fuel : Nat) (lines : List Nat) : State :=
  match fuel, lines with
  | 0, _ => s
  | _, [] => s
  | f + 1, l :: r =>
    match s.homeStep l with
    | some (s, more) => s.homeRun f (l :: more ++ r)
    | none => s.homeRun f r

/-- The homes go on with lines as far as they can. Each step ends a transaction or takes a request. -/
def State.home (s : State) (lines : List Nat) : State :=
  s.homeRun (4 * (s.homeQ.length + s.dir.length + lines.length) + 16) lines

/-- A request reaches its home: it takes its place in the order received (R342). -/
def State.homeArrive (s : State) (q : HomeReq) : State := ({ s with homeQ := s.homeQ ++ [q] } : State).home [q.line]

/-- An access of a thread that does not cache, judged by its line's home (R349). -/
def State.homeAccess (s : State) (acc : MemAcc) : State := s.homeArrive (.access acc)

/-! ## Agents that do not cache (R349) -/

/-- An agent gives up its places at the homes of lines that `p` names. -/
def State.agentQuits (s : State) (w : Nat) (p : Nat → Bool) : State :=
  let mine := s.homeQ.filter (fun q => match q with
    | .agent v l _ => v == w && p l
    | _ => false)
  if mine.isEmpty then s
  else ({ s with homeQ := s.homeQ.filter (fun q => !mine.contains q) } : State).home (mine.map HomeReq.line)

/-- An agent gives up all its places at the homes. -/
def State.agentLeaves (s : State) (w : Nat) : State := s.agentQuits w (fun _ => true)

/-- Whether agent w may make its access to a line now, and the state after: it may when no request is
before it and no forward is needed; otherwise it has its place in the order received. It waits at one home
at a time. -/
def State.agentTurn (s : State) (w line : Nat) (write : Bool) : Bool × State :=
  let s := s.agentQuits w (fun l => l != line)
  let q := HomeReq.agent w line write
  let first := s.homeQ.find? (fun x => x.line == line)
  if !s.lineBusy line && (first == none || first == some q) && (s.forwards line write).isEmpty then
    (true, { s with homeQ := s.homeQ.erase q })
  else if s.homeQ.contains q then (false, s)
  else (false, s.homeArrive q)

/-- Lines that n bytes at a touch. -/
def linesOfRange (a n : Nat) : List Nat :=
  if n = 0 then [] else (List.range (lineOf (a + n - 1) + 1 - lineOf a)).map (fun i => lineOf a + i)

/-! ## Requests (R345 to R347) -/

/-- A core's request finds the bank in other hands (R304): the accesses that wait for the line take an
error, the request ends, and a way reserved for it is free. -/
def State.lineRefused (s : State) (c line : Nat) : State :=
  let errs := s.dwait.filter (fun p => p.1 == c && lineOf p.2.addr == line)
  let s := { s with
    dwait := s.dwait.filter (fun p => !(p.1 == c && lineOf p.2.addr == line))
    creq := s.creq.filter (fun r => !(r.1 == c && r.2.1 == line)) }
  let s := errs.foldl (fun s p => s.deliverError p.2.ref p.2.addr) s
  if s.promised c line then ((s.dropPromise c line).servePromise (setOf line)).cachePump c else s.cachePump c

/-- The home may take a request for the line now: its bank is owned by CORES and not in a handover;
none where the bank is in other hands (R304, R305). -/
def State.homeOpen (s : State) (line : Nat) : Option Bool :=
  if isGwLine line then some true
  else match bankOf (line * 64) with
    | some g => if s.coresBank g then some (!s.bit (fDraining g)) else none
    | none => none

/-- A line of the granary window. -/
def isGranaryLine (line : Nat) : Bool := decide (0x1000000 ≤ line * 64) && decide (line * 64 < 0x2800000)

/-- A request row: a core's request in flight arrives; the host-side agent's comes from outside, for
a granary line, while it has a credit (R345). -/
def State.reqRow (s : State) (k : CohKind) (c line : Nat) : State :=
  match s.takeMsg k c line with
  | some (_, s') =>
    (match s.homeOpen line with
      | some true => s'.homeArrive (.cache c k line)
      | some false => s
      | none => s'.lineRefused c line)
  | none =>
    if c = 32 ∧ isGranaryLine line ∧ s.reqQueued 32 < 8 then
      (match s.homeOpen line with
        | some true => s.homeArrive (.cache 32 k line)
        | some false => s
        | none => ({ s with reqCtr := s.reqCtr + 1 } : State).answerWith s.reqCtr none)
    else s

def execRdShared (c : Fin 33) (line : BitVec 42) (s : State) : Host.Outcome State Fault Refusal :=
  .next (s.reqRow .rdShared c.val line.toNat)
def execRdUnique (c : Fin 33) (line : BitVec 42) (s : State) : Host.Outcome State Fault Refusal :=
  .next (s.reqRow .rdUnique c.val line.toNat)
def execUpgrade (c : Fin 33) (line : BitVec 42) (s : State) : Host.Outcome State Fault Refusal :=
  .next (s.reqRow .upgrade c.val line.toNat)

/-! ## Forwards and their answers (R346, R348, R353) -/

/-- A cache answers a forward by the state of the line (R348, R353). To the host-side agent it
becomes a snoop into the SoC (R340). -/
def State.snoopRow (s : State) (inv : Bool) (c line : Nat) : State :=
  match s.takeMsg (if inv then .snpInv else .snpShared) c line with
  | none => s
  | some (_, s) =>
    if c = 32 then s
    else
      let ack := if inv then CohKind.ackInv else CohKind.ackShared
      match s.cline c line with
      | none => s.sendMsg ack c line 0
      | some x =>
        if x.wb then s.sendMsg (if x.st = 3 then .invWb else ack) c line 0
        else
          let s := s.setCline c line (if inv then none else some { x with st := 1 })
          if x.st = 3 then s.sendMsg (if inv then .snpDataI else .snpDataS) c line x.data
          else s.sendMsg ack c line 0

def execSnpShared (c : Fin 33) (line : BitVec 42) (s : State) : Host.Outcome State Fault Refusal :=
  .next (s.snoopRow false c.val line.toNat)
def execSnpInv (c : Fin 33) (line : BitVec 42) (s : State) : Host.Outcome State Fault Refusal :=
  .next (s.snoopRow true c.val line.toNat)

/-- A home has the answer of holder c: an invalidated one holds the line no more, and no holder holds it
EXCLUSIVE. -/
def State.answered (s : State) (c line : Nat) : State :=
  match s.dentry line with
  | some e =>
    match e.txn with
    | some t =>
      if t.wait.contains c then
        (s.setDentry line (some { e with
          sharers := if t.inv then e.sharers.filter (fun h => h != c) else e.sharers
          excl := false
          txn := some { t with wait := t.wait.filter (fun h => h != c) } })).home [line]
      else s
    | none => s
  | none => s

/-- The host-side agent has a snoop open for the line, already in the SoC. -/
def State.hostSnooped (s : State) (line : Nat) : Bool :=
  (match s.txn line with
    | some t => t.wait.contains 32
    | none => false) &&
  !(s.coh.any (fun m => m.c == 32 && m.line == line && (m.kind == .snpShared || m.kind == .snpInv)))

/-- Data of a holder: for the SoC where a snoop of the SoC asked for them; otherwise the home writes them,
and has them in hand (R341, R346). -/
def State.takeData (s : State) (line : Nat) (d : Line) : State :=
  match s.txn line with
  | some t =>
    if t.snoop.isSome then s.modTxn line (fun t => { t with snpData := some d })
    else (s.homeWrite line d).modTxn line (fun t => { t with data := some d })
  | none => s.homeWrite line d

/-- INV_WB_INFLIGHT has arrived and the WB_DATA it speaks of too: the writeback is the forward's data,
written once, and WB_ACK goes back (R353). -/
def State.crossed (s : State) (c line : Nat) : State :=
  match s.txn line with
  | some t =>
    if t.invWb.contains c && t.wbGot.contains c then
      let s := s.takeData line (t.data.getD 0)
      ((s.countUp ⟨0x10700010, 31, 0⟩).sendMsg .wbAck c line 0).answered c line
    else s
  | none => s

/-- Holder c has answered that its line is on its way back, or that it no longer has it while its WB_DATA has
come. -/
def State.invWbFrom (s : State) (c line : Nat) : State :=
  (s.modTxn line (fun t => { t with invWb := c :: t.invWb })).crossed c line

/-- A writeback of holder c has come before the answer. -/
def State.wbCame (s : State) (c line : Nat) : Bool :=
  match s.txn line with
  | some t => t.wbGot.contains c
  | none => false

/-- An answer without data arrives. -/
def State.ackRow (s : State) (k : CohKind) (c line : Nat) : State :=
  let take (s : State) : State := if s.wbCame c line then s.invWbFrom c line else s.answered c line
  match s.takeMsg k c line with
  | some (_, s) => take s
  | none => if c = 32 ∧ s.hostSnooped line then take s else s

def execAckShared (c : Fin 33) (line : BitVec 42) (s : State) : Host.Outcome State Fault Refusal :=
  .next (s.ackRow .ackShared c.val line.toNat)
def execAckInv (c : Fin 33) (line : BitVec 42) (s : State) : Host.Outcome State Fault Refusal :=
  .next (s.ackRow .ackInv c.val line.toNat)

/-- SNP_DATA arrives: the home writes the line to the bank, and the forward is answered (R346). -/
def execSnpData (c : Fin 33) (line : BitVec 42) (inv : Bool) (data : Line) (s : State) :
    Host.Outcome State Fault Refusal :=
  .next (
    let l := line.toNat
    match s.takeMsg (if inv then .snpDataI else .snpDataS) c.val l with
    | some (m, s) => (s.takeData l m.data).answered c.val l
    | none => if c.val = 32 ∧ s.hostSnooped l then (s.takeData l data).answered 32 l else s)

def execInvWbInflight (c : Fin 33) (line : BitVec 42) (s : State) : Host.Outcome State Fault Refusal :=
  .next (
    let l := line.toNat
    match s.takeMsg .invWb c.val l with
    | some (_, s) => s.invWbFrom c.val l
    | none => if c.val = 32 ∧ s.hostSnooped l then s.invWbFrom 32 l else s)

/-! ## Writebacks and eviction notices (R337, R353, R354) -/

/-- A writeback or an eviction notice reaches its home: the sender's bit is cleared, data are written once,
and WB_ACK goes back; it never changes the outcome of an open transaction. A writeback whose sender's answer
to a forward is still to come is held as the forward's data. -/
def State.evictTake (s : State) (c line : Nat) (d : Option Line) : State :=
  let write (s : State) : State := match d with
    | some x => s.homeWrite line x
    | none => s
  match s.dentry line with
  | none => (write s).sendMsg .wbAck c line 0
  | some e =>
    let e := { e with sharers := e.sharers.filter (fun h => h != c) }
    match e.txn, d with
    | none, _ => (((write s).closeEntry line { e with excl := false }).sendMsg .wbAck c line 0).home [line]
    | some t, some x =>
      if t.wait.contains c then
        (s.setDentry line (some { e with
          txn := some { t with wbGot := c :: t.wbGot, data := some x } })).crossed c line
      else ((write s).setDentry line (some e)).sendMsg .wbAck c line 0
    | some _, none => (s.setDentry line (some e)).sendMsg .wbAck c line 0

/-- The host-side agent's vector bit is set. -/
def State.hostHolds (s : State) (line : Nat) : Bool :=
  match s.dentry line with
  | some e => e.sharers.contains 32
  | none => false

/-- WB_DATA and EVICT_CLEAN; those of the host-side agent come from outside, and what it writes back to a
line it does not hold is not written. -/
def State.evictRow (s : State) (k : CohKind) (c line : Nat) (d : Option Line) : State :=
  match s.takeMsg k c line with
  | some (m, s) => s.evictTake c line (d.map (fun _ => m.data))
  | none =>
    if c = 32 ∧ isGranaryLine line then s.evictTake 32 line (if s.hostHolds line then d else none) else s

def execWbData (c : Fin 33) (line : BitVec 42) (data : Line) (s : State) : Host.Outcome State Fault Refusal :=
  .next (s.evictRow .wbData c.val line.toNat (some data))
def execEvictClean (c : Fin 33) (line : BitVec 42) (s : State) : Host.Outcome State Fault Refusal :=
  .next (s.evictRow .evictClean c.val line.toNat none)

/-- WB_ACK frees the writeback buffer entry (R337); a flush has one answer less to wait for. -/
def execWbAck (c : Fin 33) (line : BitVec 42) (s : State) : Host.Outcome State Fault Refusal :=
  .next (
    let l := line.toNat
    match s.takeMsg .wbAck c.val l with
    | none => s
    | some (_, s) =>
      if c.val = 32 then s
      else ((s.setCline c.val l none).modFlush c.val (fun f => { f with out := f.out.erase l })).cachePump c.val)

/-! ## Fills, grants, retries (R336, R342, R343, R352) -/

/-- COMP_ACK closes a fill's transaction (R342). -/
def execCompAck (c : Fin 33) (line : BitVec 42) (s : State) : Host.Outcome State Fault Refusal :=
  .next (
    let l := line.toNat
    match s.takeMsg .compAck c.val l with
    | none => s
    | some (_, s) =>
      match s.dentry l with
      | some e => (s.closeEntry l e).home [l]
      | none => s)

/-- A cache takes a fill: the line is held, COMP_ACK leaves, and the accesses that waited complete
(R336, R343). -/
def State.fillRow (s : State) (k : CohKind) (c line : Nat) : State :=
  match s.takeMsg k c line with
  | none => s
  | some (m, s) =>
    let s := s.sendMsg .compAck c line 0
    if c = 32 then s
    else
      let s := (s.reqDone c line).setCline c line (some ⟨if k = .fillE then 2 else 1, m.data, false⟩)
      (s.serveWait (s.dwait.length + 1) c line).cachePump c

def execFillS (c : Fin 33) (line : BitVec 42) (s : State) : Host.Outcome State Fault Refusal :=
  .next (s.fillRow .fillS c.val line.toNat)
def execFillE (c : Fin 33) (line : BitVec 42) (s : State) : Host.Outcome State Fault Refusal :=
  .next (s.fillRow .fillE c.val line.toNat)

/-- A cache takes EXCLUSIVE without data (R346). -/
def execGrantE (c : Fin 33) (line : BitVec 42) (s : State) : Host.Outcome State Fault Refusal :=
  .next (
    let l := line.toNat
    match s.takeMsg .grantE c.val l with
    | none => s
    | some (_, s) =>
      if c.val = 32 then s
      else
        let s := s.reqDone c.val l
        let s := match s.cline c.val l with
          | some x => s.setCline c.val l (some { x with st := 2 })
          | none => s
        (s.serveWait (s.dwait.length + 1) c.val l).cachePump c.val)

/-- A cache takes RETRY: its request stands until PROCEED (R352). -/
def execRetry (c : Fin 33) (line : BitVec 42) (s : State) : Host.Outcome State Fault Refusal :=
  .next (match s.takeMsg .retry c.val line.toNat with
    | some (_, s) => s
    | none => s)

/-- A cache takes PROCEED and reissues its request (R352). -/
def execProceed (c : Fin 33) (line : BitVec 42) (s : State) : Host.Outcome State Fault Refusal :=
  .next (
    let l := line.toNat
    match s.takeMsg .proceed c.val l with
    | none => s
    | some (_, s) =>
      match s.creq.find? (fun r => r.1 == c.val && r.2.1 == l) with
      | some r => s.sendMsg r.2.2 c.val l 0
      | none => s)

/-! ## The global fence (R359) -/

def fFenceBusy : Fld := ⟨0x10700004, 1, 1⟩

/-- A fence token goes in. -/
def State.fenceOpen (s : State) : State :=
  let tags := s.ledger.filterMap (fun p => match p.2 with
    | some e => if e.limbo then none else some p.1
    | none => none)
  ({ s with fence := tags, fenceAcc := s.waitingAccs, fenceReq := s.homeQ, fenceClock := s.dirClock } : State).setBit
    fFenceBusy true

/-- `DIR_FENCE.GO`. -/
def State.fenceGo (s : State) : State := if s.bit fFenceBusy then s.refuse .dir 4 else s.fenceOpen

def execDirFenceGo (who : Agent) (s : State) : Host.Outcome State Fault Refusal :=
  .next (s.atBlock who .dir 4 (fun s => s.fenceGo))

/-- Everything accepted before the token has been performed. -/
def State.fenceDone (s : State) : Bool :=
  s.fence.isEmpty && s.fenceAcc.all (fun a => !s.waitingAccs.contains a) &&
  s.fenceReq.all (fun q => !s.homeQ.contains q) &&
  s.dir.all (fun p => match p.2 with
    | some e => e.txn.isNone || decide (s.fenceClock < e.used)
    | none => true)

def execFenceComplete (s : State) : Host.Outcome State Fault Refusal :=
  .next (if s.bit fFenceBusy && s.fenceDone then
      ({ s with fence := [], fenceAcc := [], fenceReq := [] } : State).setBit fFenceBusy false
    else s)

end Sys2Proof.Machine
end

