-- ==== Sys2Proof/Machine/Responses.lean ====
section
/-!
DEFINITION. Responses to ledger entries (R364, R367 to R370, R461, R577): completion, stale
discards, limbo, unknown tags, and timeouts.
-/
namespace Sys2Proof.Machine

/-- A gateway's fetch failed: the accesses that wait for the line take the error, and the request
ends with no fill; the forwards of a snoop under way run to their end. -/
def State.gwFail (s : State) (line : Nat) : State :=
  match s.dentry line with
  | some e =>
    match e.txn with
    | some t =>
      let c := t.req
      let errs := s.dwait.filter (fun p => p.1 == c && lineOf p.2.addr == line)
      let s := { s with dwait := s.dwait.filter (fun p => !(p.1 == c && lineOf p.2.addr == line)) }
      let s := errs.foldl (fun s p => s.deliverError p.2.ref p.2.addr) (s.reqDone c line)
      let s := if t.snoop.isSome then s.modTxn line (fun t => { t with kind := .access, fetch := false })
        else (s.closeEntry line e).home [line]
      s.cachePump c
    | none => s
  | none => s

/-- The gateway has the data it asked of the SoC (R346). -/
def State.gwData (s : State) (line : Nat) (d : Line) : State :=
  (s.modTxn line (fun t => { t with data := some d })).home [line]

/-- An entry's request is answered: with the data of its line, or as a target error. -/
def State.finishEntry (s : State) (e : LEntry) (err : Bool) (data : Line) : State :=
  match e.use with
  | .access ref =>
    if err then s.deliverError ref e.addr
    else s.deliver ref (match e.wr with
      | some bs => bs
      | none => ((lineBytes data).drop (e.addr % 64)).take e.n)
  | .gwFill line _ => if err then s.gwFail line else s.gwData line data
  | .gwWrite _ => s

/-- An index is free again, and no fence waits for it. -/
def State.freeTag (s : State) (tag : Nat) : State :=
  { s with ledger := Map.set none s.ledger tag none, fence := s.fence.erase tag }

/-- The entry's generation is its virtual complex's, which is not being reset or removed (R367, R461). -/
def State.freshEntry (s : State) (e : LEntry) : Bool :=
  match e.vc with
  | some (v, g) => decide (g = (s.fld (vcGen v)).toNat) && s.fld (vcState v) != 4 && s.fld (vcState v) != 5
  | none => true

/-- The first half of a split store has been performed for a thread that is reset since: the half still to come
may follow (R50, R130). Its outcome reaches nobody. -/
def State.quietHalf (s : State) (e : LEntry) : State :=
  match e.use with
  | .access (.store gt id) =>
    if (s.thread gt).stores.any (fun o => o.id == id && o.quiet) then s.answerStore gt id true else s
  | _ => s

/-- A completed entry reaches its requester, or is discarded as stale and GEN_STALE presented. -/
def State.completeEntry (s : State) (e : LEntry) (err : Bool) (data : Line) : State :=
  if s.freshEntry e then s.finishEntry e err data
  else ((s.quietHalf e).countUp ⟨0x106C0010, 31, 0⟩).present 0x17AA true 0

/-- SIP_RESPONSE: the response of an entry, of a limbo entry, or of a free tag (R367, R368, R577). A request
still on its way to its port has none. -/
def execSipResponse (tag : BitVec 14) (err : Bool) (data : Line) (s : State) :
    Host.Outcome State Fault Refusal :=
  .next (match Map.get none s.ledger tag.toNat with
    | none => s.faultMinor
    | some e =>
      if !s.sipSent tag.toNat then s
      else if e.limbo then
        ((s.freeTag tag.toNat).countUp ⟨0x106C0018, 31, 0⟩).countDown fLimbo
      else ((s.freeTag tag.toNat).shareDown e).completeEntry e err data)

/-- LEDGER_TIMEOUT: a target error to the requester, and the entry enters limbo (R368). -/
def execLedgerTimeout (tag : BitVec 14) (s : State) : Host.Outcome State Fault Refusal :=
  .next (match Map.get none s.ledger tag.toNat with
    | none => s
    | some e =>
      if e.limbo then s
      else
        let s := { s with
          ledger := Map.set none s.ledger tag.toNat (some { e with limbo := true })
          fence := s.fence.erase tag.toNat }
        let s := ((s.countUp ⟨0x106C0014, 31, 0⟩).shareDown e).countUp fLimbo
        s.completeEntry e true 0)

/-- The generation of a virtual complex advances at the ledger (R370). -/
def State.ledgerAdvance (s : State) (v : Nat) : State :=
  let old := (s.fld (fOldCount v)).toNat
  let s := if old = 0 then s.setFld (fOldGen v) (s.fld (vcGen v)) else s
  let s := s.setFld (fOldCount v) (BitVec.ofNat 32 (old + (s.fld (fCount v)).toNat))
  s.setFld (fCount v) 0

/-- QUARANTINE of a virtual complex (R370). -/
def State.quarantine (s : State) (v : Nat) : Bool :=
  s.fld (fOldCount v) != 0 &&
  decide (((s.fld (vcGen v)).toNat + 1) % 4096 = (s.fld (fOldGen v)).toNat)

end Sys2Proof.Machine
end

