-- ==== Sys2Proof/Machine/Bays.lean ====
section
/-!
DEFINITION. Pin lanes, bay sequencers, the staging registers and the edge queue (R200 to R238). A row's
`dt` is the number of PCLK cycles that have passed since the row before it in its quadrant: PT counts on by
them first (log 7).
-/
namespace Sys2Proof.Machine

/-! ## Pin-time (R200) -/

def fPtTime (n : Nat) : Fld := ⟨bayReg n 0x310, 25, 2⟩
def fPtEpoch (n : Nat) : Fld := ⟨bayReg n 0x310, 31, 28⟩

/-- PT of a bay's quadrant. -/
def State.pt (s : State) (n : Nat) : Nat := (s.fld (fPtTime n)).toNat

/-- PCLK cycles pass in a bay's quadrant: PT counts them, modulo 2^24, and what a program store held before
the cycle is past. -/
def State.passPT (s : State) (n dt : Nat) : State :=
  if dt = 0 then s
  else { s.setFld (fPtTime n) (BitVec.ofNat 32 ((s.pt n + dt) % 2 ^ 24)) with
    progOld := s.progOld.filter (fun x => x.1 / 8 != n / 8) }

/-- d of R200, and the late test. -/
def ptDistance (t pt : Nat) : Nat := (2 ^ 25 + t - pt - 1) % 2 ^ 24
def ptLate (t pt : Nat) : Bool := decide (2 ^ 23 ≤ ptDistance t pt)

/-! ## Lanes (R201 to R208) -/

/-- The value and enable a source last gave the lane (R201). -/
def State.laneKept (s : State) (l src : Nat) : Bool × Bool :=
  if src = 9 then (s.bit (fStaticOut l), s.bit (fStaticOe l)) else Map.get (false, false) (s.lane l).kept src

/-- The value and enable the lane's driver gives it. -/
def State.laneDriven (s : State) (l : Nat) : Bool × Bool := s.laneKept l (s.fld (fDriver l)).toNat

/-- Four phase bits of a bundle when a level comes in force at phase p. Those before p keep what they had in
the same cycle, or carry on the cycle before. -/
def phaseBits (p : Nat) (same : Bool) (old : BitVec 4) (v : Bool) : BitVec 4 :=
  (List.range 4).foldl (fun w i =>
    let b := if p ≤ i then v else if same then old.getLsbD i else old.getLsbD 3
    if b then w ||| ((1 : BitVec 4) <<< i) else w) 0

/-- What its driver gives the lane reaches the bundle at instant q, in quarter units: from its phase on
in that cycle, and in every later one (R202, R591). -/
def State.laneShow (s : State) (l q : Nat) : State :=
  let v := s.laneDriven l
  let c := q / 4 % 2 ^ 24
  s.modLane l (fun x =>
    let same := x.lnAt == c
    { x with lnAt := c, lnOut := phaseBits (q % 4) same x.lnOut v.1, lnOe := phaseBits (q % 4) same x.lnOe v.2 })

/-- A source other than the static one acts on a lane, with a change that reaches the bundle at instant q
(R201, R202). -/
def State.laneAct (s : State) (l src q : Nat) (f : Bool × Bool → Bool × Bool) : State :=
  let s := s.modLane l (fun x => { x with kept := Map.set (false, false) x.kept src (f (Map.get (false, false) x.kept src)) })
  if (s.fld (fDriver l)).toNat = src then s.laneShow l q else s.setBit ⟨laneReg l 8, 5, 5⟩ true

/-- The level and enable of a safe-state code (R207). -/
def safePair (code : Word) : Bool × Bool := (code == 1, code != 2)

/-- A transition of a lane's input on its way into TCLK: to the timers of the lane's core that count
or capture it, where a second one merges (R251), and to the pulse record (R246). -/
def State.laneToTclk (s : State) (l : Nat) (rise : Bool) : State :=
  let s := (List.range 32).foldl (fun s i =>
    let m := l / 32 * 32 + i
    let ctl := s.reg (0x10400000 + 0x40 * m)
    let j := l % 32
    let x : TimerS := Map.get {} s.timers m
    let cnt := (bitsOf ctl 1 0 == 3 || (bitsOf ctl 1 0 == 2 && rise)) && decide ((bitsOf ctl 8 4).toNat = j)
    let cap := (bitsOf ctl 20 19 == 3 || (bitsOf ctl 20 19 == 2 && rise)) && decide ((bitsOf ctl 25 21).toNat = j)
    let merged := (cnt && x.cntEdge) || (cap && x.capEdge.isSome)
    let x' := { x with
      cntEdge := x.cntEdge || cnt
      capEdge := if cap then (if x.capEdge.isSome then some none else some (some rise)) else x.capEdge }
    let s := { s with timers := Map.set {} s.timers m x' }
    if merged then s.setBit ⟨0x10400008 + 0x40 * m, 10, 10⟩ true else s) s
  let pps := s.reg 0x10480050
  if pps.getLsbD 0 && rise && decide ((bitsOf pps 13 4).toNat = l) then { s with ppsEdge := true } else s

/-- `LANE_CTL.FAST`, and the filter's L and U (R203, R205). -/
def fFast (l : Nat) : Fld := ⟨laneReg l 0, 8, 8⟩
def State.filtLen (s : State) (l : Nat) : Nat := (s.fld ⟨laneReg l 4, 5, 0⟩).toNat
def State.filtUnit (s : State) (l : Nat) : Nat :=
  match (s.fld ⟨laneReg l 4, 7, 6⟩).toNat with
  | 0 => 1
  | 1 => 4
  | 2 => 16
  | _ => 256

/-- A lane's input has changed level: the transition is recorded and its event presented (R206,
R269); a STAMP that waits for it sees it (R238). -/
def State.laneRecord (s : State) (l : Nat) (time : Nat) : State :=
  let lvl := s.laneIn l
  let s := if s.bit (fNew l) then s.setBit ⟨laneReg l 8, 6, 6⟩ true else s
  let s := s.setReg (laneReg l 0xC) (BitVec.ofNat 32
    (2 ^ 26 + (if lvl then 2 ^ 27 else 0) + 2 ^ 28 * (s.fld (fPtEpoch (l / 32))).toNat + time % 2 ^ 26))
  let see (p : Nat × SeqS) : Nat × SeqS :=
    if p.1 / 8 = l / 32 ∧ p.2.stamp = some (l % 32, false) then
      (p.1, { p.2 with stamp := some (l % 32, true) }) else p
  let s := { s with seqs := s.seqs.map see }
  (s.laneToTclk l lvl).present l (!lvl) 0

/-- The filter's verdict on a level that the sampler shows from phase ph of cycle c on for n of the filter's
input samples: the pin-time to record, when a run of L samples in cycles with PT mod U zero accepts it. A
write of L or U within the run restarts the count after its cycle (R205, R206, log 80). -/
def State.filterRun (s : State) (l c ph n : Nat) : Option Nat :=
  let u := s.filtUnit l
  let d := match (s.lane l).filtFrom with
    | some w => (w + 2 ^ 24 - c) % 2 ^ 24
    | none => n
  let from' := if d < n then c + d + 1 else c
  let first := (from' + u - 1) / u * u
  if first + (s.filtLen l - 1) * u < c + n then some (4 * first + (if first = c then ph else 0)) else none

/-- LANE_INPUT_TRANSITION: the sampler shows a level for `held` quarter units, from the pin-time of its
first sample; the filter passes it, or rejects it (R203 to R206). In synchronised mode there is one sample
in a cycle, with phase 0; in fast mode the filter takes the one at phase 3. -/
def execLaneInputTransition (l : Lane) (level : Bool) (time held : BitVec 26) (s : State) :
    Host.Outcome State Fault Refusal :=
  .next (
    let l := l.val
    let c := time.toNat / 4
    let ph := if s.bit (fFast l) then time.toNat % 4 else 0
    let n := (ph + held.toNat) / 4
    let pass (s : State) (t : Nat) : State := (s.modLane l (fun x => { x with pad := level })).laneRecord l t
    if !s.lanePresent l || (s.lane l).pad == level then s
    else if s.filtLen l = 0 then
      if (if s.bit (fFast l) then held.toNat = 0 else n = 0) then s else pass s (4 * c + ph)
    else if !s.bit (fFast l) && n == 0 then s
    else match s.filterRun l c ph n with
      | some t => pass s t
      | none => s.setBit ⟨laneReg l 8, 4, 4⟩ true)

/-- The answer of a read that is a row of its own: numbered, for whoever reads (log 18). -/
def State.answer (s : State) (bs : List Byte) : State :=
  { s with answers := s.answers ++ [(s.reqCtr, some bs)], reqCtr := s.reqCtr + 1 }

/-- A read of LANE_LAST returns the record and clears NEW. -/
def execLaneLastRead (_ : Agent) (l : Lane) (s : State) : Host.Outcome State Fault Refusal :=
  .next (
    if s.lanePresent l.val then
      (s.setBit (fNew l.val) false).answer (toBytes 4 (s.reg (laneReg l.val 0xC)).toNat)
    else s.answer (toBytes 4 0))

/-- BAY_COMMIT: pin maps, lane drivers, sampling and inversion of the bay change together; a driver that
changes shows its kept value, and an inversion that changes is a transition of the input (R201, R206,
R213). -/
def State.bayCommit (s : State) (n : Nat) : State :=
  let old := s
  let q := (s.pt n + 1) * 4
  let s := (List.range 8).foldl (fun s k => s.commitReg (bayReg n (0x10C + 0x40 * k))) s
  (List.range 32).foldl (fun s j =>
    let l := 32 * n + j
    let s := s.commitReg (laneReg l 0)
    let s := if s.laneDriven l = old.laneDriven l then s else s.laneShow l q
    if s.lanePresent l ∧ s.laneIn l ≠ old.laneIn l then s.laneRecord l q else s) s

def execBayCommit (who : Agent) (n : Core) (dt : PinTime) (s : State) : Host.Outcome State Fault Refusal :=
  .next (s.atBlock who (.bay n.val) 0x308 (fun s => (s.passPT n.val dt.toNat).bayCommit n.val))

/-! ## Sequencer state (R210, R211) -/

def fSeqPC (n k : Nat) : Fld := ⟨seqReg n k 4, 25, 20⟩
def fSeqFault (n k : Nat) : Fld := ⟨seqReg n k 4, 19, 16⟩
def fSeqLate (n k : Nat) : Fld := ⟨seqReg n k 4, 15, 15⟩
def fOsrLeft (n k : Nat) : Fld := ⟨seqReg n k 0x24, 13, 8⟩
def fIsrCount (n k : Nat) : Fld := ⟨seqReg n k 0x24, 21, 16⟩
/-- The sequencer is stopped for its Stopped-only fields (R211). -/
def State.seqStill (s : State) (n k : Nat) : Bool :=
  s.fld (fSeqState n k) == sqStopped || s.fld (fSeqState n k) == sqFaulted

/-- Word i lies in the range of sequencer k. -/
def State.inRange (s : State) (n k i : Nat) : Bool :=
  let w := s.reg (seqReg n k 8)
  decide ((bitsOf w 5 0).toNat ≤ i) && decide (i ≤ (bitsOf w 13 8).toNat)

/-- PROG_WRITE (R215); in the rest of the cycle the word stands as it was before (R216). -/
def State.progWrite (s : State) (n i : Nat) (data : Word) : State :=
  if (List.range 8).any (fun k => s.inRange n k i && !s.seqStill n k) then s.refuse (.bay n) (4 * i)
  else { s.setReg (bayReg n (4 * i)) (data &&& 0xFFFF) with
    progOld := s.progOld ++ [(n, i, s.reg (bayReg n (4 * i)))] }

def execProgWrite (who : Agent) (n : Core) (i : Fin 64) (data : Word) (s : State) :
    Host.Outcome State Fault Refusal :=
  .next (s.atBlock who (.bay n.val) (4 * i.val) (fun s => s.progWrite n.val i.val data))

/-! ## Staging registers and credits (R225 to R227, R232) -/

def State.setCredit (s : State) (key used back : Nat) : State :=
  { s with credits := Map.set (0, 0) s.credits key (used, back) }

/-- Use a credit; send n credits on their way back; take one back. -/
def State.useCredit (s : State) (key : Nat) : State :=
  s.setCredit key ((s.credit key).1 + 1) (s.credit key).2
def State.sendCredit (s : State) (key n : Nat) : State :=
  s.setCredit key (s.credit key).1 ((s.credit key).2 + n)
def State.takeCredit (s : State) (key : Nat) : State :=
  if (s.credit key).2 = 0 then s else s.setCredit key ((s.credit key).1 - 1) ((s.credit key).2 - 1)

/-- A thread of the bay's hosting core. -/
def ofHost (who : Agent) (n : Nat) : Bool :=
  match who with
  | .thread gt => decide (gt.val / 64 = n)
  | _ => false

/-- A word arrives at TXW; from any agent but the hosting core's threads it is refused (R226). -/
def State.txwArrive (s : State) (who : Agent) (n k : Nat) (data : Word) : State :=
  if ofHost who n then s.modSeq n k (fun x => { x with tx := x.tx ++ [data] })
  else s.refuse (.bay n) (0x128 + 0x40 * k)

/-- A thread of the hosting core stores to TXW: with a credit the word is appended; without one the thread
is held back (R225). -/
def State.txwStore (s : State) (gt n k : Nat) (data : Word) : State :=
  if (s.credit (txKey n k)).1 < 2 then
    (s.useCredit (txKey n k)).modSeq n k (fun x => { x with tx := x.tx ++ [data] })
  else s.holdBreak gt

/-- A write of TXW by an agent: of a thread of the hosting core a store, refused to any other. -/
def State.txwWrite (s : State) (who : Agent) (n k : Nat) (data : Word) : State :=
  s.atBlock who (.bay n) (0x128 + 0x40 * k) (fun s =>
    match who with
    | .thread gt => if gt.val / 64 = n then s.txwStore gt.val n k data else s.txwArrive who n k data
    | _ => s.txwArrive who n k data)

/-- TXW_WRITE (R225, R226). -/
def execTxwWrite (who : Agent) (n : Core) (k : Seq) (data : Word) (s : State) :
    Host.Outcome State Fault Refusal :=
  .next (s.txwWrite who n.val k.val data)

/-- A read of RXW: the value, and the state after (R226, R227). -/
def State.rxwTake (s : State) (who : Agent) (n k : Nat) : Word × State :=
  if ofHost who n then
    match (s.seq n k).rx with
    | w :: r => (w, s.modSeq n k (fun x => { x with rx := r }))
    | [] => (0, s.setBit ⟨seqReg n k 4, 12, 12⟩ true)
  else (0, s)

def execRxwRead (who : Agent) (n : Core) (k : Seq) (s : State) : Host.Outcome State Fault Refusal :=
  .next (
    if s.bayPresent n.val then
      let p := s.rxwTake who n.val k.val
      p.2.answer (toBytes 4 p.1.toNat)
    else s.answer (toBytes 4 0))

def execCreditReturn (n : Core) (c : Credit) (s : State) : Host.Outcome State Fault Refusal :=
  .next (s.takeCredit (match c with
    | .tx k => txKey n.val k.val
    | .edge => edgeKey n.val))

/-! ## Sequencer commands (R228, R229; START and CONTINUE are refused until release, R483) -/

def State.seqCmdStart (s : State) (n k off : Nat) : State :=
  if s.seqStill n k ∧ !s.unreleased then
    let s := s.modSeq n k (fun x => { x with judged := false, ends := none, stamp := none, hop := 0 })
    let s := { s with latched := Map.erase (Map.erase s.latched (selSeq n k 0)) (selSeq n k 1) }
    let s := (s.setReg (seqReg n k 0x1C) 0).setReg (seqReg n k 0x20) 0
    let s := (s.setFld (fOsrLeft n k) 0).setFld (fIsrCount n k) 0
    let s := (s.setFld (fSeqFault n k) 0).setFld (fSeqPC n k) (bitsOf (s.reg (seqReg n k 8)) 21 16)
    s.setFld (fSeqState n k) sqRunning
  else s.refuse (.bay n) off

/-- The stop point: a completed instruction has its own row; one that waits or stalls is
abandoned. -/
def State.seqCmdStop (s : State) (n k : Nat) : State :=
  if s.seqStill n k then s
  else (s.modSeq n k (fun x => { x with judged := false, ends := none, stamp := none })).setFld
    (fSeqState n k) sqStopped

def State.seqCmdContinue (s : State) (n k off : Nat) : State :=
  if s.unreleased then s.refuse (.bay n) off
  else if s.fld (fSeqState n k) = sqStopped then s.setFld (fSeqState n k) sqRunning
  else if s.fld (fSeqState n k) = sqFaulted then s.refuse (.bay n) off else s

def State.seqCmdFlush (s : State) (n k off : Nat) : State :=
  if s.seqStill n k then
    (s.sendCredit (txKey n k) (s.seq n k).tx.length).modSeq n k (fun x => { x with tx := [], rx := [] })
  else s.refuse (.bay n) off

/-- A write of SEQ_CTL: one command, or refused (R228). -/
def State.writeSeqCtl (s : State) (n k : Nat) (data : Word) : State :=
  let off := 0x100 + 0x40 * k
  let d := data &&& 0xF
  if d = 1 then s.seqCmdStart n k off
  else if d = 2 then s.seqCmdStop n k
  else if d = 4 then s.seqCmdContinue n k off
  else if d = 8 then s.seqCmdFlush n k off
  else if d = 0 then s
  else s.refuse (.bay n) off

/-- A write of BAY_GO: all named sequencers act together, unless one is named twice (R228). -/
def State.writeBayGo (s : State) (n : Nat) (data : Word) : State :=
  let st := bitsOf data 7 0
  let sp := bitsOf data 15 8
  let co := bitsOf data 23 16
  if (st &&& sp) ||| (st &&& co) ||| (sp &&& co) ≠ 0 then s.refuse (.bay n) 0x304
  else (List.range 8).foldl (fun s k =>
    if st.getLsbD k then s.seqCmdStart n k 0x304
    else if sp.getLsbD k then s.seqCmdStop n k
    else if co.getLsbD k then s.seqCmdContinue n k 0x304
    else s) s

def execSeqStart (who : Agent) (n : Core) (k : Seq) (s : State) : Host.Outcome State Fault Refusal :=
  .next (s.atBlock who (.bay n.val) (0x100 + 0x40 * k.val) (fun s => s.seqCmdStart n.val k.val (0x100 + 0x40 * k.val)))
def execSeqStop (who : Agent) (n : Core) (k : Seq) (s : State) : Host.Outcome State Fault Refusal :=
  .next (s.atBlock who (.bay n.val) (0x100 + 0x40 * k.val) (fun s => s.seqCmdStop n.val k.val))
def execSeqContinue (who : Agent) (n : Core) (k : Seq) (s : State) : Host.Outcome State Fault Refusal :=
  .next (s.atBlock who (.bay n.val) (0x100 + 0x40 * k.val) (fun s => s.seqCmdContinue n.val k.val (0x100 + 0x40 * k.val)))
def execSeqFlush (who : Agent) (n : Core) (k : Seq) (s : State) : Host.Outcome State Fault Refusal :=
  .next (s.atBlock who (.bay n.val) (0x100 + 0x40 * k.val) (fun s => s.seqCmdFlush n.val k.val (0x100 + 0x40 * k.val)))

/-! ## One cycle of a sequencer (R214, R217 to R224) -/

/-- What an instruction comes to in one cycle: it completes, at the next word or at a target; it
waits; it stalls; it faults with a code. -/
inductive SeqOut where
  | done (s : State) (target : Option Nat)
  | wait (s : State)
  | stall (s : State)
  | fault (code : Word)

/-- A group of n lanes from a base, as bits. -/
def State.laneGroup (s : State) (n base cnt : Nat) : Nat :=
  (List.range cnt).foldl (fun v i => if s.laneIn (32 * n + (base + i) % 32) then v + 2 ^ i else v) 0

/-- Drive values (or enables) of cnt lanes from a base as sequencer k, to reach the bundle at instant q. -/
def State.driveLanes (s : State) (n k base cnt q : Nat) (oe : Bool) (v : Word) : State :=
  (List.range cnt).foldl (fun s i =>
    s.laneAct (32 * n + (base + i) % 32) k q (fun p =>
      if oe then (p.1, v.getLsbD i) else (v.getLsbD i, p.2))) s

/-- Take the oldest TXW word: a credit goes back and TX_FREE is presented (R224, R225). -/
def State.takeTx (s : State) (n k : Nat) : State :=
  ((s.modSeq n k (fun x => { x with tx := x.tx.drop 1 })).sendCredit (txKey n k) 1).present
    (0x402 + 4 * (8 * n + k)) true 0

/-- Append a word to RXW; RX_AVAIL when it was empty. -/
def State.pushRx (s : State) (n k : Nat) (w : Word) : State :=
  let e := (s.seq n k).rx.isEmpty
  let s := s.modSeq n k (fun x => { x with rx := x.rx ++ [w] })
  if e then s.present (0x402 + 4 * (8 * n + k)) false 0 else s

def State.seqX (s : State) (n k : Nat) : Word := s.reg (seqReg n k 0x14)
def State.seqY (s : State) (n k : Nat) : Word := s.reg (seqReg n k 0x18)
def State.setX (s : State) (n k : Nat) (v : Word) : State := s.setReg (seqReg n k 0x14) v
def State.setY (s : State) (n k : Nat) (v : Word) : State := s.setReg (seqReg n k 0x18) v

/-- `SEQ_SHIFT` fields. -/
def fOutMsb (n k : Nat) : Fld := ⟨seqReg n k 0x10, 0, 0⟩
def fInMsb (n k : Nat) : Fld := ⟨seqReg n k 0x10, 1, 1⟩
def fAutoPull (n k : Nat) : Fld := ⟨seqReg n k 0x10, 2, 2⟩
def fAutoPush (n k : Nat) : Fld := ⟨seqReg n k 0x10, 3, 3⟩
def fPushThresh (n k : Nat) : Fld := ⟨seqReg n k 0x10, 9, 4⟩
/-- `SEQ_PINS` fields. -/
def fOutBase (n k : Nat) : Fld := ⟨seqReg n k 0xC, 4, 0⟩
def fInBase (n k : Nat) : Fld := ⟨seqReg n k 0xC, 9, 5⟩
def fSetBase (n k : Nat) : Fld := ⟨seqReg n k 0xC, 14, 10⟩
def fSetCount (n k : Nat) : Fld := ⟨seqReg n k 0xC, 17, 15⟩
def fJlane (n k : Nat) : Fld := ⟨seqReg n k 0xC, 22, 18⟩
def fMovCount (n k : Nat) : Fld := ⟨seqReg n k 0xC, 27, 23⟩

/-- `BAY_CTL.LATE_APPLY`. -/
def fLateApply (n : Nat) : Fld := ⟨bayReg n 0x300, 0, 0⟩

/-- ISR holds a new value and count: with AUTO_PUSH at the threshold the instruction ends with a
push, and applies nothing while RXW is full (R221). `s1` is the state with the instruction's other
effects. -/
def State.isrDone (s s1 : State) (n k : Nat) (isr : Word) (cnt : Nat) : SeqOut :=
  if s.bit (fAutoPush n k) ∧ (s.fld (fPushThresh n k)).toNat ≤ cnt then
    if (s.seq n k).rx.length < 2 then
      let s2 := s1.pushRx n k isr
      .done ((s2.setReg (seqReg n k 0x20) 0).setFld (fIsrCount n k) 0) none
    else .stall s
  else .done ((s1.setReg (seqReg n k 0x20) isr).setFld (fIsrCount n k) (BitVec.ofNat 32 cnt)) none

/-- The instant at which an untimed change of the present cycle reaches the bundle (R202). -/
def State.untimedAt (s : State) (n : Nat) : Nat := 4 * (s.pt n + 1)

/-- A timed change whose time stands in Y (R223): `ok q` applies the change with its lanes, to reach the
bundle at instant q; `late` applies it without them. -/
def State.timed (s : State) (n k : Nat) (ok : Nat → State → State) (late : State → State) : SeqOut :=
  let pt := s.pt n
  let t := (bitsOf (s.seqY n k) 25 2).toNat
  if !(s.seq n k).judged && ptLate t pt then
    let s1 := s.setBit (fSeqLate n k) true
    .done (if s.bit (fLateApply n) then ok (s.untimedAt n) s1 else late s1) none
  else if ptDistance t pt = 0 then .done (ok (bitsOf (s.seqY n k) 25 0).toNat s) none
  else .stall (s.modSeq n k (fun x => { x with judged := true }))

/-- The condition of JMP, and the state with the decrement a condition makes (R218); none where the
condition is undefined. -/
def State.jmpTest (s : State) (n k : Nat) (w : Word) : Option (Bool × State) :=
  let x := s.seqX n k
  let y := s.seqY n k
  let q := s.seq n k
  let jl := s.laneIn (32 * n + (s.fld (fJlane n k)).toNat)
  match (bitsOf w 11 8).toNat with
  | 0 => some (true, s)
  | 1 => some (x == 0, s)
  | 2 => some (x != 0, s)
  | 3 => some (x - 1 != 0, s.setX n k (x - 1))
  | 4 => some (y == 0, s)
  | 5 => some (y != 0, s)
  | 6 => some (y - 1 != 0, s.setY n k (y - 1))
  | 7 => some (jl, s)
  | 8 => some (!jl, s)
  | 9 => some (s.fld (fOsrLeft n k) == 0, s)
  | 10 => some (decide ((s.fld (fPushThresh n k)).toNat ≤ (s.fld (fIsrCount n k)).toNat), s)
  | 11 => some (!q.tx.isEmpty, s)
  | 12 => some (decide (q.rx.length < 2), s)
  | 13 => some (Map.get 0 s.latched (selSeq n k 0) != 0, s)
  | 14 => some (ptLate (bitsOf y 25 2).toNat (s.pt n), s)
  | _ => none

/-- JMP (R218). -/
def State.seqJmp (s : State) (n k : Nat) (w : Word) : SeqOut :=
  let target := (bitsOf w 5 0).toNat
  if bitsOf w 7 6 ≠ 0 then .fault 1
  else match s.jmpTest n k w with
    | none => .fault 1
    | some (true, s') => if s.inRange n k target then .done s' (some target) else .fault 2
    | some (false, s') => .done s' none

/-- WAIT (R218, R223). -/
def State.seqWaitI (s : State) (n k : Nat) (w : Word) : SeqOut :=
  let pol := w.getLsbD 11
  let arg := (bitsOf w 7 0).toNat
  match (bitsOf w 10 8).toNat with
  | 0 =>
    if 32 ≤ arg then .fault 1
    else if s.laneIn (32 * n + arg) = pol then .done s none else .wait s
  | 1 =>
    if !pol || 2 ≤ arg then .fault 1
    else
      let h := Map.get 0 s.latched (selSeq n k arg)
      if h = 0 then .wait s
      else .done (({ s with latched := Map.erase s.latched (selSeq n k arg) } : State).modSeq n k
        (fun x => { x with hop := min 8 h })) none
  | 2 =>
    if !pol || arg ≠ 0 then .fault 1
    else match s.timed n k (fun _ s => s) id with
      | .stall s' => .wait s'
      | o => o
  | 3 =>
    if !pol then .fault 1
    else match (s.seq n k).ends with
      | some e => if (s.pt n + 2 ^ 24 - e) % 2 ^ 24 < 2 ^ 23 then .done s none else .wait s
      | none =>
        if arg = 0 then .done s none
        else .wait (s.modSeq n k (fun x => { x with ends := some ((s.pt n + arg) % 2 ^ 24) }))
  | 4 =>
    if !pol || arg ≠ 0 then .fault 1
    else if (s.seq n k).tx.isEmpty then .wait s else .done s none
  | _ => .fault 1

/-- IN (R218, R219). -/
def State.seqInI (s : State) (n k : Nat) (w : Word) : SeqOut :=
  let cnt := (bitsOf w 4 0).toNat + 1
  let m := 2 ^ cnt
  let g : Option Nat := match (bitsOf w 11 9).toNat with
    | 0 => some (s.laneGroup n (s.fld (fInBase n k)).toNat cnt)
    | 1 => some ((s.seqX n k).toNat % m)
    | 2 => some ((s.seqY n k).toNat % m)
    | 3 => some 0
    | 4 => some (m - 1)
    | _ => none
  if bitsOf w 8 5 ≠ 0 then .fault 1
  else match g with
    | none => .fault 1
    | some g =>
      let isr := s.reg (seqReg n k 0x20)
      let gw : Word := BitVec.ofNat 32 g
      let isr' := if cnt = 32 then gw
        else if s.bit (fInMsb n k) then (isr <<< cnt) ||| gw else (isr >>> cnt) ||| (gw <<< (32 - cnt))
      s.isrDone s n k isr' (min 32 ((s.fld (fIsrCount n k)).toNat + cnt))

/-- OUT (R218, R219, R221, R223). -/
def State.seqOutI (s : State) (n k : Nat) (w : Word) : SeqOut :=
  let cnt := (bitsOf w 4 0).toNat + 1
  let dst := (bitsOf w 11 9).toNat
  let tm := w.getLsbD 8
  if bitsOf w 7 5 ≠ 0 ∨ 6 ≤ dst ∨ (tm ∧ 2 ≤ dst) then .fault 1
  else
    let pull := s.fld (fOsrLeft n k) = 0 ∧ s.bit (fAutoPull n k)
    if pull ∧ (s.seq n k).tx.isEmpty then .stall s
    else
      -- the shift, with any automatic pull, and then the output
      let shifted (s : State) : State × Word :=
        let osr := if pull then ((s.seq n k).tx.headD 0) else s.reg (seqReg n k 0x1C)
        let left := if pull then 32 else (s.fld (fOsrLeft n k)).toNat
        let s := if pull then s.takeTx n k else s
        let g : Word := if s.bit (fOutMsb n k) then osr >>> (32 - cnt)
          else osr &&& BitVec.ofNat 32 (2 ^ cnt - 1)
        let osr' : Word := if cnt = 32 then 0 else if s.bit (fOutMsb n k) then osr <<< cnt else osr >>> cnt
        ((s.setReg (seqReg n k 0x1C) osr').setFld (fOsrLeft n k) (BitVec.ofNat 32 (left - cnt)), g)
      let full (q : Nat) (s : State) : State :=
        let p := shifted s
        let base := (s.fld (fOutBase n k)).toNat
        match dst with
        | 0 => p.1.driveLanes n k base cnt q false p.2
        | 1 => p.1.driveLanes n k base cnt q true p.2
        | 2 => p.1.setX n k p.2
        | 3 => p.1.setY n k p.2
        | 4 => p.1
        | _ => p.1.setY n k (p.1.seqY n k + p.2)
      if tm then s.timed n k full (fun s => (shifted s).1) else .done (full (s.untimedAt n) s) none

/-- PUSH and PULL (R221). -/
def State.seqPushI (s : State) (n k : Nat) (w : Word) : SeqOut :=
  if bitsOf w 10 0 ≠ 0 then .fault 1
  else if (s.seq n k).rx.length < 2 then
    .done (((s.pushRx n k (s.reg (seqReg n k 0x20))).setReg (seqReg n k 0x20) 0).setFld (fIsrCount n k) 0) none
  else if w.getLsbD 11 then .done (s.setBit ⟨seqReg n k 4, 13, 13⟩ true) none
  else .stall s

def State.seqPullI (s : State) (n k : Nat) (w : Word) : SeqOut :=
  if bitsOf w 10 0 ≠ 0 then .fault 1
  else match (s.seq n k).tx with
    | v :: _ => .done (((s.takeTx n k).setReg (seqReg n k 0x1C) v).setFld (fOsrLeft n k) 32) none
    | [] => if w.getLsbD 11 then .done (s.setBit ⟨seqReg n k 4, 14, 14⟩ true) none else .stall s

/-- The status word of R220. -/
def State.seqStatusWord (s : State) (n k : Nat) : Word :=
  let q := s.seq n k
  let b (x : Bool) (i : Nat) : Nat := if x then 2 ^ i else 0
  BitVec.ofNat 32 (q.tx.length + q.rx.length * 4 + (s.fld (fOsrLeft n k)).toNat * 16 +
    (s.fld (fIsrCount n k)).toNat * 1024 + b (s.bit (fSeqLate n k)) 16 +
    b (Map.get 0 s.latched (selSeq n k 0) != 0) 17 + b (Map.get 0 s.latched (selSeq n k 1) != 0) 18)

/-- The order of the 32 bits reversed, and of the 4 bytes. -/
def bitRev (v : Word) : Word :=
  (List.range 32).foldl (fun r i => if v.getLsbD i then r ||| ((1 : Word) <<< (31 - i)) else r) 0
def byteRev (v : Word) : Word := BitVec.ofNat 32 (ofBytes (toBytes 4 v.toNat).reverse)

/-- The word of the present time: EPOCH in [31:28], PT in quarter units. -/
def State.ptWord (s : State) (n : Nat) : Nat := 2 ^ 28 * (s.fld (fPtEpoch n)).toNat + s.pt n * 4

/-- MOV (R218). -/
def State.seqMovI (s : State) (n k : Nat) (w : Word) : SeqOut :=
  let src : Word := match (bitsOf w 5 3).toNat with
    | 0 => s.seqX n k
    | 1 => s.seqY n k
    | 2 => s.reg (seqReg n k 0x1C)
    | 3 => s.reg (seqReg n k 0x20)
    | 4 => BitVec.ofNat 32 (s.laneGroup n (s.fld (fInBase n k)).toNat 32)
    | 5 => BitVec.ofNat 32 (s.ptWord n)
    | 6 => 0
    | _ => s.seqStatusWord n k
  let x := s.seqX n k
  let val : Option Word := match (bitsOf w 8 6).toNat with
    | 0 => some src
    | 1 => some (src + x)
    | 2 => some (src - x)
    | 3 => some (~~~ src)
    | 4 => some (bitRev src)
    | 5 => some (byteRev src)
    | _ => none
  let lanes (oe : Bool) (v : Word) : SeqOut :=
    .done (s.driveLanes n k (s.fld (fOutBase n k)).toNat ((s.fld (fMovCount n k)).toNat + 1) (s.untimedAt n) oe v) none
  if bitsOf w 2 0 ≠ 0 then .fault 1
  else match val with
    | none => .fault 1
    | some v =>
      match (bitsOf w 11 9).toNat with
      | 0 => .done (s.setX n k v) none
      | 1 => .done (s.setY n k v) none
      | 2 => .done ((s.setReg (seqReg n k 0x1C) v).setFld (fOsrLeft n k) 32) none
      | 3 => .done ((s.setReg (seqReg n k 0x20) v).setFld (fIsrCount n k) 32) none
      | 4 =>
        let t := (bitsOf v 5 0).toNat
        if s.inRange n k t then .done s (some t) else .fault 2
      | 5 => lanes false v
      | 6 => lanes true v
      | _ => .fault 1

/-- SET (R218). -/
def State.seqSetI (s : State) (n k : Nat) (w : Word) : SeqOut :=
  let dst := (bitsOf w 11 9).toNat
  let tm := w.getLsbD 8
  let imm := bitsOf w 7 0
  if 4 ≤ dst ∨ (tm ∧ 2 ≤ dst) ∨ (dst < 2 ∧ bitsOf w 7 5 ≠ 0) then .fault 1
  else
    let full (q : Nat) (s : State) : State :=
      if dst < 2 then
        s.driveLanes n k (s.fld (fSetBase n k)).toNat (s.fld (fSetCount n k)).toNat q (decide (dst = 1)) imm
      else if dst = 2 then s.setX n k imm else s.setY n k imm
    if tm then s.timed n k full id else .done (full (s.untimedAt n) s) none

/-- EVT (R224). -/
def State.seqEvtI (s : State) (n k : Nat) (w : Word) : SeqOut :=
  if bitsOf w 11 2 ≠ 0 then .fault 1
  else .done (s.present (0x400 + 4 * (8 * n + k) + (bitsOf w 1 0).toNat / 2) (w.getLsbD 0) (s.seq n k).hop) none

/-- STAMP (R218, R238). -/
def State.seqStampI (s : State) (n k : Nat) (w : Word) : SeqOut :=
  let j := (bitsOf w 4 0).toNat
  let l := 32 * n + j
  if bitsOf w 9 5 ≠ 0 then .fault 1
  else match (bitsOf w 11 10).toNat with
    | 0 => if j ≠ 0 then .fault 1 else s.isrDone s n k (BitVec.ofNat 32 (2 ^ 26 + s.ptWord n)) 32
    | 1 => s.isrDone (s.setBit (fNew l) false) n k (s.reg (laneReg l 0xC)) 32
    | 2 =>
      match (s.seq n k).stamp with
      | some (_, true) => s.isrDone (s.setBit (fNew l) false) n k (s.reg (laneReg l 0xC)) 32
      | some (_, false) => .wait s
      | none => .wait (s.modSeq n k (fun x => { x with stamp := some (j, false) }))
    | _ => .fault 1

/-- One cycle of the instruction word w. -/
def State.seqRun (s : State) (n k : Nat) (w : Word) : SeqOut :=
  match (bitsOf w 15 12).toNat with
  | 0 => s.seqJmp n k w
  | 1 => s.seqWaitI n k w
  | 2 => s.seqInI n k w
  | 3 => s.seqOutI n k w
  | 4 => s.seqPushI n k w
  | 5 => s.seqPullI n k w
  | 6 => s.seqMovI n k w
  | 7 => s.seqSetI n k w
  | 8 => s.seqEvtI n k w
  | 9 => s.seqStampI n k w
  | _ => .fault 1

/-- The instruction word at the sequencer's PC: as it stood before a write accepted in this cycle (R216). -/
def State.seqWord (s : State) (n k : Nat) : Word :=
  let i := (s.fld (fSeqPC n k)).toNat
  match s.progOld.find? (fun x => x.1 == n && x.2.1 == i) with
  | some x => x.2.2 &&& 0xFFFF
  | none => s.reg (bayReg n (4 * i)) &&& 0xFFFF

/-- The word after the one at PC (R214). -/
def State.seqNext (s : State) (n k : Nat) : Nat :=
  let r := s.reg (seqReg n k 8)
  let pc := (s.fld (fSeqPC n k)).toNat
  if pc = (bitsOf r 13 8).toNat then (bitsOf r 5 0).toNat else (pc + 1) % 64

/-- One PCLK cycle of a sequencer (R222). -/
def State.seqCycle (s : State) (n k : Nat) : State :=
  match s.seqRun n k (s.seqWord n k) with
  | .done s' tgt =>
    let s1 := s'.modSeq n k (fun x => { x with judged := false, ends := none, stamp := none })
    let s2 := s1.setFld (fSeqPC n k) (BitVec.ofNat 32 (tgt.getD (s.seqNext n k)))
    s2.setFld (fSeqState n k) sqRunning
  | .wait s' => s'.setFld (fSeqState n k) sqWaiting
  | .stall s' => s'.setFld (fSeqState n k) sqStalled
  | .fault c =>
    let s1 := s.modSeq n k (fun x => { x with judged := false, ends := none, stamp := none })
    let s2 := (s1.setFld (fSeqState n k) sqFaulted).setFld (fSeqFault n k) c
    s2.present (0x403 + 4 * (8 * n + k)) false 0

/-- A sequencer row: after dt PCLK cycles the running sequencer meets an instruction of the row's type, or
one of no type. -/
def State.seqRow (s : State) (ty n k dt : Nat) : State :=
  let s' := s.passPT n dt
  let t := (bitsOf (s'.seqWord n k) 15 12).toNat
  if s.bayPresent n ∧ s.fld (fSeqState n k) = sqRunning ∧ (t = ty ∨ 9 < t) then s'.seqCycle n k else s

def execSeqJmp (n : Core) (k : Seq) (dt : PinTime) (s : State) : Host.Outcome State Fault Refusal :=
  .next (s.seqRow 0 n.val k.val dt.toNat)
def execSeqWait (n : Core) (k : Seq) (dt : PinTime) (s : State) : Host.Outcome State Fault Refusal :=
  .next (s.seqRow 1 n.val k.val dt.toNat)
def execSeqIn (n : Core) (k : Seq) (dt : PinTime) (s : State) : Host.Outcome State Fault Refusal :=
  .next (s.seqRow 2 n.val k.val dt.toNat)
def execSeqOut (n : Core) (k : Seq) (dt : PinTime) (s : State) : Host.Outcome State Fault Refusal :=
  .next (s.seqRow 3 n.val k.val dt.toNat)
def execSeqPush (n : Core) (k : Seq) (dt : PinTime) (s : State) : Host.Outcome State Fault Refusal :=
  .next (s.seqRow 4 n.val k.val dt.toNat)
def execSeqPull (n : Core) (k : Seq) (dt : PinTime) (s : State) : Host.Outcome State Fault Refusal :=
  .next (s.seqRow 5 n.val k.val dt.toNat)
def execSeqMov (n : Core) (k : Seq) (dt : PinTime) (s : State) : Host.Outcome State Fault Refusal :=
  .next (s.seqRow 6 n.val k.val dt.toNat)
def execSeqSet (n : Core) (k : Seq) (dt : PinTime) (s : State) : Host.Outcome State Fault Refusal :=
  .next (s.seqRow 7 n.val k.val dt.toNat)
def execSeqEvt (n : Core) (k : Seq) (dt : PinTime) (s : State) : Host.Outcome State Fault Refusal :=
  .next (s.seqRow 8 n.val k.val dt.toNat)
def execSeqStamp (n : Core) (k : Seq) (dt : PinTime) (s : State) : Host.Outcome State Fault Refusal :=
  .next (s.seqRow 9 n.val k.val dt.toNat)

/-- SEQ_STALL_RELEASE: one cycle of a waiting or stalled instruction, which completes if its
condition holds in it. -/
def execSeqStallRelease (n : Core) (k : Seq) (dt : PinTime) (s : State) : Host.Outcome State Fault Refusal :=
  .next (
    let st := s.fld (fSeqState n.val k.val)
    if s.bayPresent n.val ∧ (st = sqWaiting ∨ st = sqStalled) then
      (s.passPT n.val dt.toNat).seqCycle n.val k.val else s)

/-! ## The edge queue (R232 to R234) -/

def State.edgeQ (s : State) (n : Nat) : List EdgeE := Map.get [] s.edges n
def State.setEdgeQ (s : State) (n : Nat) (q : List EdgeE) : State :=
  { s with edges := Map.set [] s.edges n q }

/-- The bay's virtual complex is freezing, frozen or imaging, so its edge queue applies nothing
(R472). -/
def State.bayHeld (s : State) (n : Nat) : Bool :=
  match s.owner (ownBay n) with
  | some v => s.fld (vcState v) == 2 || s.fld (vcState v) == 3 || s.fld (vcState v) == 6
  | none => false

/-- An EDGE action (R234), as source 8, that reaches the bundle at instant q. -/
def State.edgeAct (s : State) (n : Nat) (e : EdgeE) (q : Nat) : State :=
  s.laneAct (32 * n + e.lane) 8 q (fun p =>
    match e.act with
    | 0 => (false, true)
    | 1 => (true, true)
    | 2 => (p.1, false)
    | _ => (!p.1, p.2))

/-- EDGE_ENTRY_CHECK: the oldest unchecked entry is late or is queued (R233). -/
def execEdgeEntryCheck (n : Core) (dt : PinTime) (s : State) : Host.Outcome State Fault Refusal :=
  .next (
    let n := n.val
    match (s.edgeQ n).find? (fun e => !e.checked) with
    | none => s
    | some e =>
      if !s.bayPresent n || s.bayHeld n then s
      else
        let s := s.passPT n dt.toNat
        if ptLate (e.time / 4) (s.pt n) then
          let s := s.setEdgeQ n ((s.edgeQ n).erase e)
          let s := (s.setBit ⟨bayReg n 0x30C, 1, 1⟩ true).present (0x1780 + n) true 0
          let s := s.sendCredit (edgeKey n) 1
          if s.bit (fLateApply n) then s.edgeAct n e (s.untimedAt n) else s
        else
          let q := s.edgeQ n
          let i := q.findIdx (fun e => !e.checked)
          s.setEdgeQ n (q.set i { e with checked := true }))

/-- EDGE_ENTRY_APPLY: every checked entry whose T − 1 is now acts, in order of phase and then of
arrival, and the bundle shows the result of each phase (R202, R234). -/
def execEdgeEntryApply (n : Core) (dt : PinTime) (s : State) : Host.Outcome State Fault Refusal :=
  .next (
    let n := n.val
    if !s.bayPresent n || s.bayHeld n then s
    else
      let s := s.passPT n dt.toNat
      let due (e : EdgeE) : Bool := e.checked && decide (ptDistance (e.time / 4) (s.pt n) = 0)
      let es := (s.edgeQ n).filter due
      let s := s.setEdgeQ n ((s.edgeQ n).filter (fun e => !due e))
      let s := (List.range 4).foldl (fun s p =>
        (es.filter (fun e => e.time % 4 == p)).foldl (fun s e => s.edgeAct n e e.time) s) s
      s.sendCredit (edgeKey n) es.length)

/-- SEQ_EVENT_LATCH: the toggle of a sequencer input has crossed; the input latches the event, or
overruns (R224, R278). -/
def execSeqEventLatch (n : Core) (k : Seq) (i : Fin 2) (s : State) : Host.Outcome State Fault Refusal :=
  .next (
    let x := selSeq n.val k.val i.val
    let h := Map.get 0 s.held x
    if h = 0 then s
    else
      let s := { s with held := Map.erase s.held x }
      let old := Map.get 0 s.latched x
      let s := { s with latched := Map.set 0 s.latched x (max old h) }
      if old = 0 then s else s.overrun x)

end Sys2Proof.Machine
end

