-- ==== Sys2Proof/Machine/Timers.lean ====
section
/-!
DEFINITION. The timebase, timers, global start and latching reads (R235, R239 to R266). A row's `dt`
is the number of TCLK cycles that have passed when it falls: the timebase advances by them first
(log 7).
-/
namespace Sys2Proof.Machine

/-! ## The timebase (R239 to R247) -/


/-- NS:FRAC as one number with 32 fraction bits. -/
def State.tbNow (s : State) : Nat :=
  (s.reg (tbReg 0x10)).toNat + 2 ^ 32 * (s.reg (tbReg 0x18)).toNat + 2 ^ 64 * (s.reg (tbReg 0x1C)).toNat
def State.setTb (s : State) (v : Nat) : State :=
  let s := s.setReg (tbReg 0x10) (BitVec.ofNat 32 v)
  let s := s.setReg (tbReg 0x18) (BitVec.ofNat 32 (v / 2 ^ 32))
  s.setReg (tbReg 0x1C) (BitVec.ofNat 32 (v / 2 ^ 64))

/-- NS in whole nanoseconds. -/
def State.tbNs (s : State) : Nat := s.tbNow / 2 ^ 32

/-- The increment I in force, without and with the adjustment (R239). -/
def State.tbIncr (s : State) : Nat :=
  2 ^ 32 * (s.fld ⟨tbReg 0x24, 7, 0⟩).toNat + (s.reg (tbReg 0x20)).toNat
def State.tbIncrAdj (s : State) : Nat :=
  (Int.ofNat s.tbIncr + (s.reg (tbReg 0x28)).toInt).toNat

/-- ADJ_LEFT, and ADJ_ACTIVE with it. -/
def State.setAdjLeft (s : State) (n : Nat) : State :=
  (s.setReg (tbReg 0x30) (BitVec.ofNat 32 n)).setBit ⟨tbReg 4, 17, 17⟩ (decide (n ≠ 0))

/-- NS:FRAC after n more TCLK cycles (R239). -/
def State.tbAfter (s : State) (n : Nat) : Nat :=
  let k := min n (s.reg (tbReg 0x30)).toNat
  s.tbNow + k * s.tbIncrAdj + (n - k) * s.tbIncr

/-- Timebase and epoch of the last TCLK cycles, the present one first. -/
def State.tbPast (s : State) : List (Nat × Nat) :=
  if s.tbHist.isEmpty then [(s.tbNow, (s.fld fEpoch).toNat)] else s.tbHist

/-- n TCLK cycles pass (R239). -/
def State.tclk (s : State) (n : Nat) : State :=
  if s.powered 44 && n != 0 then
    let ep := (s.fld fEpoch).toNat
    let past := ((List.range (min n 5)).map (fun i => (s.tbAfter (n - i) % 2 ^ 96, ep)) ++ s.tbPast).take 5
    { (s.setTb (s.tbAfter n)).setAdjLeft ((s.reg (tbReg 0x30)).toNat - n) with
      tcycle := s.tcycle + n, tbHist := past }
  else s

/-- Some bridge port follows its partner's timebase (R567). -/
def State.following (s : State) : Bool :=
  (List.range 4).any (fun p => s.bit ⟨0x10C00000 + 0x10000 * p, 2, 2⟩)

/-- RATE (R241); with a following port one that would adjust is refused (R567). -/
def State.tbRate (s : State) : State :=
  if s.following ∧ s.pendReg (tbReg 0x2C) ≠ 0 then s.refuse .timebase 0 else
  let s := s.commitAll [tbReg 0x20, tbReg 0x24, tbReg 0x28, tbReg 0x2C]
  s.setAdjLeft (s.reg (tbReg 0x2C)).toNat

/-- STEP (R242, R266); the quadrants learn the epoch through their crossings (R237). -/
def State.tbStep (s : State) : State :=
  let s := s.commitAll [tbReg 0x34, tbReg 0x38, tbReg 0x3C]
  let s := s.setTb ((s.reg (tbReg 0x34)).toNat + 2 ^ 32 * (s.reg (tbReg 0x38)).toNat +
    2 ^ 64 * (s.reg (tbReg 0x3C)).toNat)
  let s := (s.countWrap fEpoch).setAdjLeft 0
  let s := { s with tbHist := (s.tbNow, (s.fld fEpoch).toNat) :: s.tbPast.drop 1 }
  let s :=
    if s.bit fGoAtEn then
      (((s.setBit fGoAtEn false).setBit ⟨tbReg 4, 18, 18⟩ true).present 0x17A1 false 0)
    else s
  let ep := s.fld fEpoch
  let s := { s with xq := s.xq ++ (List.finRange 4).map (fun q =>
    (Crossing.epoch q, XItem.write .manager (bayReg (8 * q.val) 0x310) ep none .posted)) }
  s.present 0x17A0 false 0

/-- SNAP (R245). -/
def State.tbSnap (s : State) : State :=
  let s := s.setReg (tbReg 0x40) (s.reg (tbReg 0x10))
  let s := s.setReg (tbReg 0x44) (s.fld fEpoch)
  let s := s.setReg (tbReg 0x48) (s.reg (tbReg 0x18))
  s.setReg (tbReg 0x4C) (s.reg (tbReg 0x1C))

/-- A write of TB_CMD: RATE, then STEP, then SNAP. -/
def State.writeTbCmd (s : State) (data : Word) : State :=
  let s := if data.getLsbD 0 then s.tbRate else s
  let s := if data.getLsbD 1 then s.tbStep else s
  if data.getLsbD 2 then s.tbSnap else s

def execTbRate (who : Agent) (dt : BitVec 32) (s : State) : Host.Outcome State Fault Refusal :=
  .next (s.atBlock who .timebase 0 (fun s => (s.tclk dt.toNat).tbRate))
def execTbStep (who : Agent) (dt : BitVec 32) (s : State) : Host.Outcome State Fault Refusal :=
  .next (s.atBlock who .timebase 0 (fun s => (s.tclk dt.toNat).tbStep))
def execTbSnap (who : Agent) (dt : BitVec 32) (s : State) : Host.Outcome State Fault Refusal :=
  .next (s.atBlock who .timebase 0 (fun s => (s.tclk dt.toNat).tbSnap))

/-- TB_ADJ_END: the remaining adjustment cycles pass (R239). -/
def execTbAdjEnd (s : State) : Host.Outcome State Fault Refusal :=
  .next (s.tclk (s.reg (tbReg 0x30)).toNat)

/-- PPS_RECORD (R246). -/
def execPpsRecord (dt : BitVec 32) (s : State) : Host.Outcome State Fault Refusal :=
  .next (
    if s.ppsEdge ∧ s.powered 44 then
      let s := { (s.tclk dt.toNat) with ppsEdge := false }
      if s.bit ⟨tbReg 0x50, 0, 0⟩ then
        let s := s.setFld ⟨tbReg 0x54, 31, 16⟩ (s.fld fEpoch)
        let s := s.countWrap ⟨tbReg 0x54, 15, 0⟩
        let s := s.setReg (tbReg 0x58) (s.reg (tbReg 0x18))
        let s := s.setReg (tbReg 0x5C) (s.reg (tbReg 0x1C))
        let s := s.setReg (tbReg 0x60) (s.reg (tbReg 0x10))
        s.present 0x17A0 true 0
      else s
    else s)

/-! ## Timers (R248 to R258) -/

def fRunning (m : Nat) : Fld := ⟨tmrReg m 8, 0, 0⟩
def fArm (m : Nat) : Fld := ⟨tbReg (0x100 + 4 * (m / 32)), m % 32, m % 32⟩
def fNoMatch (m c : Nat) : Fld := ⟨tmrReg m 0, 17 + c, 17 + c⟩
def fLink (m : Nat) : Fld := ⟨tmrReg m 0, 3, 3⟩

def State.tmr (s : State) (m : Nat) : TimerS := Map.get {} s.timers m
def State.modTmr (s : State) (m : Nat) (f : TimerS → TimerS) : State :=
  { s with timers := Map.set {} s.timers m (f (s.tmr m)) }

/-- Timer m is the even timer, or the odd one, of a linked pair (R258). -/
def State.linkedEven (s : State) (m : Nat) : Bool := decide (m % 2 = 0) && s.bit (fLink m)
def State.linkedOdd (s : State) (m : Nat) : Bool := decide (m % 2 = 1) && s.bit (fLink (m - 1))

/-- A value of a timer, with that of m + 1 above it for a linked pair. -/
def State.tmrWide (s : State) (m off : Nat) : Nat :=
  (s.reg (tmrReg m off)).toNat + (if s.linkedEven m then 2 ^ 32 * (s.reg (tmrReg (m + 1) off)).toNat else 0)

/-- The count. -/
def State.tmrCount (s : State) (m : Nat) : Nat := s.tmrWide m 0x18
def State.setCount (s : State) (m v : Nat) : State :=
  let s' := s.setReg (tmrReg m 0x18) (BitVec.ofNat 32 v)
  if s.linkedEven m then s'.setReg (tmrReg (m + 1) 0x18) (BitVec.ofNat 32 (v / 2 ^ 32)) else s'

/-- Channel c reaches its match: the opposite of the level it took at the load (R253). -/
def State.tmrMatch (s : State) (m c hop : Nat) : State :=
  let x := (s.tmr m).noMatch
  (s.setBit (fLevel m c) (!(if c = 0 then x.1 else x.2))).present (0x800 + 2 * m + c) false hop

/-- Match the channels whose compare value, as the last load took it, equals the count v (R252). -/
def State.tmrMatches (s : State) (m v hop : Nat) : State :=
  [0, 1].foldl (fun s c =>
    if (if c = 0 then (s.tmr m).cmps.1 else (s.tmr m).cmps.2) = v then s.tmrMatch m c hop else s) s

/-- The count is loaded from the reload buffer, and the channels with it: they take their compare values
and levels for the period from there (R252, R253). A load that an input event causes gives MATCHc the
event's hop count plus one, as it does ZERO (log 82). -/
def State.tmrLoad (s : State) (m hop : Nat) : State :=
  let v := s.tmrWide m 0xC
  let s := (s.setCount m v).modTmr m (fun x => { x with
    cmps := (s.tmrWide m 0x10, s.tmrWide m 0x14)
    noMatch := (s.bit (fNoMatch m 0), s.bit (fNoMatch m 1)) })
  let s := [0, 1].foldl (fun s c => s.setBit (fLevel m c) (s.bit (fNoMatch m c))) s
  s.tmrMatches m v hop

/-- The prescaler restarts. -/
def State.prescClear (s : State) (m : Nat) : State := s.modTmr m (fun x => { x with presc := 0 })

/-- The count becomes zero: ZERO, and the end of a one-shot (R250). -/
def State.tmrZero (s : State) (m hop : Nat) : State :=
  let s := s.present (0x800 + 2 * m) true hop
  if s.bit ⟨tmrReg m 0, 2, 2⟩ then s.setBit (fRunning m) false else s

/-- A counting cycle (R250, R253). -/
def State.tmrCycle (s : State) (m hop : Nat) : State :=
  let v := s.tmrCount m
  let s := s.prescClear m
  if v = 0 then
    let s := s.tmrLoad m hop
    if s.tmrCount m = 0 then s.tmrZero m hop else s
  else
    let s := (s.setCount m (v - 1)).tmrMatches m (v - 1) hop
    if v = 1 then s.tmrZero m hop else s

/-- One source tick of a running timer: at the DIV + 1-th the count changes. -/
def State.tmrTick (s : State) (m hop : Nat) : State :=
  if !s.bit (fRunning m) then s
  else
    let d := (s.fld ⟨tmrReg m 0, 16, 9⟩).toNat
    let p := (s.tmr m).presc + 1
    if d < p then s.tmrCycle m hop else s.modTmr m (fun x => { x with presc := p })

/-- The next counting cycle makes the count zero. -/
def State.tmrZeroNext (s : State) (m : Nat) : Bool :=
  let v := s.tmrCount m
  decide (v = 1) || (decide (v = 0) && decide (s.tmrWide m 0xC = 0))

/-- A timer that counts TCLK and runs. -/
def State.tmrOnTclk (s : State) (m : Nat) : Bool :=
  s.timerPresent m && s.bit (fRunning m) && s.fld ⟨tmrReg m 0, 1, 0⟩ == 0 && !s.linkedOdd m

/-- TIMER_COUNT and TIMER_ZERO: the prescaler of a timer that counts TCLK completes its DIV + 1
ticks. -/
def execTimerCount (m : Timer) (dt : BitVec 32) (s : State) : Host.Outcome State Fault Refusal :=
  .next (if s.tmrOnTclk m.val ∧ !s.tmrZeroNext m.val then (s.tclk dt.toNat).tmrCycle m.val 0 else s)
def execTimerZero (m : Timer) (dt : BitVec 32) (s : State) : Host.Outcome State Fault Refusal :=
  .next (if s.tmrOnTclk m.val ∧ s.tmrZeroNext m.val then (s.tclk dt.toNat).tmrCycle m.val 0 else s)

/-! ## Captures (R255 to R257) -/

/-- A capture is appended, or lost when the queue holds 4 (R255, R256). -/
def State.tmrCapture (s : State) (m hop : Nat) (rise : Bool) : State :=
  let x := s.tmr m
  if 4 ≤ x.caps.length then
    (s.setBit ⟨tmrReg m 8, 9, 9⟩ true).present (0x1000 + m / 2) (m % 2 == 1) hop
  else
    let kind := s.bit ⟨tmrReg m 0, 26, 26⟩
    let ns := s.tbNs
    let ep := (s.fld fEpoch).toNat
    let v : Word := if kind then s.reg (tmrReg m 0x18) else BitVec.ofNat 32 ns
    let b (y : Bool) (i : Nat) : Nat := if y then 2 ^ i else 0
    let xep := match x.epoch with
      | some e => decide (e ≠ ep)
      | none => false
    let tag := BitVec.ofNat 32 (2 ^ 31 + b rise 30 + b xep 29 + b kind 28 + ep % 16 * 16 + ns / 2 ^ 32 % 16)
    (s.modTmr m (fun x => { x with caps := x.caps ++ [(v, tag)], epoch := some ep })).present
      (0x801 + 2 * m) true hop

/-- A source tick is on its way to the timer: an event held on input 0, or a lane transition. -/
def State.tickWaits (s : State) (m : Nat) : Bool :=
  let src := (s.fld ⟨tmrReg m 0, 1, 0⟩).toNat
  (src == 1 && Map.get 0 s.held (selTimer m 0) != 0) || (decide (2 ≤ src) && (s.tmr m).cntEdge)

/-- A tick on its way is discarded if it comes in this very cycle, which is open (R254, log 83). -/
def State.tmrDropTick (s : State) (m : Nat) : State :=
  if !s.tickWaits m then s
  else if Config.freeBool s.freeCtr then
    if (s.fld ⟨tmrReg m 0, 1, 0⟩).toNat = 1 then { s.drawn with held := Map.erase s.held (selTimer m 0) }
    else s.drawn.modTmr m (fun x => { x with cntEdge := false })
  else s.drawn

/-- FORCE_RELOAD: the prescaler of a running timer is cleared, and a tick of this cycle discarded (R254). -/
def State.tmrForce (s : State) (m hop : Nat) : State :=
  let run := s.bit (fRunning m)
  let s := s.tmrLoad m hop
  if run then (s.prescClear m).tmrDropTick m else s

/-- An event reaches input 1: the capture first, then the reload (R255, R258). -/
def State.tmrInput1 (s : State) (m hop : Nat) : State :=
  let s := if s.fld ⟨tmrReg m 0, 20, 19⟩ = 1 then s.tmrCapture m hop false else s
  if s.bit ⟨tmrReg m 0, 27, 27⟩ ∧ !s.linkedOdd m then s.tmrForce m hop else s

/-- Take the event held on an input of a timer; its number is the hop count of what it causes. -/
def State.takeHeld (s : State) (x : Nat) : State := { s with held := Map.erase s.held x }

/-- The lane transition on its way to a capture is seen. Where two merged, which one it was is not
said. -/
def State.tmrLaneCapture (s : State) (m : Nat) : State :=
  match (s.tmr m).capEdge with
  | none => s
  | some r =>
    let s := s.modTmr m (fun x => { x with capEdge := none })
    let rise := r.getD (Config.freeBool s.freeCtr)
    let s := if r.isNone then s.drawn else s
    if 2 ≤ (s.fld ⟨tmrReg m 0, 20, 19⟩).toNat then s.tmrCapture m 0 rise else s

/-- TIMER_INPUT_SEEN (R251, R255, R277). -/
def execTimerInputSeen (m : Timer) (i : TimerIn) (dt : BitVec 32) (s : State) :
    Host.Outcome State Fault Refusal :=
  .next (
    let m := m.val
    if !s.timerPresent m then s
    else match i with
      | .ev0 =>
        let h := Map.get 0 s.held (selTimer m 0)
        if h = 0 then s
        else
          let s := (s.tclk dt.toNat).takeHeld (selTimer m 0)
          if s.fld ⟨tmrReg m 0, 1, 0⟩ = 1 ∧ !s.linkedOdd m then s.tmrTick m (min 8 h) else s
      | .ev1 =>
        let h := Map.get 0 s.held (selTimer m 1)
        if h = 0 then s else ((s.tclk dt.toNat).takeHeld (selTimer m 1)).tmrInput1 m (min 8 h)
      | .cntLane =>
        if (s.tmr m).cntEdge then
          let s := (s.tclk dt.toNat).modTmr m (fun x => { x with cntEdge := false })
          if 2 ≤ (s.fld ⟨tmrReg m 0, 1, 0⟩).toNat ∧ !s.linkedOdd m then s.tmrTick m 0 else s
        else s
      | .capLane => if (s.tmr m).capEdge.isSome then (s.tclk dt.toNat).tmrLaneCapture m else s)

/-- TIMER_CAPTURE: the trigger CAP_SRC names is seen in this TCLK cycle (R255). -/
def execTimerCapture (m : Timer) (s : State) : Host.Outcome State Fault Refusal :=
  .next (
    let m := m.val
    if !s.timerPresent m then s
    else if (s.tmr m).capEdge.isSome then s.tmrLaneCapture m
    else
      let h := Map.get 0 s.held (selTimer m 1)
      if h ≠ 0 ∧ s.fld ⟨tmrReg m 0, 20, 19⟩ = 1 then (s.takeHeld (selTimer m 1)).tmrInput1 m (min 8 h) else s)

/-- The oldest capture's words, and the state with it removed (R257). -/
def State.tmrCapTake (s : State) (m : Nat) : Word × Word × State :=
  match (s.tmr m).caps with
  | c :: r => (c.1, c.2, s.modTmr m (fun x => { x with caps := r }))
  | [] => (0, 0, s)

def execTmrCapRead (_ : Agent) (m : Timer) (wide : Bool) (s : State) : Host.Outcome State Fault Refusal :=
  .next (
    if s.timerPresent m.val then
      let p := s.tmrCapTake m.val
      p.2.2.answer (toBytes 4 p.1.toNat ++ (if wide then toBytes 4 p.2.1.toNat else []))
    else s.answer (toBytes (if wide then 8 else 4) 0))

/-! ## Timer commands (R252, R254, R258, R262) -/

def State.disarm (s : State) (m : Nat) : State := s.setBit (fArm m) false

/-- START as it starts a stopped timer. -/
def State.tmrBegin (s : State) (m : Nat) : State :=
  (((s.tmrLoad m 0).prescClear m).setBit (fRunning m) true).disarm m

def State.tmrCmdStart (s : State) (m : Nat) : State :=
  if s.linkedOdd m ∨ s.bit (fRunning m) ∨ s.unreleased then s.refuse (.timer m) 4 else s.tmrBegin m
def State.tmrCmdStop (s : State) (m : Nat) : State :=
  if s.linkedOdd m then s.refuse (.timer m) 4 else (s.setBit (fRunning m) false).disarm m
/-- The commit group of one timer. -/
def State.tmrGroup (s : State) (m : Nat) : State :=
  s.commitAll [tmrReg m 0, tmrReg m 0xC, tmrReg m 0x10, tmrReg m 0x14]
def State.tmrCmdCommit (s : State) (m : Nat) : State :=
  if s.linkedOdd m then s.refuse (.timer m) 4
  else if s.linkedEven m then (s.tmrGroup m).tmrGroup (m + 1) else s.tmrGroup m
def State.tmrCmdForce (s : State) (m : Nat) : State :=
  if s.linkedOdd m then s.refuse (.timer m) 4 else s.tmrForce m 0
def State.tmrCmdSnap (s : State) (m : Nat) : State :=
  if s.linkedOdd m then s.refuse (.timer m) 4
  else
    let v := s.tmrCount m
    (s.setReg (tmrReg m 0x28) (BitVec.ofNat 32 v)).setReg (tmrReg m 0x2C) (BitVec.ofNat 32 (v / 2 ^ 32))

/-- A write of TMR_CMD: COMMIT, then START, STOP or FORCE_RELOAD, then SNAP; refused whole with START
and STOP both, or in the odd timer of a linked pair. With FORCE_RELOAD beside START or STOP the order of
the two is the model's: FORCE_RELOAD last, as a load of its own (log 84). -/
def State.writeTmrCmd (s : State) (m : Nat) (data : Word) : State :=
  if (data.getLsbD 0 ∧ data.getLsbD 1) ∨ (s.linkedOdd m ∧ data &&& 0x1F ≠ 0) then s.refuse (.timer m) 4
  else
    let s := if data.getLsbD 2 then s.tmrCmdCommit m else s
    let s := if data.getLsbD 0 then s.tmrCmdStart m else s
    let s := if data.getLsbD 1 then s.tmrCmdStop m else s
    let s := if data.getLsbD 3 then s.tmrCmdForce m else s
    if data.getLsbD 4 then s.tmrCmdSnap m else s

def execTmrStart (who : Agent) (m : Timer) (s : State) : Host.Outcome State Fault Refusal :=
  .next (s.atBlock who (.timer m.val) 4 (fun s => s.tmrCmdStart m.val))
def execTmrStop (who : Agent) (m : Timer) (s : State) : Host.Outcome State Fault Refusal :=
  .next (s.atBlock who (.timer m.val) 4 (fun s => s.tmrCmdStop m.val))
def execTmrCommit (who : Agent) (m : Timer) (s : State) : Host.Outcome State Fault Refusal :=
  .next (s.atBlock who (.timer m.val) 4 (fun s => s.tmrCmdCommit m.val))
def execTmrForceReload (who : Agent) (m : Timer) (s : State) : Host.Outcome State Fault Refusal :=
  .next (s.atBlock who (.timer m.val) 4 (fun s => s.tmrCmdForce m.val))
def execTmrSnap (who : Agent) (m : Timer) (s : State) : Host.Outcome State Fault Refusal :=
  .next (s.atBlock who (.timer m.val) 4 (fun s => s.tmrCmdSnap m.val))

/-! ## Starting timers together (R263 to R266) -/

/-- A GO: every armed timer is started as START starts a stopped one (R263). -/
def State.gsGo (s : State) : State :=
  let armed := (List.range 32).flatMap (fun n =>
    let w := s.reg (tbReg (0x100 + 4 * n))
    if w = 0 then []
    else (List.range 32).filterMap (fun i => if w.getLsbD i then some (32 * n + i) else none))
  armed.foldl (fun s m => if s.linkedOdd m then s.disarm m else s.tmrBegin m) s

/-- A write of GS_GO, refused until release (R483). -/
def State.writeGsGo (s : State) : State := if s.unreleased then s.refuse .timebase 0x70 else s.gsGo

def execGsGo (who : Agent) (dt : BitVec 32) (s : State) : Host.Outcome State Fault Refusal :=
  .next (s.atBlock who .timebase 0x70 (fun s => (s.tclk dt.toNat).writeGsGo))

/-- GS_GO_AT. -/
def State.goAt (s : State) : Nat := (s.reg (tbReg 0x78)).toNat + 2 ^ 32 * (s.reg (tbReg 0x7C)).toNat

/-- ENABLE of a start at a time is set; it is late if NS has reached the time in the next cycle
(R265). Until release it is refused (R483). -/
def State.goAtEnable (s : State) : State :=
  if s.unreleased then s.refuse .timebase 0x74 else
  { (s.setBit fGoAtEn true) with goLate := decide (s.goAt ≤ (s.tclk 1).tbNs) }

def execGoAtDue (dt : BitVec 32) (s : State) : Host.Outcome State Fault Refusal :=
  .next (
    let s1 := s.tclk dt.toNat
    if s.bit fGoAtEn ∧ s1.goAt ≤ s1.tbNs then
      let s2 := s1.gsGo.setBit fGoAtEn false
      if s.goLate then { (s2.setBit ⟨tbReg 4, 19, 19⟩ true) with goLate := false } else s2
    else s)

/-! ## Latching and wide reads (R259 to R261) -/

/-- The two halves a wide pair shows: low word, high word. -/
def State.pairValue (s : State) (r : WidePair) : Word × Word :=
  let two (a : Nat) : Word × Word := (s.reg a, s.reg (a + 4))
  match r with
  | .tbNow => two (tbReg 0x18)
  | .tbSnap => two (tbReg 0x48)
  | .tbPps => two (tbReg 0x58)
  | .tbStep => (s.pendReg (tbReg 0x38), s.pendReg (tbReg 0x3C))
  | .goAt => two (tbReg 0x78)
  | .tmrCount m => (s.reg (tmrReg m.val 0x18), if s.linkedEven m.val then s.reg (tmrReg (m.val + 1) 0x18) else 0)
  | .tmrSnap m => (s.reg (tmrReg m.val 0x28), if s.linkedEven m.val then s.reg (tmrReg m.val 0x2C) else 0)

/-- The unit of a wide pair is there. -/
def State.pairPresent (s : State) (r : WidePair) : Bool :=
  match r with
  | .tmrCount m => s.timerPresent m.val
  | .tmrSnap m => s.timerPresent m.val
  | _ => s.powered 44

/-- The pair of a latching register. -/
def latchPair (r : Latch) : WidePair :=
  match r with
  | .tbNow => .tbNow
  | .timer m => .tmrCount m

/-- The register latches: the timebase's, or the count of the even timer of a linked pair (R259). -/
def State.latches (s : State) (r : Latch) : Bool :=
  match r with
  | .tbNow => true
  | .timer m => s.linkedEven m.val

/-- A thread's 32-bit read of a low register: its value, and the state with the shadow written. -/
def State.latchRead (s : State) (gt : Nat) (r : Latch) : Word × State :=
  let p := s.pairValue (latchPair r)
  (p.1, if s.latches r then s.modThread gt (fun t => { t with shadowHi := p.2 }) else s)

/-- A thread's 32-bit read of the matching high register. -/
def State.shadowRead (s : State) (gt : Nat) (r : Latch) : Word :=
  if s.latches r then (s.thread gt).shadowHi else 0

def execLatchingRead (gt : GT) (r : Latch) (dt : BitVec 32) (s : State) : Host.Outcome State Fault Refusal :=
  .next (
    if s.pairPresent (latchPair r) then
      let p := (s.tclk dt.toNat).latchRead gt.val r
      p.2.answer (toBytes 4 p.1.toNat)
    else s.answer (toBytes 4 0))
def execShadowHiRead (gt : GT) (r : Latch) (s : State) : Host.Outcome State Fault Refusal :=
  .next (s.answer (toBytes 4 (if s.pairPresent (latchPair r) then (s.shadowRead gt.val r).toNat else 0)))
def execWidePairRead (_ : Agent) (r : WidePair) (dt : BitVec 32) (s : State) :
    Host.Outcome State Fault Refusal :=
  .next (
    if s.pairPresent r then
      let s := s.tclk dt.toNat
      let p := s.pairValue r
      s.answer (toBytes 4 p.1.toNat ++ toBytes 4 p.2.toNat)
    else s.answer (toBytes 8 0))

/-! ## Anchors (R235) -/

/-- ANCHOR_TAKE: at a TCLK edge at which NS first reaches a multiple of 2^K, the quadrant records the
timebase and the pin-time of that edge, once. A step's edge is none (log 85). -/
def execAnchorTake (q : Fin 4) (dt : BitVec 32) (time : BitVec 26) (s : State) :
    Host.Outcome State Fault Refusal :=
  .next (
    let n := 8 * q.val
    let ctl := s.reg (bayReg n 0xF00)
    let k := 2 ^ (bitsOf ctl 4 0).toNat
    let s1 := s.tclk dt.toNat
    match s1.tbPast with
    | (now, ep) :: (before, ep') :: _ =>
      if !s.quadPresent q.val || !ctl.getLsbD 8 || Map.get 0 s.anchored q.val == s1.tcycle + 1 || ep != ep' ||
          before / 2 ^ 32 / k == now / 2 ^ 32 / k then s
      else
        let s := { s1 with anchored := Map.set 0 s1.anchored q.val (s1.tcycle + 1) }
        let s := s.setReg (bayReg n 0xF04) (BitVec.ofNat 32 (2 ^ 28 * (ep % 16) + time.toNat))
        let s := s.setReg (bayReg n 0xF08) (s.reg (tbReg 0x18))
        let s := s.setReg (bayReg n 0xF0C) (s.reg (tbReg 0x1C))
        let s := s.setReg (bayReg n 0xF10) (s.reg (tbReg 0x10))
        s.countWrap ⟨bayReg n 0xF14, 15, 0⟩
    | _ => s)

end Sys2Proof.Machine
end

