-- ==== Sys2Proof/Machine/Router.lean ====
section
/-!
DEFINITION. The event router and thread messages (R37, R269 to R295), and the outbound path of a
bridge link as far as events and messages use it (R553, R560, R561).
-/
namespace Sys2Proof.Machine

/-! ## The outbound path of a link -/

/-- Messages in the outbound path of a port. -/
def LinkS.messages (l : LinkS) : Nat :=
  ((l.wait ++ l.out.map (fun x => x.2.2)).filter (fun x => match x with | .message _ _ => true | _ => false)).length

/-! ## Ports, signals and levels (R269) -/

/-- The resource behind a signal of a port is there; for the two-unit ports signal B is that of the
second unit. -/
def State.signalPresent (s : State) (port : Nat) (b : Bool) : Bool :=
  let second := if b then 1 else 0
  if port < 0x400 then s.lanePresent port
  else if port < 0x800 then s.bayPresent ((port - 0x400) / 32)
  else if port < 0x1000 then s.timerPresent ((port - 0x800) / 2)
  else if port < 0x1200 then s.timerPresent (2 * (port - 0x1000) + second)
  else if port < 0x1600 then s.corePresent ((port - 0x1200) / 32)
  else if port < 0x1700 then s.anyPort
  else if port < 0x1780 then s.chanPresent (port - 0x1700)
  else if port < 0x17A0 then s.bayPresent (port - 0x1780)
  else if port < 0x17A3 then true
  else if port = 0x17A3 then false
  else if port < 0x17A8 then s.enginePresent (port - 0x17A4)
  else if port < 0x17AF then true
  else if port = 0x17AF then false
  else if port < 0x17B4 then s.portPresent (port - 0x17B0)
  else false

/-! ## Consumer inputs (R271, R277, R278) -/

/-- Keep the larger hop count of an event held in a map. -/
def State.heldMax (s : State) (x h : Nat) : State :=
  { s with held := Map.set 0 s.held x (max (Map.get 0 s.held x) (h + 1)) }

/-- An input that holds its event in `held` takes one, or overruns (R278). -/
def State.holdEvent (s : State) (x h : Nat) : State :=
  if Map.get 0 s.held x = 0 then s.heldMax x h else (s.heldMax x h).overrun x

/-- The pending bit of a host vector. -/
def fHvPend (v : Nat) : Fld := ⟨0x10E00000 + 4 * (v / 32), v % 32, v % 32⟩

/-- The event of a host vector is stale: the generation of the complex that owned the vector has
changed, or that complex is being reset or removed (R295, R461). -/
def State.vecStale (s : State) (tag : Option (Nat × Nat)) : Bool :=
  match tag with
  | some (v, g) => decide ((s.fld (vcGen v)).toNat ≠ g) || s.fld (vcState v) == 4 || s.fld (vcState v) == 5
  | none => false

/-- The input is a host vector of a virtual complex that is being reset or removed (R461). -/
def State.vecResetting (s : State) (x : Nat) : Bool :=
  decide (11008 ≤ x) && decide (x < 11520) &&
  (match s.owner (ownVec (x - 11008)) with
    | some v => s.fld (vcState v) == 4 || s.fld (vcState v) == 5
    | none => false)

/-- The output of a host vector (R294). -/
def State.vecOutput (s : State) (v : Nat) : Bool :=
  s.bit (fHvPend v) && s.bit ⟨0x10E00040 + 4 * (v / 32), v % 32, v % 32⟩

/-- An event of hop count h is delivered to input x in an edge mode, or by a force write. -/
def State.deliverInput (s : State) (x h : Nat) (tag : Option (Nat × Nat)) : State :=
  if !s.inputPresent x then s
  else if s.vecStale tag || s.vecResetting x then s.countUp ⟨0x10E00080, 15, 0⟩
  else
    let s := s.setFld ⟨selAddr x, 26, 24⟩ (BitVec.ofNat 32 h)
    if x < 8192 then
      let gt := x / 4
      let i := x % 4
      let busy := (s.fld (fPend gt)).getLsbD i
      let s1 := s.setFld (fPend gt) (s.fld (fPend gt) ||| ((1 : Word) <<< i))
      let s2 := s1.modThread gt (fun t => { t with
        evHop := Map.set 0 t.evHop i (if busy then max (Map.get 0 t.evHop i) h else h) })
      if busy then s2.overrun x else s2
    else if 10240 ≤ x ∧ x < 10752 then
      (if Map.get 0 s.latched x = 0 then s.holdEvent x h
       else ({ s with latched := Map.set 0 s.latched x (max (Map.get 0 s.latched x) (h + 1)) } :
        State).overrun x)
    else if 11008 ≤ x ∧ x < 11520 then
      (let f := fHvPend (x - 11008)
       if s.bit f then s.overrun x
       else s.setBit f true)
    else if 11520 ≤ x then
      (let i := x - 11520
       match s.route (i / 64) with
       | some p => s.linkPush p (.event i h)
       | none => s.holdEvent x h)
    else s.holdEvent x h

/-! ## Delivery (R275, R276, R279) -/

/-- Deliver one event to the inputs named, each together with a force write of the same cycle where
`forces` holds one for it: the two merge into one event with the larger hop count, and COINCIDE is
set. -/
def State.deliverAll (s : State) (h : Nat) (targets : List (Nat × Option (Nat × Nat)))
    (forces : List (Nat × Nat)) : State :=
  targets.foldl (fun s p =>
    match forces.find? (fun f => f.1 == p.1) with
    | some f => (s.setBit ⟨selAddr p.1, 29, 29⟩ true).deliverInput p.1 (max h f.2) p.2
    | none => s.deliverInput p.1 h p.2) s

/-- The first force write in the pipeline for each of some inputs, and the pipeline without them. -/
def takeForces (rs : List Routed) (targets : List Nat) : List (Nat × Nat) × List Routed :=
  match targets with
  | [] => ([], rs)
  | x :: r =>
    let isX (e : Routed) : Bool := match e with | .force y _ _ => y == x | _ => false
    match rs.find? isX with
    | some (.force y h g) =>
      let q := takeForces (rs.erase (.force y h g)) r
      ((y, h) :: q.1, q.2)
    | _ => takeForces rs r

/-- An event of the pipeline reaches every select that named it when it was presented; with
`coincide` the force writes to those inputs are delivered in the same cycle. -/
def State.deliverRouted (s : State) (e : Routed) (coincide : Bool) : State :=
  match e with
  | .event _ _ h targets =>
    let rest := s.routed.erase e
    if coincide then
      let q := takeForces rest (targets.map (fun p => p.1))
      ({ s with routed := q.2 } : State).deliverAll h targets q.1
    else ({ s with routed := rest } : State).deliverAll h targets []
  | .force x h g => ({ s with routed := s.routed.erase e } : State).deliverAll h [(x, g)] []

/-- EVENT_DELIVERY: the oldest event of the signal, or force write of the input, in the pipeline is
delivered. -/
def execEventDelivery (e : EventRef) (coincide : Bool) (s : State) : Host.Outcome State Fault Refusal :=
  .next (
    let isIt (r : Routed) : Bool := match e, r with
      | .routed p b, .event p' b' _ _ => decide (p.toNat = p') && b == b'
      | .force x, .force y _ _ => decide (x.val = y)
      | _, _ => false
    match s.routed.find? isIt with
    | none => s
    | some r =>
      match r with
      | .force x _ _ =>
        let names (q : Routed) : Bool := match q with
          | .event _ _ _ ts => ts.any (fun p => p.1 == x)
          | _ => false
        (match if coincide then s.routed.find? names else none with
          | some q => s.deliverRouted q true
          | none => s.deliverRouted r false)
      | .event _ _ _ _ => s.deliverRouted r coincide)

/-- EVENT_SYNCHRONISER_DELIVERY: the toggle of a producer's signal has crossed into CCLK, and the
event is presented to the router (R37, R275). -/
def execEventSynchroniserDelivery (port : BitVec 13) (b : Bool) (s : State) :
    Host.Outcome State Fault Refusal :=
  .next (
    let key := 2 * port.toNat + (if b then 1 else 0)
    match Map.get 0 s.toggles key with
    | 0 => s
    | h + 1 => ({ s with toggles := Map.erase s.toggles key } : State).routeIn port.toNat b h)

/-- An outbound channel carries a level (R276, R551, R560): itself in version 2, in version 1 one
event for its rising edge; nothing without a route. -/
def State.outLevel (s : State) (i : Nat) (v : Bool) : State :=
  if Map.get false s.outLevels i = v then s
  else
    let s := { s with outLevels := Map.set false s.outLevels i v }
    match s.route (i / 64) with
    | none => s
    | some p =>
      if s.fld (fLinkVer p) = 2 then s.linkPush p (.level i v)
      else if v then s.linkPush p (.event i 0) else s

/-- LEVEL_DELIVERY: one cycle of an input whose select follows a level. While the level is 1 the input
acts as if it received one event of hop count 0, with no overrun (R276, R280); LAST_HOP stays, as no event is
delivered (log 87). -/
def execLevelDelivery (x : Fin 11776) (s : State) : Host.Outcome State Fault Refusal :=
  .next (
    let x := x.val
    let w := s.reg (selAddr x)
    if !w.getLsbD 15 || !w.getLsbD 14 || !s.inputPresent x then s
    else
      let v := s.selLevel x
      if 11520 ≤ x then s.outLevel (x - 11520) v
      else if !v then s
      else if x < 8192 then
        let gt := x / 4
        let i := x % 4
        if (s.fld (fPend gt)).getLsbD i then s
        else
          (s.setFld (fPend gt) (s.fld (fPend gt) ||| ((1 : Word) <<< i))).modThread gt (fun t =>
            { t with evHop := Map.set 0 t.evHop i 0 })
      else if 10240 ≤ x ∧ x < 10752 then
        (if Map.get 0 s.latched x = 0 then { s with latched := Map.set 0 s.latched x 1 } else s)
      else if s.vecResetting x then s.countUp ⟨0x10E00080, 15, 0⟩
      else if 11008 ≤ x then s.setBit (fHvPend (x - 11008)) true
      else if Map.get 0 s.held x = 0 then s.heldMax x 0 else s)

/-! ## Select and force writes (R270 to R274, R280, R283) -/

/-- The hop count, port and flag of an agent's force write. -/
def State.agentHop (s : State) (who : Agent) : Nat × Nat × Bool :=
  match who with
  | .thread gt => ((s.thread gt.val).hop, 0x1200 + gt.val / 2, gt.val % 2 == 1)
  | .chan c => ((Map.get {} s.chans c.val).hop, 0x1700 + c.val, false)
  | _ => (0, 0, false)

/-- The signal a select value names may be selected (R270). -/
def State.selectOk (s : State) (data : Word) : Bool :=
  let port := (bitsOf data 12 0).toNat
  let kind := (bitsOf data 14 13).toNat
  s.signalPresent port (kind == 1) && hasSignal port kind

/-- A write of a select. PRODUCER, KIND and ENABLE are one choice (R270), which a force write leaves
alone (R273), though it is judged there too; an event that an outbound channel without a route holds goes when the choice changes
(R560). -/
def State.writeSelect (s : State) (who : Agent) (x : Nat) (data : Word) : State :=
  if !s.inputPresent x then s
  else
    let a := selAddr x
    let s1 := s.setFld ⟨a, 30, 29⟩ (s.fld ⟨a, 30, 29⟩ &&& ~~~ (bitsOf data 30 29))
    let kept := bitsOf data 15 0 == s.fld ⟨a, 15, 0⟩
    if data.getLsbD 31 then
      let h := s.agentHop who
      let s2 := s1.forceInput x h.1 h.2.1 h.2.2
      if kept || s.selectOk data then s2 else s2.refuse .router (4 * x)
    else if kept then s1
    else if s.selectOk data then
      let s2 := s1.setFld ⟨a, 15, 0⟩ (bitsOf data 15 0)
      if 11520 ≤ x then { s2 with held := Map.erase s2.held x } else s2
    else s1.refuse .router (4 * x)

/-- EVSEL_WRITE: a select write without FORCE. -/
def execEvselWrite (who : Agent) (x : Fin 11776) (data : Word) (s : State) :
    Host.Outcome State Fault Refusal :=
  .next (s.atBlock who .router (4 * x.val) (fun s => s.writeSelect who x.val (data &&& 0x7FFFFFFF)))

/-- FORCE_WRITE: a select write with FORCE set. -/
def execForceWrite (who : Agent) (x : Fin 11776) (data : Word) (s : State) :
    Host.Outcome State Fault Refusal :=
  .next (s.atBlock who .router (4 * x.val) (fun s => s.writeSelect who x.val (data ||| 0x80000000)))

/-! ## Thread messages (R287 to R292) -/

def msgRole (gt : Nat) : Nat := 0x10518000 + 8 * gt
def fRoleGen (gt : Nat) : Fld := ⟨msgRole gt, 11, 0⟩
def fAnyVc (gt : Nat) : Fld := ⟨msgRole gt, 16, 16⟩
def fStaleCount (gt : Nat) : Fld := ⟨msgRole gt + 4, 15, 8⟩
def fFullCount (gt : Nat) : Fld := ⟨msgRole gt + 4, 23, 16⟩

/-- Judge a message at its destination: stale, then full, then accepted (R289, R290). `pass` says that
the membership part of the destination check holds. The outcome is that of R195. -/
def State.judgeMessage (s : State) (dst role : Nat) (pass : Bool) (data : BitVec 64) : Nat × State :=
  if !s.corePresent (dst / 64) then (2, s.countUp ⟨0x1051C014, 15, 0⟩)
  else if !pass || (s.fld (fRoleGen dst)).toNat != role then (2, s.countUp (fStaleCount dst))
  else if 8 ≤ (s.thread dst).inbox.length then (1, s.countUp (fFullCount dst))
  else (0, s.modThread dst (fun t => { t with inbox := t.inbox ++ [data] }))

/-- A message of a thread of this die may reach the destination (R289). -/
def State.memberOk (s : State) (sender dst : Nat) : Bool :=
  let v := s.owner (ownThread sender)
  v == s.owner (ownThread dst) || v.isNone || s.bit (fAnyVc dst)

/-- A message of a thread arrives at its destination on this die. -/
def State.acceptMessage (s : State) (sender : Nat) (w : Word) (data : BitVec 64) : Nat × State :=
  let dst := (bitsOf w 10 0).toNat
  s.judgeMessage dst (bitsOf w 27 16).toNat (s.memberOk sender dst) data

/-- The first core in rotating order after core `last` that some sender belongs to (R31). -/
def nextInTurn (last : Nat) (senders : List Nat) : Option Nat :=
  ((List.range 32).map (fun i => (last + 1 + i) % 32)).find? (fun c => senders.any (fun g => g / 64 == c))

/-- A thread's oldest message to core n. -/
def State.messageOf (s : State) (n sender : Nat) : Option (Nat × Nat × Word × BitVec 64) :=
  s.msgs.find? (fun m => m.1 == sender && decide ((bitsOf m.2.2.1 10 0).toNat / 64 = n))

/-- MSG_ACCEPT: of the threads `here`, whose messages have reached core n in this cycle, one of the core
whose turn it is has its oldest message judged, and the outcome becomes its result (R290 to R292). -/
def execMsgAccept (n : Core) (here : List GT) (s : State) : Host.Outcome State Fault Refusal :=
  .next (
    let senders := (here.map (fun g => g.val)).filter (fun g => (s.messageOf n.val g).isSome)
    match nextInTurn (Map.get 31 s.msgTurn n.val) senders with
    | none => s
    | some c =>
      match (senders.find? (fun g => g / 64 == c)).bind (fun g => s.messageOf n.val g) with
      | none => s
      | some m =>
        let r := ({ s with msgs := s.msgs.erase m, msgTurn := Map.set 31 s.msgTurn n.val c } :
          State).acceptMessage m.1 m.2.2.1 m.2.2.2
        r.2.modOp m.1 m.2.1 (fun o => { o with need := 0, result := some (.value (BitVec.ofNat 32 r.1) 0) }))

/-- A message to another die enters the outbound path of its route (R561). -/
def State.sendToDie (s : State) (k : Nat) (w : Word) (data : BitVec 64) : Nat × State :=
  match s.route k with
  | none => (2, s)
  | some p => if 16 ≤ (s.link p).messages then (1, s) else (0, s.linkPush p (.message w data))

end Sys2Proof.Machine
end

