-- ==== Sys2Proof/Machine/Banks.lean ====
section
/-!
DEFINITION. Bank ownership and handovers, bank power, the march engine and the loft (R302 to R331).
-/
namespace Sys2Proof.Machine

/-! ## Who may access a bank (R302, R304) -/

/-- The agents beside threads and data caches that access banks. -/
inductive BankUser where
  | gleaner (e : Nat)
  | bulk
  | bridge
  | debug
  deriving DecidableEq, Repr

/-- The bank serves the agent under the owner in force. -/
def State.bankServes (s : State) (g : Nat) (u : BankUser) : Bool :=
  let k := s.fld (fOwnerKind g)
  s.bankMapped g &&
  (k == 1 ||
    (match u with
      | .gleaner e => k == 2 && s.fld (fOwnerEngine g) == BitVec.ofNat 32 e
      | .bulk => k == 3
      | _ => false))

/-- The core has an open slot in its live slot table (R65, R315). -/
def State.openSlot (s : State) (n : Nat) : Bool := (s.liveTable n).any (fun w => !w.getLsbD 31)

/-! ## Fields (R308, R321) -/

def fPower (g : Nat) : Fld := ⟨bankCtl g, 9, 8⟩
def fClearOnWake (g : Nat) : Fld := ⟨bankCtl g, 15, 15⟩
def fPstate (g : Nat) : Fld := ⟨bankCtl g + 4, 2, 0⟩
def fSpares (g : Nat) : Fld := ⟨bankCtl g + 4, 10, 8⟩
def fCollide (g : Nat) : Fld := ⟨bankCtl g + 4, 31, 24⟩
def psOn : Word := 0
def psRetention : Word := 1
def psOff : Word := 2
def psEntering : Word := 3
def psWaking : Word := 4
def psClearing : Word := 5
def marchReg (off : Nat) : Nat := 0x10782000 + off
def fMarchBusy : Fld := ⟨marchReg 4, 0, 0⟩

/-- The lifecycle (`DBG_AUTH.LC`, R538). -/
def fLc : Fld := ⟨0x10900070, 2, 0⟩
def lcDevelop : Word := 1
def lcField : Word := 2
def lcFieldService : Word := 3
def lcReturned : Word := 4
def lcVoid : Word := 5

/-! ## Handovers (R303, R305, R306) -/

/-- The lines of a bank that the directory has entries for. -/
def State.dirLines (s : State) (g : Nat) : List Nat :=
  s.dir.filterMap (fun p => if bankOf (p.1 * 64) = some g && p.2.isSome then some p.1 else none)

/-- A change of owner is refused (R303); judged in the state before the write. -/
def State.handoverBad (s : State) (g : Nat) (kind engine : Word) : Bool :=
  5 ≤ kind ||
  (kind == 2 && !s.enginePresent engine.toNat) ||
  (kind != 0 && s.fld (fPstate g) != psOn) ||
  (s.fld (fOwnerKind g) == 4 && kind != 4 && (match s.march with | some (b, _) => b == g | none => false))

/-- A handover, judged in the state s0 before the write: from this cycle the new owner stands, and DRAINING
reads 1; a granary bank that leaves CORES has its lines recalled, those of busy entries when they close
(R305, R306, R355). -/
def State.handover (s s0 : State) (g : Nat) (kind engine : Word) : State :=
  let old := s0.fld (fOwnerKind g)
  if kind = old ∧ engine = s0.fld (fOwnerEngine g) then s
  else if s0.handoverBad g kind engine then s.refuse .banks (8 * g)
  else
    let s := (s.setFld (fOwnerKind g) kind).setFld (fOwnerEngine g) engine
    let s := s.setBit (fDraining g) true
    if 128 ≤ g ∧ old = 1 ∧ kind ≠ 1 then
      ({ s with leaving := g :: s.leaving.filter (fun x => x != g) } : State).home (s.dirLines g)
    else s

def execBankHandover (who : Agent) (g : Bank) (kind : BitVec 3) (engine : BitVec 2) (s : State) :
    Host.Outcome State Fault Refusal :=
  .next (s.atBlock who .banks (8 * g.val) (fun s => if s.bankPresent g.val then s.handover s g.val (kind.setWidth 32) (engine.setWidth 32) else s))

/-- Nothing judged under the old owner is outstanding at the bank: no access that waits there, and where it
leaves CORES no line of it held, asked for or with its way awaited (R305, R306). An agent that waits for its
turn has not been judged. -/
def State.drained (s : State) (g : Nat) : Bool :=
  let here (a : Nat) : Bool := bankOf a == some g
  s.bulks.all (fun p => p.2.posted.all (fun w => !here (w.1 % 0x4000000) && !here ((w.1 + w.2.length - 1) % 0x4000000))) &&
  s.portB.all (fun x => !here x.addr) && s.homeQ.all (fun q => q.isAgent || !here (q.line * 64)) &&
  s.dir.all (fun p => match p.2 with
    | none => true
    | some e =>
      (!here (p.1 * 64) || (!s.leaving.contains g && e.txn.isNone)) &&
      (match e.txn.bind (fun t => t.next) with
        | some (_, _, l) => !here (l * 64)
        | none => true)) &&
  s.coh.all (fun m => !here (m.line * 64) || m.kind.cls == .req || !s.leaving.contains g)

/-- DRAIN_COMPLETE. -/
def execDrainComplete (g : Bank) (s : State) : Host.Outcome State Fault Refusal :=
  .next (
    let g := g.val
    if !s.bit (fDraining g) || !s.drained g then s
    else { s.setBit (fDraining g) false with
      leaving := s.leaving.filter (fun x => x != g)
      homeQ := s.homeQ.filter (fun q => bankOf (q.line * 64) != some g) })

/-! ## Power (R308, R317 to R319) -/

/-- A POWER request, judged against the state before the write (R308, R317). -/
def State.bankPower (s s0 : State) (g : Nat) (p : Word) : State :=
  let ps := s0.fld (fPstate g)
  if s0.fld (fOwnerKind g) ≠ 0 ∨ s0.bit (fDraining g) ∨ 3 ≤ p ∨ psEntering ≤ ps ∨
      (ps = psOff ∧ p = psRetention) then s.refuse .banks (8 * g)
  else if p = ps then s.setFld (fPower g) p
  else (s.setFld (fPower g) p).setFld (fPstate g) (if p = psOn then psWaking else psEntering)

def execBankPowerRequest (who : Agent) (g : Bank) (p : BitVec 2) (s : State) :
    Host.Outcome State Fault Refusal :=
  .next (s.atBlock who .banks (8 * g.val) (fun s =>
    if s.bankPresent g.val ∧ p.setWidth 32 ≠ s.fld (fPower g.val) then s.bankPower s g.val (p.setWidth 32)
    else s))

/-- CLEAR_ON_WAKE as it reads: 1 in FIELD (R319). -/
def State.clearOnWake (s : State) (g : Nat) : Bool := s.bit (fClearOnWake g) || s.fld fLc == lcField

/-- A write of BANK_CTL: CLEAR_ON_WAKE, POWER, and owner with engine, each judged against the state
before it (R22, R308, R319). -/
def State.writeBankCtl (s : State) (g : Nat) (data : Word) : State :=
  let s1 :=
    if data.getLsbD 15 = s.clearOnWake g then s
    else if s.fld fLc = lcField then s.refuse .banks (8 * g)
    else s.setBit (fClearOnWake g) (data.getLsbD 15)
  let s2 := if bitsOf data 9 8 = s.fld (fPower g) then s1 else s1.bankPower s g (bitsOf data 9 8)
  s2.handover s g (bitsOf data 6 4) (bitsOf data 1 0)

def execBankEnterDone (g : Bank) (s : State) : Host.Outcome State Fault Refusal :=
  .next (
    let g := g.val
    if s.fld (fPstate g) ≠ psEntering then s
    else if s.fld (fPower g) = psOff then
      { (s.setFld (fPstate g) psOff) with offBanks := g :: s.offBanks.filter (fun x => x != g) }
    else s.setFld (fPstate g) psRetention)

/-- A wake from OFF clears the bank, or leaves its contents undefined (R319). -/
def State.bankWoken (s : State) (g : Nat) : State :=
  if s.offBanks.contains g then
    if s.clearOnWake g then s.setFld (fPstate g) psClearing
    else { ((s.loseBank g).setFld (fPstate g) psOn) with offBanks := s.offBanks.filter (fun x => x != g) }
  else s.setFld (fPstate g) psOn

def execBankWakeDone (g : Bank) (s : State) : Host.Outcome State Fault Refusal :=
  .next (if s.fld (fPstate g.val) = psWaking then s.bankWoken g.val else s)

/-- SCRUB of a bank's owner byte. -/
def fScrub (g : Nat) : Fld :=
  ⟨0x10D00000 + ownBank g / 4 * 4, 8 * (ownBank g % 4) + 6, 8 * (ownBank g % 4) + 6⟩

/-- The clearing of a bank is complete (R319, R455). -/
def State.bankCleared (s : State) (g : Nat) : State :=
  let s := ((s.zeroBank g).setFld (fPstate g) psOn).setBit (fScrub g) false
  { s with offBanks := s.offBanks.filter (fun x => x != g) }

def execBankClearDone (g : Bank) (s : State) : Host.Outcome State Fault Refusal :=
  .next (if s.fld (fPstate g.val) = psClearing then s.bankCleared g.val else s)

/-! ## An access of an agent that does not cache (R304, R305, R309, R349) -/

/-- What an access comes to: it is not permitted; it is held back for now, a forward perhaps sent; it
is performed, with the bytes as they stood before it. -/
inductive MemResult where
  | denied
  | held (s : State)
  | done (s : State) (bytes : List Byte)

/-- The agents that do not cache, by number (R315, R316): a channel reading and writing, a bulk port context,
an inbound bridge path, the host, the buffer manager by pool, the silo. -/
def walkRead (c : Nat) : Nat := 2 * c
def walkWrite (c : Nat) : Nat := 2 * c + 1
def walkBulk (k : Nat) : Nat := 300 + k
def walkBridge (p : Nat) : Nat := 400 + p
def walkHost : Nat := 410
def walkPool (p : Nat) : Nat := 500 + p
def walkSilo : Nat := 411

/-- Agent w performs an access at a bank within one line: of n bytes, reading, or writing what `act` says. The
gleaner reaches a bin of CORES only at an open slot of its core (R315). -/
def State.bankAccess (s : State) (u : BankUser) (w g a : Nat) (act : MemAct) : MemResult :=
  let n := act.size
  let old := s.bytes a n
  let line := lineOf a
  let gleaner := match u with
    | .gleaner _ => true
    | _ => false
  if !s.bankServes g u || line != lineOf (a + n - 1) then .denied
  else if s.bit (fDraining g) then .held s
  else if g < 128 then
    if gleaner && s.fld (fOwnerKind g) == 1 && !s.openSlot (g / 4) then .held s
    else .done (if act.isWrite then s.bankWrite a (act.apply old) else s) old
  else
    let p := s.agentTurn w line act.isWrite
    if p.1 then .done ((if act.isWrite then p.2.bankWrite a (act.apply old) else p.2).home [line]) old
    else .held p.2

/-- The same at a complex address of the first 192 MiB, an alias write setting or clearing bits. -/
def State.memAccess (s : State) (u : BankUser) (w a n : Nat) (wr : Option (List Byte)) : MemResult :=
  match s.region a with
  | .bank g => s.bankAccess u w g a (match wr with | some bs => .write bs | none => .read n)
  | .aliasSet x =>
    (match bankOf x with
      | some g => s.bankAccess u w g x (match wr with | some bs => .setBits bs | none => .read n)
      | none => .denied)
  | .aliasClr x =>
    (match bankOf x with
      | some g => s.bankAccess u w g x (match wr with | some bs => .clrBits bs | none => .read n)
      | none => .denied)
  | _ => .denied

/-- The bytes of a host access: how many it reads, or what it writes. -/
def accessForm (acc : HostAccess) : Nat × Option (List Byte) :=
  match acc with
  | .read32 => (4, none)
  | .read64 => (8, none)
  | .write32 d => (4, some (toBytes 4 d.toNat))
  | .write64 lo hi => (8, some (toBytes 4 lo.toNat ++ toBytes 4 hi.toNat))
  | .readBytes n => (n.val, none)
  | .writeBytes bs => (bs.length, some bs)

/-! ## The march engine (R321 to R323) -/

/-- `MARCH_CTL.GO`: the test takes BANK, MODE and SOFT_REPAIR as they stand. -/
def State.marchGo (s : State) : State :=
  let c := s.reg (marchReg 0)
  let g := (bitsOf c 24 16).toNat
  if s.bit fMarchBusy ∨ s.fld (fOwnerKind g) ≠ 4 ∨ s.fld (fPstate g) ≠ psOn ∨ !s.bankPresent g then
    s.refuse .banks 0x2000
  else
    let s := (s.setReg (marchReg 4) (BitVec.ofNat 32 (g * 2 ^ 16 + 1))).setReg (marchReg 8) 0
    let s := (s.setReg (marchReg 0x10) 0).setReg (marchReg 0x14) 0
    { s with march := some (g, c.getLsbD 1, c.getLsbD 2) }

def execMarchGo (who : Agent) (s : State) : Host.Outcome State Fault Refusal :=
  .next (s.atBlock who .banks 0x2000 (fun s => s.marchGo))

/-- Withdraw a bank (R323). -/
def State.withdraw (s : State) (g : Nat) : State :=
  let s := (s.setFld (fOwnerKind g) 0).setFld (fPower g) psOff
  let s := (s.setFld (fPstate g) psOff).setBit ⟨bankCtl g + 4, 12, 12⟩ true
  let s := s.setBit ⟨0x10781040 + 4 * (g / 32), g % 32, g % 32⟩ true
  let s := s.setBit ⟨0x10781000 + 4 * (g / 32), g % 32, g % 32⟩ false
  (s.loseBank g).faultMinor

/-- The words of `MARCH_REPAIR` for up to four columns. -/
def repairWords (cols : List Nat) : Word × Word :=
  let slot (i : Nat) : Nat := match cols[i]? with
    | some c => 512 + c
    | none => 0
  (BitVec.ofNat 32 (slot 0 + slot 1 * 2 ^ 10 + slot 2 * 2 ^ 20), BitVec.ofNat 32 (slot 3))

/-- A fresh undefined line's bytes. -/
def State.scrambleLine (s : State) (a : Nat) : State :=
  let s' := s.setBytes a ((List.range 64).map (fun i => Config.freeMem (s.freeCtr + 1) (a + i)))
  { s' with freeCtr := s.freeCtr + 1 }

/-- What a march test leaves in a bank: zeros, or with PRESERVE the contents, with the words of a failing
line undefined (R322). -/
def State.marchLeave (s : State) (g : Nat) (preserving : Bool) (fs : List (BitVec 11 × BitVec 9)) : State :=
  if preserving then
    (fs.map (fun f => f.1.toNat)).eraseDups.foldl (fun s l => s.scrambleLine (bankBase g + 64 * l)) s
  else s.zeroBank g

/-- A failing bank is repaired as far as spare columns go, or withdrawn (R322, R323). -/
def State.marchFail (s : State) (g : Nat) (soft : Bool) (cols : List Nat) (f : BitVec 11 × BitVec 9)
    (again : Bool) : Word × State :=
  let s := s.setReg (marchReg 8) (BitVec.ofNat 32 (2 ^ 31 + f.1.toNat * 2 ^ 9 + f.2.toNat))
  let used := (s.fld (fSpares g)).toNat
  if soft ∧ cols.length + used ≤ 4 then
    let w := repairWords cols
    let s := (s.setReg (marchReg 0x10) w.1).setReg (marchReg 0x14) w.2
    let s := s.setFld (fSpares g) (BitVec.ofNat 32 (used + cols.length))
    if again then (3, s.withdraw g) else (2, s)
  else (3, s.withdraw g)

/-- A test of a bank has run (R322, R323): `fails` are the failing bits in the order found, `again`
says that the repeat after a soft repair failed too. The result is 1 passed, 2 repaired, 3 withdrawn. -/
def State.marchJudge (s : State) (g : Nat) (preserving soft : Bool)
    (fails : List (BitVec 11 × BitVec 9)) (again : Bool) : Word × State :=
  let lines := bankSize g / 64
  let fs := fails.filter (fun f => decide (f.1.toNat < lines))
  let s := s.marchLeave g preserving fs
  match fs with
  | [] => (1, s)
  | f :: _ => s.marchFail g soft ((fs.map (fun f => f.2.toNat)).eraseDups) f again

/-- MARCH_DONE. The engine's accesses wait for the old owner's (R305). -/
def execMarchDone (fails : List (BitVec 11 × BitVec 9)) (again : Bool) (s : State) :
    Host.Outcome State Fault Refusal :=
  .next (
    match s.march with
    | none => s
    | some (g, pres, soft) =>
      if s.bit (fDraining g) then s else
      let r := ({ s with march := none } : State).marchJudge g pres soft fails again
      let s := r.2.setReg (marchReg 4) (BitVec.ofNat 32 (g * 2 ^ 16 + r.1.toNat * 2))
      if !pres ∧ r.1 ≠ 3 then s.setBit (fScrub g) false else s)

/-! ## The loft (R324 to R331) -/

def loftReg (off : Nat) : Nat := 0x10A00000 + off
def fLoftBusy : Fld := ⟨loftReg 4, 0, 0⟩
def recInfo (r : Nat) : Nat := loftReg (0x8000 + 4 * r)
def fRecSecret (r : Nat) : Fld := ⟨recInfo r, 31, 31⟩
def fRecCount (r : Nat) : Fld := ⟨recInfo r, 23, 0⟩

def State.loftRec (s : State) (r : Nat) : LoftRec := Map.get {} s.loft r
def State.setLoftRec (s : State) (r : Nat) (x : LoftRec) : State :=
  { s with loft := Map.set {} s.loft r x }

/-- The current copy of a record (R324, R329), as a number and by bytes. -/
def LoftRec.data (x : LoftRec) : BitVec 2048 := if x.cur then x.b else x.a
def State.loftBytes (s : State) (r : Nat) : List Byte := toBytes 256 (s.loftRec r).data.toNat

/-- Write the other copy of a record and make it current. -/
def LoftRec.put (x : LoftRec) (d : BitVec 2048) : LoftRec :=
  if x.cur then { x with a := d, cur := false } else { x with b := d, cur := true }

/-- The record staged in `LOFT_STAGE`. -/
def State.loftStage (s : State) : BitVec 2048 :=
  BitVec.ofNat 2048 (ofBytes ((List.range 64).flatMap (fun i => toBytes 4 (s.reg (loftReg (0x100 + 4 * i))).toNat)))

/-- The controller accepts a store of a record (R327). -/
def State.loftStart (s : State) (r : Nat) (secret : Bool) (d : BitVec 2048) : State :=
  let s := (s.setBit fLoftBusy true).setFld ⟨loftReg 4, 26, 16⟩ (BitVec.ofNat 32 r)
  { s with store := some (r, secret, d) }

/-- `LOFT_STORE.GO` (R327, R330). -/
def State.loftGo (s : State) (r : Nat) (secret : Bool) : State :=
  if s.bit fLoftBusy ∨ (!secret ∧ s.bit (fRecSecret r)) then s.refuse .loftCtl 0
  else s.loftStart r secret s.loftStage

def execLoftStoreGo (who : Agent) (r : Fin 2048) (secret : Bool) (s : State) :
    Host.Outcome State Fault Refusal :=
  .next (s.atBlock who .loftCtl 0 (fun s => s.loftGo r.val secret))

/-- A record takes new contents: one store of it (R327, R331). -/
def State.loftPut (s : State) (r : Nat) (secret : Bool) (d : BitVec 2048) : State :=
  let n := (s.fld (fRecCount r)).toNat
  let s := s.setLoftRec r ((s.loftRec r).put d)
  let s := (s.countUp (fRecCount r)).setBit ⟨recInfo r, 30, 30⟩ (decide (10000000 ≤ n + 1))
  if secret then s.setBit (fRecSecret r) true else s

/-- The store under way ends: verified, the copy becomes current; otherwise the old contents stay. A store of
a record that has reached its rating sets WORN (R327, R331). -/
def State.loftEnd (s : State) (ok : Bool) : State :=
  match s.store with
  | none => s
  | some (r, secret, d) =>
    let worn := decide (10000000 ≤ (s.fld (fRecCount r)).toNat)
    let s := ({ s with store := none } : State).setBit fLoftBusy false
    let s := if worn then s.setBit ⟨loftReg 4, 3, 3⟩ true else s
    if ok then ((s.loftPut r secret d).setFld ⟨loftReg 4, 2, 1⟩ 1).present 0x17AD false 0
    else (s.setFld ⟨loftReg 4, 2, 1⟩ 2).present 0x17AD true 0

/-- The boot engine stores a digest it has kept, once the controller is free, as record 0x041: it stages the
digest and the valid word before the rest of `LOFT_STAGE` as it stands (R327, R499, R503). -/
def State.storeDigest (s : State) : State :=
  if s.start.digest.isEmpty ∨ s.bit fLoftBusy then s
  else
    let ws := wordsOf (s.start.digest ++ [1, 0, 0, 0]) 13
    let s := ws.zipIdx.foldl (fun s p => s.setReg (loftReg (0x100 + 4 * p.2)) p.1) s
    ({ s with start := { s.start with digest := [] } } : State).loftStart 0x41 true s.loftStage

/-- LOFT_STORE_DONE. -/
def execLoftStoreDone (ok : Bool) (s : State) : Host.Outcome State Fault Refusal :=
  .next (s.loftEnd ok).storeDigest

end Sys2Proof.Machine
end

