-- ==== Sys2Proof/Machine/Bridge.lean ====
section
/-!
DEFINITION. Bridge links (R545 to R567, R595): training, routes, flits, inbound requests, events and
messages, link failure, and the time exchange.
-/
namespace Sys2Proof.Machine

def fBrEnable (p : Nat) : Fld := ⟨brReg p 0, 0, 0⟩
def fAutoRetrain (p : Nat) : Fld := ⟨brReg p 0, 1, 1⟩
def fFollow (p : Nat) : Fld := ⟨brReg p 0, 2, 2⟩
def fCause (p : Nat) : Fld := ⟨brReg p 4, 15, 12⟩
def fPartnerValid (p : Nat) : Fld := ⟨brReg p 4, 6, 6⟩

/-! ## Routes (R553) -/

/-- The lowest-numbered port that is UP to die k. -/
def State.upTo (s : State) (k : Nat) : Option Nat :=
  (List.range 4).find? (fun p => s.linkIsUp p && s.fld (fPartner p) == BitVec.ofNat 32 k)

def State.setRoute (s : State) (k : Nat) (p : Option Nat) : State :=
  { s with routes := Map.set 0 s.routes k (match p with | some q => q + 1 | none => 0) }

/-- Events held for die k enter the outbound path of its new route. -/
def State.drainOut (s : State) (k p : Nat) : State :=
  (List.range 64).foldl (fun s j =>
    let x := selOut (64 * k + j)
    match Map.get 0 s.held x with
    | 0 => s
    | h + 1 => ({ s with held := Map.erase s.held x } : State).linkPush p (.event (64 * k + j) h)) s

/-! ## Link failure (R563) -/

/-- The ledger entries sent to die k complete as target errors; an entry in limbo is freed. -/
def State.failEntries (s : State) (k : Nat) : State :=
  s.ledger.foldl (fun s x => match x.2 with
    | some e =>
      if isRemote e.addr ∧ remoteDie e.addr = k then
        if e.limbo then (s.freeTag x.1).countDown fLimbo
        else ((s.freeTag x.1).shareDown e).completeEntry e true 0
      else s
    | none => s) s

/-- A port leaves UP with a cause, for a state. -/
def State.linkFall (s : State) (p : Nat) (cause : Word) : State :=
  let k := (s.fld (fPartner p)).toNat
  let wasRoute := Map.get 0 s.routes k == p + 1
  let out := (s.link p).wait ++ (s.link p).out.map (fun x => x.2.2)
  let evs := (out.filter (fun x => match x with | .event _ _ => true | _ => false)).length
  let msgs := (s.link p).messages
  let s := s.modLink p (fun l => { l with wait := [], out := [], seq := 0, ack := none, exch := none })
  let s := s.setFld (fLinkState p) linkDownSt
  let s := ((s.setBit (fPartnerValid p) false).setFld (fLinkVer p) 0).setFld (fCause p) cause
  let s := s.countUp ⟨brReg p 0x14, 15, 0⟩
  let s := (s.countUp ⟨brReg p 0x18, 31, 16⟩ evs).countUp ⟨brReg p 0x18, 15, 0⟩ msgs
  let s := { s with inLevels := (List.range 64).foldl (fun m j => Map.erase m (64 * k + j)) s.inLevels }
  let s := if wasRoute then (s.setRoute k (s.upTo k)).failEntries k else s
  s.present (0x17B0 + p) true 0

/-- The link of an UP port goes down. -/
def State.linkLost (s : State) (p : Nat) (cause : Word) : State :=
  if s.linkIsUp p then s.linkFall p cause else s

/-! ## Training (R550, R552, R564, R595) -/

def State.train (s : State) (p : Nat) : State :=
  (s.modLink p (fun l => { req := l.req })).setFld (fLinkState p) linkTraining

/-- ENABLE written to 1: a port at rest trains. -/
def State.brEnable (s : State) (p : Nat) : State :=
  if s.bit (fBrEnable p) then s
  else
    let s := s.setBit (fBrEnable p) true
    if s.fld (fLinkState p) = linkDownSt ∨ s.fld (fLinkState p) = linkFailed then s.train p else s

/-- ENABLE written to 0: the link is taken down with CAUSE 0x1. -/
def State.brDisable (s : State) (p : Nat) : State :=
  if !s.bit (fBrEnable p) then s
  else
    let s := s.setBit (fBrEnable p) false
    if s.linkIsUp p then s.linkFall p 1
    else if s.fld (fLinkState p) = linkDownSt then s
    else (s.setFld (fLinkState p) linkDownSt).setFld (fCause p) 1

/-- The port counts as stopped (R549). -/
def State.portStopped (s : State) (p : Nat) : Bool :=
  s.fld (fLinkState p) == linkDownSt || s.fld (fLinkState p) == linkFailed

/-- A field of BR_CTL accepts a value (R548, R549, R567). -/
def State.brFieldOk (s : State) (who : Agent) (p : Nat) (x : FieldSpec) (new : Word) : Bool :=
  isManager who &&
  (if x.lo = 12 then 10 ≤ new
   else if x.lo = 8 then s.portStopped p && (new == 1 || new == 2)
   else if x.lo = 2 then new == 0 || (List.range 4).all (fun q => q == p || !s.bit (fFollow q))
   else true)

/-- A write of BR_CTL. OFFER shows MAX_VER. -/
def State.writeBrCtl (s : State) (who : Agent) (p : Nat) (data : Word) : State :=
  match (Blk.bridge p).row 0 with
  | none => s
  | some r =>
    let rest := { r with fields := r.fields.filter (fun x => x.lo ≠ 0) }
    let en : FieldSpec := fd 0 0 .rw .live
    let change := data.getLsbD 0 != s.bit (fBrEnable p)
    let s1 := s.writeRow (.bridge p) 0 rest data (s.brFieldOk who p)
    let v := s1.fld ⟨brReg p 0, 9, 8⟩
    let s2 := s1.setFld ⟨brReg p 8, 9, 8⟩ (if v = 1 then 1 else 3)
    if !change then s2
    else if s.brFieldOk who p en (bitsOf data 0 0) then
      (if data.getLsbD 0 then s2.brEnable p else s2.brDisable p)
    else s2.refuse (.bridge p) 0

def execBrEnable (who : Agent) (p : Fin 4) (s : State) : Host.Outcome State Fault Refusal :=
  .next (
    if !s.portPresent p.val then s
    else s.writeBrCtl who p.val (s.reg (brReg p.val 0) ||| 1))
def execBrDisable (who : Agent) (p : Fin 4) (s : State) : Host.Outcome State Fault Refusal :=
  .next (
    if !s.portPresent p.val then s
    else s.writeBrCtl who p.val (s.reg (brReg p.val 0) &&& ~~~ 1))

/-- SERDES_LOCK_GAINED (R550, R595). -/
def execSerdesLockGained (p : Fin 4) (s : State) : Host.Outcome State Fault Refusal :=
  .next (
    if s.portPresent p.val ∧ s.fld (fLinkState p.val) = linkTraining then
      s.modLink p.val (fun l => { l with locked := true })
    else s)

/-- SERDES_LOCK_LOST: an UP link goes down with CAUSE 0x2. -/
def execSerdesLockLost (p : Fin 4) (s : State) : Host.Outcome State Fault Refusal :=
  .next (
    if s.linkIsUp p.val then (s.modLink p.val (fun l => { l with locked := false })).linkFall p.val 2
    else if s.portPresent p.val then s.modLink p.val (fun l => { l with locked := false })
    else s)

/-- LINK_UP: steps 3 to 6 of training, with what two consecutive identical training sets of the
partner carried. -/
def execLinkUp (p : Fin 4) (partner offer : BitVec 2) (id : BitVec 16) (s : State) :
    Host.Outcome State Fault Refusal :=
  .next (
    let p := p.val
    if !s.portPresent p || s.fld (fLinkState p) != linkTraining || !(s.link p).locked then s
    else
      let k := partner.toNat
      let common := s.fld ⟨brReg p 8, 9, 8⟩ &&& offer.setWidth 32
      let s := s.setReg (brReg p 0xC) (BitVec.ofNat 32 (id.toNat * 2 ^ 16 + offer.toNat * 2 ^ 8))
      let s := s.setFld (fPartner p) (BitVec.ofNat 32 k)
      if k = s.selfDie then (s.setFld (fLinkState p) linkFailed).setFld (fCause p) 7
      else if common = 0 then (s.setFld (fLinkState p) linkFailed).setFld (fCause p) 8
      else
        let s := s.setFld (fLinkVer p) (if common.getLsbD 1 then 2 else 1)
        let s := s.modLink p (fun l => { l with wait := [], out := [], seq := 0, ack := none, exch := none })
        let s := (s.setFld (fLinkState p) linkUpSt).setBit (fPartnerValid p) true
        let s := match s.route k with
          | some _ => s
          | none => (s.setRoute k (some p)).drainOut k p
        s.present (0x17B0 + p) false 0)

/-- TRAINING_TIMEOUT. -/
def execTrainingTimeout (p : Fin 4) (s : State) : Host.Outcome State Fault Refusal :=
  .next (
    if s.portPresent p.val ∧ s.fld (fLinkState p.val) = linkTraining then
      (s.setFld (fLinkState p.val) linkFailed).setFld (fCause p.val) 6
    else s)

/-- RETRAIN (R564). -/
def execRetrain (p : Fin 4) (s : State) : Host.Outcome State Fault Refusal :=
  .next (
    if s.portPresent p.val ∧ s.portStopped p.val ∧ s.bit (fBrEnable p.val) ∧ s.bit (fAutoRetrain p.val) then
      s.train p.val
    else s)

/-- LINK_DOWN, with a cause of R552. -/
def execLinkDown (p : Fin 4) (cause : BitVec 4) (s : State) : Host.Outcome State Fault Refusal :=
  .next (if cause = 0 ∨ 5 < cause then s else s.linkLost p.val (cause.setWidth 32))

def execDownNotice (p : Fin 4) (s : State) : Host.Outcome State Fault Refusal :=
  .next (s.linkLost p.val 5)

/-! ## Flits (R555) -/

/-- FLIT_RECEIVE: a flit that passes its check is acknowledged, one that fails is answered with a
negative acknowledgement. `ack` is the acknowledgement it carries: own flits up to that one leave the
replay buffer. -/
def execFlitReceive (p : Fin 4) (good : Bool) (seq : Nat) (ack : Option Nat) (s : State) :
    Host.Outcome State Fault Refusal :=
  .next (
    if !s.linkIsUp p.val then s
    else s.modLink p.val (fun l => { l with
      ack := some (good, seq)
      out := match good, ack with
        | true, some a => l.out.filter (fun x => decide (a < x.1))
        | _, _ => l.out }))

/-- FLIT_NAK: the flit and every later one are replayed; a flit replayed 8 times in succession takes
the link down. -/
def execFlitNak (p : Fin 4) (seq : Nat) (s : State) : Host.Outcome State Fault Refusal :=
  .next (
    let p := p.val
    if !s.linkIsUp p then s
    else
      let n := ((s.link p).out.filter (fun x => decide (seq ≤ x.1))).length
      let s := s.modLink p (fun l => { l with
        out := l.out.map (fun x => if seq ≤ x.1 then (x.1, x.2.1 + 1, x.2.2) else x) })
      let s := s.countUp ⟨brReg p 0x10, 31, 0⟩ n
      if (s.link p).out.any (fun x => decide (8 ≤ x.2.1)) then s.linkFall p 3 else s)

/-- ACK_TIMEOUT: a flit has waited 4,096 BCLK cycles. -/
def execAckTimeout (p : Fin 4) (s : State) : Host.Outcome State Fault Refusal :=
  .next (if (s.link p.val).out.isEmpty then s else s.linkLost p.val 4)

/-! ## Inbound traffic (R558 to R562) -/

/-- The receiving port's mask admits the bank of the underlying address. -/
def State.inMask (s : State) (p a : Nat) : Bool :=
  match bankOf (a % 0x4000000) with
  | some g => s.bit ⟨brReg p (0x100 + 4 * (g / 32)), g % 32, g % 32⟩
  | none => false

/-- A port answers an inbound request; no response leaves by a link that is down (R563). -/
def State.respond (s : State) (p : Nat) (data : Option (List Byte)) : State :=
  if s.linkIsUp p then s.linkPush p (.response data) else s

/-- An inbound request is judged, and performed and answered, or held until its bank and the home of its line
serve it, or answered with an error and counted (R558). -/
def State.inbound (s : State) (p a : Nat) (acc : HostAccess) : State :=
  let f := accessForm acc
  let deny := (((s.agentLeaves (walkBridge p)).modLink p (fun l => { l with req := none })).countUp
    ⟨brReg p 0x20, 31, 0⟩).respond p none
  if a < 0xC000000 ∧ s.inMask p a then
    (match s.memAccess .bridge (walkBridge p) a f.1 f.2 with
      | .denied => deny
      | .held s' => s'.modLink p (fun l => { l with req := some (a, acc) })
      | .done s' bs => (s'.modLink p (fun l => { l with req := none })).respond p
          (some (if f.2.isSome then [] else bs)))
  else deny

/-- INBOUND_REQUEST: in order, so that while an earlier request of the port waits the row is its next
attempt, made even when the link has gone down since (R559, R563). -/
def execInboundRequest (p : Fin 4) (addr : BitVec 32) (acc : HostAccess) (s : State) :
    Host.Outcome State Fault Refusal :=
  .next (
    match (s.link p.val).req with
    | some (a, acc) => if s.portPresent p.val then s.inbound p.val a acc else s
    | none => if s.linkIsUp p.val then s.inbound p.val addr.toNat acc else s)

/-- INBOUND_BRIDGE_EVENT, as it leaves the inbound crossing queue (R275): event, or in version 2 a level, of channel 64 × s + i. -/
def execInboundBridgeEvent (p : Fin 4) (i : Fin 64) (hop : Fin 9) (level : Option Bool) (s : State) :
    Host.Outcome State Fault Refusal :=
  .next (
    if !s.linkIsUp p.val then s
    else
      let ch := 64 * (s.fld (fPartner p.val)).toNat + i.val
      match level with
      | some v =>
        if s.fld (fLinkVer p.val) = 2 then { s with inLevels := Map.set false s.inLevels ch v } else s
      | none => s.routeIn (0x1600 + ch) false (min 8 (hop.val + 1)))

/-- INBOUND_MESSAGE: only a thread with ANY_VC passes the destination check; in version 2 a refusal is
reported back. -/
def execInboundMessage (p : Fin 4) (dst : GT) (role : BitVec 12) (data : BitVec 64) (s : State) :
    Host.Outcome State Fault Refusal :=
  .next (
    if !s.linkIsUp p.val then s
    else
      let r := s.judgeMessage dst.val role.toNat (s.bit (fAnyVc dst.val)) data
      if r.1 ≠ 0 ∧ s.fld (fLinkVer p.val) = 2 then r.2.linkPush p.val (.nack (r.1 == 1)) else r.2)

/-- MSG_NACK (R551, R562). -/
def execMsgNack (p : Fin 4) (full : Bool) (s : State) : Host.Outcome State Fault Refusal :=
  .next (
    if s.linkIsUp p.val ∧ s.fld (fLinkVer p.val) = 2 then
      s.countUp (if full then ⟨brReg p.val 0x1C, 31, 16⟩ else ⟨brReg p.val 0x1C, 15, 0⟩)
    else s)

/-! ## Time alignment (R565, R566). Stamps are timebase values in units of 2^−8 ns. -/

def execTimeExchangeStart (p : Fin 4) (t1 : BitVec 64) (s : State) : Host.Outcome State Fault Refusal :=
  .next (
    if s.linkIsUp p.val ∧ s.bit (fFollow p.val) then
      (s.modLink p.val (fun l => { l with exch := some (t1, (s.fld fEpoch).toNat) })).linkPush p.val (.sync t1)
    else s)

/-- The slew of R566: an addition for N TCLK cycles put in force directly, the pending rate group
untouched; or TIME_FAR. -/
def State.slew (s : State) (p : Nat) (ofs : Int) : State :=
  let n := 2 ^ ((s.fld ⟨brReg p 0, 15, 12⟩).toNat - 3)
  if ofs.natAbs < n / 2 * 256 then
    let keep := s.pendReg (tbReg 0x28)
    let s := s.setReg (tbReg 0x28) (BitVec.ofInt 32 (-ofs * 2 ^ 24 / n))
    (s.setPend (tbReg 0x28) keep).setAdjLeft n
  else s.setBit ⟨brReg p 4, 7, 7⟩ true

/-- TIME_EXCHANGE_REPLY; `stepped` says that the partner stepped its timebase meanwhile. The rounding
of an odd sum is not said, so it is a free value. -/
def execTimeExchangeReply (p : Fin 4) (t2 t3 t4 : BitVec 64) (stepped : Bool) (s : State) :
    Host.Outcome State Fault Refusal :=
  .next (
    let p := p.val
    if !s.linkIsUp p then s
    else match (s.link p).exch with
      | none => s
      | some (t1, ep) =>
        let s := s.modLink p (fun l => { l with exch := none })
        if stepped || ep != (s.fld fEpoch).toNat then s
        else
          let i (t : BitVec 64) : Int := Int.ofNat t.toNat
          let sum := (i t1 - i t2) + (i t4 - i t3)
          let up : Int := if sum % 2 = 1 ∧ Config.freeBool s.freeCtr then 1 else 0
          let s := if sum % 2 = 1 then s.drawn else s
          let ofs := sum / 2 + up
          let s := s.setReg (brReg p 0x30) (BitVec.ofInt 32 ofs)
          let s := s.setReg (brReg p 0x34) (BitVec.ofInt 32 ((i t4 - i t1) - (i t3 - i t2)))
          let s := s.countWrap ⟨brReg p 0x38, 15, 0⟩
          if s.bit (fFollow p) then s.slew p ofs else s)

end Sys2Proof.Machine
end

