-- ==== Sys2Proof/Machine/Dma.lean ====
section
/-!
DEFINITION. DMA channels without their data movement, buffer pools, the silo and the bulk port (R376
to R420).
-/
namespace Sys2Proof.Machine

/-! ## Channels (R373 to R376) -/

def fGoPending (c : Nat) : Fld := ⟨chReg c 4, 10, 10⟩
def fRingEmpty (c : Nat) : Fld := ⟨chReg c 4, 11, 11⟩
def fChResult (c : Nat) : Fld := ⟨chReg c 4, 19, 16⟩
def fRing (c : Nat) : Fld := ⟨chReg c 0x24, 0, 0⟩
def fRingLog (c : Nat) : Fld := ⟨chReg c 0x24, 20, 16⟩
def fRingIdx (c : Nat) : Fld := ⟨chReg c 0x30, 15, 0⟩
/-- RESULT codes (R393). -/
def rsDone : Word := 1
def rsAborted : Word := 2
def rsBus : Word := 3
def rsAllocFail : Word := 4
def rsHandle : Word := 5
def rsCfg : Word := 6
def rsEngine : Word := 7
def rsDescBus : Word := 8
def rsStopped : Word := 9

/-- A 64-bit quantity of two registers. -/
def State.reg64 (s : State) (lo : Nat) : Nat := (s.reg lo).toNat + 2 ^ 32 * (s.reg (lo + 4)).toNat

/-- The virtual complex a channel belongs to is in one of some states. -/
def State.chanVcIn (s : State) (c : Nat) (l : List Word) : Bool :=
  match s.owner (ownChan c) with
  | some v => l.contains (s.fld (vcState v))
  | none => false

/-! ## An access of an engine (R315, R362, R377) -/

/-- The answer of access `job` of a channel has been taken. -/
def State.chanTake (s : State) (c job : Nat) : State :=
  s.modChan c (fun x => { x with out := x.out.filter (fun r => r.job != job) })

/-- A channel's access joins those under way outside the banks; its number is the second part. -/
def State.chanNote (s : State) (c job a n : Nat) : State × Nat :=
  let x := s.chan c
  (s.setChan c { x with seq := x.seq + 1, out := x.out ++ [⟨job, x.seq, a, n, none⟩] }, x.seq)

/-- A channel's access goes to the ledger. -/
def State.chanSend (s : State) (c job a n : Nat) (wr : Option (List Byte)) : State :=
  let p := s.chanNote c job a n
  p.1.ledgerSend (accessEntry (.chan c p.2) (2048 + c) a n wr)

/-- An access of channel c, as agent w, to the bins, the granary or the system region, the places where
rings, free stacks and silos lie: at a bank at once or held; elsewhere `job` names it, and it is held until
its answer has come. -/
def State.spanAccess (s : State) (c job w a n : Nat) (wr : Option (List Byte)) : MemResult :=
  match (s.chan c).out.find? (fun r => r.job == job) with
  | some r =>
    (match r.ans with
      | none => .held s
      | some none => .denied
      | some (some bs) => .done (s.chanTake c job) bs)
  | none =>
    match s.region a with
    | .bank _ => s.memAccess (.gleaner (c / 32)) w a n wr
    | .system => .held (s.chanSend c job a n wr)
    | _ => .denied

/-! ## The sides of a transfer (R381, R384) -/

/-- Fields of a CFG word. -/
def cfgE (cfg : Word) : Nat := 2 ^ (bitsOf cfg 13 12).toNat
def cfgSwap (cfg : Word) : Word := bitsOf cfg 15 14

/-- One side of a transfer: start address, FIXED, WRAP code, element size. -/
structure Side where
  a     : Nat
  fixed : Bool
  wrap  : Nat
  e     : Nat
  deriving DecidableEq, Repr

def srcSide (cfg : Word) (a : Nat) : Side := ⟨a, cfg.getLsbD 16, (bitsOf cfg 22 18).toNat, cfgE cfg⟩
def dstSide (cfg : Word) (a : Nat) : Side := ⟨a, cfg.getLsbD 17, (bitsOf cfg 27 23).toNat, cfgE cfg⟩

/-- The address of stream byte k (R384). -/
def Side.at (x : Side) (k : Nat) : Nat :=
  if x.fixed then x.a + k % x.e
  else if x.wrap = 0 then x.a + k
  else
    let n := 2 ^ (x.wrap + 1)
    x.a - x.a % n + (x.a % n + k) % n

/-- The address lies in the control register range. -/
def inCtl (a : Nat) : Bool := decide (0x10000000 ≤ a) && decide (a < 0x20000000)

/-- The checks of R381 on one side. -/
def Side.ok (x : Side) : Bool :=
  (!inCtl x.a || (decide (4 ≤ x.e) && x.a % x.e == 0)) &&
  (!x.fixed || x.a % x.e == 0) &&
  !(x.fixed && x.wrap != 0) &&
  (x.wrap == 0 || decide (5 ≤ x.wrap))

/-- The checks of R381. -/
def dmaOk (cfg : Word) (count src dst : Nat) : Bool :=
  let e := cfgE cfg
  let x := srcSide cfg src
  let y := dstSide cfg dst
  let whole := x.fixed || y.fixed || cfgSwap cfg != 0 || inCtl src || inCtl dst
  (!whole || count % e == 0) &&
  !(cfgSwap cfg == 1 && e == 1) && !(cfgSwap cfg == 2 && decide (e < 4)) && cfgSwap cfg != 3 &&
  x.ok && y.ok

/-! ## Buffer pools (R398 to R406) -/

def poolReg (p off : Nat) : Nat := 0x10680000 + 0x40 * p + off
def fPoolOn (p : Nat) : Fld := ⟨poolReg p 0, 31, 31⟩
def fPoolSize (p : Nat) : Fld := ⟨poolReg p 0, 19, 16⟩
def nullHandle : Word := 0xFFFFFFFF
def fBmValid : Fld := ⟨0x10681000, 7, 7⟩
def fBmChannel : Fld := ⟨0x10681000, 6, 0⟩

def State.pool (s : State) (p : Nat) : PoolS := Map.get {} s.pools p
def State.setPool (s : State) (p : Nat) (x : PoolS) : State := { s with pools := Map.set {} s.pools p x }
def State.poolCount (s : State) (p : Nat) : Nat := (s.fld ⟨poolReg p 4, 25, 0⟩).toNat
def State.poolSize (s : State) (p : Nat) : Nat := 2 ^ (8 + (s.fld (fPoolSize p)).toNat)

/-- LEVEL (R402): cached handles, those on their way to the stack, those on it, and fresh ones; a disabled
pool is empty. -/
def State.poolLevel (s : State) (p : Nat) : Nat :=
  let x := s.pool p
  if s.bit (fPoolOn p) then x.cache.length + x.moving.length + x.sp + (s.poolCount p - x.fresh) else 0

/-- Set bit p of a pending pair of registers. -/
def State.poolPend (s : State) (lo p : Nat) : State :=
  s.setBit ⟨lo + 4 * (p / 32), p % 32, p % 32⟩ true

/-- A failed ALLOC (R403). -/
def State.poolFail (s : State) (p : Nat) : State :=
  ((s.countUp ⟨poolReg p 0x24, 15, 0⟩).poolPend 0x10681018 p).present 0x17A8 true 0

/-- Take the most recently cached handle; POOL_LOW as the level falls to LOW_MARK (R403, R406). -/
def State.poolTake (s : State) (p : Nat) : Option (Word × State) :=
  match (s.pool p).cache with
  | [] => none
  | h :: r =>
    let s := s.setPool p { s.pool p with cache := r }
    let low := (s.fld ⟨poolReg p 0x20, 25, 0⟩).toNat
    some (h, if s.poolLevel p = low then (s.poolPend 0x10681010 p).present 0x17A8 false 0 else s)

/-- A handle is rejected (R404). -/
def State.freeRejected (s : State) (h : Word) : State := (s.setReg 0x10681020 h).refuse .bm 0x1008

/-- One ALLOC or FREE of a pool (R403, R404); none while it has to wait, for a refill or for room in a cache
of 32 handles. -/
def State.poolDo (s : State) (p : Nat) (op : PoolOp) : Option State :=
  match op with
  | .alloc ref =>
    if s.poolLevel p = 0 then some ((s.poolFail p).deliver ref (toBytes 4 nullHandle.toNat))
    else (s.poolTake p).map (fun q => q.2.deliver ref (toBytes 4 q.1.toNat))
  | .free h =>
    let x := s.pool p
    if !s.bit (fPoolOn p) ∨ x.fresh ≤ (bitsOf h 25 0).toNat ∨ s.poolLevel p = s.poolCount p then
      some (s.freeRejected h)
    else if 32 ≤ x.cache.length then none
    else some (s.setPool p { x with cache := h :: x.cache })

/-- Operations of a pool in the order they came, as far as they need not wait (R405). -/
def State.poolRun (s : State) (p : Nat) (ops : List PoolOp) : State :=
  match ops with
  | [] => s.setPool p { s.pool p with ops := [] }
  | op :: r =>
    match s.poolDo p op with
    | some s => State.poolRun s p r
    | none => s.setPool p { s.pool p with ops := op :: r }

/-- The operations that wait. -/
def State.poolPump (s : State) (p : Nat) : State := s.poolRun p (s.pool p).ops

/-- An operation arrives at a pool. -/
def State.poolOp (s : State) (p : Nat) (op : PoolOp) : State := s.poolRun p ((s.pool p).ops ++ [op])

/-- A read of POOL_ALLOC (R403). -/
def State.poolServe (s : State) (p : Nat) (ref : ReqRef) : State := s.poolOp p (.alloc ref)

/-- BM_FREE (R404). The null handle, and one of a disabled pool, is rejected at once. -/
def State.poolFree (s : State) (h : Word) : State :=
  let p := (bitsOf h 31 26).toNat
  if !s.bit (fPoolOn p) ∨ h = nullHandle then s.freeRejected h else s.poolOp p (.free h)

def execPoolAlloc (_ : Agent) (p : Pool) (s : State) : Host.Outcome State Fault Refusal :=
  .next (if s.powered 45 then
      ({ s with reqCtr := s.reqCtr + 1 } : State).poolServe p.val (.host s.reqCtr)
    else s.answer (toBytes 4 0))

/-- The memory region of a range of bytes, when it lies in one of the bins, the granary or the system
region (R401): 0, 1 or 2. -/
def spanRegion (a n : Nat) : Option Nat :=
  let e := a + n
  if e ≤ 0x800000 then some 0
  else if 0x1000000 ≤ a ∧ e ≤ 0x2800000 then some 1
  else if 0x100000000000 ≤ a ∧ e ≤ 0x1000000000000 then some 2
  else none

/-- Bytes of all enabled pools but one. -/
def State.poolBytes (s : State) (p : Nat) : Nat :=
  (List.range 64).foldl (fun n q => if q ≠ p ∧ s.bit (fPoolOn q) then n + s.poolCount q * s.poolSize q else n) 0

/-- The conditions of R401 on a pool. -/
def State.poolMayEnable (s : State) (p : Nat) : Bool :=
  let w := s.reg (poolReg p 0)
  let size := 2 ^ (8 + (bitsOf w 19 16).toNat)
  let cap := 2 ^ (bitsOf w 12 8).toNat
  let n := s.poolCount p
  s.reg64 (poolReg p 8) % size == 0 &&
  (spanRegion (s.reg64 (poolReg p 8)) (n * size)).isSome &&
  decide (n ≤ cap) && (spanRegion (s.reg64 (poolReg p 0x10)) (4 * cap)).isSome &&
  s.bit fBmValid && decide (s.poolBytes p + n * size ≤ 2 ^ 42)

/-- The accesses of a pool to its free stack. -/
def poolRead (p : Nat) : Nat := 2 * p
def poolWrite (p : Nat) : Nat := 2 * p + 1

/-- A pool's own accesses are forgotten. -/
def State.poolQuits (s : State) (p : Nat) : State :=
  let c := (s.fld fBmChannel).toNat
  ((s.chanTake c (poolRead p)).chanTake c (poolWrite p)).agentLeaves (walkPool p)

/-- A pool is enabled, judged in the state s0 before the write (R22): every source of handles but the fresh
counter is empty (R402). -/
def State.poolEnable (s s0 : State) (p : Nat) : State :=
  if s.bit (fPoolOn p) then s
  else if s0.poolMayEnable p then (s.setBit (fPoolOn p) true).setPool p {}
  else s.refuse .bm (0x40 * p)

/-- A pool is disabled and empty; reads that wait get the null handle, and handles that come back are
rejected (R400, R403, R404). -/
def State.poolDisable (s : State) (p : Nat) : State :=
  (((s.setBit (fPoolOn p) false).poolQuits p).poolPump p).setPool p {}

/-- A pool command or write through a path that is not the manager's is refused (R400). -/
def State.poolCmd (s : State) (who : Agent) (p : Nat) (on : Bool) (f : State → State) : State :=
  if !s.powered 45 ∨ s.bit (fPoolOn p) = on then s
  else if isManager who then f s
  else s.refuse .bm (0x40 * p)

def execPoolEnable (who : Agent) (p : Pool) (s : State) : Host.Outcome State Fault Refusal :=
  .next (s.poolCmd who p.val true (fun s => s.poolEnable s p.val))
def execPoolDisable (who : Agent) (p : Pool) (s : State) : Host.Outcome State Fault Refusal :=
  .next (s.poolCmd who p.val false (fun s => s.poolDisable p.val))

/-- Free values for what the spec leaves open of n words, and the counter past them. -/
def State.freeWords (s : State) (n : Nat) : List Word × State :=
  ((List.range n).map (fun i => Config.freeWord (s.freeCtr + i)), { s with freeCtr := s.freeCtr + n })

/-- Handles join the cache. -/
def State.poolCached (s : State) (p : Nat) (hs : List Word) (f : PoolS → PoolS) : State :=
  (s.setPool p (f { s.pool p with cache := hs.reverse ++ (s.pool p).cache })).poolPump p

/-- Up to 16 fresh indices join the cache (R402). -/
def State.poolFresh (s : State) (p : Nat) : State :=
  let x := s.pool p
  let n := min 16 (s.poolCount p - x.fresh)
  s.poolCached p ((List.range n).map (fun i => BitVec.ofNat 32 (2 ^ 26 * p + x.fresh + i)))
    (fun x => { x with fresh := x.fresh + n })

/-- A refill from the stack top through the reserved channel has run, or waits. One that comes when frees
have filled the cache meanwhile is dropped: its handles stay on the stack (log 88). A stack line that its
owner does not give leaves the handles open (log 21). -/
def State.poolPop (s : State) (p : Nat) : State :=
  let c := (s.fld fBmChannel).toNat
  let a := s.reg64 (poolReg p 0x10) + 4 * ((s.pool p).sp - 16)
  let put (s : State) (hs : List Word) : State :=
    if 16 < (s.pool p).cache.length then s else s.poolCached p hs (fun x => { x with sp := x.sp - 16 })
  match s.spanAccess c (poolRead p) (walkPool p) a 64 none with
  | .done s bs => put s (wordsOf bs 16)
  | .held s => s
  | .denied => let q := (s.chanTake c (poolRead p)).freeWords 16; put q.2 q.1

/-- A refill: of a cache of fewer than 8 handles, from the stack top where it holds any, otherwise from the
fresh counter (R402). -/
def State.poolRefill (s : State) (p : Nat) : State :=
  let x := s.pool p
  let begun := (s.chan (s.fld fBmChannel).toNat).out.any (fun r => r.job == poolRead p)
  if !s.bit (fPoolOn p) then s
  else if begun then s.poolPop p
  else if 8 ≤ x.cache.length then s
  else if x.sp = 0 then s.poolFresh p
  else if x.moving.isEmpty then s.poolPop p
  else s

def execPoolRefill (p : Pool) (s : State) : Host.Outcome State Fault Refusal :=
  .next (if s.powered 45 then s.poolRefill p.val else s)

/-- The handles on their way are written to the stack top (R402). A line its owner does not take is lost
(log 21). -/
def State.poolPush (s : State) (p : Nat) : State :=
  let x := s.pool p
  let c := (s.fld fBmChannel).toNat
  let a := s.reg64 (poolReg p 0x10) + 4 * x.sp
  let put (s : State) : State :=
    (s.setPool p { s.pool p with moving := [], sp := x.sp + 16 }).poolPump p
  match s.spanAccess c (poolWrite p) (walkPool p) a 64 (some (x.moving.flatMap (fun h => toBytes 4 h.toNat))) with
  | .done s _ => put s
  | .held s => s
  | .denied => put (s.chanTake c (poolWrite p))

/-- A spill: the 16 oldest handles of a cache of more than 24 go to the stack top, once no refill from it is
under way (R402). -/
def State.poolSpill (s : State) (p : Nat) : State :=
  let x := s.pool p
  let n := x.cache.length - 16
  if !s.bit (fPoolOn p) then s
  else if !x.moving.isEmpty then s.poolPush p
  else if x.cache.length ≤ 24 ∨
      (s.chan (s.fld fBmChannel).toNat).out.any (fun r => r.job == poolRead p) then s
  else ((s.setPool p { x with cache := x.cache.take n, moving := (x.cache.drop n).reverse }).poolPush p).poolPump p

def execPoolSpill (p : Pool) (s : State) : Host.Outcome State Fault Refusal :=
  .next (if s.powered 45 then s.poolSpill p.val else s)

def execBmFree (who : Agent) (h : Word) (s : State) : Host.Outcome State Fault Refusal :=
  .next (s.atBlock who .bm 0x1008 (fun s => s.poolFree h))

/-! ## Reserved channels (R407) -/

/-- The channel can be reserved. -/
def State.mayReserve (s : State) (c : Nat) : Bool := s.chanPresent c && s.fld (fChState c) == chIdle

def State.reserve (s : State) (c : Nat) : State := s.setFld (fChState c) chReserved
def State.unreserve (s : State) (c : Nat) : State :=
  (s.setFld (fChState c) chIdle).modChan c (fun x => { x with out := [] })

/-- A write of BM_CTL: VALID and CHANNEL are Stopped-only, stopped while no pool is enabled. -/
def State.writeBmCtl (s : State) (who : Agent) (data : Word) : State :=
  let valid := data.getLsbD 7
  let c := (bitsOf data 6 0).toNat
  let old := (s.fld fBmChannel).toNat
  if valid = s.bit fBmValid ∧ c = old then s
  else if !isManager who ∨ (List.range 64).any (fun p => s.bit (fPoolOn p)) then s.refuse .bm 0x1000
  else if valid ∧ !(s.mayReserve c) ∧ !(s.bit fBmValid ∧ c = old) then s.refuse .bm 0x1000
  else
    let s := if s.bit fBmValid then s.unreserve old else s
    let s := (s.setBit fBmValid valid).setFld fBmChannel (BitVec.ofNat 32 c)
    if valid then s.reserve c else s

/-! ## GO, ABORT and COMMIT (R376, R380, R381, R394) -/

def chanCommit (c : Nat) : List Nat := [8, 0xC, 0x10, 0x14, 0x18, 0x1C].map (chReg c)

/-- The agents of a channel give up their places, and nothing of its transfer is left but the number of its
next access. -/
def State.chanClear (s : State) (c : Nat) : State :=
  ((s.agentLeaves (walkRead c)).agentLeaves (walkWrite c)).modChan c (fun x => { seq := x.seq })

/-- The channel stops: IDLE, with DONE or ABORTED presented at the hop count of its transfer. -/
def State.chanStop (s : State) (c : Nat) (ev : Option Bool) : State :=
  let hop := (s.chan c).hop
  let s := (s.setFld (fChState c) chIdle).chanClear c
  match ev with
  | some b => s.present (0x1700 + c) b hop
  | none => s

/-- A transfer or descriptor has its result (R383, R390, R408): register mode stops, ring mode goes on
to the write-back. -/
def State.chanFinish (s : State) (c : Nat) (result : Word) (residue : Nat) : State :=
  let s := (s.setFld (fChResult c) result).setReg (chReg c 0x20) (BitVec.ofNat 32 residue)
  if s.bit (fRing c) then
    let x := s.chan c
    let s := (s.chanClear c).modChan c (fun y => { x with
      phase := .back, rd := 0, wr := 0, stage := [], bad := none, out := [], eng := false, tail := false, close := 0,
      seq := y.seq })
    if result = rsDone ∧ x.ctrl.getLsbD 25 then s.poolFree x.srcHi else s
  else s.chanStop c (some (result != rsDone))

/-- A checked transfer begins; one of no bytes is complete at once (R380, R381). -/
def State.chanBegin (s : State) (c : Nat) (x : ChanS) : State :=
  let s := (s.setFld (fChState c) chActive).setReg (chReg c 0x20) (BitVec.ofNat 32 x.count)
  let s := s.setChan c { x with phase := .move }
  if x.count = 0 then s.chanFinish c rsDone 0 else s

/-- GO (R380); before release only a channel of engine 0 takes it (R483). -/
def State.chGo (s : State) (c hop : Nat) : State :=
  let st := s.fld (fChState c)
  let no := s.refuse (.engine (c / 32)) (0x100 * (c % 32))
  if st = chReserved ∨ (s.unreleased ∧ 32 ≤ c) then no
  else if s.bit (fRing c) then
    if st = chIdle then
      ((s.setFld (fChState c) chActive).setBit (fRingEmpty c) false).modChan c (fun x =>
        { phase := .load, hop := hop, seq := x.seq })
    else if st = chActive then s.setBit (fGoPending c) true
    else no
  else if st = chIdle then
    let cfg := s.reg (chReg c 8)
    let count := (s.reg (chReg c 0xC)).toNat
    let src := s.reg64 (chReg c 0x10)
    let dst := s.reg64 (chReg c 0x18)
    if dmaOk cfg count src dst then
      s.chanBegin c { cfg := cfg, count := count, src := src, dst := dst, hop := hop, seq := (s.chan c).seq }
    else no
  else no

/-- Every data write of the transfer under way has been issued (R395). -/
def ChanS.issued (x : ChanS) : Bool := x.phase == .back || (x.phase == .move && decide (x.count ≤ x.wr))

/-- ABORT (R394, R395). -/
def State.chAbort (s : State) (c : Nat) : State :=
  if s.fld (fChState c) = chActive then
    (s.setFld (fChState c) chAborting).modChan c (fun x => { x with late := x.issued })
  else if s.fld (fChState c) = chReserved then s.refuse (.engine (c / 32)) (0x100 * (c % 32))
  else s

/-- COMMIT; a reserved channel refuses every write of CH_CMD (R407). -/
def State.chCommit (s : State) (c : Nat) : State :=
  if s.fld (fChState c) = chReserved then s.refuse (.engine (c / 32)) (0x100 * (c % 32))
  else s.commitAll (chanCommit c)

/-- A write of CH_CMD: COMMIT first; GO and ABORT together are refused (R376, R380). -/
def State.writeChCmd (s : State) (c : Nat) (data : Word) : State :=
  if s.fld (fChState c) = chReserved then
    s.refuse (.engine (c / 32)) (0x100 * (c % 32))
  else
    let s := if data.getLsbD 0 then s.chCommit c else s
    if data.getLsbD 1 ∧ data.getLsbD 2 then s.refuse (.engine (c / 32)) (0x100 * (c % 32))
    else if data.getLsbD 1 then s.chGo c 0
    else if data.getLsbD 2 then s.chAbort c
    else s

def execChCommit (who : Agent) (c : Chan) (s : State) : Host.Outcome State Fault Refusal :=
  .next (s.atBlock who (.engine (c.val / 32)) (0x100 * (c.val % 32)) (fun s => if s.chanPresent c.val then s.chCommit c.val else s))
def execChGo (who : Agent) (c : Chan) (s : State) : Host.Outcome State Fault Refusal :=
  .next (s.atBlock who (.engine (c.val / 32)) (0x100 * (c.val % 32)) (fun s => if s.chanPresent c.val then s.chGo c.val 0 else s))
def execChAbort (who : Agent) (c : Chan) (s : State) : Host.Outcome State Fault Refusal :=
  .next (s.atBlock who (.engine (c.val / 32)) (0x100 * (c.val % 32)) (fun s => if s.chanPresent c.val then s.chAbort c.val else s))

/-- CH_TRIGGER: a held trigger is taken when the channel can take it (R382). A frozen virtual complex
holds its triggers (R472), and a reserved channel ignores them (R407). -/
def execChTrigger (c : Chan) (i : Fin 2) (s : State) : Host.Outcome State Fault Refusal :=
  .next (
    let c := c.val
    let x := selChan c i.val
    let h := Map.get 0 s.held x
    let s' : State := { s with held := Map.erase s.held x }
    if h = 0 ∨ !s.chanPresent c then s
    else if s.fld (fChState c) = chReserved then s'
    else if s.chanVcIn c [2, 3, 6] then s
    else if i = 1 then s'.chAbort c
    else if s.fld (fChState c) = chIdle ∨ (s.fld (fChState c) = chActive ∧ s.bit (fRing c)) then s'.chGo c h
    else s)

/-! ## Descriptors (R388 to R392, R408) -/

/-- Address of the descriptor at INDEX. -/
def State.descAddr (s : State) (c : Nat) : Nat :=
  s.reg64 (chReg c 0x28) + 32 * ((s.fld (fRingIdx c)).toNat % 2 ^ (s.fld (fRingLog c)).toNat)

/-- The address a handle and an offset give, or none where the handle is invalid (R398, R408). -/
def State.handleAddr (s : State) (h off : Word) (count : Nat) : Option Nat :=
  let p := (bitsOf h 31 26).toNat
  let i := (bitsOf h 25 0).toNat
  if s.bit (fPoolOn p) ∧ i < s.poolCount p ∧ off.toNat + count ≤ s.poolSize p then
    some (s.reg64 (poolReg p 8) + i * s.poolSize p + off.toNat)
  else none

/-- DST_ALLOC: a handle of a pool without waiting, fresh indices joining an empty cache at once (R402, R403,
R408). An empty pool counts a failed ALLOC; a pool whose cache is empty for the moment gives none either
(log 89). -/
def State.chanAlloc (s : State) (p : Nat) : Option Word × State :=
  let x := s.pool p
  if s.poolLevel p = 0 then (none, s.poolFail p)
  else
    let s := if x.cache.isEmpty ∧ x.sp = 0 ∧ x.moving.isEmpty then s.poolFresh p else s
    match s.poolTake p with
    | some (h, s) => (some h, s)
    | none => (none, s)

/-- A descriptor the channel owns is resolved, checked and run (R389, R408). -/
def State.descRun (s : State) (c : Nat) (w : List Word) : State :=
  let ctrl := w.getD 0 0
  let cfg := w.getD 1 0
  let count := (w.getD 6 0).toNat
  let alloc := ctrl.getLsbD 26
  let got : Option Word × State := if alloc then s.chanAlloc (bitsOf ctrl 13 8).toNat else (some (w.getD 5 0), s)
  let s := got.2
  let x : ChanS := { (s.chan c) with
    cfg := cfg, count := count, ctrl := ctrl, srcHi := w.getD 3 0, dstLo := w.getD 4 0, dstHi := w.getD 5 0 }
  let fail (s : State) (x : ChanS) (r : Word) : State := (s.setChan c x).chanFinish c r count
  match got.1 with
  | none => fail s x rsAllocFail
  | some dstHi =>
    let x := { x with dstHi := dstHi }
    let plain (lo hi : Word) : Nat := lo.toNat + 2 ^ 32 * (hi.toNat % 2 ^ 16)
    let src := if ctrl.getLsbD 28 then s.handleAddr x.srcHi (w.getD 2 0) count else some (plain (w.getD 2 0) x.srcHi)
    let dst := if ctrl.getLsbD 27 ∨ alloc then s.handleAddr dstHi x.dstLo count else some (plain x.dstLo dstHi)
    match src, dst with
    | some src, some dst =>
      if (ctrl.getLsbD 25 ∧ !ctrl.getLsbD 28) ∨ !dmaOk cfg count src dst then fail s x rsCfg
      else s.chanBegin c { x with src := src, dst := dst }
    | _, _ => fail s x rsHandle

/-- DESCRIPTOR_LOAD: the channel reads the descriptor at INDEX, and goes on with its 32 bytes once they have
come (R389). A row whose access is not answered yet issues it or waits. -/
def execDescriptorLoad (c : Chan) (s : State) : Host.Outcome State Fault Refusal :=
  .next (
    let c := c.val
    if (s.chan c).phase ≠ .load then s
    else if s.fld (fChState c) = chAborting then
      (s.setFld (fChResult c) rsStopped).chanStop c (some true)
    else if s.chanVcIn c [2] then s.chanStop c none
    else match s.spanAccess c 0 (walkRead c) (s.descAddr c) 32 none with
      | .held s => s
      | .denied => (s.setFld (fChResult c) rsDescBus).chanStop c (some true)
      | .done s bs =>
        let w := wordsOf bs 8
        if (w.getD 0 0).getLsbD 31 then s.descRun c w
        else if s.bit (fGoPending c) then s.setBit (fGoPending c) false
        else (s.setBit (fRingEmpty c) true).chanStop c none)

/-- The descriptor is written back: the channel goes on or stops (R389, R390, R395, R472). -/
def State.descDone (s : State) (c : Nat) : State :=
  let x := s.chan c
  if s.fld (fChResult c) = rsDone then
    let n := 2 ^ (s.fld (fRingLog c)).toNat
    let s := s.setFld (fRingIdx c) (BitVec.ofNat 32 (((s.fld (fRingIdx c)).toNat + 1) % n))
    let s := if x.ctrl.getLsbD 30 then s.present (0x1700 + c) false x.hop else s
    if x.ctrl.getLsbD 29 then s.chanStop c none
    else if s.fld (fChState c) = chAborting then (s.setFld (fChResult c) rsStopped).chanStop c (some true)
    else if s.chanVcIn c [2] then s.chanStop c none
    else s.modChan c (fun y => { phase := .load, hop := x.hop, seq := y.seq })
  else s.chanStop c (some true)

/-- Bytes +0x10 to +0x1F of a descriptor as they are written back (R390). -/
def State.descTail (s : State) (c : Nat) : List Byte :=
  let x := s.chan c
  toBytes 4 x.dstLo.toNat ++ toBytes 4 x.dstHi.toNat ++ toBytes 4 x.count ++ toBytes 4 (s.reg (chReg c 0x20)).toNat

/-- The CTRL word of a descriptor as it is written back (R390). -/
def State.descCtrl (s : State) (c : Nat) : Word :=
  putBits (putBits (s.chan c).ctrl 31 31 0) 23 20 (s.fld (fChResult c))

/-- A failed write-back (R390). -/
def State.descBad (s : State) (c : Nat) : State := (s.setFld (fChResult c) rsDescBus).chanStop c (some true)

/-- The second step of a write-back: CTRL with OWN 0 and RESULT, then the channel goes on (R390). -/
def State.descSecond (s : State) (c : Nat) : State :=
  match s.spanAccess c 2 (walkWrite c) (s.descAddr c) 4 (some (toBytes 4 (s.descCtrl c).toNat)) with
  | .held s => s
  | .denied => s.descBad c
  | .done s _ => s.descDone c

/-- DESCRIPTOR_WRITEBACK: the first step of a write-back, and once it has been performed the second (R390). -/
def execDescriptorWriteback (c : Chan) (s : State) : Host.Outcome State Fault Refusal :=
  .next (
    let c := c.val
    if (s.chan c).phase ≠ .back then s
    else if (s.chan c).tail then s.descSecond c
    else match s.spanAccess c 1 (walkWrite c) (s.descAddr c + 16) 16 (some (s.descTail c)) with
      | .held s => s
      | .denied => s.descBad c
      | .done s _ => (s.modChan c (fun x => { x with tail := true })).descSecond c)

/-! ## The silo (R409 to R414) -/

def siloReg (off : Nat) : Nat := 0x10682000 + off
def fSiloOn : Fld := ⟨siloReg 0, 31, 31⟩
def fSiloChannel : Fld := ⟨siloReg 0, 6, 0⟩
def fTriggered : Fld := ⟨siloReg 4, 1, 1⟩
def fSiloStopped : Fld := ⟨siloReg 4, 2, 2⟩
def State.siloRing (s : State) : Nat := 2 ^ (s.fld ⟨siloReg 0, 29, 25⟩).toNat

/-- QUEUE_FULL as the queue stands. -/
def State.setSilo (s : State) (x : SiloS) : State :=
  ({ s with silo := x } : State).setBit ⟨siloReg 4, 0, 0⟩ (decide (8 ≤ x.queue.length))

/-- ENABLE becomes 1: the channel is reserved and the counts are 0 (R407, R409). The CHANNEL that s0, the
state before the write, holds decides with the one the write leaves (R22, R407). The last stamp is kept
(R412). -/
def State.siloEnable (s s0 : State) : State :=
  let c := (s.fld fSiloChannel).toNat
  if s.bit fSiloOn then s
  else if s0.mayReserve (s0.fld fSiloChannel).toNat ∧ s0.mayReserve c then
    let s := ((s.setBit fSiloOn true).reserve c).setReg (siloReg 0x10) 0
    let s := ((s.setReg (siloReg 0x14) 0).setBit fTriggered false).setBit fSiloStopped false
    s.setSilo { stamp := s.silo.stamp }
  else s.refuse .bm 0x2000

/-- ENABLE becomes 0: the channel is given back, the queue is empty, and records under way end as they are
(log 21). -/
def State.siloDisable (s : State) : State :=
  if s.bit fSiloOn then
    (((s.setBit fSiloOn false).unreserve (s.fld fSiloChannel).toNat).agentLeaves walkSilo).setSilo
      { s.silo with queue := [], writing := [] }
  else s

def execSiloEnable (who : Agent) (s : State) : Host.Outcome State Fault Refusal :=
  .next (s.atBlock who .bm 0x2000 (fun s => s.siloEnable s))

/-- The SOURCE of a put (R411). -/
def putSource (who : Agent) : Nat :=
  match who with
  | .thread gt => gt.val
  | .chan c => 0x9000 + c.val
  | _ => 0x8000

/-- A put counted as an overrun (R410, R413). -/
def State.putDropped (s : State) : State :=
  (s.countUp ⟨siloReg 0x28, 31, 16⟩).present 0x17A9 true 0

/-- LEN and the payload address of a put are valid (R410). -/
def putOk (a : Nat) (hi : Word) : Bool :=
  let len := (bitsOf hi 23 16).toNat
  len % 8 == 0 && decide (len ≤ 224) && a % 8 == 0 && (bankOf a).isSome

/-- A put (R410, R414). -/
def State.siloPut (s : State) (who : Agent) (lo hi : Word) : State :=
  let x := s.silo
  let after := s.bit fTriggered
  if s.bit fSiloOn ∧ (s.bit fSiloStopped ∨ (after ∧ x.post = 0)) then s.countUp ⟨siloReg 0x28, 15, 0⟩
  else if !s.bit fSiloOn ∨ 8 ≤ x.queue.length ∨ !putOk lo.toNat hi then s.putDropped
  else
    let p : Put := ⟨lo.toNat, hi, putSource who, s.tbPast, s.tcycle, x.seq + 1, after⟩
    s.setSilo { x with queue := x.queue ++ [p], seq := x.seq + 1, post := if after then x.post - 1 else x.post }

def execSiloPut (who : Agent) (lo hi : Word) (s : State) : Host.Outcome State Fault Refusal :=
  .next (s.atBlock who .bm 0x2020 (fun s => s.siloPut who lo hi))

/-- The TCLK cycles by which a put's stamp lies before its acceptance (R412): at most 17.5 ns, and none before
the last stamp's. -/
def State.siloLag (s : State) (p : Put) (lag : Nat) : Nat :=
  min (min lag (35 * 2 ^ 31 / max 1 s.tbIncr)) (min (p.hist.length - 1) (p.cycle - s.silo.stamp))

/-- The 256 bytes of a record (R411). -/
def siloRecord (p : Put) (t epoch : Nat) (payload : List Byte) : List Byte :=
  let ns := t / 2 ^ 32
  let len := (bitsOf p.hi 23 16).toNat
  toBytes 8 ns ++
  toBytes 4 (2 ^ 24 * len + (bitsOf p.hi 31 24).toNat * 2 ^ 16 + epoch) ++
  toBytes 4 p.seq ++
  toBytes 4 (p.source * 2 ^ 16 + (bitsOf p.hi 15 0).toNat) ++
  toBytes 4 (if p.after then 1 else 0) ++ toBytes 8 0 ++
  payload.take 224 ++ List.replicate (224 - payload.length) 0

/-- What several accesses of agent w come to. -/
def State.memList (s : State) (u : BankUser) (w : Nat) (xs : List (Nat × Nat)) : MemResult :=
  match xs with
  | [] => .done s []
  | x :: r =>
    match s.memAccess u w x.1 x.2 none with
    | .done s bs =>
      (match State.memList s u w r with
        | .done s cs => .done s (bs ++ cs)
        | y => y)
    | y => y

/-- The pieces of n bytes at a by line: first address, position and length of each. -/
def linePieces (fuel a pos n : Nat) : List (Nat × Nat × Nat) :=
  match fuel with
  | 0 => []
  | f + 1 =>
    if n = 0 then []
    else
      let k := min n (64 - a % 64)
      (a, pos, k) :: linePieces f (a + k) (pos + k) (n - k)

/-- The last put after a trigger is dealt with (R414). -/
def State.siloStopIf (s : State) (p : Put) : State :=
  if p.after ∧ s.silo.post = 0 ∧ s.silo.queue.all (fun q => !q.after) then s.setBit fSiloStopped true else s

/-- The payload of a put, by line; undefined bytes where the gleaner may not read it (log 21). -/
def State.siloPayload (s : State) (p : Put) : MemResult :=
  let n := (bitsOf p.hi 23 16).toNat
  let u := BankUser.gleaner ((s.fld fSiloChannel).toNat / 32)
  match s.memList u walkSilo ((linePieces 5 p.addr 0 n).map (fun q => (q.1, q.2.2))) with
  | .denied =>
    let q := s.freeWords 56
    .done q.2 ((q.1.flatMap (fun w => toBytes 4 w.toNat)).take n)
  | x => x

/-- Line writes of a record that are not performed yet: the lines still left, and the state after. One its
owner does not take is lost (log 21). -/
def State.siloLines (s : State) (r : SiloRec) (ls : List Nat) : List Nat × State :=
  match ls with
  | [] => ([], s)
  | i :: rest =>
    let c := (s.fld fSiloChannel).toNat
    let job := 4 * r.seq + i
    match s.spanAccess c job walkSilo (r.base + 64 * i) 64 (some ((r.data.drop (64 * i)).take 64)) with
    | .done s _ => State.siloLines s r rest
    | .denied => State.siloLines (s.chanTake c job) r rest
    | .held s =>
      match s.region r.base with
      | .system => let q := State.siloLines s r rest; (i :: q.1, q.2)
      | _ => (i :: rest, s)

/-- The records under way, the oldest first, go on: a later one writes only once the earlier ones' requests
have left (R411). -/
def State.siloGo (s : State) (rs : List SiloRec) : List SiloRec × State :=
  match rs with
  | [] => ([], s)
  | r :: rest =>
    let q := s.siloLines r r.left
    let wait : Bool := match q.2.region r.base with
      | .system => false
      | _ => !q.1.isEmpty
    if wait then ({ r with left := q.1 } :: rest, q.2)
    else let p := State.siloGo q.2 rest; ({ r with left := q.1 } :: p.1, p.2)

/-- The line writes of the silo go on. -/
def State.siloPump (s : State) : State :=
  let q := s.siloGo s.silo.writing
  q.2.setSilo { q.2.silo with writing := q.1 }

/-- A put becomes a record whose line writes begin: WRITE_COUNT advances and the put leaves the queue (R411). -/
def State.siloTaken (s : State) (p : Put) (rest : List Put) (lag : Nat) (payload : List Byte) : State :=
  let wr := s.reg (siloReg 0x10)
  let l := s.siloLag p lag
  let t := p.hist.getD l (0, 0)
  let entry : SiloRec := ⟨p.seq, s.reg64 (siloReg 8) + 256 * (wr.toNat % s.siloRing), siloRecord p t.1 t.2 payload,
    [0, 1, 2, 3]⟩
  let s := s.setReg (siloReg 0x10) (wr + 1)
  (s.setSilo { s.silo with
    queue := rest, writing := s.silo.writing ++ [entry], stamp := p.cycle - l }).siloStopIf p

/-- SILO_RECORD_WRITE: the oldest put is stamped and becomes a record, or is dropped by a full ring
(R411 to R413). A payload the silo may not read leaves open values (log 21). -/
def State.siloWrite (s : State) (lag : Nat) : State :=
  match s.silo.queue with
  | [] => s.siloPump
  | p :: rest =>
    let wr := s.reg (siloReg 0x10)
    if !s.bit ⟨siloReg 0, 30, 30⟩ ∧ (wr - s.reg (siloReg 0x14)).toNat = s.siloRing then
      ((s.setSilo { s.silo with queue := rest }).putDropped).siloStopIf p
    else match s.siloPayload p with
      | .held s => s
      | .denied => s
      | .done s payload => (s.siloTaken p rest lag payload).siloPump

def execSiloRecordWrite (lag : BitVec 3) (s : State) : Host.Outcome State Fault Refusal :=
  .next (if s.powered 45 then s.siloWrite lag.toNat else s)

/-- SILO_RECORD_DONE: the oldest record whose line writes are all performed (R411). -/
def execSiloRecordDone (s : State) : Host.Outcome State Fault Refusal :=
  .next (
    let s := s.siloPump
    match s.silo.writing with
    | [] => s
    | q :: r =>
      if q.left.isEmpty then
        ((s.setSilo { s.silo with writing := r }).setReg (siloReg 0x2C) (BitVec.ofNat 32 q.seq)).present 0x17A9 false 0
      else s)

/-- TRIGGER (R414). -/
def State.siloTrigger (s : State) : State :=
  if s.bit fSiloOn ∧ !s.bit fTriggered then
    let post := (s.fld ⟨siloReg 0, 23, 8⟩).toNat
    let s := (s.setBit fTriggered true).setReg (siloReg 0x18) (s.reg (siloReg 0x10))
    let s := s.setSilo { s.silo with post := post }
    if post = 0 then s.setBit fSiloStopped true else s
  else s

/-- REARM (R409). -/
def State.siloRearm (s : State) : State := (s.setBit fTriggered false).setBit fSiloStopped false

/-- A write of SILO_CMD. -/
def State.writeSiloCmd (s : State) (data : Word) : State :=
  let s := if data.getLsbD 0 then s.siloTrigger else s
  if data.getLsbD 1 then s.siloRearm else s

def execSiloTrigger (who : Agent) (s : State) : Host.Outcome State Fault Refusal :=
  .next (s.atBlock who .bm 0x201C (fun s => s.siloTrigger))
def execSiloRearm (who : Agent) (s : State) : Host.Outcome State Fault Refusal :=
  .next (s.atBlock who .bm 0x201C (fun s => s.siloRearm))

/-! ## The bulk port (R415 to R421) -/

def bulkReg (k off : Nat) : Nat := 0x10E00100 + 0x20 * k + off
def fBulkAddr (k : Nat) : Fld := ⟨bulkReg k 0, 27, 0⟩
def fPrefetch (k : Nat) : Fld := ⟨bulkReg k 4, 0, 0⟩
def fBulkErr (k : Nat) : Fld := ⟨bulkReg k 8, 3, 3⟩
def fBulkBusy (k : Nat) : Fld := ⟨bulkReg k 8, 2, 2⟩

def State.bulk (s : State) (k : Nat) : BulkS := Map.get {} s.bulks k

/-- PREFETCHED and PENDING follow what the context holds. -/
def State.setBulk (s : State) (k : Nat) (x : BulkS) : State :=
  let s : State := { s with bulks := Map.set {} s.bulks k x }
  (s.setBit ⟨bulkReg k 8, 1, 1⟩ (!x.pre.isEmpty)).setBit ⟨bulkReg k 8, 0, 0⟩ (!x.posted.isEmpty)

/-- Prefetched data are discarded (R419). -/
def State.bulkDrop (s : State) (k : Nat) : State := s.setBulk k { s.bulk k with pre := [] }

/-- Byte a may be reached by context k (R417). -/
def State.bulkByteOk (s : State) (k a : Nat) : Bool :=
  let real := if a < 0x4000000 then a else if a < 0x8000000 then a - 0x4000000 else a - 0x8000000
  decide (a < 0xC000000) &&
  (k == 64 || (decide ((s.reg (bulkReg k 0x10)).toNat ≤ a) && decide (a ≤ (s.reg (bulkReg k 0x14)).toNat))) &&
  (match bankOf real with
    | some g => s.bankServes g .bulk
    | none => false)

/-- The first of n bytes at a that the context may not reach. -/
def State.bulkBad (s : State) (k a n : Nat) : Option Nat :=
  ((List.range n).map (fun i => a + i)).find? (fun b => !s.bulkByteOk k b)

/-- Some byte of the range lies in the bins. -/
def touchesBins (a n : Nat) : Bool :=
  (linePieces 70 a 0 n).any (fun p => decide (p.1 % 0x4000000 < 0x800000))

/-- Bin accesses met BUSY n times and are retried (R421). -/
def State.bulkBusyHits (s : State) (k n : Nat) : State :=
  if n = 0 then s
  else
    let x : Fld := ⟨bulkReg k 0x18, 31, 0⟩
    (s.setBit (fBulkBusy k) true).setFld x (BitVec.ofNat 32 (min 0xFFFFFFFF ((s.fld x).toNat + n)))

/-- BUSY retries of an access of n bytes at a, where it touches the bins. -/
def binBusy (a n : Nat) (busy : BitVec 8) : Nat := if touchesBins a n then busy.toNat else 0

/-- `HTP_BULK_BUSY` (R574). -/
def State.bulkBusyLevel (s : State) : Bool := (List.range 65).any (fun k => s.bit (fBulkBusy k))

/-- Context k holds a burst buffer. -/
def BulkS.holds (x : BulkS) : Bool := !x.posted.isEmpty || !x.pre.isEmpty

/-- A burst buffer for the context: its own, a free one, or one that holds another's prefetched data,
which is discarded; none while both hold others' posted writes, or while a context that came before waits
(R419, R420). -/
def State.bulkBuffer (s : State) (k : Nat) : Option State :=
  let others := s.bulks.filter (fun p => p.1 != k && p.2.holds)
  let s' : State := { s with bulkWait := s.bulkWait.filter (fun j => j != k) }
  if (s.bulk k).holds then some s
  else if !(s.bulkWait.isEmpty || s.bulkWait.head? == some k) then none
  else if others.length < 2 then some s'
  else match others.find? (fun p => p.2.posted.isEmpty) with
    | some p => some (s'.bulkDrop p.1)
    | none => none

/-- The context's data window is held back: it waits for a buffer (R420). -/
def State.bulkHold (s : State) (k : Nat) : State :=
  if s.bulkWait.contains k then s else { s with bulkWait := s.bulkWait ++ [k] }

/-- Read n bytes at a, line by line. -/
def State.bulkRead (s : State) (k a n : Nat) : MemResult :=
  s.memList .bulk (walkBulk k) ((linePieces 70 a 0 n).map (fun p => (p.1, p.2.2)))

/-- The bytes of the pieces as far as they can be read at once. -/
def State.readSome (s : State) (w : Nat) (ps : List (Nat × Nat × Nat)) : State × List Byte :=
  match ps with
  | [] => (s, [])
  | p :: r =>
    match s.memAccess .bulk w p.1 p.2.2 none with
    | .done s bs => let q := State.readSome s w r; (q.1, bs ++ q.2)
    | _ => (s, [])

/-- Reading ahead from a: up to 4 KiB that the context may reach and that can be read (R419). -/
def State.bulkAhead (s : State) (k a : Nat) (busy : BitVec 8) : State :=
  let n := match s.bulkBad k a 4096 with
    | some b => b - a
    | none => 4096
  let q := s.readSome (walkBulk k) (linePieces 70 a 0 n)
  (q.1.setBulk k { q.1.bulk k with pre := q.2, preAt := a }).bulkBusyHits k (binBusy a q.2.length busy)

/-- ADDR after a beat of n bytes at a. -/
def State.bulkNext (s : State) (k a n : Nat) : State := s.setFld (fBulkAddr k) (BitVec.ofNat 32 (a + n))

/-- A beat read from its banks: its answer carries the BUSY flag of R574 as a last byte. -/
def State.bulkFetch (s : State) (k a n : Nat) (beat : Beat) (after : State → State) : State :=
  match s.bulkRead k a n with
  | .held s => s
  | .denied => s
  | .done s bs =>
    let b := binBusy a n beat.busy
    after (((s.bulkBusyHits k b).bulkNext k a n).answer (bs ++ [if b = 0 then 0 else 1]))

/-- A read beat (R416, R419, R420). Data prefetched from elsewhere do not serve it. -/
def State.bulkReadBeat (s : State) (k a n : Nat) (beat : Beat) : State :=
  let x := s.bulk k
  if !s.bit (fPrefetch k) then s.bulkFetch k a n beat id
  else if x.preAt = a ∧ n ≤ x.pre.length then
    ((s.setBulk k { x with pre := x.pre.drop n, preAt := a + n }).bulkNext k a n).answer (x.pre.take n ++ [0])
  else match s.bulkBuffer k with
    | some s => s.bulkFetch k a n beat (fun s => s.bulkAhead k (a + n) beat.ahead)
    | none => s.bulkHold k

/-- A write beat is accepted into a burst buffer of 4 KiB, or held back (R49, R418, R420). -/
def State.bulkWriteBeat (s : State) (k a : Nat) (bs : List Byte) : State :=
  match s.bulkBuffer k with
  | none => s.bulkHold k
  | some s =>
    let x := s.bulk k
    if 4096 < (x.posted.map (fun w => w.2.length)).sum + bs.length then s
    else ((s.setBulk k { x with posted := x.posted ++ [(a, bs)], pre := [] }).bulkNext k a bs.length).answer []

/-- An error response to a beat. -/
def State.bulkError (s : State) : State :=
  { s with answers := s.answers ++ [(s.reqCtr, none)], reqCtr := s.reqCtr + 1 }

/-- The first beat of a burst that fails (R417). -/
def State.bulkFail (s : State) (k b : Nat) : State :=
  let s := (s.setBit (fBulkErr k) true).setReg (bulkReg k 0xC) (BitVec.ofNat 32 b)
  ((s.setFld (fBulkAddr k) (BitVec.ofNat 32 b)).setBulk k { s.bulk k with bad := true }).bulkError

/-- Some bank the beat touches is being drained for a new owner: the beat waits (R305). -/
def State.bulkDraining (s : State) (a n : Nat) : Bool :=
  (linePieces 70 a 0 n).any (fun p => match bankOf (p.1 % 0x4000000) with
    | some g => s.bit (fDraining g)
    | none => false)

/-- Reset values of a context's ADDR, CTL and STATUS, once its posted writes are performed (R460). -/
def State.bulkSettle (s : State) (k : Nat) : State :=
  let x := s.bulk k
  if x.rst && x.posted.isEmpty then (s.resetRange (bulkReg k 0) (bulkReg k 0xC)).setBulk k { x with rst := false } else s

/-- BULK_WINDOW_ACCESS: one beat at the data window of context k (R416 to R420). After a beat that failed,
the later beats of its burst are not performed. -/
def State.bulkAccess (s : State) (k : Nat) (acc : HostAccess) (beat : Beat) : State :=
  let a := (s.fld (fBulkAddr k)).toNat
  let f := accessForm acc
  if beat.cont ∧ (s.bulk k).bad then s.bulkError
  else
    let s := if (s.bulk k).bad then s.setBulk k { s.bulk k with bad := false } else s
    match s.bulkBad k a f.1 with
    | some b => s.bulkFail k b
    | none =>
      if s.bulkDraining a f.1 ∨ (s.bulk k).rst then s
      else match f.2 with
        | none => s.bulkReadBeat k a f.1 beat
        | some bs => s.bulkWriteBeat k a bs

def execBulkWindowAccess (k : Fin 65) (acc : HostAccess) (beat : Beat) (s : State) :
    Host.Outcome State Fault Refusal :=
  .next (s.bulkAccess k.val acc beat)

/-- A write of BULK_ADDR; an address at or above 0x0C00_0000 is refused (R415, R419). -/
def State.writeBulkAddr (s : State) (k : Nat) (data : Word) : State :=
  let a := bitsOf data 27 0
  if a.toNat < 0xC000000 then (s.bulkDrop k).setFld (fBulkAddr k) a
  else s.refuse .hv (0x100 + 0x20 * k)

def execBulkAddrWrite (k : Fin 65) (data : Word) (s : State) : Host.Outcome State Fault Refusal :=
  .next (s.writeBulkAddr k.val data)

/-- Reads of a context's BULK_STATUS and BULK_ADDR return once no earlier write is pending (R418). -/
def State.bulkReads (s : State) (k : Nat) : State :=
  let x := s.bulk k
  if x.posted.isEmpty then
    x.reads.foldl (fun s r => s.deliver r.1 (toBytes 4 (s.reg r.2).toNat)) (s.setBulk k { x with reads := [] })
  else s

/-- A read of BULK_STATUS (offset 8) or BULK_ADDR (offset 0) of context k. -/
def State.bulkRegRead (s : State) (k off : Nat) (ref : ReqRef) : State :=
  (s.setBulk k { s.bulk k with reads := (s.bulk k).reads ++ [(ref, bulkReg k off)] }).bulkReads k

def execBulkStatusRead (k : Fin 65) (addr : Bool) (s : State) : Host.Outcome State Fault Refusal :=
  .next (({ s with reqCtr := s.reqCtr + 1 } : State).bulkRegRead k.val (if addr then 0 else 8) (.host s.reqCtr))

/-- A line of a posted write is performed, or held back: it was judged when it was accepted, and is its old
owner's where the bank has changed hands since (R304, R305, R418). -/
def State.postedLine (s : State) (k a : Nat) (bs : List Byte) : Bool × State :=
  let act : MemAct := if a < 0x4000000 then .write bs else if a < 0x8000000 then .setBits bs else .clrBits bs
  let x := a % 0x4000000
  let put (s : State) : State := s.bankWrite x (act.apply (s.bytes x bs.length))
  if x < 0x800000 then (true, put s)
  else
    let p := s.agentTurn (walkBulk k) (lineOf x) true
    if p.1 then (true, (put p.2).home [lineOf x]) else (false, p.2)

/-- The oldest posted write of a context, line by line: a line that is held keeps it and what follows. -/
def State.postedPerform (s : State) (k a : Nat) (bs : List Byte) (r : List (Nat × List Byte))
    (ps : List (Nat × Nat × Nat)) : State :=
  match ps with
  | [] => ((s.setBulk k { s.bulk k with posted := r }).bulkReads k).bulkSettle k
  | p :: more =>
    let q := s.postedLine k p.1 ((bs.drop p.2.1).take p.2.2)
    if q.1 then
      let rest := bs.drop (p.2.1 + p.2.2)
      let s := q.2.setBulk k { q.2.bulk k with posted := (p.1 + p.2.2, rest) :: r }
      State.postedPerform s k a bs r more
    else q.2

/-- BULK_WRITE_PERFORM: the oldest posted write of the context is performed as line writes; one whose next
line meets BUSY stays for a retry (R418, R421). -/
def execBulkWritePerform (k : Fin 65) (clash : Bool) (s : State) : Host.Outcome State Fault Refusal :=
  .next (
    let k := k.val
    match (s.bulk k).posted with
    | [] => s
    | (a, bs) :: r =>
      if clash ∧ touchesBins a (min bs.length 1) then s.bulkBusyHits k 1
      else s.postedPerform k a bs r (linePieces 70 a 0 bs.length))

end Sys2Proof.Machine
end

