-- ==== Sys2Proof/Machine/Units.lean ====
section
/-!
DEFINITION. Stopping and resetting units: what STOP, a virtual complex reset, LIMP, SERVICE, DORMANT
and warm reset share (R76, R113, R229, R460); fault collection, fences and the entry into LIMP (R446,
R520, R521, R527 to R533).
-/
namespace Sys2Proof.Machine

/-! ## Threads -/

def allThreads : List Nat := List.range 2048

/-- A thread stops as STOP stops it (R76). -/
def State.stopFully (s : State) (gt : Nat) : State :=
  if s.fld (fState gt) = stIdle then s else s.stopNow gt

/-- Clear g1 to g31, FLAGS and VALID of the first n descriptors of a thread (R113). -/
def State.clearContext (s : State) (gt n : Nat) : State :=
  let s := s.modThread gt (fun t => { t with g := [], fn := false, fz := false, fc := false, fv := false })
  (List.range n).foldl (fun s i => s.setBit ⟨tSeg gt i 0xC, 0, 0⟩ false) s

/-! ## Bays and lanes -/

/-- Every sequencer of a bay stops at its stop point. -/
def State.bayStop (s : State) (n : Nat) : State := (List.range 8).foldl (fun s k => s.seqCmdStop n k) s

/-- A bay's edge queue is emptied, its credits returned. -/
def State.bayEmpty (s : State) (n : Nat) : State :=
  (s.sendCredit (edgeKey n) (s.edgeQ n).length).setEdgeQ n []

/-- A lane is static at its safe state: DRIVER 0x9, STATIC_OUT and STATIC_OE from SAFE (R460). -/
def State.laneStatic (s : State) (l : Nat) : State :=
  let v := safePair (s.fld (fSafe l))
  (((s.setFld (fDriver l) 9).setBit (fStaticOut l) v.1).setBit (fStaticOe l) v.2).laneShow l (s.untimedAt (l / 32))

/-- The lanes of a bay. -/
def bayLanes (n : Nat) : List Nat := (List.range 32).map (fun j => 32 * n + j)

/-! ## Rename mode (R496) -/

def fRenameEnable (n : Nat) : Fld := ⟨0x10100080 + n * 0x10000, 8, 8⟩
def fRenameActive (n : Nat) : Fld := ⟨0x10100084 + n * 0x10000, 0, 0⟩

/-- A core leaves rename mode: the thread is IDLE, and every general register of the core is zero.
The 64 cycles of the clearing pass within the step (log 7). -/
def State.renameLeave (s : State) (n : Nat) : State :=
  if s.bit (fRenameEnable n) ∨ s.renaming n then
    let s := (s.stopFully (64 * n + s.renameThread n)).setBit (fRenameEnable n) false
    let s := s.setBit (fRenameActive n) false
    (List.range 64).foldl (fun s t => s.modThread (64 * n + t) (fun x => { x with g := [] })) s
  else s

/-! ## A core is taken away (R520) -/

/-- Forget core c as a holder of a line, or as one whose answer a transaction awaits; a transaction
of its own ends, and a recall on its account has nobody to give its way to. -/
def State.dropHolder (s : State) (c line : Nat) : State :=
  match s.dentry line with
  | none => s
  | some e =>
    let held := e.sharers.contains c
    let e1 := { e with sharers := e.sharers.filter (fun x => x != c), excl := e.excl && !held }
    match e.txn with
    | none => if held then (s.closeEntry line e1).home [line] else s
    | some t =>
      if t.req = c ∧ t.kind ≠ .access ∧ t.kind ≠ .recall then (s.closeEntry line e1).home [line]
      else
        let next := t.next.filter (fun n => n.1 != c)
        let t1 := { t with wait := t.wait.filter (fun x => x != c), next := next }
        (s.setDentry line (some { e1 with txn := some t1 })).home [line]

/-- The directory treats every line core c held as INVALID in it; what it held MODIFIED is lost. -/
def State.dropCaches (s : State) (c : Nat) : State :=
  let s := { s with
    caches := s.caches.filter (fun p => p.1 / 2 ^ 42 != c)
    coh := s.coh.filter (fun m => m.c != c)
    creq := s.creq.filter (fun r => r.1 != c)
    homeQ := s.homeQ.filter (fun q => match q with
      | .cache k _ _ => k != c
      | _ => true)
    dwait := s.dwait.filter (fun p => p.1 != c)
    promises := s.promises.filter (fun p => p.2.1 != c)
    flush := Map.erase s.flush c
    icache := Map.erase s.icache c }
  (s.dir.map (fun p => p.1)).foldl (fun s line => s.dropHolder c line) s

/-- A fenced core (R520, step 1). -/
def State.dropCore (s : State) (n : Nat) : State :=
  let s := (List.range 64).foldl (fun s t => s.stopFully (64 * n + t)) s
  let s := s.renameLeave n
  let s := (List.range 4).foldl (fun s b =>
    let g := 4 * n + b
    let s := ((s.setFld (fOwnerKind g) 0).setFld (fPower g) psOff).setFld (fPstate g) psOff
    { (s.loseBank g) with offBanks := g :: s.offBanks.filter (fun x => x != g) }) s
  (s.dropCaches n).setBit ⟨0x10900018, n, n⟩ false

/-! ## Modes and clocks (R515 to R521) -/

def modeReg (off : Nat) : Nat := 0x10900000 + off
def fModeBusy : Fld := ⟨modeReg 4, 4, 4⟩
def fCclk : Fld := ⟨0x10000108, 15, 0⟩
def fPclk (q : Nat) : Fld := ⟨0x1000010C, 8 * q + 7, 8 * q⟩

/-- The mode becomes m, with no transition under way, and MODE_CHANGED is presented. -/
def State.setMode (s : State) (m : Word) : State :=
  let s := (s.setFld fMode m).setBit fModeBusy false
  ({ s with mode := { s.mode with goal := none, clocks := [] } } : State).present 0x17AE false 0

/-- Clock changes are requested: every core stops issuing, and each deterministic thread that is READY
or WAIT counts one contract break (R521). -/
def State.askClocks (s : State) (cs : List (Nat × Nat)) (goal : Nat) : State :=
  let s := s.setBit fModeBusy true
  let s := { s with mode := { s.mode with goal := some goal, clocks := cs } }
  allThreads.foldl (fun s gt =>
    let st := s.fld (fState gt)
    if s.det gt ∧ (st = stReady ∨ st = stWait) then (s.contractBreak gt none).atBoundary gt else s) s

/-- A mode is entered, by way of a change to a CCLK where that differs. -/
def State.modeAtCclk (s : State) (m : Word) (mhz : Word) : State :=
  if s.fld fCclk = mhz then s.setMode m else s.askClocks [(0, mhz.toNat)] m.toNat

/-! ## Fault collection and LIMP (R520, R527 to R529) -/

def fFenced (n : Nat) : Fld := ⟨0x10808008, n, n⟩
def fSafeCause : Fld := ⟨0x10808000, 31, 24⟩
def fPwrLost : Fld := ⟨0x10808000, 2, 2⟩
def fLimpBay (n : Nat) : Fld := ⟨modeReg 0x30, n, n⟩
def fLimpThread (gt : Nat) : Fld := ⟨modeReg (0x100 + 4 * (gt / 32)), gt % 32, gt % 32⟩

/-- A bay that does not run on in LIMP (R520, step 3). -/
def State.bayLimp (s : State) (n : Nat) : State :=
  (bayLanes n).foldl (fun s l => s.laneStatic l) ((s.bayStop n).bayEmpty n)

/-- Fenced cores whose power is still requested are taken away, and their bays stop. -/
def State.dropFenced (s : State) : State :=
  (List.range 32).foldl (fun s n =>
    if s.bit (fFenced n) && (s.reg (modeReg 0x18)).getLsbD n then (s.dropCore n).bayLimp n else s) s

/-- The entry into LIMP (R520). -/
def State.enterLimp (s : State) : State :=
  let s := s.dropFenced
  let s := allThreads.foldl (fun s gt => if s.bit (fLimpThread gt) then s else s.stopFully gt) s
  let s := (List.range 32).foldl (fun s n => if s.bit (fLimpBay n) then s else s.bayLimp n) s
  s.modeAtCclk modeLimp (s.fld ⟨modeReg 0x10, 31, 16⟩)

/-- A fence or FAULT_SAFE takes RUN to LIMP; during a clock change, when that ends (R517). -/
def State.limpIfDue (s : State) : State :=
  if s.fld fMode = modeRun ∧ !s.bit fModeBusy ∧ (s.bit fFaultSafe ∨ s.reg 0x10808008 ≠ 0) then s.enterLimp
  else s

/-- FAULT_SAFE is asserted with a cause (R528, R529). -/
def State.faultSafe (s : State) (cause : Word) : State :=
  let s := s.setBit fFaultSafe true
  let s := if s.fld fSafeCause = 0 then s.setFld fSafeCause cause else s
  s.limpIfDue

/-- Cores are fenced (R444, R520, R528). -/
def State.fence1 (s : State) (ns : List Nat) : State :=
  let s := ns.foldl (fun s n => if s.bit (fFenced n) then s else (s.setBit (fFenced n) true).faultMinor) s
  if s.fld fMode = modeLimp ∧ !s.bit fModeBusy then s.dropFenced else s.limpIfDue

/-- The clock change ends, and the mode it led to is entered; a fence or FAULT_SAFE that fell due
meanwhile is taken (R517, R520, R521). -/
def State.clocksDone (s : State) : State :=
  match s.mode.goal with
  | some 0 =>
    (({ s with mode := { s.mode with goal := none, clocks := [] } } : State).setBit fModeBusy false).limpIfDue
  | some 4 => (s.setMode modeLimp).dropFenced
  | some 3 => (s.setMode modeRun).limpIfDue
  | _ => s

/-- The clock of a number takes a value (R160). -/
def State.setClock (s : State) (i v : Nat) : State :=
  if i = 0 then s.setFld fCclk (BitVec.ofNat 32 v) else s.setFld (fPclk (i - 1)) (BitVec.ofNat 32 v)

/-- CLK_ACK: a clock's handshake is answered; after the last, FEAT2 and FEAT3 take the new values.
Clock 0 is CCLK, clock q + 1 is PCLKq. -/
def execClkAck (i : Fin 5) (s : State) : Host.Outcome State Fault Refusal :=
  .next (
    let cs := s.mode.clocks.map (fun c => if c.1 = i.val then (c.1 + 8, c.2) else c)
    if cs = s.mode.clocks then s
    else if cs.all (fun c => decide (8 ≤ c.1)) then
      (cs.foldl (fun s c => s.setClock (c.1 - 8) c.2) s).clocksDone
    else { s with mode := { s.mode with clocks := cs } })

end Sys2Proof.Machine
end

