-- ==== Sys2Proof/Machine/Twins.lean ====
section
/-!
DEFINITION. Twin pairs and the winnower (R422 to R450): seeding, windows and their comparison, the
injection tests, the automatic sequence after a mismatch, and the break.
-/
namespace Sys2Proof.Machine

def twOff : Word := 0
def twRunning : Word := 1
def twStopped : Word := 2
def twSelftest : Word := 3
def twRerun : Word := 4
def twBroken : Word := 5

def State.twinPrimary (s : State) (p : Nat) : Nat := (s.fld ⟨twinReg p 0, 10, 0⟩).toNat
def State.twinShadow (s : State) (p : Nat) : Nat := (s.fld ⟨twinReg p 0, 26, 16⟩).toNat
def fBroken' (p : Nat) : Fld := ⟨twinReg p 0x10, 3, 3⟩
def fDecision (p : Nat) : Fld := ⟨twinReg p 0x10, 11, 8⟩
def fUnitOk (u : Nat) : Fld := ⟨0x10800000, 8 + u, 8 + u⟩
def fInjectBusy : Fld := ⟨0x10800004, 31, 31⟩

/-! ## Seeding (R424, R425) -/

/-- Where a descriptor's range lies: 0 and 1 the bins and the granary, 2 and 3 their set aliases, 4
and 5 their clear aliases; none elsewhere. -/
def mirrorKind (d : Desc) : Option Nat :=
  let w := d.base / 0x4000000
  let a := d.base % 0x4000000
  if 3 ≤ w then none
  else match spanRegion a (d.limit + 1) with
    | some 0 => some (2 * w)
    | some 1 => some (2 * w + 1)
    | _ => none

/-- The descriptors of a primary and its shadow fit (R424). -/
def descPair (x y : Desc) : Bool :=
  x.valid == y.valid && x.limit == y.limit && x.r == y.r && x.w == y.w && x.x == y.x && x.lead == y.lead &&
  (!x.valid ||
    (match mirrorKind x with
      | some k =>
        mirrorKind y == some k && (decide (x.base + x.limit < y.base) || decide (y.base + y.limit < x.base))
      | none => x.base == y.base))

/-- The thread is named by another pair that is not OFF. -/
def State.inOtherPair (s : State) (p gt : Nat) : Bool :=
  (List.range 256).any (fun q => q != p && s.fld (fTwinState q) != twOff &&
    (s.twinPrimary q == gt || s.twinShadow q == gt))

/-- The conditions of R424. -/
def State.maySeed (s : State) (p : Nat) : Bool :=
  let a := s.twinPrimary p
  let b := s.twinShadow p
  let st := s.fld (fTwinState p)
  (st == twOff || st == twBroken) && a != b &&
  [a, b].all (fun gt => s.corePresent (gt / 64) && s.fld (fState gt) == stIdle &&
    !s.inOtherPair p gt && s.fld (fHen gt) == 0) &&
  s.reg (tReg a 0x10) == s.reg (tReg b 0x10) && s.reg (tCfg a 4) == s.reg (tCfg b 4) &&
  s.reg (tCfg a 0) == s.reg (tCfg b 0) &&
  (List.range 8).all (fun i => descPair (s.desc a i) (s.desc b i)) &&
  (List.range 8).any (fun u => s.bit (fUnitOk u))

/-- A member begins: it starts at TWIN_ENTRY with an empty window (R425, R435). -/
def State.seedMember (s : State) (p gt : Nat) (shadow : Bool) : State :=
  let s := (s.setReg (tReg gt 8) (s.reg (twinReg p 8))).startThread gt
  s.modThread gt (fun t =>
    ({ t with
      twin := some (p, shadow), sig := if shadow then 0 else 0xFFFFFFFF
      winInstr := 0, winBytes := 0, winSeq := 0, winEnd := false } : Thread).setFlags ⟨false, false, false, false⟩)

/-- The complement of each of a primary's general registers goes to its shadow. -/
def copyComplement (g : Map Word) : Map Word :=
  (List.range 32).foldl (fun m r => if r = 0 then m else Map.set 0 m r (~~~ (Map.get 0 g r))) []

/-- A pair is seeded, for RUNNING or a rerun. START leaves FLAGS clear in both (R112). -/
def State.seed (s : State) (p : Nat) (rerun : Bool) : State :=
  let a := s.twinPrimary p
  let b := s.twinShadow p
  let s := if rerun then s
    else s.modThread b (fun t => { t with g := copyComplement (s.thread a).g })
  let q := s.pair p
  let n := (s.fld ⟨twinReg p 4, 19, 16⟩).toNat
  let s := s.modPair p (fun _ => if rerun then { q with agreed := [], repP := [], repS := [], rerun := n } else {})
  let s := ((s.setReg (twinReg p 0x14) 0).setBit (fBroken' p) false).setBit (fAgreeLate p) false
  let s := s.setFld (fTwinState p) (if rerun then twRerun else twRunning)
  (s.seedMember p a false).seedMember p b true

/-- `TWIN_CMD.SEED`. -/
def State.twinSeed (s : State) (p : Nat) : State :=
  if s.maySeed p then s.seed p false else s.refuse .win (0x100C + 0x40 * p)

def execTwinSeed (who : Agent) (p : Fin 256) (s : State) : Host.Outcome State Fault Refusal :=
  .next (s.atBlock who .win (0x100C + 0x40 * p.val) (fun s => if s.twinFeat then s.twinSeed p.val else s))

/-! ## Membership (R422, R447) -/

/-- The members of a pair are its twin members no more; what a window of theirs had come to is gone. -/
def State.unmember (s : State) (p : Nat) : State :=
  { s with threads := s.threads.map (fun x =>
      (x.1, match x.2.twin with
        | some (q, _) => if q = p then { x.2 with twin := none, winEnd := false } else x.2
        | none => x.2)) }

/-- The thread that a pair names is its member, unless it is another pair's. -/
def State.joinPair (s : State) (p gt : Nat) (shadow : Bool) : State :=
  s.modThread gt (fun t => if t.twin.isSome then t else { t with twin := some (p, shadow) })

/-- The members of a stopped pair follow TWIN_MEMBERS (R422). -/
def State.memberChange (s : State) (p : Nat) : State :=
  ((s.unmember p).joinPair p (s.twinPrimary p) false).joinPair p (s.twinShadow p) true

/-! ## The break (R447) -/

/-- A core that failed its self-test for a pair whose sequence ends before the other core's is known is
decided for itself alone (R444, R447; log 31). -/
def State.halfDecision (s : State) (p : Nat) : State :=
  match (s.pair p).coreP, (s.pair p).coreS with
  | some false, none => s.fence1 [s.twinPrimary p / 64]
  | none, some false => s.fence1 [s.twinShadow p / 64]
  | _, _ => s

/-- A pair that is neither OFF nor BROKEN breaks. -/
def State.twinBreak (s : State) (p : Nat) : State :=
  let st := s.fld (fTwinState p)
  if st = twOff ∨ st = twBroken then s
  else
    let s := (s.setBit (fBroken' p) true).setFld (fTwinState p) twBroken
    let s := if st = twSelftest then s.halfDecision p else s
    let s := (s.modPair p (fun _ => {})).unmember p
    let b := s.twinShadow p
    let t := s.fld (fState b)
    let s := if t = stReady ∨ t = stWait then s.cmdHalt b 0 true else s
    s.faultMinor

def execTwinBreak (who : Agent) (p : Fin 256) (s : State) : Host.Outcome State Fault Refusal :=
  .next (s.atBlock who .win (0x100C + 0x40 * p.val) (fun s => if s.twinFeat then s.twinBreak p.val else s))

/-- A write of TWIN_CMD: SEED, then BREAK. -/
def State.writeTwinCmd (s : State) (p : Nat) (data : Word) : State :=
  let s := if data.getLsbD 0 then s.twinSeed p else s
  if data.getLsbD 1 then s.twinBreak p else s

/-! ## Windows (R435, R436) -/

/-- WINDOW_END: the report goes to the member's queue of two, or the member waits at the boundary, where it
counts one contract break that no instruction made; with TRAP set its fault follows the wait (R95, R436). -/
def execWindowEnd (gt : GT) (s : State) : Host.Outcome State Fault Refusal :=
  .next (
    let gt := gt.val
    let t := s.thread gt
    match t.twin with
    | none => s
    | some (p, b) =>
      if !t.winEnd || !t.boundary || t.raised.isSome then s
      else
        let q := s.pair p
        if 2 ≤ (if b then q.repS else q.repP).length then s.holdBreak gt
        else
          let r : Report := ⟨t.sig, t.winBytes, t.winInstr, t.winSeq⟩
          let s := s.modPair p (fun q => if b then { q with repS := q.repS ++ [r] } else { q with repP := q.repP ++ [r] })
          let stall := t.held && s.det gt && s.bit (fTrap gt) && t.broke.isNone
          (s.modThread gt (fun t => { t with
            sig := if b then 0 else 0xFFFFFFFF
            winInstr := 0, winBytes := 0, winSeq := (t.winSeq + 1) % 2 ^ 16, winEnd := false, held := false
            broke := if stall then some none else t.broke })).atBoundary gt)

/-! ## Injection tests (R440, R441) -/

/-- An automatic sequence tests unit u. -/
def Pair.testing (q : Pair) (u : Nat) : Bool :=
  q.coreP == some true && q.coreS == some true && q.unit.isNone && q.served == u

/-- The unit is under an injection test. -/
def State.unitBusy (s : State) (u : Nat) : Bool :=
  s.inject == some u || s.pairs.any (fun x => s.fld (fTwinState x.1) == twSelftest && x.2.testing u)

/-- The unit that serves pair p (R439). -/
def State.serveUnit (s : State) (p : Nat) : Option Nat :=
  ((List.range 8).map (fun i => (p + i) % 8)).find? (fun u => s.bit (fUnitOk u) && !s.unitBusy u)

/-- The result of a unit's test (R441). -/
def State.unitResult (s : State) (u : Nat) (pass : Bool) : State :=
  let s := s.setBit (fUnitOk u) pass
  if pass then s else (s.present 0x17AB true 0).faultMinor

/-- `WIN_INJECT.UNIT`. -/
def fInjectUnit : Fld := ⟨0x10800004, 10, 8⟩

/-- `WIN_INJECT.GO`: the unit that UNIT names is tested. -/
def State.winInject (s : State) : State :=
  if s.bit fInjectBusy then s.refuse .win 4
  else ({ s with inject := some (s.fld fInjectUnit).toNat } : State).setBit fInjectBusy true

/-- WIN_INJECT_GO: one write of UNIT and GO. -/
def execWinInjectGo (who : Agent) (u : Fin 8) (s : State) : Host.Outcome State Fault Refusal :=
  .next (s.atBlock who .win 4 (fun s =>
    if s.twinFeat then (s.setFld fInjectUnit (BitVec.ofNat 32 u.val)).winInject else s))

/-! ## After a mismatch (R442 to R446) -/

/-- A member stops: at its next boundary, or at once where it stands at one. -/
def State.stopMember (s : State) (gt : Nat) (detail : Byte) : State :=
  let st := s.fld (fState gt)
  if st = stReady ∨ st = stWait then
    (s.modThread gt (fun t => { t with twinStop := some detail })).atBoundary gt
  else if st = stHalted ∨ st = stFrozen then
    s.takeTwin gt { precise 8 detail with pc := (s.thread gt).pc, npc := (s.thread gt).successor }
  else s

/-- What the automatic sequence of another pair has found of core n (R445). -/
def State.testedFor (s : State) (p n : Nat) : Option Bool :=
  s.pairs.findSome? (fun x =>
    let st := s.fld (fTwinState x.1)
    if x.1 = p ∨ (st ≠ twSelftest ∧ st ≠ twRerun) then none
    else if s.twinPrimary x.1 / 64 = n then x.2.coreP
    else if s.twinShadow x.1 / 64 = n then x.2.coreS
    else none)

/-- A core goes under self-test, unless it is already: its threads lose every beat, and each deterministic
one counts one contract break (R445). -/
def State.startSelftest (s : State) (n : Nat) : State :=
  if s.selfTest.contains n then s
  else
    (List.range 64).foldl (fun s t => (s.contractBreak (64 * n + t) none).atBoundary (64 * n + t))
      { s with selfTest := s.selfTest ++ [n] }

/-- The automatic sequence of a pair has the core's result, or awaits its test (R443, R445). -/
def State.askSelftest (s : State) (p n : Nat) : State :=
  match s.testedFor p n with
  | some r => s.modPair p (fun q => { q with
      coreP := if s.twinPrimary p / 64 = n then some r else q.coreP
      coreS := if s.twinShadow p / 64 = n then some r else q.coreS })
  | none => s.startSelftest n

/-- The registers of a mismatch's report. -/
def State.lastReport (s : State) (p : Nat) (b : Bool) (r : Option Report) (sig : Word) : State :=
  match r with
  | none => s
  | some r =>
    let s := s.setReg (twinReg p (if b then 0x1C else 0x18)) sig
    let s := s.setReg (twinReg p (if b then 0x24 else 0x20)) (BitVec.ofNat 32 r.bytes)
    s.setFld ⟨twinReg p 0x28, if b then 31 else 15, if b then 16 else 0⟩ (BitVec.ofNat 32 (r.instr - 1))

/-- K_B: the state after B bytes of 0xFF (R436). -/
def sigMask (b : Nat) : Word :=
  BitVec.ofNat 32 ((List.range b).foldl (fun st _ => crcrStep 32 8 0x82F63B78 st 0xFF) 0xFFFFFFFF)

/-- The decision of R444 once the core tests are known, where a core failed. -/
def State.fenceDecision (s : State) (p : Nat) : State :=
  let a := s.twinPrimary p / 64
  let b := s.twinShadow p / 64
  match (s.pair p).coreP, (s.pair p).coreS with
  | some true, some false => ((s.setFld (fDecision p) 5).setFld (fTwinState p) twStopped).fence1 [b]
  | some false, some true => ((s.setFld (fDecision p) 4).setFld (fTwinState p) twStopped).fence1 [a]
  | some false, some false =>
    (((s.setFld (fDecision p) 6).setFld (fTwinState p) twStopped).fence1 [a, b]).faultSafe 3
  | _, _ => s

/-- A pair mismatches (R442, R443, R446), in unit u. Where a break of the pair falls in the same cycle, no
automatic sequence runs (R448). -/
def State.mismatch (s : State) (p u : Nat) (detail : Byte) (rp rs : Option Report) (brk : Bool) : State :=
  let rerun := decide (s.fld (fTwinState p) = twRerun)
  let a := s.twinPrimary p
  let b := s.twinShadow p
  let s := s.countUp ⟨twinReg p 0x2C, 7, 0⟩
  let s := (s.lastReport p false rp ((rp.map (fun r => r.sig)).getD 0)).lastReport p true rs
    ((rs.map (fun r => r.sig ^^^ sigMask r.bytes)).getD 0)
  let s := (s.present 0x17AB false 0).faultMinor
  let s := s.setFld (fTwinState p) twStopped
  let d := if rerun then 3 else detail
  let s := (s.stopMember a d).stopMember b d
  if rerun then
    let s := s.setFld (fDecision p) 2
    if s.bit ⟨twinReg p 4, 21, 21⟩ then s.faultSafe 2 else s
  else if s.fld fMode = modeRun ∧ s.bit ⟨twinReg p 4, 20, 20⟩ ∧ !brk then
    let s := s.setFld (fTwinState p) twSelftest
    let s := s.modPair p (fun q => { q with coreP := none, coreS := none, unit := none, served := u })
    ((s.askSelftest p (a / 64)).askSelftest p (b / 64)).fenceDecision p
  else s

/-- The reports match (R437). -/
def reportsMatch (x y : Report) : Bool :=
  x.seq == y.seq && x.instr == y.instr && x.bytes == y.bytes && x.sig == (y.sig ^^^ sigMask y.bytes)

/-- The pair's reports are compared. -/
def State.comparing (s : State) (p : Nat) : Bool :=
  s.fld (fTwinState p) == twRunning || s.fld (fTwinState p) == twRerun

/-- TWIN_COMPARE (R437, R443, R444); with `brk` the row that follows breaks the pair in the same cycle
(R448). -/
def execTwinCompare (p : Fin 256) (brk : Bool) (s : State) : Host.Outcome State Fault Refusal :=
  .next (
    let p := p.val
    match s.serveUnit p, (s.pair p).repP, (s.pair p).repS with
    | some u, x :: xs, y :: ys =>
      if !s.comparing p then s
      else if reportsMatch x y then
        let s := s.modPair p (fun q => { q with repP := xs, repS := ys })
        let s := s.countWrap ⟨twinReg p 0x14, 15, 0⟩
        if s.fld (fTwinState p) = twRerun then
          let n := (s.pair p).rerun
          let s := s.modPair p (fun q => { q with rerun := n - 1 })
          if n ≤ 1 then
            ((s.setFld (fTwinState p) twRunning).setFld (fDecision p) 1).countUp ⟨twinReg p 0x2C, 15, 8⟩
          else s
        else s
      else s.mismatch p u 1 (some x) (some y) brk
    | _, _, _ => s)

/-- TWIN_REPORT_TIMEOUT (R438): one member's report has waited without the other's. -/
def execTwinReportTimeout (p : Fin 256) (brk : Bool) (s : State) : Host.Outcome State Fault Refusal :=
  .next (
    let p := p.val
    let rp := (s.pair p).repP.head?
    let rs := (s.pair p).repS.head?
    if s.comparing p ∧ rp.isSome ≠ rs.isSome ∧ !s.selfTest.contains (s.twinPrimary p / 64) ∧
        !s.selfTest.contains (s.twinShadow p / 64) then
      s.mismatch p ((s.serveUnit p).getD (p % 8)) 2 rp rs brk
    else s)

/-- CORE_SELFTEST_DONE: every automatic sequence that awaits the core takes the result; one that no
sequence awaits any more is decided for its core alone (R443 to R447). -/
def execCoreSelftestDone (n : Core) (pass : Bool) (s : State) : Host.Outcome State Fault Refusal :=
  .next (
    let n := n.val
    if !s.selfTest.contains n then s
    else
      let s := { s with selfTest := s.selfTest.erase n }
      let ps := (List.range 256).filter (fun p => s.fld (fTwinState p) == twSelftest &&
        ((s.twinPrimary p / 64 == n && (s.pair p).coreP.isNone) || (s.twinShadow p / 64 == n && (s.pair p).coreS.isNone)))
      let s := ps.foldl (fun s p => s.modPair p (fun q => { q with
        coreP := if s.twinPrimary p / 64 = n then some pass else q.coreP
        coreS := if s.twinShadow p / 64 = n then some pass else q.coreS })) s
      if ps.isEmpty then (if pass then s else s.fence1 [n])
      else ps.foldl (fun s p => s.fenceDecision p) s)

/-- INJECTION_TEST_DONE: the unit's result stands, and each sequence that awaits it seeds its pair
again (R441, R443, R444). -/
def execInjectionTestDone (u : Fin 8) (pass : Bool) (s : State) : Host.Outcome State Fault Refusal :=
  .next (
    let u := u.val
    if !s.unitBusy u then s
    else
      let ps := (List.range 256).filter (fun p => s.fld (fTwinState p) == twSelftest && (s.pair p).testing u)
      let s := s.unitResult u pass
      let s := if s.inject = some u then
          (({ s with inject := none } : State).setBit fInjectBusy false).setFld ⟨0x10800004, 2, 1⟩
            (if pass then 1 else 2)
        else s
      ps.foldl (fun s p =>
        let s := s.modPair p (fun q => { q with unit := some pass })
        (if pass then s else s.setFld (fDecision p) 3).seed p true) s)

end Sys2Proof.Machine
end

