-- ==== Sys2Proof/Machine/Live.lean ====
section
/-!
DEFINITION. Read-only fields that show what the typed parts of the state hold: the value a read of a
register shows is the stored word with these fields laid over it. Also the safe-state override (R53,
R482, R529) and the effective debug class (R536 to R538), which two such fields show.
-/
namespace Sys2Proof.Machine

/-! ## The safe-state override and the lane at its bundle (R53, R207, R482, R529) -/

/-- The override holds the lanes of every powered quadrant: in START, on the way into DORMANT, and while
FAULT_SAFE is asserted. -/
def State.overridden (s : State) : Bool :=
  s.fld fMode == modeStart || s.mode.goal == some 1 || s.bit fFaultSafe

/-- Four equal phase bits. -/
def allPhases (v : Bool) : BitVec 4 := if v then 15 else 0

/-- What the bundle of a lane carries: value and enable at each of the four fine phases (R591), the safe
state at all of them under the override; held pads keep what they were latched at (R533). -/
def State.laneBundle (s : State) (l : Nat) : BitVec 4 × BitVec 4 :=
  if s.overridden && !s.mode.hold.contains (l / 256) then (allPhases (safePair (s.fld (fSafe l))).1, allPhases (safePair (s.fld (fSafe l))).2)
  else ((s.lane l).lnOut, (s.lane l).lnOe)

/-! ## Debug classes (R536 to R538) -/

def fDbgClass : Fld := ⟨modeReg 0x70, 17, 16⟩
def fDbgVc : Fld := ⟨modeReg 0x70, 29, 24⟩
def fAuth : Fld := ⟨0x10000800, 8, 8⟩
def clsNone : Word := 0
def clsTrace : Word := 1
def clsHalt : Word := 2
def clsFull : Word := 3

/-- The ceiling of the effective class (R538); the codes above VOID are VOID (R583). -/
def State.dbgCeiling (s : State) : Word :=
  let lc := (s.fld fLc).toNat
  let m := s.fld fMode
  if m = modeStart then
    if !s.bit fAuth then (if lc = 1 then clsFull else clsNone)
    else if lc ≤ 1 then clsFull else if lc ≤ 4 then clsTrace else clsNone
  else if m = modeRun ∨ m = modeLimp then
    if lc ≤ 1 then clsFull else if lc = 3 then clsHalt else if lc ≤ 4 then clsTrace else clsNone
  else if m = modeService then (if lc = 1 ∨ lc = 3 ∨ lc = 4 then clsFull else clsNone)
  else clsNone

/-- The effective class E. -/
def State.dbgClass (s : State) : Word :=
  if s.fld fDbgClass ≤ s.dbgCeiling then s.fld fDbgClass else s.dbgCeiling

/-! ## Live fields by block -/

/-- A field of a word from a number. -/
def putNat (w : Word) (hi lo v : Nat) : Word := putBits w hi lo (BitVec.ofNat 32 v)

def State.liveCore (s : State) (n off : Nat) (w : Word) : Word :=
  match setThreadOf n off with
  | none => w
  | some gt =>
    if off < 0x2000 then
      match off % 0x40 with
      | 0x04 =>
        let st := s.fld (fState gt)
        putBits w 9 9 (boolWord ((st == stReady || st == stWait) && s.slotsOwned gt == 0))
      | 0x0C => (s.thread gt).pc &&& ~~~ 3
      | _ => w
    else if off % 0x20 = 0x10 then putNat w 3 0 (s.thread gt).rs.length
    else w

def State.liveBay (s : State) (n off : Nat) (w : Word) : Word :=
  if off = 0x30C then putNat w 12 8 (s.edgeQ n).length
  else if 0x100 ≤ off ∧ off < 0x300 ∧ off % 0x40 = 0x24 then
    let q := s.seq n ((off - 0x100) / 0x40)
    putNat (putNat w 5 4 q.rx.length) 1 0 q.tx.length
  else w

def State.liveLane (s : State) (l off : Nat) (w : Word) : Word :=
  if off = 8 then
    let p := s.laneBundle l
    let w := putBits (putBits w 0 0 (boolWord (s.laneIn l))) 1 1 (boolWord (p.1.getLsbD 3))
    putBits (putBits w 2 2 (boolWord (p.2.getLsbD 3))) 3 3 (boolWord s.overridden)
  else w

def State.liveTimer (s : State) (m off : Nat) (w : Word) : Word :=
  let caps := (s.tmr m).caps
  if off = 8 then putBits (putNat w 7 5 caps.length) 1 1 (s.fld (fArm m))
  else if off = 0x1C then (s.pairValue (.tmrCount (BitVec.toFin (BitVec.ofNat 10 m)))).2
  else if off = 0x20 then (caps.headD (0, 0)).1
  else if off = 0x24 then (caps.headD (0, 0)).2
  else if off = 0x2C ∧ !s.linkedEven m then 0
  else w

def State.liveRouter (s : State) (off : Nat) (w : Word) : Word :=
  if 0x10000 ≤ off ∧ off < 0x18000 then putBits w 4 4 (boolWord (s.portLevel ((off - 0x10000) / 4)))
  else if 0x18000 ≤ off ∧ off < 0x1C000 ∧ off % 8 = 4 then
    putNat w 3 0 (s.thread ((off - 0x18000) / 8)).inbox.length
  else w

/-- `DIR_SLICE` and `GW_STATUS` count entries and promises; a line's slice or the gateway is its home
(R340, R341). -/
def State.liveDir (s : State) (off : Nat) (w : Word) : Word :=
  let isSys (line : Nat) : Bool := decide (2 ^ 38 ≤ line)
  let of (line : Nat) : Bool :=
    if off = 0x200 then isSys line
    else !isSys line && decide ((line - 0x1000000 / 64) / 49152 = (off - 0x100) / 4)
  let used := (s.dir.filter (fun p => p.2.isSome && of p.1)).length
  let held := (s.promises.filter (fun p => of p.2.2.1)).length
  if off = 0x200 then putNat (putNat w 29 16 used) 8 0 held
  else if 0x100 ≤ off ∧ off < 0x120 then putNat (putNat w 27 16 used) 8 0 held
  else w

def State.liveVct (s : State) (off : Nat) (w : Word) : Word :=
  if 0x1000 ≤ off then w
  else
    let v := off / 0x40
    match off % 0x40 with
    | 0x04 => putBits w 31 31 (boolWord (s.quarantine v))
    | 0x18 =>
      let x : VcS := Map.get {} s.vcs v
      putNat (putNat w 22 16 x.toHost.length) 6 0 x.fromHost.length
    | _ => w

/-- The word a register shows: its stored fields, and its live fields over them. -/
def State.live (s : State) (b : Blk) (off : Nat) (w : Word) : Word :=
  match b with
  | .glob => w &&& s.thereMask b off
  | .core n => s.liveCore n off w
  | .bay n => s.liveBay n off w
  | .lane l => s.liveLane l off w
  | .timer m => s.liveTimer m off w
  | .router => s.liveRouter off w
  | .engine e => if off = 0x8004 then s.engActive e else w
  | .bm => if off < 0x1000 ∧ off % 0x40 = 0x1C then BitVec.ofNat 32 (s.poolLevel (off / 0x40)) else w
  | .banks => if off < 0xA00 ∧ off % 8 = 0 then putBits w 15 15 (boolWord (s.clearOnWake (off / 8))) else w
  | .ledger =>
    if off = 4 then putBits w 15 15 (boolWord s.noIndex)
    else if 0x1000 ≤ off ∧ off < 0x1400 ∧ off % 0x10 = 8 then
      putBits w 31 31 (boolWord (s.quarantine ((off - 0x1000) / 0x10)))
    else w
  | .dir => s.liveDir off w
  | .power => if off = 0x70 then putBits w 21 20 s.dbgClass else w &&& s.thereMask b off
  | .vct => s.liveVct off w
  | _ => w

end Sys2Proof.Machine
end

