-- ==== Sys2Proof/Machine/Vcs.lean ====
section
/-!
DEFINITION. Virtual complexes (R451 to R474, R582): owner bytes, the commands of the table, reset and
removal with the generation, freeze and thaw, mailboxes and the window's revision.
-/
namespace Sys2Proof.Machine

/-! ## The table -/

def vctReg (v off : Nat) : Nat := 0x10D00000 + 0x40 * v + off
def fVcCapture (v : Nat) : Fld := ⟨vctReg v 8, 8, 8⟩
def fMaxRev (v : Nat) : Fld := ⟨vctReg v 8, 1, 0⟩
def fAptEvsel (v : Nat) : Fld := ⟨vctReg v 8, 9, 9⟩
def vcFree : Word := 0
def vcActive : Word := 1
def vcFreezing : Word := 2
def vcFrozen : Word := 3
def vcResetting : Word := 4
def vcRemoving : Word := 5
def vcImaging : Word := 6

/-! ## Owner bytes (R451 to R455) -/

/-- Units of the owner array of n bytes at lo whose entry is VALID and names v, ascending. A word of
the table never written holds no entry. -/
def State.ownedBy (s : State) (v lo n : Nat) : List Nat :=
  let base := 0x10D00000 + lo
  s.regs.flatMap (fun p =>
    if base ≤ p.1 ∧ p.1 < base + n then
      (List.range 4).filterMap (fun i =>
        if bitsOf p.2 (8 * i + 7) (8 * i) &&& 0xBF = BitVec.ofNat 32 (0x80 + v) then
          some (p.1 - base + i) else none)
    else [])

def State.vcThreads (s : State) (v : Nat) : List Nat := s.ownedBy v 0x2000 0x800
def State.vcBays (s : State) (v : Nat) : List Nat := s.ownedBy v 0x2800 0x20
def State.vcLanes (s : State) (v : Nat) : List Nat := s.ownedBy v 0x2900 0x400
def State.vcTimers (s : State) (v : Nat) : List Nat := s.ownedBy v 0x3000 0x400
def State.vcChans (s : State) (v : Nat) : List Nat := s.ownedBy v 0x3400 0x80
def State.vcVecs (s : State) (v : Nat) : List Nat := s.ownedBy v 0x3700 0x200
def State.vcOuts (s : State) (v : Nat) : List Nat := s.ownedBy v 0x3900 0x100

/-- The inputs v holds, ascending (R453). -/
def State.vcInputs (s : State) (v : Nat) : List Nat :=
  (s.vcThreads v).flatMap (fun gt => (List.range 4).map (selThread gt)) ++
  (s.vcTimers v).flatMap (fun m => (List.range 2).map (selTimer m)) ++
  (s.vcBays v).flatMap (fun n => (List.range 16).map (fun j => selSeq n (j / 2) (j % 2))) ++
  (s.vcChans v).flatMap (fun c => (List.range 2).map (selChan c)) ++
  (s.vcVecs v).map selVec ++ (s.vcOuts v).map selOut

/-- Write an owner byte. -/
def State.setOwnByte (s : State) (off : Nat) (b : Word) : State :=
  s.setFld ⟨0x10D00000 + off / 4 * 4, 8 * (off % 4) + 7, 8 * (off % 4)⟩ b

/-- The resource of an owner byte is there, and it is stopped (R454). -/
def State.ownedThere (s : State) (off : Nat) : Bool :=
  if off < 0x2800 then s.corePresent ((off - 0x2000) / 64)
  else if off < 0x2900 then s.bayPresent (off - 0x2800)
  else if off < 0x3000 then s.lanePresent (off - 0x2900)
  else if off < 0x3400 then s.timerPresent (off - 0x3000)
  else if off < 0x3500 then s.chanPresent (off - 0x3400)
  else if off < 0x3700 then s.bankPresent (off - 0x3500)
  else if off < 0x3900 then true
  else s.anyPort

def State.ownedStopped (s : State) (off : Nat) : Bool :=
  if off < 0x2800 then s.fld (fState (off - 0x2000)) == stIdle
  else if off < 0x2900 then
    (List.range 8).all (fun k => s.seqStill (off - 0x2800) k) && (s.edgeQ (off - 0x2800)).isEmpty
  else if off < 0x3000 then s.fld (fDriver (off - 0x2900)) == 9
  else if off < 0x3400 then !s.bit (fRunning (off - 0x3000))
  else if off < 0x3500 then s.fld (fChState (off - 0x3400)) == chIdle
  else if off < 0x3700 then s.fld (fOwnerKind (off - 0x3500)) == 0
  else true

/-- The offset is that of an owner byte (R457). -/
def isOwnByte (off : Nat) : Bool :=
  (decide (0x2000 ≤ off) && decide (off < 0x2820)) || (decide (0x2900 ≤ off) && decide (off < 0x2D00)) ||
  (decide (0x3000 ≤ off) && decide (off < 0x3480)) ||
  (decide (0x3500 ≤ off) && decide (off < 0x3640)) || (decide (0x3700 ≤ off) && decide (off < 0x3A00))

def isBankByte (off : Nat) : Bool := decide (0x3500 ≤ off) && decide (off < 0x3700)

/-- A write to one owner byte, with whether it is refused. SCRUB is not written by software, and a bank
that has it keeps VC (R455, log 22). -/
def State.writeOwnByte (s : State) (mgr : Bool) (off : Nat) (data : Word) : State × Bool :=
  let old := s.ownByte off
  let valid (b : Word) : Bool := b.getLsbD 7
  let vcOf (b : Word) : Word := b &&& 0x3F
  let scrub := isBankByte off && old.getLsbD 6
  let new := (data &&& 0xBF) ||| (old &&& 0x40)
  let st := s.fld (vcState (vcOf data).toNat)
  if !isOwnByte off then (s, false)
  else if new = old ∨ (!valid new ∧ !s.ownedThere off) then (s, false)
  else if !mgr || (valid new && valid old) || (valid new && !s.ownedThere off) ||
      !(st == vcFree || st == vcActive) || !s.ownedStopped off || (valid new && scrub && vcOf new != vcOf old) then
    (s, true)
  else if isBankByte off ∧ valid old ∧ !valid new then (s.setOwnByte off (0x40 ||| vcOf old), false)
  else if scrub ∧ !valid new then (s, false)
  else (s.setOwnByte off new, false)

/-- A write of a word of owner bytes: each byte is judged on its own (R454). -/
def State.writeOwners (s : State) (who : Agent) (off : Nat) (data : Word) : State :=
  let p := (List.range 4).foldl (fun (p : State × Bool) i =>
    let q := p.1.writeOwnByte (isManager who) (off + i) (bitsOf data (8 * i + 7) (8 * i))
    (q.1, p.2 || q.2)) (s, false)
  if p.2 then p.1.refuse .vct off else p.1

def execOwnerByteWrite (who : Agent) (off : Fin 16384) (data : Word) (s : State) :
    Host.Outcome State Fault Refusal :=
  .next (
    if s.powered 44 ∧ off.val % 4 = 0 ∧ 0x2000 ≤ off.val ∧ off.val < 0x3A00 then s.writeOwners who off.val data
    else s)

/-! ## Reset (R460, R461) -/

/-- The entry of a posted access that the complex itself sends: nobody awaits it. -/
def postedEntry (reqr a : Nat) (bs : List Byte) (vc : Option (Nat × Nat)) : LEntry :=
  ⟨.access .posted, reqr, a, bs.length, some bs, vc, 0, false⟩

/-- Step 1 for one thread. Stores already issued are performed; of a split one the half still to come too
(R50, R130). -/
def State.threadReset (s : State) (gt : Nat) : State :=
  let s := (s.stopFully gt).modThread gt (fun t => t.dropped)
  let s := (s.clearContext gt 8).newRole gt
  let s := s.modThread gt (fun t => { t with shadowHi := 0 })
  let s := s.resetRange (tReg gt 0x04) (tReg gt 0x0C)
  s.setReg (tReg gt 0x30) 0

/-- Events held on the inputs from x up to y go. -/
def State.dropHeld (s : State) (x y : Nat) : State :=
  { s with held := s.held.filter (fun p => decide (p.1 < x) || decide (y ≤ p.1)) }

/-- A timer stops, unarmed, with reset values and an empty capture queue. -/
def State.timerReset (s : State) (m : Nat) : State :=
  let s := (s.disarm m).resetRange (tmrReg m 0) (tmrReg m 0x40)
  ({ s with timers := Map.erase s.timers m } : State).dropHeld (selTimer m 0) (selTimer m 2)

/-- A channel takes reset values, without an event: requests the ledger still holds unissued are not issued.
One that BM_CTL or SILO_CTL names goes on for the buffer manager or the silo, and reads RESERVED (R407). -/
def State.chanReset (s : State) (c : Nat) : State :=
  let kept := s.fld (fChState c) == chReserved
  let s := (s.resetRange (chReg c 0) (chReg c 0x40)).dropHeld (selChan c 0) (selChan c 2)
  if kept then s.setFld (fChState c) chReserved
  else { (s.chanClear c) with ledgerQ := s.ledgerQ.filter (fun e => e.reqr != 2048 + c) }

/-- What step 3 changes of a lane, once it has crossed into PCLK; an inversion that changes is a transition of its input (R206). -/
def State.laneReset (s : State) (l : Nat) : State :=
  let old := s.laneIn l
  let s := (s.laneStatic l).setFld ⟨laneReg l 0, 9, 8⟩ 0
  let s := s.setFld ⟨laneReg l 4, 7, 0⟩ 0
  let s := { s with pend := Map.erase s.pend (laneReg l 0) }
  if s.laneIn l = old then s else s.laneRecord l (s.pt (l / 32) * 4)

def fHvEnable (v : Nat) : Fld := ⟨0x10E00040 + 4 * (v / 32), v % 32, v % 32⟩

/-- Context k of the bulk port: reset values for ADDR, CTL and STATUS, prefetched data discarded;
these once its posted writes are performed. -/
def State.bulkReset (s : State) (k : Nat) : State :=
  (s.setBulk k { s.bulk k with pre := [], rst := true }).bulkSettle k

/-- Steps 1 to 4 of R460. -/
def State.vcQuiet (s : State) (v : Nat) : State :=
  let inputs := s.vcInputs v
  let s := (s.vcThreads v).foldl (fun s gt => s.threadReset gt) s
  let s := (s.vcBays v).foldl (fun s n => (s.bayStop n).bayEmpty n) s
  let s := (s.vcTimers v).foldl (fun s m => s.timerReset m) s
  let s := (s.vcChans v).foldl (fun s c => s.chanReset c) s
  let s := (s.vcLanes v).foldl (fun s l => s.xqPush (.toBay (fin5 (l / 32))) (.laneReset l)) s
  let s := inputs.foldl (fun s x => s.resetRange (selAddr x) (selAddr x + 4)) s
  let s := (s.vcVecs v).foldl (fun s h => (s.setBit (fHvPend h) false).setBit (fHvEnable h) false) s
  (s.modVc v (fun _ => {})).bulkReset v

/-- A command of R459 on offset `VC_CMD[v]` is refused. -/
def State.vcNo (s : State) (v : Nat) : State := s.refuse .vct (0x40 * v)

def State.vcCreate (s : State) (v : Nat) : State :=
  if s.fld (vcState v) = vcFree then s.setFld (vcState v) vcActive else s.vcNo v

def State.vcReset (s : State) (v : Nat) : State :=
  if s.fld (vcState v) = vcActive ∨ s.fld (vcState v) = vcFrozen then
    (s.setFld (vcState v) vcResetting).vcQuiet v
  else s.vcNo v

def State.vcRemove (s : State) (v : Nat) : State :=
  if s.fld (vcState v) ≤ vcActive ∨ s.fld (vcState v) = vcFrozen then
    (s.setFld (vcState v) vcRemoving).vcQuiet v
  else s.vcNo v

/-! ## Removal (R463) -/

/-- Owner entries naming v go; bank entries take SCRUB. -/
def State.dropOwners (s : State) (v : Nat) : State :=
  (s.ownedBy v 0x2000 0x1A00).foldl (fun s i =>
    s.setOwnByte (0x2000 + i) (if isBankByte (0x2000 + i) then BitVec.ofNat 32 (0x40 + v) else 0)) s

def fPoolVcValid (p : Nat) : Fld := ⟨poolReg p 0, 28, 28⟩
def fPoolVc (p : Nat) : Fld := ⟨poolReg p 0, 27, 22⟩
def fReserve : Fld := ⟨0x106C0008, 13, 0⟩

/-- The removed complex's pools, quota, roles and control registers, and FREE. -/
def State.vcGone (s : State) (v : Nat) : State :=
  let s := (s.vcThreads v).foldl (fun s gt => s.setBit (fAnyVc gt) false) s
  let s := s.dropOwners v
  let s := s.setFld fReserve (s.fld fReserve + s.fld (fQuota v))
  let s := s.setFld (fQuota v) 0
  let s := (List.range 64).foldl (fun s p =>
    if s.bit (fPoolVcValid p) ∧ (s.fld (fPoolVc p)).toNat = v then
      (if s.bit (fPoolOn p) then s.poolDisable p else s).setBit (fPoolVcValid p) false
    else s) s
  let s := s.resetRange (vctReg v 8) (vctReg v 0x10)
  (s.modVc v (fun x => { x with select := 1 })).setFld (vcState v) vcFree

/-- VC_GEN_ADVANCE: once QUARANTINE is not presented, the generation advances, and the complex is
ACTIVE, or removed (R370, R460, R463). -/
def execVcGenAdvance (v : VC) (s : State) : Host.Outcome State Fault Refusal :=
  .next (
    let v := v.val
    let st := s.fld (vcState v)
    if (st = vcResetting ∨ st = vcRemoving) ∧ !s.quarantine v then
      let s := (s.ledgerAdvance v).countWrap (vcGen v)
      if st = vcResetting then s.setFld (vcState v) vcActive else s.vcGone v
    else s)

/-! ## Freeze and thaw (R472 to R474) -/

/-- A thread is asked to freeze. -/
def State.threadFreeze (s : State) (gt : Nat) : State :=
  let st := s.fld (fState gt)
  if st = stReady ∨ st = stWait ∨ st = stHalted then
    (s.modThread gt (fun t => { t with freezeReq := true })).atBoundary gt
  else s

def State.bayFreeze (s : State) (n : Nat) : State :=
  (List.range 8).foldl (fun s k =>
    let st := if s.seqStill n k then 0 else s.fld (fSeqState n k)
    (s.seqCmdStop n k).modSeq n k (fun x => { x with was := st })) s

def State.timerFreeze (s : State) (m : Nat) : State :=
  let run := s.bit (fRunning m)
  let s := s.modTmr m (fun x => { x with wasRun := run })
  if run then (s.setBit (fRunning m) false).disarm m else s

def State.vcFreeze (s : State) (v : Nat) : State :=
  let st := s.fld (vcState v)
  if st = vcActive then
    let cap := s.bit (fVcCapture v)
    let s := (s.setFld (vcState v) vcFreezing).modVc v (fun x => { x with capture := cap })
    let s := (s.vcThreads v).foldl (fun s gt => s.threadFreeze gt) s
    let s := (s.vcBays v).foldl (fun s n => s.bayFreeze n) s
    let s := (s.vcTimers v).foldl (fun s m => s.timerFreeze m) s
    if cap then
      (s.vcChans v).foldl (fun s c => if s.fld (fChState c) = chActive then s.chAbort c else s) s
    else s
  else if st = vcFrozen then s else s.vcNo v

/-- The conditions of R473. -/
def State.freezeDone (s : State) (v : Nat) : Bool :=
  let quiet (gt : Nat) : Bool :=
    let st := s.fld (fState gt)
    st == stFrozen || st == stIdle || st == stFaulted
  let writes (p : Nat × Option LEntry) : Bool := match p.2 with
    | some e => e.limbo || (match e.vc with | some (u, _) => u != v || e.wr.isSome | none => true)
    | none => true
  (s.vcThreads v).all quiet &&
  (s.vcChans v).all (fun c => s.fld (fChState c) == chIdle || s.fld (fChState c) == chReserved) &&
  (if (s.vc v).capture then s.ledger.all writes else s.fld (fCount v) == 0)

def execVcFreezeComplete (v : VC) (s : State) : Host.Outcome State Fault Refusal :=
  .next (
    if s.fld (vcState v.val) = vcFreezing ∧ s.freezeDone v.val then s.setFld (vcState v.val) vcFrozen else s)

def State.threadThaw (s : State) (gt : Nat) : State :=
  if s.fld (fState gt) = stFrozen then
    ((s.setBit (fPriorWait gt) false).setFld (fState gt) stReady).atBoundary gt
  else s

/-- The sequencers that were running continue, and the edge queue's entries are checked again. -/
def State.bayThaw (s : State) (n : Nat) : State :=
  let s := (List.range 8).foldl (fun s k =>
    let on := (s.seq n k).was != 0 && s.fld (fSeqState n k) == sqStopped
    let s := s.modSeq n k (fun x => { x with was := 0 })
    if on then s.setFld (fSeqState n k) sqRunning else s) s
  s.setEdgeQ n ((s.edgeQ n).map (fun e => { e with checked := false }))

def State.timerThaw (s : State) (m : Nat) : State :=
  let on := (s.tmr m).wasRun
  let s := s.modTmr m (fun x => { x with wasRun := false })
  if on then s.setBit (fRunning m) true else s

def State.vcThaw (s : State) (v : Nat) : State :=
  let st := s.fld (vcState v)
  if st = vcFrozen then
    let s := s.setFld (vcState v) vcActive
    let s := (s.vcThreads v).foldl (fun s gt => s.threadThaw gt) s
    let s := (s.vcBays v).foldl (fun s n => s.bayThaw n) s
    (s.vcTimers v).foldl (fun s m => s.timerThaw m) s
  else if st = vcActive then s else s.vcNo v

/-! ## Mailboxes (R469 to R471) -/

def fMbxVecValid (v : Nat) : Fld := ⟨vctReg v 0xC, 25, 25⟩
def fMbxVector (v : Nat) : Fld := ⟨vctReg v 0xC, 24, 16⟩
def fMbxDestValid (v : Nat) : Fld := ⟨vctReg v 0xC, 11, 11⟩
def fMbxDest (v : Nat) : Fld := ⟨vctReg v 0xC, 10, 0⟩

/-- MBX_TX: a 64-bit write of the host to the from-host ring. -/
def State.mbxTx (s : State) (v : Nat) (lo hi : Word) : State :=
  if 64 ≤ (s.vc v).fromHost.length then (s.countUp ⟨vctReg v 0x1C, 31, 16⟩).refuseWin v 0x100
  else s.modVc v (fun x => { x with fromHost := x.fromHost ++ [Word.pair lo hi] })

def execMbxTx (v : VC) (lo hi : Word) (s : State) : Host.Outcome State Fault Refusal :=
  .next (if s.powered 44 then s.mbxTx v.val lo hi else s)

/-- MBX_MOVE: the oldest from-host entry moves into DEST's inbox. -/
def execMbxMove (v : VC) (s : State) : Host.Outcome State Fault Refusal :=
  .next (
    let v := v.val
    let gt := (s.fld (fMbxDest v)).toNat
    match (s.vc v).fromHost with
    | [] => s
    | x :: r =>
      if s.bit (fMbxDestValid v) ∧ s.owner (ownThread gt) = some v ∧ s.fld (vcState v) = vcActive ∧
          s.corePresent (gt / 64) ∧ (s.thread gt).inbox.length < 8 then
        (s.modVc v (fun y => { y with fromHost := r })).modThread gt (fun t => { t with inbox := t.inbox ++ [x] })
      else s)

/-- The agent is a thread of v. -/
def State.threadOf (s : State) (who : Agent) (v : Nat) : Bool :=
  match who with
  | .thread gt => s.owner (ownThread gt.val) == some v
  | _ => false

/-- A 64-bit write to VC_MBX_POST. The manager's is no refusal and posts nothing (log 22). -/
def State.mbxPost (s : State) (who : Agent) (v : Nat) (lo hi : Word) : State :=
  if !s.threadOf who v then (if isManager who then s else s.refuse .vct (0x40 * v + 0x10))
  else if s.fld (vcState v) = vcResetting ∨ s.fld (vcState v) = vcRemoving then s
  else if 64 ≤ (s.vc v).toHost.length then s.countUp ⟨vctReg v 0x1C, 15, 0⟩
  else
    let first := (s.vc v).toHost.isEmpty
    let h := (s.fld (fMbxVector v)).toNat
    let s := s.modVc v (fun x => { x with toHost := x.toHost ++ [Word.pair lo hi] })
    if first ∧ s.bit (fMbxVecValid v) ∧ s.owner (ownVec h) = some v then s.forceInput (selVec h) 0 0 false else s

def execVcMbxPost (who : Agent) (v : VC) (lo hi : Word) (s : State) : Host.Outcome State Fault Refusal :=
  .next (if s.powered 44 then s.mbxPost who v.val lo hi else s)

/-- A 64-bit read of MBX_RX: the oldest to-host entry, removed, or zero. -/
def State.mbxTake (s : State) (v : Nat) : BitVec 64 × State :=
  match (s.vc v).toHost with
  | [] => (0, s)
  | x :: r => (x, s.modVc v (fun y => { y with toHost := r }))

def execMbxRx (v : VC) (s : State) : Host.Outcome State Fault Refusal :=
  .next (
    if s.powered 44 then
      let p := s.mbxTake v.val
      p.2.answer (toBytes 8 p.1.toNat)
    else s.answer (toBytes 8 0))

/-! ## The window's revision (R465, R468) -/

/-- A write of VCW_IFACE_SELECT. -/
def State.ifaceSelect (s : State) (v : Nat) (data : Word) : State :=
  let r := (bitsOf data 1 0).toNat
  if r = (s.vc v).select then s
  else if r = 1 ∨ (r = 2 ∧ s.fld (fMaxRev v) = 2) then s.modVc v (fun x => { x with select := r })
  else s.refuseWin v 8

def execIfaceSelect (v : VC) (data : Word) (s : State) : Host.Outcome State Fault Refusal :=
  .next (if s.powered 44 then s.ifaceSelect v.val data else s)

/-- The SoC's handshake applies RESET, and acknowledges with its outcome: VCR_OK is the answer's byte
(R582). -/
def execVcrReq (v : VC) (s : State) : Host.Outcome State Fault Refusal :=
  .next (
    let st := s.fld (vcState v.val)
    if s.powered 44 then
      (s.vcReset v.val).answer [if st = vcActive ∨ st = vcFrozen then 1 else 0]
    else s)

/-- A command row: refused unless it comes by the Manager window (R458). -/
def State.vcCmd (s : State) (who : Agent) (v : Nat) (f : State → State) : State :=
  if !s.powered 44 then s else if isManager who then f s else s.vcNo v

def execVcCreate (who : Agent) (v : VC) (s : State) : Host.Outcome State Fault Refusal :=
  .next (s.vcCmd who v.val (fun s => s.vcCreate v.val))
def execVcReset (who : Agent) (v : VC) (s : State) : Host.Outcome State Fault Refusal :=
  .next (s.vcCmd who v.val (fun s => s.vcReset v.val))
def execVcRemove (who : Agent) (v : VC) (s : State) : Host.Outcome State Fault Refusal :=
  .next (s.vcCmd who v.val (fun s => s.vcRemove v.val))
def execVcFreeze (who : Agent) (v : VC) (s : State) : Host.Outcome State Fault Refusal :=
  .next (s.vcCmd who v.val (fun s => s.vcFreeze v.val))
def execVcThaw (who : Agent) (v : VC) (s : State) : Host.Outcome State Fault Refusal :=
  .next (s.vcCmd who v.val (fun s => s.vcThaw v.val))

end Sys2Proof.Machine
end

