-- ==== Sys2Proof/Machine/Images.lean ====
section
/-!
DEFINITION. State images of a virtual complex (R475 to R479): what SAVE writes, the checks of RESTORE
and what it writes onto the resources. The order of the fields inside the parts of a record that R476
names only by size, and what a Commit field's copy holds, are the model's (log 23).
-/
namespace Sys2Proof.Machine

/-! ## Writing -/

/-- Words as bytes. -/
def wordBytes (ws : List Word) : List Byte := ws.flatMap (fun w => toBytes 4 w.toNat)

/-- A register as a record copies it: the value in force with its live fields; a command register
reads zero. -/
def State.imageWord (s : State) (a : Nat) : Word :=
  match blockOf a with
  | some b => s.live b (a - b.base) (s.reg a)
  | none => 0

/-- n bytes of registers from an address. -/
def State.imageRegs (s : State) (a n : Nat) : List Byte :=
  wordBytes ((List.range (n / 4)).map (fun i => s.imageWord (a + 4 * i)))

/-- Words, or as many zeros, in n places. -/
def padWords (n : Nat) (ws : List Word) : List Word := (List.range n).map (fun i => ws.getD i 0)

def pair64 (xs : List (BitVec 64)) : List Word := xs.flatMap (fun x => [Word.lo x, Word.hi x])

def loopWords (l : Loop) : List Word := [l.start, l.stop, l.count, boolWord l.active]

def State.threadImage (s : State) (f3 : Bool) (gt : Nat) : List Byte :=
  let t := s.thread gt
  let fl := (Flags.mk t.fn t.fz t.fc t.fv).toWord
  s.imageRegs (tReg gt 0) 0x40 ++ s.imageRegs (tCfg gt 0) 0x20 ++
  s.imageRegs (tSeg gt 0 0) (if f3 then 0x100 else 0x80) ++
  wordBytes ((List.range 32).map (fun i => Map.get 0 t.g i)) ++
  wordBytes [fl, t.pc, t.shadowHi, BitVec.ofNat 32 t.stores.length] ++
  wordBytes (padWords 8 t.rs) ++
  wordBytes (loopWords t.lp0 ++ loopWords t.lp1 ++ loopWords t.lp2) ++
  wordBytes (padWords 16 (pair64 t.inbox)) ++
  wordBytes [s.reg (msgRole gt), BitVec.ofNat 32 t.inbox.length, 0, 0]

def State.seqImage (s : State) (n k : Nat) : List Byte :=
  let q := s.seq n k
  let a := seqReg n k 0
  let stat := putBits (s.imageWord (a + 4)) 2 0 (if q.was = 0 then s.fld (fSeqState n k) else q.was)
  let lvl := BitVec.ofNat 32 (q.rx.length * 16 + q.tx.length)
  let latch (i : Nat) : Word := BitVec.ofNat 32 (Map.get 0 s.latched (selSeq n k i))
  s.imageRegs a 4 ++ wordBytes [stat] ++ s.imageRegs (a + 8) 0x38 ++
  wordBytes (padWords 2 q.tx ++ padWords 2 q.rx ++ [lvl, latch 0, latch 1, 0])

def edgeWords (e : EdgeE) : List Word :=
  [BitVec.ofNat 32 e.time, BitVec.ofNat 32 (2 ^ 31 + e.act * 256 + e.lane)]

def State.bayImage (s : State) (f3 : Bool) (n : Nat) : List Byte :=
  s.imageRegs (bayReg n 0) 0x100 ++ (List.range 8).flatMap (fun k => s.seqImage n k) ++
  wordBytes [s.reg (bayReg n 0x300), 0, 0, 0] ++
  (if f3 then wordBytes (padWords 32 ((s.edgeQ n).flatMap edgeWords)) else [])

def State.timerImage (s : State) (f3 : Bool) (m : Nat) : List Byte :=
  let x := s.tmr m
  let stat := putBits (s.imageWord (tmrReg m 8)) 0 0 (boolWord x.wasRun)
  let p (off : Nat) : Word := s.pendReg (tmrReg m off)
  wordBytes [s.reg (tmrReg m 0), 0, stat, p 0xC, p 0x10, p 0x14] ++ s.imageRegs (tmrReg m 0x18) 0x18 ++
  wordBytes [s.reg (tmrReg m 0xC), s.reg (tmrReg m 0x10), s.reg (tmrReg m 0x14), BitVec.ofNat 32 x.presc] ++
  (if f3 then wordBytes (padWords 8 (x.caps.flatMap (fun c => [c.1, c.2])))
   else wordBytes (padWords 4 (x.caps.map (fun c => c.1))))

def State.vecImage (s : State) (v : Nat) : Word :=
  BitVec.ofNat 32 (v + (if s.bit (fHvPend v) then 2 ^ 16 else 0) + (if s.bit (fHvEnable v) then 2 ^ 17 else 0))

def State.mailImage (s : State) (v : Nat) : List Byte :=
  let x := s.vc v
  wordBytes (padWords 128 (pair64 x.toHost) ++ padWords 128 (pair64 x.fromHost) ++
    [BitVec.ofNat 32 x.toHost.length, BitVec.ofNat 32 x.fromHost.length])

/-- Records of the seven sections, and the counts of resources. -/
def State.imageBody (s : State) (v : Nat) (f3 : Bool) : List Byte :=
  (s.vcThreads v).flatMap (fun gt => s.threadImage f3 gt) ++
  (s.vcBays v).flatMap (fun n => s.bayImage f3 n) ++
  (s.vcLanes v).flatMap (fun l => s.imageRegs (laneReg l 0) 0x10) ++
  (s.vcTimers v).flatMap (fun m => s.timerImage f3 m) ++
  (s.vcChans v).flatMap (fun c => s.imageRegs (chReg c 0) 0x40) ++
  (s.vcInputs v).flatMap (fun x => wordBytes [BitVec.ofNat 32 x, s.reg (selAddr x)]) ++
  wordBytes ((s.vcVecs v).map (fun h => s.vecImage h)) ++
  (if f3 then s.mailImage v else [])

def State.imageCounts (s : State) (v : Nat) : List Nat :=
  [(s.vcThreads v).length, (s.vcBays v).length, (s.vcLanes v).length, (s.vcTimers v).length,
   (s.vcChans v).length, (s.vcInputs v).length, (s.vcVecs v).length]

/-- The check code over bytes (R434, R477). -/
def checkCode (bs : List Byte) : Word :=
  ~~~ (BitVec.ofNat 32 (bs.foldl (fun st b => crcrStep 32 8 0x82F63B78 st b.toNat) 0xFFFFFFFF))

/-- The image SAVE writes. -/
def State.image (s : State) (v : Nat) : List Byte :=
  let f := (s.fld ⟨vctReg v 0x28, 7, 4⟩).toNat
  let body := s.imageBody v (f == 3)
  let isa := (s.reg 0x10000100).toNat % 16
  wordBytes [BitVec.ofNat 32 (f + isa * 256 + (s.fld (vcGen v)).toNat * 2 ^ 16),
    BitVec.ofNat 32 (64 + body.length)] ++
  (s.imageCounts v).flatMap (fun n => toBytes 2 n) ++ toBytes 2 (if f = 3 then 1 else 0) ++
  wordBytes [s.fld fEpoch, s.reg (vctReg v 8), s.reg (vctReg v 0xC), 0, 0, 0, 0, 0, 0, checkCode body] ++ body

def fImageBusy (v : Nat) : Fld := ⟨vctReg v 0x28, 0, 0⟩
def fImageResult (v : Nat) : Fld := ⟨vctReg v 0x28, 3, 2⟩
def fDescCleared (v : Nat) : Fld := ⟨vctReg v 0x28, 23, 16⟩
def imgDone : Word := 1
def imgFailed : Word := 2
def imgRejected : Word := 3

/-- The number an image's accesses carry as their requester: no virtual complex, so that they take entries
of the reserve share (R475). -/
def imageReqr (v : Nat) : Nat := 2176 + v

/-- The image lies where only the ledger reaches: the system region or another die. A bank serves no
such agent (R302). -/
def State.imageReach (s : State) (v n : Nat) : Bool :=
  let a := s.reg64 (vctReg v 0x20)
  let ok (r : Region) : Bool := match r with
    | .system => true
    | .remote _ => true
    | _ => false
  ok (s.region a) && ok (s.region (a + n - 1))

def State.modJob (s : State) (v : Nat) (f : ImageJob → ImageJob) : State :=
  s.modVc v (fun x => { x with job := x.job.map f })

/-- The n bytes of an image from offset o on are asked for, or written, by lines (R475, R362). -/
def State.imageMove (s : State) (v o n : Nat) (img : Option (List Byte)) : State :=
  if s.imageReach v (o + n) then
    (linePieces (n / 64 + 2) (s.reg64 (vctReg v 0x20) + o) 0 n).foldl (fun s p =>
      let q := s.reqCtr
      let s := ({ s with reqCtr := q + 1 } : State).modJob v (fun j => { j with parts := j.parts ++ [(q, none)] })
      s.ledgerSend (accessEntry (.image v q) (imageReqr v) p.1 p.2.2
        (img.map (fun bs => (bs.drop p.2.1).take p.2.2)))) s
  else s.modJob v (fun j => { j with bad := true })

/-- SAVE and RESTORE begin (R459): the image leaves, or its header is read. -/
def State.vcImage (s0 : State) (v : Nat) (restore : Bool) : State :=
  if s0.fld (vcState v) = vcFrozen then
    let s := (s0.setFld (vcState v) vcImaging).modVc v (fun x => { x with job := some { restore := restore } })
    let s := (s.setBit (fImageBusy v) true).setFld (fImageResult v) 0
    if restore then (s.setFld (fDescCleared v) 0).imageMove v 0 64 none
    else
      let img := s0.image v
      (s.setReg (vctReg v 0x2C) (BitVec.ofNat 32 img.length)).imageMove v 0 img.length (some img)
  else s0.vcNo v

def execVcSave (who : Agent) (v : VC) (s : State) : Host.Outcome State Fault Refusal :=
  .next (s.vcCmd who v.val (fun s => s.vcImage v.val false))
def execVcRestore (who : Agent) (v : VC) (s : State) : Host.Outcome State Fault Refusal :=
  .next (s.vcCmd who v.val (fun s => s.vcImage v.val true))

/-! ## Reading -/

/-- Word i of a part of an image. -/
def wordAt (bs : List Byte) (i : Nat) : Word := BitVec.ofNat 32 (ofBytes ((bs.drop (4 * i)).take 4))

/-- Set registers from words of a record, each by its mask. -/
def State.putRegs (s : State) (bs : List Byte) (a : Nat) (l : List (Nat × Word)) : State :=
  l.foldl (fun s p => s.setReg (a + 4 * p.1) (wordAt bs p.1 &&& p.2)) s

/-- Every register of a range, whole. -/
def allOf (lo n : Nat) : List (Nat × Word) := (List.range n).map (fun i => (lo + i, 0xFFFFFFFF))

/-- 64-bit entries, n of them, from word i up. -/
def pairsAt (bs : List Byte) (i n : Nat) : List (BitVec 64) :=
  (List.range n).map (fun j => Word.pair (wordAt bs (i + 2 * j)) (wordAt bs (i + 2 * j + 1)))

/-- The descriptors of a restored thread: a live one that is not contained in its ceiling has VALID 0
and is counted (R478). -/
def State.checkDescs (s : State) (v gt : Nat) : State :=
  (List.range 8).foldl (fun s i =>
    let d := s.desc gt i
    if d.valid && (d.overflow || !d.within (s.desc gt (i + 8))) then
      (s.setBit ⟨tSeg gt i 0xC, 0, 0⟩ false).countUp (fDescCleared v)
    else s) s

/-- The state a thread takes: READY and WAIT become FROZEN (R478). -/
def restoredState (w : Word) : Word :=
  let st := bitsOf w 2 0
  let w := if st = stWait then putBits w 10 10 1 else w
  putBits (if st = stReady ∨ st = stWait then putBits w 2 0 stFrozen else w) 9 9 0

def loopAt (bs : List Byte) (i : Nat) : Loop :=
  ⟨wordAt bs i, wordAt bs (i + 1), wordAt bs (i + 2), (wordAt bs (i + 3)).getLsbD 0⟩

def State.threadRestore (s : State) (v : Nat) (f3 : Bool) (gt : Nat) (bs : List Byte) : State :=
  let s := s.setReg (tReg gt 4) (restoredState (wordAt bs 1))
  let s := s.putRegs bs (tReg gt 0) ([(2, 0xFFFFFFFC)] ++ allOf 4 12)
  let s := s.putRegs (bs.drop 0x40) (tCfg gt 0) (allOf 0 4 ++ [(4, 0x10)])
  let s := s.putRegs (bs.drop 0x60) (tSeg gt 0 0) (allOf 0 (if f3 then 64 else 32))
  let s := s.checkDescs v gt
  let r := bs.drop (if f3 then 0x160 else 0xE0)
  let fl := Flags.ofWord (wordAt r 32)
  let pc := wordAt r 33 &&& ~~~ 3
  let depth := min 8 (bitsOf (wordAt (bs.drop 0x40) 4) 3 0).toNat
  let lvl := min 8 (wordAt r 73).toNat
  let g := (List.range 32).foldl (fun m i => Map.set 0 m i (if i = 0 then 0 else wordAt r i)) ([] : Map Word)
  let s := s.modThread gt (fun t => { ({} : Thread) with
    nextOp := t.nextOp, twin := t.twin
    g := g, fn := fl.n, fz := fl.z, fc := fl.c, fv := fl.v
    pc := pc, npc := pc + 4, shadowHi := wordAt r 34
    rs := (List.range depth).map (fun i => wordAt r (36 + i))
    lp0 := loopAt r 44, lp1 := loopAt r 48, lp2 := loopAt r 52
    inbox := pairsAt r 56 lvl })
  let s := s.countWrap (fRoleGen gt)
  s.setBit (fAnyVc gt) ((wordAt r 72).getLsbD 16)

def State.seqRestore (s : State) (n k : Nat) (bs : List Byte) : State :=
  let st := wordAt bs 1
  let was := if bitsOf st 2 0 = sqFaulted then 0 else bitsOf st 2 0
  let s := s.setReg (seqReg n k 4) (if was = 0 then st else putBits st 2 0 sqStopped)
  let s := s.putRegs bs (seqReg n k 0) (allOf 2 7)
  let s := { s with pend := Map.erase s.pend (seqReg n k 0xC) }
  let lvl := wordAt bs 20
  let s := s.modSeq n k (fun x => { x with
    tx := (List.range (min 2 (bitsOf lvl 1 0).toNat)).map (fun i => wordAt bs (16 + i))
    rx := (List.range (min 2 (bitsOf lvl 5 4).toNat)).map (fun i => wordAt bs (18 + i))
    judged := false, ends := none, stamp := none, was := was })
  let m := Map.set 0 s.latched (selSeq n k 0) (min 8 (wordAt bs 21).toNat)
  { s with latched := Map.set 0 m (selSeq n k 1) (min 8 (wordAt bs 22).toNat) }

def edgeAt (bs : List Byte) (i : Nat) : Option EdgeE :=
  let w := wordAt bs (2 * i + 1)
  if w.getLsbD 31 then
    some ⟨(bitsOf w 4 0).toNat, (bitsOf w 9 8).toNat, (bitsOf (wordAt bs (2 * i)) 25 0).toNat, false⟩
  else none

def State.bayRestore (s : State) (f3 : Bool) (n : Nat) (bs : List Byte) : State :=
  let s := s.putRegs bs (bayReg n 0) ((List.range 64).map (fun i => (i, 0xFFFF)))
  let s := (List.range 8).foldl (fun s k => s.seqRestore n k (bs.drop (0x100 + 96 * k))) s
  let s := s.setReg (bayReg n 0x300) (wordAt (bs.drop 0x400) 0 &&& 1)
  s.setEdgeQ n (if f3 then (List.range 16).filterMap (edgeAt (bs.drop 0x410)) else [])

/-- A lane's record; its input may change with INV_IN (R206), and its level with its driver (R201). Outside
START and SERVICE the safe state stays (R207, log 23). -/
def State.laneRestore (s : State) (l : Nat) (bs : List Byte) : State :=
  let old := s.laneIn l
  let wake := s.reg (laneReg l 0) &&& 0x1000
  let safe := s.fld (fSafe l)
  let s := s.putRegs bs (laneReg l 0) [(1, 0x3FF), (2, 0x70), (3, 0xFFFFFFFF)]
  let s := if s.thawed then s else s.setFld (fSafe l) safe
  let s := s.setReg (laneReg l 0) ((wordAt bs 0 &&& 0x33F) ||| wake)
  let s := ({ s with pend := Map.erase s.pend (laneReg l 0) } : State).laneShow l (s.untimedAt (l / 32))
  let s := s.modLane l (fun x => { x with filtFrom := some (s.pt (l / 32)) })
  if s.laneIn l = old then s else s.laneRecord l (s.pt (l / 32) * 4)

/-- A timer's record. `ep` is the image's epoch. -/
def State.timerRestore (s : State) (f3 : Bool) (ep m : Nat) (bs : List Byte) : State :=
  let now := (s.fld fEpoch).toNat
  let st := wordAt bs 2
  let s := (s.disarm m).setReg (tmrReg m 0) (wordAt bs 0)
  let s := s.setReg (tmrReg m 8) (st &&& 0xFFFFFF1C)
  let s := (s.putRegs bs (tmrReg m 0) [(6, 0xFFFFFFFF), (10, 0xFFFFFFFF), (11, 0xFFFFFFFF)])
  let s := [3, 4, 5].foldl (fun s i =>
    (s.setReg (tmrReg m (4 * i)) (wordAt bs (9 + i))).setPend (tmrReg m (4 * i)) (wordAt bs i)) s
  let n := min 4 (bitsOf st 7 5).toNat
  let tag3 (w : Word) : Word := if ep = now then w else w ||| 0x20000000
  let tag2 : Word := BitVec.ofNat 32 (2 ^ 31 + 2 ^ 29 + now % 16 * 16)
  let caps := (List.range n).map (fun i =>
    if f3 then (wordAt bs (16 + 2 * i), tag3 (wordAt bs (17 + 2 * i))) else (wordAt bs (16 + i), tag2))
  s.modTmr m (fun x => { x with
    presc := (wordAt bs 15).toNat, caps := caps, epoch := if n = 0 then none else some now
    wasRun := st.getLsbD 0 })

def State.chanRestore (s : State) (c : Nat) (bs : List Byte) : State :=
  let s := s.setReg (chReg c 4) (putBits (wordAt bs 1) 1 0 (s.fld (fChState c)))
  let s := s.putRegs bs (chReg c 0) (allOf 2 14)
  { s with pend := s.pend.filter (fun p => decide (p.1 < chReg c 0) || decide (chReg c 0x40 ≤ p.1)) }

def State.vecRestore (s : State) (v : Nat) (w : Word) : State :=
  (s.setBit (fHvPend v) (w.getLsbD 16)).setBit (fHvEnable v) (w.getLsbD 17)

def State.mailRestore (s : State) (v : Nat) (bs : List Byte) : State :=
  s.modVc v (fun x => { x with
    toHost := pairsAt bs 0 (min 64 (wordAt bs 256).toNat)
    fromHost := pairsAt bs 128 (min 64 (wordAt bs 257).toNat) })

/-- A restored timer goes on with the compare values and levels of its restored buffer (R252, R474). -/
def State.timerHeld (s : State) (m : Nat) : State :=
  s.modTmr m (fun x => { x with
    cmps := (s.tmrWide m 0x10, s.tmrWide m 0x14), noMatch := (s.bit (fNoMatch m 0), s.bit (fNoMatch m 1)) })

/-- Restore one section: records of n bytes onto the units in turn, as far as whole records were read; the
image's rest. -/
def State.section (p : State × List Byte) (us : List Nat) (n : Nat)
    (f : State → Nat → List Byte → State) : State × List Byte :=
  us.foldl (fun p u => (if p.2.length < n then p.1 else f p.1 u (p.2.take n), p.2.drop n)) p

/-- The second pass (R478, R479). -/
def State.imageApply (s : State) (v : Nat) (f3 : Bool) (ep : Nat) (body : List Byte) : State :=
  let vecs := s.vcVecs v
  let p := State.section (s, body) (s.vcThreads v) (if f3 then 656 else 528) (fun s gt bs => s.threadRestore v f3 gt bs)
  let p := State.section p (s.vcBays v) (if f3 then 1168 else 1040) (fun s n bs => s.bayRestore f3 n bs)
  let p := State.section p (s.vcLanes v) 16 (fun s l bs => s.laneRestore l bs)
  let p := State.section p (s.vcTimers v) (if f3 then 96 else 80) (fun s m bs => s.timerRestore f3 ep m bs)
  let p := ((s.vcTimers v).foldl (fun s m => s.timerHeld m) p.1, p.2)
  let p := State.section p (s.vcChans v) 64 (fun s c bs => s.chanRestore c bs)
  let p := State.section p (s.vcInputs v) 8 (fun s x bs => s.setReg (selAddr x) (wordAt bs 1 &&& 0x6700FFFF))
  let p := State.section p vecs 4 (fun s h bs => s.vecRestore h (wordAt bs 0))
  if f3 then (if p.2.length < 1032 then p.1 else p.1.mailRestore v p.2) else p.1.modVc v (fun x => { x with toHost := [], fromHost := [] })

/-- The first pass accepts the image (R478). -/
def State.imageOk (s : State) (v : Nat) (img : List Byte) : Bool :=
  let w0 := wordAt img 0
  let f := (bitsOf w0 7 0).toNat
  let half (i : Nat) : Nat := ofBytes ((img.drop (8 + 2 * i)).take 2)
  (f == 3 || (f == 2 && (s.reg 0x1000011C).getLsbD 8)) &&
  decide ((bitsOf w0 11 8).toNat ≤ (s.reg 0x10000100).toNat % 16) &&
  (List.range 7).map half == s.imageCounts v && half 7 == (if f = 3 then 1 else 0) &&
  wordAt img 15 == checkCode (img.drop 64)

/-- The bytes of a job's pieces, up to the first that failed. -/
def ImageJob.bytes (j : ImageJob) : List Byte :=
  (j.parts.takeWhile (fun p => p.2.isSome && p.2 != some none)).flatMap (fun p => (p.2.getD none).getD [])

def ImageJob.waits (j : ImageJob) : Bool := j.parts.any (fun p => p.2.isNone)
def ImageJob.failed (j : ImageJob) : Bool := j.bad || j.parts.any (fun p => p.2 == some none)

/-- A SAVE or RESTORE ends with its result. -/
def State.imageEnds (s : State) (v : Nat) (result : Word) : State :=
  (((s.setFld (fImageResult v) result).setBit (fImageBusy v) false).setFld (vcState v) vcFrozen).modVc v
    (fun x => { x with job := none })

/-- A RESTORE goes on from what it has read: after the header it reads the rest, then judges the image and
reads it again, and writes what the second reading brought, as far as it came (R478). -/
def State.imageOn (s : State) (v : Nat) (j : ImageJob) : State :=
  let img := j.head ++ j.bytes
  let n := (wordAt img 1).toNat
  if j.stage = 0 then
    let s := s.modJob v (fun _ => { restore := true, stage := 1, head := img })
    (s.setReg (vctReg v 0x2C) (BitVec.ofNat 32 n)).imageMove v 64 (n - 64) none
  else if j.stage = 1 then
    if s.imageOk v (img.take n) then
      (s.modJob v (fun _ => { restore := true, stage := 2, head := img.take 64 })).imageMove v 0 n none
    else s.imageEnds v imgRejected
  else
    let s := s.imageApply v ((wordAt j.head 0).toNat % 256 == 3) (wordAt j.head 6).toNat (j.bytes.drop 64)
    s.imageEnds v (if j.failed then imgFailed else imgDone)

/-- IMAGE_DONE: once the pieces asked for are answered, a SAVE ends, and a RESTORE goes on or ends. -/
def execImageDone (v : VC) (s : State) : Host.Outcome State Fault Refusal :=
  .next (
    match (s.vc v.val).job with
    | none => s
    | some j =>
      if j.waits then s
      else if j.restore && (!j.failed || (j.stage == 2 && !j.bad)) then s.imageOn v.val j
      else s.imageEnds v.val (if j.failed then imgFailed else imgDone))

end Sys2Proof.Machine
end

