-- ==== Sys2Proof/Machine/Resets.lean ====
section
/-!
DEFINITION. What the entries into START, DORMANT and OFF keep and clear (R464, R480, R515, R518, R519,
R542, R579, R580): each begins from the state after cold reset and lays over it what is kept.
-/
namespace Sys2Proof.Machine

/-- Entries of a map whose keys lie in one of some ranges. -/
def keepIn {α : Type} (rs : List (Nat × Nat)) (m : Map α) : Map α :=
  m.filter (fun p => rs.any (fun r => decide (r.1 ≤ p.1) && decide (p.1 < r.2)))

/-- A state whose registers in some ranges read as they do in s; the model's own parts go on. -/
def State.overlay (s base : State) (rs : List (Nat × Nat)) : State :=
  let kept := keepIn rs s.regs
  let clean := base.regs.filter (fun p => !rs.any (fun r => decide (r.1 ≤ p.1) && decide (p.1 < r.2)))
  { base with
    regs := kept.foldl (fun m p => Map.insert m p.1 p.2) clean
    loft := s.loft
    freeCtr := s.freeCtr
    reqCtr := s.reqCtr
    sip := s.sip
    answers := s.answers
    pending := s.pending
    mode := { cleared := s.mode.cleared, hold := s.mode.hold } }

def recInfoRange : Nat × Nat := (0x10A08000, 0x10A0A000)
def dbgRange : Nat × Nat := (0x10900070, 0x10900074)
def fStep : Fld := ⟨0x10000800, 2, 0⟩
def fKind : Fld := ⟨0x10000800, 5, 4⟩
def kindCold : Word := 0
def kindWake : Word := 1
def kindWarm : Word := 2

def State.modMode (s : State) (f : ModeS → ModeS) : State := { s with mode := f s.mode }

/-! ## Lifecycle clearing (R518, R542) -/

/-- The lifecycle an input code stands for, as a change from another to it acts: BLANK and the codes
above VOID are VOID. -/
def State.lcSeen (s : State) (lc : Nat) : Nat :=
  if lc = 0 ∧ s.mode.cleared ≠ 0 then 5 else min lc 5

/-- Every bank zeroed. -/
def State.zeroBanks (s : State) : State := { s with mem := [], bankFill := [] }

/-- A loft record is zeroed and its mark removed, STORE_COUNT kept. -/
def State.clearRecord (s : State) (r : Nat) : State :=
  (s.setLoftRec r ((s.loftRec r).put 0)).setBit (fRecSecret r) false

/-- The clearing of R542 for a new lifecycle, and its completion noted. Caches are invalidated by the
start that follows; a store under way of a record that is to be zeroed ends without effect. -/
def State.lifecycleClear (s : State) (lc : Nat) : State :=
  let s1 := if lc = 2 ∨ 4 ≤ lc then s.zeroBanks else s
  let recs := List.range 2048
  let stored := match s.store with
    | some (_, secret, _) => lc == 5 || (lc == 4 && secret)
    | none => false
  let s1 := if stored then ({ s1 with store := none } : State).setBit fLoftBusy false else s1
  let s2 :=
    if lc = 4 then recs.foldl (fun s r => if s.bit (fRecSecret r) then s.clearRecord r else s) s1
    else if lc = 5 then recs.foldl (fun s r => s.clearRecord r) s1
    else s1
  (s2.setFld fLc (BitVec.ofNat 32 lc)).modMode (fun m => { m with cleared := lc })

/-! ## DORMANT and OFF -/

/-- The pads of a quadrant are latched at the value and enable that SAFE gives (R533). -/
def State.padHold (s : State) (q : Nat) : State :=
  if s.mode.hold.contains q then s
  else
    let s := (List.range 256).foldl (fun s j =>
      let l := 256 * q + j
      let v := safePair (s.fld (fSafe l))
      s.modLane l (fun x => { x with lnOut := allPhases v.1, lnOe := allPhases v.2 })) s
    { s with mode := { s.mode with hold := s.mode.hold ++ [q] } }

/-- What stays of the lanes: the level at each pad, and what the pads of held quadrants show (R533). -/
def State.keptLanes (s : State) : Map LaneS :=
  (s.lanes.map (fun p => (p.1,
    if s.mode.hold.contains (p.1 / 256) then { pad := p.2.pad, lnOut := p.2.lnOut, lnOe := p.2.lnOe }
    else { pad := p.2.pad }))).filter (fun p => p.2 != {})

/-- DORMANT: everything but the loft and the always-on domain is gone; the quadrants that were powered
hold their pads (R519, R533). -/
def State.toDormant (s : State) : State :=
  let s := (List.range 4).foldl (fun s q => if s.powered (40 + q) then s.padHold q else s) s
  let t := s.overlay State.reset [(0x10A00000, 0x10B80000), (0x10900040, 0x10900080)]
  let t := ((t.setFld fMode modeDormant).setReg 0x1090001C 0x30000).setReg 0x10900024 0x30000
  let t := (t.setReg 0x10900044 0).setReg 0x10000800 0
  { t with store := s.store, lanes := s.keptLanes }

/-- VOID: DORMANT with every wake source disabled (R518). -/
def State.toVoid (s : State) : State :=
  s.toDormant.setFld ⟨0x10900040, 2, 0⟩ 0

/-- OFF: only the loft is left. -/
def State.toOff (s : State) : State :=
  let t := s.overlay State.reset [recInfoRange]
  let t := ((t.setFld fMode 0).setReg 0x1090001C 0).setReg 0x10900024 0
  { (t.setReg 0x10000800 0) with mode := { t.mode with hold := [] } }

/-! ## START of the cold and the DORMANT-wake kind (R480) -/

/-- The board die number shows in every port (R545). -/
def State.setBoardDie (s : State) (k : Word) : State :=
  (List.range 4).foldl (fun s p => s.setFld ⟨brReg p 8, 1, 0⟩ k) s

/-- START begins with the loft and some always-on registers kept; a lifecycle not cleared for is cleared
for first, and VOID stays in DORMANT. -/
def State.startFrom (s : State) (kind : Word) (keep : List (Nat × Nat)) : State :=
  let lc := s.lcSeen (s.fld fLc).toNat
  let s := if lc = s.mode.cleared then s else s.lifecycleClear lc
  if lc = 5 then s.toVoid
  else
    let die := s.fld ⟨brReg 0 8, 1, 0⟩
    let t := ((s.overlay State.reset (recInfoRange :: dbgRange :: keep)).setBoardDie die).setFld fKind kind
    { t with store := if kind = kindWake then s.store else none, lanes := s.keptLanes }

/-- COLD_RESET: with the always-on supply up, the AON counter, DBG_REFUSED and DBG_LAST stay (R480). -/
def execColdReset (boardDie : BitVec 2) (s : State) : Host.Outcome State Fault Refusal :=
  .next (
    if s.fld fMode = modeOff then s
    else (s.setBoardDie (boardDie.setWidth 32)).startFrom kindCold
      [(0x10900060, 0x10900068), (0x10900078, 0x10900080)])

/-- SUPPLY_UP: from OFF. -/
def execSupplyUp (boardDie : BitVec 2) (lc : BitVec 3) (s : State) : Host.Outcome State Fault Refusal :=
  .next (
    if s.fld fMode ≠ modeOff then s
    else ((s.setBoardDie (boardDie.setWidth 32)).setFld fLc (lc.setWidth 32)).startFrom kindCold [])

/-- SUPPLY_LOSS. -/
def execSupplyLoss (s : State) : Host.Outcome State Fault Refusal := .next s.toOff

/-- A wake ends DORMANT with the sources that qualified (R535). -/
def State.wake (s : State) (status : Word) : State :=
  (s.setReg 0x10900044 status).startFrom kindWake [(0x10A00000, 0x10B80000), (0x10900040, 0x10900080)]

/-! ## START of the warm kind -/

/-- Registers a warm start keeps: FEAT and presence; the timebase, but not the arming of timers or a
start at a time; bank control; power domains and the always-on registers; the loft's record marks and
store in progress; the ledger's counts; the bridge's board die number. -/
def warmKept : List (Nat × Nat) :=
  [(0x10000100, 0x10000320), (0x10480000, 0x10480070), (0x10480074, 0x10480080),
   (0x10780000, 0x10781080), (0x10900018, 0x10900028), (0x10900040, 0x10900080),
   (0x10A00004, 0x10A00008), recInfoRange, (0x106C000C, 0x106C0010), (2 ^ 49, 2 ^ 49 + 1024)]

/-- The ledger's shares after every generation has advanced: outstanding entries count as of an old
generation (R370, R464). -/
def State.warmLedger (s t : State) : State :=
  let t := t.setFld fNovcUsed (s.fld fNovcUsed)
  let t := { t with ledger := s.ledger }
  (List.range 64).foldl (fun t v =>
    let u := s.ledgerAdvance v
    let t := t.setReg (0x106C1008 + 0x10 * v) (u.reg (0x106C1008 + 0x10 * v))
    t.setFld (vcGen v) (s.fld (vcGen v) + 1)) t

/-- Numbers of outstanding operations go on, so that a late response finds no operation. -/
def State.warmThreads (s : State) : Map Thread :=
  (s.threads.filter (fun p => p.2.nextOp ≠ 0)).map (fun p => (p.1, { nextOp := p.2.nextOp }))

/-- START of the warm kind: links go down, every thread, unit and virtual complex is reset, and bank
contents stay. The clocks in force stay (R160), the timebase with its pending values, and PT counts on, its
epoch bits those of the timebase (R200, R237, R243); requests of the ledger on their way out leave. -/
def State.warmStart (s : State) : State :=
  let s := (List.range 4).foldl (fun s p => s.linkLost p 0) s
  let die := s.fld ⟨brReg 0 8, 1, 0⟩
  let t := ((s.overlay State.reset warmKept).setBoardDie die).setFld fKind kindWarm
  let t := s.warmLedger t
  let t := (List.range 4).foldl (fun t q =>
    (t.setFld (fPtTime (8 * q)) (BitVec.ofNat 32 (s.pt (8 * q)))).setFld (fPtEpoch (8 * q)) (s.fld fEpoch)) t
  { t with
    pend := keepIn warmKept s.pend, tcycle := s.tcycle, tbHist := s.tbHist, goLate := s.goLate
    xq := s.xq.filter (fun p => match p.2 with | .sip _ => true | _ => false)
    mem := s.mem, bankFill := s.bankFill, offBanks := s.offBanks
    threads := s.warmThreads, lanes := s.keptLanes, store := s.store }

/-- WARM_RESET: in DORMANT a wake, but not in VOID (R518, R581). -/
def execWarmReset (s : State) : Host.Outcome State Fault Refusal :=
  .next (
    let m := s.fld fMode
    if m = modeOff then s
    else if m = modeDormant then (if s.fld fLc = lcVoid then s else s.wake 0)
    else s.warmStart)

/-- LIFECYCLE_CHANGE (R542, R583): in OFF and DORMANT it is seen at the next supply-up or wake. -/
def execLifecycleChange (lc : BitVec 3) (s : State) : Host.Outcome State Fault Refusal :=
  .next (
    let m := s.fld fMode
    let n := s.lcSeen lc.toNat
    if m = modeOff then s
    else if m = modeDormant then (if s.fld fLc = lcVoid then s else s.setFld fLc (lc.setWidth 32))
    else if n = (s.fld fLc).toNat then s
    else
      let s := s.lifecycleClear n
      if n = 5 then s.toVoid else s.warmStart)

end Sys2Proof.Machine
end

