-- ==== Sys2Proof/Machine/Blocks.lean ====
section
/-!
DEFINITION. What a 32-bit write does at each register block (R17 to R22 with the rules of each
chapter), apart from the registers of start-up, of modes and of fault collection. Every command bit
calls the operation that the row of the command calls.
-/
namespace Sys2Proof.Machine

/-! ## Helpers -/

/-- A write of the ordinary register at an offset, its fields judged by `ok`. -/
def State.rowWrite (s : State) (b : Blk) (off : Nat) (data : Word) (ok : FieldSpec → Word → Bool) : State :=
  match b.row off with
  | none => s
  | some r => s.writeRow b off r data ok

/-- A write of the ordinary register at an offset, without the field at bit lo, which the caller
treats. -/
def State.rowWriteBut (s : State) (b : Blk) (off lo : Nat) (data : Word) (ok : FieldSpec → Word → Bool) :
    State :=
  match b.row off with
  | none => s
  | some r => s.writeRow b off { r with fields := r.fields.filter (fun x => x.lo != lo) } data ok

/-- Every field may be written. -/
def anyField (_ : FieldSpec) (_ : Word) : Bool := true

/-- A Stopped-only field where the unit is stopped or not. -/
def ifStopped (still : Bool) (x : FieldSpec) (_ : Word) : Bool := x.cls != .stopped || still

/-! ## Cores (R58 to R76, R83, R84, R119 to R122, R334, R456, R493 to R497) -/

/-- `RENAME_CTL.ENABLE` written 1 may be accepted, judged with the THREAD that stands before the write (R22,
R494). -/
def State.mayRename (s : State) (n : Nat) : Bool :=
  s.thawed && s.renameFeat &&
  (List.range 64).all (fun i => s.fld (fState (64 * n + i)) == stIdle) &&
  !s.det (64 * n + (s.fld ⟨0x10100080 + n * 0x10000, 5, 0⟩).toNat)

/-- A core enters rename mode: ENABLE, ACTIVE, and a START of the thread (R494). DRAINING passes
within the step. -/
def State.renameStart (s : State) (n t : Nat) : State :=
  let s := (s.setBit (fRenameEnable n) true).setFld ⟨0x10100080 + n * 0x10000, 5, 0⟩ (BitVec.ofNat 32 t)
  (s.setBit (fRenameActive n) true).startThread (64 * n + t)

/-- A write of `RENAME_CTL`. -/
def State.writeRenameCtl (s : State) (n : Nat) (data : Word) : State :=
  let t := (bitsOf data 5 0).toNat
  let s1 := s.rowWriteBut (.core n) 0x80 8 data (fun _ _ => s.thawed)
  if data.getLsbD 8 = s.bit (fRenameEnable n) then s1
  else if !s.thawed then s1.refuse (.core n) 0x80
  else if data.getLsbD 8 then
    (if s.mayRename n then s1.renameStart n t else s1.refuse (.core n) 0x80)
  else s1.renameLeave n

/-- A write of `DCACHE_CTL`: clearing an enable flushes (R338, R339). -/
def State.writeDcacheCtl (s : State) (n : Nat) (data : Word) : State :=
  let s1 := if data.getLsbD 0 then s.setBit (fDcEnable n) true else s.dcacheOff n
  let s2 := if data.getLsbD 1 then s1.setBit (fSysCache n) true else s1.sysCacheOff n
  if data.getLsbD 8 ∧ !s.bit (fFlushBusy n) then s2.startFlush n (fun f => { f with all := 0 }) else s2

/-- A write in a core block. -/
def State.writeCore (s : State) (who : Agent) (n off : Nat) (data : Word) (hi : Option Word) : State :=
  if off = 4 then (if data.getLsbD 0 then s.slotCommitBy who n else s)
  else if off = 8 then
    let s := s.rowWrite (.core n) off data anyField
    if data.getLsbD 8 then s.icacheInv n else s
  else if off = 0x40 then s.writeDcacheCtl n data
  else if off = 0x80 then s.writeRenameCtl n data
  else if 0x100 ≤ off ∧ off < 0x200 then s.rowWrite (.core n) off data (fun _ _ => !s.slotPathBad who)
  else if 0x4000 ≤ off ∧ off < 0x8000 then
    s.writeDesc who (64 * n + (off - 0x4000) / 0x100) ((off % 0x100) / 0x10) ((off % 0x10) / 4) data hi
  else match setThreadOf n off with
    | some gt => s.setWrite who gt off data
    | none => s.rowWrite (.core n) off data anyField

/-! ## Bays and lanes (R206 to R235) -/

/-- Values a field of a bay register may take, where the register is a sequencer's or the bay's. -/
def bayValueOk (off : Nat) (x : FieldSpec) (new : Word) : Bool :=
  let r := if off < 0x300 then off % 0x40 else off
  if r = 0x0C ∧ x.lo = 15 then decide (1 ≤ new.toNat) && decide (new.toNat ≤ 5)
  else if r = 0x10 ∧ x.lo = 4 then decide (1 ≤ new.toNat) && decide (new.toNat ≤ 32)
  else if off = 0xF00 ∧ x.lo = 0 then decide (10 ≤ new.toNat) && decide (new.toNat ≤ 24)
  else true

/-- START ≤ ENTRY ≤ END in a word of `SEQ_RANGE`. -/
def rangeOrdered (w : Word) : Bool :=
  bitsOf w 5 0 ≤ bitsOf w 21 16 && bitsOf w 21 16 ≤ bitsOf w 13 8

/-- A write in a bay block. -/
def State.writeBay (s : State) (who : Agent) (n off : Nat) (data : Word) : State :=
  if off < 0x100 then s.progWrite n (off / 4) data
  else if off < 0x300 then
    let k := (off - 0x100) / 0x40
    let r := off % 0x40
    if r = 0 then s.writeSeqCtl n k data
    else if r = 0x28 then s.txwArrive who n k data
    else s.rowWrite (.bay n) off data (fun x new =>
      ifStopped (s.seqStill n k) x new && bayValueOk off x new && (r != 0x08 || rangeOrdered data))
  else if off = 0x304 then s.writeBayGo n data
  else if off = 0x308 then
    (if data.getLsbD 0 then s.bayCommit n else s)
  else s.rowWrite (.bay n) off data (bayValueOk off)

/-- What a lane's filter works by (R205). -/
def State.laneFilter (s : State) (l : Nat) : Nat × Nat := (s.filtLen l, s.filtUnit l)

/-- A write in a lane block. What it changes of the lane's driven level reaches the bundle, and a write that
changes FILT_LEN or FILT_UNIT starts the filter again (R201, R205). Until record 0x001 is loaded SAFE reads 0b10,
whatever is written (R482). -/
def State.writeLane (s : State) (l off : Nat) (data : Word) : State :=
  let early := off == 4 && s.fld fMode == modeStart && !s.start.loaded
  let w := State.rowWrite s (.lane l) off data (fun x new =>
    if off = 0 ∧ x.lo = 0 then decide (new.toNat ≤ 9)
    else if off = 4 ∧ x.lo = 8 then s.thawed && new != 3
    else true)
  let s1 := if early then w.setFld (fSafe l) (s.fld (fSafe l)) else w
  let s2 := if s1.laneDriven l = s.laneDriven l then s1 else s1.laneShow l (s.untimedAt (l / 32))
  if s2.laneFilter l = s.laneFilter l then s2
  else s2.modLane l (fun x => { x with filtFrom := some (s.pt (l / 32)) })

/-! ## Timers and the timebase (R240, R244, R249, R263, R265) -/

/-- A write in a timer block. -/
def State.writeTimer (s : State) (m off : Nat) (data : Word) : State :=
  if off = 4 then s.writeTmrCmd m data
  else s.rowWrite (.timer m) off data (fun x _ =>
    ifStopped (!s.bit (fRunning m)) x 0 &&
    (off != 0 || x.lo != 3 || (decide (m % 2 = 0) && !s.bit (fRunning (m + 1)))))

/-- A write in the timebase block. -/
def State.writeTimebase (s : State) (off : Nat) (data : Word) : State :=
  if off = 0 then s.writeTbCmd data
  else if off = 0x70 then (if data.getLsbD 0 then s.writeGsGo else s)
  else if off = 0x74 then
    (if data.getLsbD 0 = s.bit fGoAtEn then s
     else if data.getLsbD 0 then s.goAtEnable else { (s.setBit fGoAtEn false) with goLate := false })
  else if 0x100 ≤ off ∧ off < 0x180 then
    let i := (off - 0x100) / 4
    let there := (List.range 32).foldl (fun w j => putBits w j j (boolWord (s.timerPresent (32 * i + j)))) 0
    s.rowWrite .timebase off (data &&& there) anyField
  else s.rowWrite .timebase off data (fun x new =>
    ifStopped (!s.bit fGoAtEn) x new && (off != 0x24 || decide (2 ≤ new.toNat)))

/-! ## The router (R270 to R273, R287) -/

/-- A write in the router block. -/
def State.writeRouter (s : State) (who : Agent) (off : Nat) (data : Word) : State :=
  if off < 0xB800 then s.writeSelect who (off / 4) data
  else if 0x18000 ≤ off ∧ off < 0x1C000 ∧ !s.corePresent ((off - 0x18000) / 8 / 64) then s
  else s.rowWrite .router off data (fun _ _ =>
    isManager who || !(decide (0x18000 ≤ off) && decide (off < 0x1C000) && off % 8 == 0))

/-! ## Engines, pools and the silo (R373 to R415) -/

/-- A write in an engine block; the ring registers are Stopped-only, and a channel is stopped while
IDLE. -/
def State.writeEngine (s : State) (e off : Nat) (data : Word) : State :=
  if off < 0x2000 then
    let c := 32 * e + off / 0x100
    if !s.chanPresent c then s
    else if off % 0x100 = 0 then s.writeChCmd c data
    else s.rowWrite (.engine e) off data (fun x new =>
      ifStopped (s.fld (fChState c) == chIdle) x new &&
      (off % 0x100 != 0x24 || x.lo != 16 || (decide (1 ≤ new.toNat) && decide (new.toNat ≤ 16))))
  else s.rowWrite (.engine e) off data anyField

/-- Fields of a pool's registers. -/
def State.poolFieldOk (s : State) (who : Agent) (p r : Nat) (x : FieldSpec) (new : Word) : Bool :=
  (isManager who || decide (0x18 ≤ r)) && ifStopped (!s.bit (fPoolOn p)) x new &&
  (if r = 0 ∧ x.lo = 16 then decide (new.toNat ≤ 8)
   else if r = 0 ∧ x.lo = 8 then decide (4 ≤ new.toNat) && decide (new.toNat ≤ 26)
   else true)

/-- A write in the registers of a pool. -/
def State.writePool (s : State) (who : Agent) (off : Nat) (data : Word) : State :=
  let p := off / 0x40
  let r := off % 0x40
  let s1 := s.rowWriteBut .bm off (if r = 0 then 31 else 99) data (s.poolFieldOk who p r)
  if r ≠ 0 then s1
  else s1.poolCmd who p (data.getLsbD 31) (fun s1 => if data.getLsbD 31 then s1.poolEnable s p else s1.poolDisable p)

/-- SILO_RD may move to a value: not above WR nor more than a ring below it (R409). -/
def State.siloRdOk (s : State) (new : Word) : Bool :=
  decide ((s.reg (siloReg 0x10) - new).toNat ≤ s.siloRing)

/-- A write in the silo's registers. -/
def State.writeSilo (s : State) (off : Nat) (data : Word) : State :=
  let r := off - 0x2000
  if r = 0 then
    let s1 := s.rowWriteBut .bm off 31 data (fun x new =>
      ifStopped (!s.bit fSiloOn) x new &&
      (x.lo != 25 || (decide (4 ≤ new.toNat) && decide (new.toNat ≤ 24))))
    if data.getLsbD 31 then s1.siloEnable s else s1.siloDisable
  else if r = 0x14 then s.rowWrite .bm off data (fun _ new => s.siloRdOk new)
  else if r = 0x1C then s.writeSiloCmd data
  else if r = 0x20 ∨ r = 0x24 then s.refuse .bm off
  else s.rowWrite .bm off data (ifStopped (!s.bit fSiloOn))

/-- A write in the block of the buffer manager and the silo. -/
def State.writeBm (s : State) (who : Agent) (off : Nat) (data : Word) : State :=
  if off < 0x1000 then s.writePool who off data
  else if off = 0x1000 then s.writeBmCtl who data
  else if off = 0x1008 then s.poolFree data
  else if 0x2000 ≤ off ∧ off < 0x2030 then s.writeSilo off data
  else s.rowWrite .bm off data anyField

/-! ## Ledger, directory, banks, loft (R307, R321, R325, R360, R371) -/

/-- RESERVE and the quotas add up to at most 15,360 with one of them at a new value (R365). -/
def State.sharesOk (s : State) (a : Nat) (new : Word) : Bool :=
  let at' (x : Fld) : Nat := if x.addr = a then new.toNat else (s.fld x).toNat
  decide (at' fReserve + ((List.range 64).map (fun v => at' (fQuota v))).foldl (· + ·) 0 ≤ 15360)

/-- A write in the ledger block. -/
def State.writeLedger (s : State) (who : Agent) (off : Nat) (data : Word) : State :=
  s.rowWrite .ledger off data (fun _ new =>
    if off = 0 then decide (10 ≤ new.toNat) && decide (new.toNat ≤ 30)
    else if off = 8 ∨ (0x1000 ≤ off ∧ off < 0x1400) then
      isManager who && s.sharesOk (0x106C0000 + off) new
    else true)

/-- A write in the directory block. -/
def State.writeDir (s : State) (off : Nat) (data : Word) : State :=
  if off = 4 then (if data.getLsbD 0 then s.fenceGo else s) else s.rowWrite .dir off data anyField

/-- A write in the bank control block. -/
def State.writeBanks (s : State) (off : Nat) (data : Word) : State :=
  if off < 0xA00 then
    (if s.bankPresent (off / 8) then (if off % 8 = 0 then s.writeBankCtl (off / 8) data else s) else s)
  else if off = 0x2000 then
    let s1 := s.rowWrite .banks off data (fun x new => x.lo != 16 || decide (new.toNat < 320))
    if data.getLsbD 0 then s1.marchGo else s1
  else s.rowWrite .banks off data anyField

/-- A write in the loft controller block. -/
def State.writeLoft (s : State) (off : Nat) (data : Word) : State :=
  if off = 0 then
    (if data.getLsbD 0 then s.loftGo (bitsOf data 26 16).toNat (data.getLsbD 1) else s)
  else s.rowWrite .loftCtl off data anyField

/-! ## The winnower (R424, R441, R449, R450) -/

/-- A pair counts as stopped while OFF, STOPPED or BROKEN (R450). -/
def State.pairStopped (s : State) (p : Nat) : Bool :=
  let st := s.fld (fTwinState p)
  st == twOff || st == twStopped || st == twBroken

/-- A write in the winnower's own registers; there are none where FEAT0.TWIN is 0. -/
def State.writeWin (s : State) (off : Nat) (data : Word) : State :=
  if !s.twinFeat then s
  else if off = 4 then
    let s1 := s.rowWrite .win off data anyField
    if data.getLsbD 0 then s1.winInject else s1
  else if 0x1000 ≤ off ∧ off < 0x5000 then
    let p := (off - 0x1000) / 0x40
    let r := off % 0x40
    if r = 0x0C then s.writeTwinCmd p data
    else
      let s1 := s.rowWrite .win off data (fun x new =>
        ifStopped (s.pairStopped p) x new &&
        (r != 4 ||
          (if x.lo = 16 ∨ x.lo = 12 ∨ x.lo = 8 then new != 0
           else if x.lo = 0 then decide (6 ≤ new.toNat) && decide (new.toNat ≤ 16)
           else true)))
      if r = 0 ∧ s.fld (fTwinState p) = twStopped then s1.memberChange p else s1
  else s.rowWrite .win off data (fun _ new =>
    off != 8 || (decide (10 ≤ new.toNat) && decide (new.toNat ≤ 30)))

/-! ## Bridge ports (R548, R554) -/

/-- A write in a bridge port block. -/
def State.writeBridge (s : State) (who : Agent) (p off : Nat) (data : Word) : State :=
  if off = 0 then s.writeBrCtl who p data
  else s.rowWrite (.bridge p) off data (fun _ _ => isManager who || off < 0x100)

/-! ## The virtual complex table, host vectors and the bulk port (R293, R415, R457, R458) -/

/-- The command of a virtual complex that a bit of `VC_CMD` names. -/
def State.vcCommand (s : State) (v : Nat) (data : Word) : State :=
  match (bitsOf data 6 0).toNat with
  | 0 => s
  | 1 => s.vcCreate v
  | 2 => s.vcReset v
  | 4 => s.vcRemove v
  | 8 => s.vcFreeze v
  | 16 => s.vcThaw v
  | 32 => s.vcImage v false
  | 64 => s.vcImage v true
  | _ => s.vcNo v

/-- FREE or FROZEN (R458). -/
def State.vcStopped (s : State) (v : Nat) : Bool :=
  s.fld (vcState v) == vcFree || s.fld (vcState v) == vcFrozen

/-- A write through a path that the registers of a block do not accept: refused unless it would change
nothing (R22, R458). -/
def State.foreignWrite (s : State) (b : Blk) (off : Nat) (data : Word) : State :=
  match b.row off with
  | none => s
  | some r =>
    let a := b.base + off
    let acts (x : FieldSpec) : Bool :=
      let new := bitsOf data x.hi x.lo
      match x.acc with
      | .rw => new != (if x.cls = .commit then bitsOf (s.pendReg a) x.hi x.lo else s.fld ⟨a, x.hi, x.lo⟩)
      | .rc => false
      | _ => new != 0
    if r.fields.any acts then s.refuse b off else s

/-- A write in the virtual complex table. -/
def State.writeVct (s : State) (who : Agent) (off : Nat) (data : Word) : State :=
  if 0x2000 ≤ off ∧ off < 0x3A00 then s.writeOwners who off data
  else if !isManager who ∧ (0x1000 ≤ off ∨ (off % 0x40 ≠ 0x10 ∧ off % 0x40 ≠ 0x14)) then s.foreignWrite .vct off data
  else if 0x1000 ≤ off then s.rowWrite .vct off data anyField
  else
    let v := off / 0x40
    let r := off % 0x40
    if r = 0x10 ∨ r = 0x14 then
      (if isManager who ∨ s.threadOf who v then s else s.refuse .vct off)
    else if r = 0 then s.vcCommand v data
    else
      let s1 := s.rowWrite .vct off data (fun x new =>
        ifStopped (s.vcStopped v) x new &&
        (if r = 8 ∧ x.lo = 0 then new == 1 || new == 2
         else if r = 0x28 then new == 2 || new == 3
         else true))
      if r = 8 ∧ s1.fld (fMaxRev v) = 1 then s1.modVc v (fun x => { x with select := 1 }) else s1

/-- A level keeps the PEND bit of vector v set (R294). -/
def State.vecHeld (s : State) (v : Nat) : Bool := s.levelHeld (selVec v) && !s.vecResetting (selVec v)

/-- The PEND bits of word j that a W1C write of `data` clears: a level that is held sets its bit again in the
same cycle (R13, R294). -/
def State.pendClears (s : State) (j : Nat) (data : Word) : Word :=
  (List.range 32).foldl (fun w b => if s.vecHeld (32 * j + b) then w &&& ~~~ ((1 : Word) <<< b) else w) data

/-- A write in the host vector and bulk port block; BASE and LIMIT of context 64 accept nothing else
than the others do. -/
def State.writeHv (s : State) (who : Agent) (off : Nat) (data : Word) : State :=
  if 0x100 ≤ off ∧ off < 0x920 then
    let k := (off - 0x100) / 0x20
    let r := off % 0x20
    if r = 0 then s.writeBulkAddr k data
    else if r = 4 then
      let s1 := s.rowWrite .hv off data anyField
      if data.getLsbD 0 then s1 else s1.bulkDrop k
    else s.rowWrite .hv off data (fun _ _ => isManager who || (r != 0x10 && r != 0x14))
  else s.rowWrite .hv off (if off < 0x40 then s.pendClears (off / 4) data else data) anyField

/-! ## A write at a block -/

/-- A write at an offset of a block whose unit is there, of 32 bits or with `hi` of the base of a descriptor
whole. Start-up registers, modes and fault collection are written elsewhere. -/
def State.blockSet (s : State) (who : Agent) (b : Blk) (off : Nat) (data : Word) (hi : Option Word) : State :=
  match b with
  | .glob => s
  | .core n => s.writeCore who n off data hi
  | .bay n => s.writeBay who n off data
  | .lane l => s.writeLane l off data
  | .timer m => s.writeTimer m off data
  | .timebase => s.writeTimebase off data
  | .router => s.writeRouter who off data
  | .engine e => s.writeEngine e off data
  | .bm => s.writeBm who off data
  | .ledger => s.writeLedger who off data
  | .dir => s.writeDir off data
  | .banks => s.writeBanks off data
  | .win => if off < 0x8000 then s.writeWin off data else s
  | .power => s
  | .loftCtl => s.writeLoft off data
  | .loftWin => s.refuse .loftWin off
  | .bridge p => s.writeBridge who p off data
  | .vct => s.writeVct who off data
  | .hv => s.writeHv who off data

end Sys2Proof.Machine
end

