-- ==== Sys2Proof/Machine/Sha.lean ====
section
/-!
DEFINITION. The SHA-384 digest that authentication uses (R174, R500, R501): the spec names the function
and its sigma steps; the constants, padding and rounds are those of the published standard (log 24).
-/
namespace Sys2Proof.Machine

/-- The largest x whose e-th power does not pass n, its top bits given and i more to find. -/
def rootFloor (e n : Nat) : Nat → Nat → Nat
  | 0, x => x
  | i + 1, x => rootFloor e n i (if (x + 2 ^ i) ^ e ≤ n then x + 2 ^ i else x)

/-- The first 64 bits of the fraction of the e-th root of p, for a root below 8. -/
def rootFraction (e p : Nat) : BitVec 64 := BitVec.ofNat 64 (rootFloor e (p * 2 ^ (64 * e)) 67 0)

/-- The first 80 primes: below 410 a number without a divisor from 2 to 20 is prime. -/
def shaPrimes : List Nat :=
  (List.range 410).filter (fun p => 2 ≤ p && (List.range 21).all (fun d => d < 2 || p ≤ d || p % d != 0))

/-- The round constants, from cube roots. -/
def shaK : List (BitVec 64) := shaPrimes.map (rootFraction 3)

/-- The initial hash value of SHA-384, from square roots of the ninth to the sixteenth prime. -/
def shaH : List (BitVec 64) := ((shaPrimes.drop 8).take 8).map (rootFraction 2)

/-- The four sigma functions. -/
def bigSigma0 (x : BitVec 64) : BitVec 64 := x.rotateRight 28 ^^^ x.rotateRight 34 ^^^ x.rotateRight 39
def bigSigma1 (x : BitVec 64) : BitVec 64 := x.rotateRight 14 ^^^ x.rotateRight 18 ^^^ x.rotateRight 41
def smallSigma0 (x : BitVec 64) : BitVec 64 := x.rotateRight 1 ^^^ x.rotateRight 8 ^^^ (x >>> 7)
def smallSigma1 (x : BitVec 64) : BitVec 64 := x.rotateRight 19 ^^^ x.rotateRight 61 ^^^ (x >>> 6)

/-- Eight working variables. -/
structure ShaS where
  a : BitVec 64
  b : BitVec 64
  c : BitVec 64
  d : BitVec 64
  e : BitVec 64
  f : BitVec 64
  g : BitVec 64
  h : BitVec 64
  deriving DecidableEq, Repr

def ShaS.ofList (l : List (BitVec 64)) : ShaS :=
  ⟨l.getD 0 0, l.getD 1 0, l.getD 2 0, l.getD 3 0, l.getD 4 0, l.getD 5 0, l.getD 6 0, l.getD 7 0⟩

def ShaS.add (x y : ShaS) : ShaS :=
  ⟨x.a + y.a, x.b + y.b, x.c + y.c, x.d + y.d, x.e + y.e, x.f + y.f, x.g + y.g, x.h + y.h⟩

/-- One round with its constant and schedule word. -/
def ShaS.round (x : ShaS) (k w : BitVec 64) : ShaS :=
  let t1 := x.h + bigSigma1 x.e + ((x.e &&& x.f) ^^^ (~~~ x.e &&& x.g)) + k + w
  let t2 := bigSigma0 x.a + ((x.a &&& x.b) ^^^ (x.a &&& x.c) ^^^ (x.b &&& x.c))
  ⟨t1 + t2, x.a, x.b, x.c, x.d + t1, x.e, x.f, x.g⟩

/-- The rounds over the constants; `w` holds the next sixteen schedule words. -/
def shaRounds (ks : List (BitVec 64)) (w : List (BitVec 64)) (x : ShaS) : ShaS :=
  match ks with
  | [] => x
  | k :: r =>
    let w16 := smallSigma1 (w.getD 14 0) + w.getD 9 0 + smallSigma0 (w.getD 1 0) + w.getD 0 0
    shaRounds r (w.drop 1 ++ [w16]) (x.round k (w.getD 0 0))

/-- A number from bytes, the first most significant. -/
def beNat (bs : List Byte) : Nat := bs.foldl (fun v b => v * 256 + b.toNat) 0

/-- n bytes of a number, the most significant first. -/
def beBytes (n v : Nat) : List Byte := (List.range n).map (fun i => BitVec.ofNat 8 (v / 256 ^ (n - 1 - i)))

/-- The blocks of 128 bytes. -/
def shaBlocks (n : Nat) (bs : List Byte) (x : ShaS) : ShaS :=
  match n with
  | 0 => x
  | k + 1 =>
    let w := (List.range 16).map (fun i => BitVec.ofNat 64 (beNat ((bs.drop (8 * i)).take 8)))
    shaBlocks k (bs.drop 128) (x.add (shaRounds shaK w x))

/-- The SHA-384 digest of bytes, as 48 bytes. -/
def sha384 (bs : List Byte) : List Byte :=
  let zeros := (239 - bs.length % 128) % 128
  let padded := bs ++ [0x80] ++ List.replicate zeros 0 ++ beBytes 16 (8 * bs.length)
  let x := shaBlocks (padded.length / 128) padded (ShaS.ofList shaH)
  [x.a, x.b, x.c, x.d, x.e, x.f].flatMap (fun v => beBytes 8 v.toNat)

end Sys2Proof.Machine
end

