-- ==== Sys2Proof/Machine/Start.lean ====
section
/-!
DEFINITION. START (R480 to R512): the steps of the start sequencer and the boot engine, the start-up
registers, release, failures, and rename mode.
-/
namespace Sys2Proof.Machine

/-! ## Start-up registers (R484, R485) -/

def startReg (off : Nat) : Nat := 0x10000000 + off
def fHeld : Fld := ⟨startReg 0x800, 7, 7⟩
def fSlot : Fld := ⟨startReg 0x800, 9, 9⟩
def fRecovery : Fld := ⟨startReg 0x800, 10, 10⟩
def fTrusted : Fld := ⟨startReg 0x800, 11, 11⟩
def fFail : Fld := ⟨startReg 0x800, 23, 16⟩
def fReject : Fld := ⟨startReg 0x800, 27, 24⟩
def fCfgBad : Fld := ⟨loftReg 4, 5, 5⟩

def State.modStart (s : State) (f : StartS → StartS) : State := { s with start := f s.start }

/-- START is at a step and has not failed. -/
def State.atStep (s : State) (k : Word) : Bool :=
  s.fld fMode == modeStart && s.fld fStep == k && !s.bit fHeld

/-- A step ends: its stamp, whose value is the time it took (log 7), and the next step. -/
def State.stepEnds (s : State) (k : Nat) : State :=
  let s := s.setReg (startReg (0x800 + 4 * k)) (Config.freeWord s.freeCtr)
  s.drawn.setFld fStep (BitVec.ofNat 32 ((k + 1) % 8))

/-- A terminal failure (R510, R512). -/
def State.startFail (s : State) (code : Word) : State :=
  let s := (s.setFld fFail code).setBit fHeld true
  let s := s.start.cores.foldl (fun s n => s.renameLeave n) (s.modStart (fun x => { x with sec := none }))
  s.faultSafe 4

/-! ## Step 1: fuses (R47, R48, R486, R589, R590) -/

/-- Fuse word i as last loaded, kept beside the registers. -/
def fuseReg (i : Nat) : Nat := 2 ^ 49 + i

/-- A value within bounds, or a default. -/
def within (lo hi d v : Nat) : Nat := if lo ≤ v ∧ v ≤ hi then v else d

/-- PCLK bytes within 10 to 200, others 20. -/
def fusePclk (w : Word) : Word :=
  (List.range 4).foldl (fun (x : Word) q =>
    putNat x (8 * q + 7) (8 * q) (within 10 200 20 (bitsOf w (8 * q + 7) (8 * q)).toNat)) 0

/-- The fields the fuse words load: in a warm start the clocks in force stay. -/
def State.loadFuses (s : State) (w : Nat → Word) (warm : Bool) : State :=
  let s := (List.range 724).foldl (fun s i => s.setReg (fuseReg i) (w i)) s
  let s := s.setBit ⟨0x10000100, 9, 9⟩ ((w 0).getLsbD 0)
  let s := s.setBit ⟨0x10000100, 7, 7⟩ ((w 0).getLsbD 1)
  let units := bitsOf (w 3) 19 0
  let s := ((s.setReg 0x10000114 (w 1)).setReg 0x10000310 (w 1)).setReg 0x10000118 (w 2)
  let s := ((s.setReg 0x10000314 (w 2)).setReg 0x10000110 units).setReg 0x10000318 units
  let cclk := BitVec.ofNat 32 (within 400 1600 400 (bitsOf (w 4) 15 0).toNat)
  let s := (s.setFld ⟨modeReg 0x10, 15, 0⟩ cclk).setReg (modeReg 0x14) (fusePclk (w 5))
  let s := if warm then s else (s.setFld fCclk cclk).setReg 0x1000010C (fusePclk (w 5))
  let s := s.setFld ⟨0x10000108, 31, 16⟩ (BitVec.ofNat 32 (200 + Config.tclkAbove200.val))
  let s := (List.range 10).foldl (fun s i => s.setReg (0x10781000 + 4 * i)
    (w (6 + i) &&& ~~~ (if warm then s.reg (0x10781040 + 4 * i) else 0))) s
  let s := (List.range 32).foldl (fun s i =>
    s.setReg (0x10000200 + 4 * i)
      (if (w 2).getLsbD i ∧ units.getLsbD (16 + i / 8) then w (656 + i) else 0)) s
  let s := (List.range 32).foldl (fun s i =>
    s.setReg (0x10000280 + 4 * i) (if (w 1).getLsbD i then w (688 + i) else 0)) s
  (List.range 4).foldl (fun s i =>
    s.setReg (0x10000300 + 4 * i) (if units.getLsbD (8 + i) then w (720 + i) else 0)) s

/-- Every requested power domain has acknowledged, and in a cold start or a wake all are requested
(R526). -/
def State.ranksUp (s : State) : Bool :=
  s.reg 0x10900018 == s.reg 0x10900020 && s.reg 0x1090001C == s.reg 0x10900024 &&
  (s.fld fKind == kindWarm || (s.reg 0x10900020 == 0xFFFFFFFF && s.reg 0x10900024 == 0x3FFFF))

/-- FUSE_LOAD: `words` as the fuse bus gives them, words past the list being zero. -/
def execFuseLoad (words : List Word) (parityOk : Bool) (s : State) : Host.Outcome State Fault Refusal :=
  .next (
    let w (i : Nat) : Word := words.getD i 0
    let warm := s.fld fKind == kindWarm
    if !s.atStep 1 || !s.ranksUp then s
    else if !parityOk || (warm && (List.range 724).any (fun i => s.reg (fuseReg i) != w i)) then
      s.startFail 1
    else (s.loadFuses w warm).stepEnds 1)

/-! ## Step 2: the loft header and repairs (R320, R487, R488, R590) -/

/-- A word of the configuration header, or the default 0 where it is bad. -/
def State.hdrWord (s : State) (off : Nat) : Word := wordAt s.start.hdr (off / 4)

/-- Fused repairs of a bank: the valid bits of its two words. -/
def State.fusedRepairs (s : State) (g : Nat) : Nat :=
  let lo := s.reg (fuseReg (16 + 2 * g))
  let hi := s.reg (fuseReg (17 + 2 * g))
  ([lo.getLsbD 9, lo.getLsbD 19, lo.getLsbD 29, hi.getLsbD 9].filter id).length

/-- The header as record 0x000 gives it, when its check code and FORMAT are right. -/
def State.goodHeader (s : State) : List Byte :=
  let bs := s.loftBytes 0
  if wordAt bs 63 = checkCode (bs.take 252) ∧ bitsOf (wordAt bs 0) 15 0 = 1 then bs else []

/-- Record 2 + i matches its check code in the header. -/
def State.repairOk (s : State) (i : Nat) : Bool := s.hdrWord (0x14 + 4 * i) == checkCode (s.loftBytes (2 + i))

/-- Repairs of one bank: the fused, and of the soft ones, whose layout in the records the spec leaves
open, a free number within the spare columns (log 25). -/
def State.repairBank (s : State) (soft : Bool) (g : Nat) : State :=
  let n := s.fusedRepairs g
  if soft then
    let k := n + (Config.freeWord s.freeCtr).toNat % (5 - n)
    s.drawn.setFld (fSpares g) (BitVec.ofNat 32 k)
  else s.setFld (fSpares g) (BitVec.ofNat 32 n)

/-- REPAIR_AND_HEADER; a warm start reads the header only, and the steering stays (R480). -/
def execRepairAndHeader (s : State) : Host.Outcome State Fault Refusal :=
  .next (
    if !s.atStep 2 then s
    else
      let hdr := s.goodHeader
      let s := s.modStart (fun x => { x with hdr := hdr })
      let warm := s.fld fKind == kindWarm
      let oks := (List.range 4).filter (fun i => !hdr.isEmpty && s.repairOk i)
      let s := if hdr.isEmpty ∨ (!warm ∧ oks.length ≠ 4) then s.setBit fCfgBad true else s
      let s := if warm then s else
        (List.range 320).foldl (fun s g => if s.bankPresent g then s.repairBank (!oks.isEmpty) g else s) s
      s.stepEnds 2)

/-! ## Step 3: banks (R319, R322, R323, R480, R489) -/

/-- A bank is woken to ON, cleared or with undefined contents where it was OFF. -/
def State.bankUp (s : State) (g : Nat) : State :=
  let s := s.setFld (fPower g) psOn
  if s.fld (fPstate g) = psOn then s
  else
    let s := s.bankWoken g
    if s.fld (fPstate g) = psClearing then s.bankCleared g else s

/-- One bank is woken, tested and handed to CORES, or withdrawn. `MARCH_STATUS` shows the last. -/
def State.bankTest (s : State) (warm : Bool) (g : Nat) (fails : List (BitVec 11 × BitVec 9)) (again : Bool) :
    State :=
  let s := ((s.bankUp g).setFld (fOwnerKind g) 4).setBit (fDraining g) false
  let r := s.marchJudge g warm true fails again
  let s := r.2.setReg (marchReg 4) (BitVec.ofNat 32 (g * 2 ^ 16 + r.1.toNat * 2))
  if r.1 = 3 then s
  else
    let s := (s.setFld (fOwnerKind g) 1).setFld (fOwnerEngine g) 0
    if warm then s else s.setBit (fScrub g) false

/-- BANK_WAKE_AND_MARCH: `fails` gives of each bank that failed its failing bits and whether the repeat
after a soft repair failed. -/
def execBankWakeAndMarch (fails : List (Bank × List (BitVec 11 × BitVec 9) × Bool)) (s : State) :
    Host.Outcome State Fault Refusal :=
  .next (
    if !s.atStep 3 then s
    else
      let warm := s.fld fKind == kindWarm
      let s := (List.range 320).foldl (fun s g =>
        if !s.bankPresent g then s
        else match fails.find? (fun f => f.1.val == g) with
          | some f => s.bankTest warm g f.2.1 f.2.2
          | none => s.bankTest warm g [] false) s
      s.stepEnds 3)

/-! ## Step 4: comparators (R441, R490) -/

def execComparatorInjection (pass : BitVec 8) (s : State) : Host.Outcome State Fault Refusal :=
  .next (
    if !s.atStep 4 then s
    else
      let s := if s.twinFeat then
          (List.range 8).foldl (fun s u => s.unitResult u (pass.getLsbD u)) s
        else s
      s.stepEnds 4)

/-! ## Step 5: the boot engine (R491 to R505) -/

/-- Eligible cores: present, with bank 0 present. -/
def State.eligible (s : State) : List Nat :=
  (List.range 32).filter (fun n => s.corePresent n && s.bankPresent (4 * n))

/-- The boot cores (R491). -/
def State.bootCores (s : State) : List Nat :=
  let named := s.eligible.filter (fun n => (s.hdrWord 4).getLsbD n)
  let cs := (if named.isEmpty then s.eligible else named).take 4
  if s.renameFeat then cs else s.eligible.take 1

/-- The staging area: the eight highest granary banks present. -/
def State.staging (s : State) : List Nat :=
  (((List.range 192).map (fun j => 319 - j)).filter (fun g => s.bankPresent g)).take 8

/-- n bytes, those past the list being zero. -/
def padBytes (n : Nat) (bs : List Byte) : List Byte := (bs ++ List.replicate (n - bs.length) 0).take n

/-- Instruction caches lose every line of a bank. -/
def State.icacheBank (s : State) (g : Nat) : State :=
  let kept := s.icache.map (fun p => (p.1, p.2.filter (fun l => bankOf (l.1 * 64) != some g)))
  { s with icache := kept.filter (fun p => p.2 != []) }

/-- The ROM copied into a boot core's bank 0 (R492). Segment 7 of thread 0 covers it (log 26). -/
def State.bootCore (s : State) (rom : List Byte) (n : Nat) : State :=
  let base := bankBase (4 * n)
  let s := (s.setBytes base (padBytes 32768 rom)).icacheBank (4 * n)
  let gt := 64 * n
  let s := (s.setReg (tSeg gt 7 0) (BitVec.ofNat 32 base)).setReg (tSeg gt 7 4) 0
  (s.setReg (tSeg gt 7 8) 0x7FFF).setReg (tSeg gt 7 0xC) 0xB

/-- Thread 0 of a boot core begins: in rename mode, or where FEAT0.RENAME is 0 in slots 0, 4, …, 60 of
a committed table (R494, R498). -/
def State.bootThread (s : State) (n : Nat) : State :=
  if s.renameFeat then s.renameStart n 0
  else
    let s := (List.range 16).foldl (fun s i =>
      (s.setReg (slotTable n (4 * i)) 0x80000000).setReg (slotLive n (4 * i)) 0x80000000) s
    s.startThread (64 * n)

/-- The boot records match CHK_BOOT (R499). -/
def State.bootRecordsOk (s : State) : Bool :=
  let n := (bitsOf (s.hdrWord 0xC) 7 0).toNat
  s.hdrWord 0x24 == checkCode ((List.range n).flatMap (fun i => s.loftBytes (0x40 + i)))

/-- The beginning of step 5: failures of R487, R491, R492 and R499, the ROM copy, and the boot
threads. -/
def State.bootBegin (s : State) (rom : List Byte) : State :=
  if s.start.hdr.isEmpty then s.startFail 2
  else if s.eligible.isEmpty then s.startFail 0x21
  else if s.staging.length < 8 then s.startFail 0x22
  else
    let cs := s.bootCores
    let s := s.modStart (fun x => { x with
      booted := true, cores := cs, reserved := cs.map (fun n => 4 * n) ++ s.staging })
    let s := cs.foldl (fun s n => (s.bootCore rom n).bootThread n) s
    if s.bootRecordsOk then s else s.startFail 3

/-! ### The manifest (R500, R501) -/

/-- Word of a byte list at a byte offset, and a 64-bit pair of words. -/
def manWord (bs : List Byte) (off : Nat) : Nat := ofBytes ((bs.drop off).take 4)
def manLong (bs : List Byte) (off : Nat) : Nat := ofBytes ((bs.drop off).take 8)

/-- A chunk entry. -/
structure Chunk where
  dst    : Nat
  stored : Nat
  placed : Nat
  comp   : Bool
  regs   : Bool
  digest : List Byte
  deriving DecidableEq, Repr

def chunkAt (man : List Byte) (k : Nat) : Chunk :=
  let b := (man.drop (0x140 + 80 * k)).take 80
  let f := manWord b 0x18
  ⟨manLong b 8, manWord b 0x10, manWord b 0x14, f % 2 == 1, f / 2 % 2 == 1, (b.drop 0x20).take 48⟩

def chunksOf (man : List Byte) : List Chunk := (List.range (manWord man 8)).map (chunkAt man)

/-- The checks of step 3 of R501: none, or the REJECT code. -/
def State.manifestCheck (s : State) (man : List Byte) : Option Word :=
  let f := manWord man 4
  let n := manWord man 8
  let sig := manWord man 0x10
  if manWord man 0 ≠ 0x43495441 ∨ f % 256 ≠ 1 then some 1
  else if (s.reg 0x10000100 &&& 0xF).toNat < f / 256 % 16 then some 2
  else if n = 0 ∨ 1024 < n ∨ sig = 0 ∨ 1024 < sig then some 1
  else if manWord (s.loftBytes 0x40) 0x14 < ((chunksOf man).map (fun c => c.stored)).foldl (· + ·) 0 then some 1
  else none

/-- The manifest's digest. -/
def manDigest (man : List Byte) : List Byte := sha384 (man.take (manWord man 0xC))

/-- Record 0x041 holds a valid digest equal to one (R499, R503). -/
def State.trusts (s : State) (d : List Byte) : Bool :=
  (s.hdrWord 8).getLsbD 2 && s.start.tries != 2 &&
  manWord (s.loftBytes 0x41) 0x30 == 1 && (s.loftBytes 0x41).take 48 == d

/-- A destination in memory: present, not withdrawn, not reserved bins or granary banks (R501). -/
def State.dstMemOk (s : State) (a n : Nat) : Bool :=
  n == 0 ||
  (match bankOf a, bankOf (a + n - 1) with
    | some g, some h =>
      (decide (g < 128) == decide (h < 128)) && decide (g ≤ h) &&
      (List.range (h + 1 - g)).all (fun i => s.bankPresent (g + i) && !s.start.reserved.contains (g + i))
    | _, _ => false)

/-- A block that REGS chunks may write. -/
def regsBlock (b : Option Blk) : Bool :=
  match b with
  | some (.core _) => true
  | some (.bay _) => true
  | some (.lane _) => true
  | some (.timer _) => true
  | some .timebase => true
  | some .router => true
  | some (.engine _) => true
  | some .bm => true
  | some .dir => true
  | _ => false

def regsOk (a n : Nat) : Bool :=
  a % 4 == 0 && n % 4 == 0 && (List.range (n / 4)).all (fun i => regsBlock (blockOf (a + 4 * i)))

/-- Step 5 of R501 for every chunk. -/
def State.chunksOk (s : State) (cs : List Chunk) : Bool :=
  cs.all (fun c => if c.regs then regsOk c.dst c.placed else s.dstMemOk c.dst c.placed) &&
  cs.zipIdx.all (fun p => cs.zipIdx.all (fun q =>
    p.2 == q.2 || p.1.placed == 0 || q.1.placed == 0 ||
    decide (p.1.dst + p.1.placed ≤ q.1.dst) || decide (q.1.dst + q.1.placed ≤ p.1.dst)))

/-- REGS writes in address order; whether one was refused. The first boot core's thread writes. -/
def State.placeRegs (s : State) (a : Nat) (ws : List Word) : State × Bool :=
  match ws with
  | [] => (s, false)
  | w :: r =>
    match blockOf a with
    | none => (s, false)
    | some b =>
      let who := Agent.thread (Fin.ofNat 2048 (64 * s.start.cores.headD 0))
      let f (s : State) : State := s.blockSet who b (a - b.base) w none
      if !s.blkPresent b then s.placeRegs (a + 4) r
      else if (s.watched b (a - b.base) f).2 then (f s, true)
      else (f s).placeRegs (a + 4) r

/-- One chunk: none where it is placed, or the REJECT code. -/
def State.placeChunk (s : State) (c : Chunk) (stored : List Byte) (fetched : Bool) (out : Option (List Byte)) :
    State × Option Word :=
  if !fetched then (s, some 6)
  else if sha384 stored ≠ c.digest then (s, some 4)
  else
    let bytes := if c.comp then out else some (stored.take c.placed)
    match bytes with
    | none => (s, some 7)
    | some bs =>
      if c.comp ∧ bs.length ≠ c.placed then (s, some 7)
      else if c.regs then
        let p := s.placeRegs c.dst (wordsOf bs (bs.length / 4))
        (p.1, if p.2 then some 8 else none)
      else
        let lines := linePieces (bs.length / 64 + 2) c.dst 0 bs.length
        (lines.foldl (fun s l => s.bankWrite l.1 ((bs.drop l.2.1).take l.2.2)) s, none)

/-- The chunks in manifest order, up to the first rejection; how many were begun. -/
def State.placeAll (s : State) (img : BootImage) (cs : List Chunk) (k : Nat) : State × Option Word × Nat :=
  match cs with
  | [] => (s, none, k)
  | c :: r =>
    let st := img.stored.getD k []
    let p := s.placeChunk c (padBytes c.stored st) (!img.busErr || decide (c.stored ≤ st.length)) (img.placed.getD k none)
    match p.2 with
    | some e => (p.1, some e, k + 1)
    | none => p.1.placeAll img r (k + 1)

/-- An image is rejected (R504): its memory destinations are zeroed, and the next is tried. -/
def State.reject (s : State) (code : Word) (written : List Chunk) : State :=
  let s := (s.setFld fReject code).modStart (fun x => { x with sec := none })
  let s := written.foldl (fun s c =>
    if c.regs then s
    else (linePieces (c.placed / 64 + 2) c.dst 0 c.placed).foldl
      (fun s l => s.bankWrite l.1 (List.replicate l.2.2 0)) s) s
  if s.start.tries = 0 then s.modStart (fun x => { x with tries := 1 })
  else if s.start.tries = 1 then
    (if (s.hdrWord 8).getLsbD 1 then s.modStart (fun x => { x with tries := 2 }) else s.startFail 0x11)
  else s.modStart (fun x => { x with recovery := false })

/-- An accepted manifest: AUTH, and which image (R485). -/
def State.accepted (s : State) : State :=
  let b := (s.hdrWord 8).getLsbD 3 != (s.start.tries == 1)
  let s := ((s.setBit fAuth true).setBit fTrusted false).setBit fRecovery (s.start.tries == 2)
  s.setBit fSlot (s.start.tries != 2 && b)

/-- Steps 5 and 6 of R501. -/
def State.placeImage (s : State) (img : BootImage) : State :=
  let cs := chunksOf img.man
  if !s.chunksOk cs then s.reject 5 []
  else
    let p := s.placeAll img cs 0
    match p.2.1 with
    | some e => p.1.reject e (cs.take p.2.2)
    | none =>
      let s := p.1.modStart (fun x => { x with sec := none, mask := wordsOf (img.man.drop 0x40) 64 })
      s.stepEnds 5

/-- Steps 2 to 4 of R501 for the image tried. A fetch that failed before the manifest was whole rejects
the image. -/
def State.tryImage (s : State) (img : BootImage) : State :=
  let want := max 0x140 (manWord img.man 0xC + manWord img.man 0x10)
  if img.busErr ∧ img.man.length < want then s.reject 6 []
  else match s.manifestCheck img.man with
    | some e => s.reject e []
    | none =>
      if s.trusts (manDigest img.man) then (s.accepted.setBit fTrusted true).placeImage img
      else s.modStart (fun x => { x with sec := some img })

/-- The boot engine waits for a doorbell (R501, R504). -/
def State.bootWaits (s : State) : Bool :=
  if s.start.tries = 2 then !s.start.recovery else (s.hdrWord 8).getLsbD 0 && !s.start.ready

/-- BOOT_AUTHENTICATION: step 5 begins, and the image tried runs up to a signature request or to its
end. The image is as fetches from its addresses bring it. -/
def execBootAuthentication (rom man : List Byte) (stored : List (List Byte))
    (placed : List (Option (List Byte))) (busErr : Bool) (s : State) : Host.Outcome State Fault Refusal :=
  .next (
    if !s.atStep 5 || s.start.sec.isSome then s
    else
      let s := if s.start.booted then s else s.bootBegin rom
      if s.bit fHeld || s.bootWaits then s else s.tryImage ⟨man, stored, busErr, placed⟩)

/-- SEC_DONE (R503, R584). -/
def execSecDone (pass : Bool) (s : State) : Host.Outcome State Fault Refusal :=
  .next (
    match s.start.sec with
    | none => s
    | some img =>
      if !s.atStep 5 then s
      else if !pass then s.reject 3 []
      else
        let s := s.accepted
        let d := manDigest img.man
        let s := if (s.hdrWord 8).getLsbD 2 ∧ s.start.tries ≠ 2 ∧ !s.trusts d then
            (s.modStart (fun x => { x with digest := d })).storeDigest
          else s
        s.placeImage img)

/-- A write of `BOOT_DOORBELL`, through the Manager window or the Debug-safety window (R485). -/
def State.doorbell (s : State) (who : Agent) (data : Word) : State :=
  if !isManager who then s.refuse .glob 0x820
  else if s.fld fMode ≠ modeStart then s
  else s.modStart (fun x => { x with
    ready := x.ready || data.getLsbD 0, recovery := x.recovery || data.getLsbD 1 })

def execBootDoorbellReady (who : Agent) (s : State) : Host.Outcome State Fault Refusal :=
  .next (s.doorbell who 1)
def execBootDoorbellRecovery (who : Agent) (s : State) : Host.Outcome State Fault Refusal :=
  .next (s.doorbell who 2)

/-! ## Step 6: configuration (R332, R333, R506, R507) -/

/-- A lane's safe-state code in record 0x001. -/
def safeCode (bs : List Byte) (l : Nat) : Nat := (bs.getD (l / 4) 0).toNat / 4 ^ (l % 4) % 4

/-- A lane is made static at its safe state, the pending values of its commit group staying. -/
def State.laneConfig (s : State) (ok : Bool) (bs : List Byte) (l : Nat) : State :=
  let c := safeCode bs l
  let s := s.setFld (fSafe l) (if !ok || c == 3 then 2 else BitVec.ofNat 32 c)
  let p := s.pendReg (laneReg l 0)
  let s := s.laneStatic l
  s.setPend (laneReg l 0) p

/-- The hardware part of step 6. -/
def State.configLanes (s : State) : State :=
  let bs := s.loftBytes 1
  let ok := s.hdrWord 0x10 == checkCode bs
  let bad := !ok || (List.range 1024).any (fun l => safeCode bs l == 3)
  let s := (List.range 1024).foldl (fun s l => s.laneConfig ok bs l) s
  let s := (List.range 32).foldl (fun s n => s.bayEmpty n) s
  let s := if bad then s.setBit fCfgBad true else s
  s.modStart (fun x => { x with loaded := true })

/-- The byte of records 0x042 and 0x043 for a bank that step 6 writes. -/
def State.bankByte (s : State) (g : Nat) : Option Nat :=
  if s.start.reserved.contains g ∨ !s.bankPresent g then none
  else some ((s.loftBytes (0x42 + g / 256)).getD (g % 256) 0).toNat

/-- A bank's owner after step 6; one marked OFF goes to NONE. -/
def State.configBank (s : State) (g : Nat) : State :=
  match s.bankByte g with
  | none => s
  | some b =>
    if b < 128 then s.handover s g (BitVec.ofNat 32 (b % 8)) (BitVec.ofNat 32 (b / 16 % 4))
    else s.handover s g 0 0

/-- A bank marked OFF whose power has not been requested. -/
def State.offDue (s : State) (g : Nat) : Bool :=
  (match s.bankByte g with | some b => decide (128 ≤ b) | none => false) && s.fld (fPower g) != psOff

/-- The power of a bank marked OFF is requested once it is drained (R305, R308). -/
def State.configOff (s : State) (g : Nat) : State :=
  if !s.offDue g then s
  else
    let s := if s.drained g then s.setBit (fDraining g) false else s
    if s.bit (fDraining g) then s else s.bankPower s g psOff

/-- LOFT_CONFIGURATION; the step ends once the power of every bank marked OFF has been requested. -/
def execLoftConfiguration (s : State) : Host.Outcome State Fault Refusal :=
  .next (
    if !s.atStep 6 then s
    else
      let s := if s.start.loaded then s
        else
          let s := (List.range 320).foldl (fun s g => s.configBank g) s.configLanes
          (List.range 64).foldl (fun s i =>
            s.setReg (startReg (0x900 + 4 * i)) (s.start.mask.getD i 0 &&& s.thereMask .glob (0x900 + 4 * i))) s
      let s := (List.range 320).foldl (fun s g => s.configOff g) s
      if (List.range 320).any (fun g => s.offDue g) then s else s.stepEnds 6)

/-! ## Release (R485, R498, R508) -/

/-- A thread that may write `BOOT_RELEASE` and `REL_MASK`: in rename mode, or where FEAT0.RENAME is 0
the boot thread. -/
def State.bootWriter (s : State) (who : Agent) : Bool :=
  match who with
  | .thread gt =>
    (s.renaming (gt.val / 64) && s.renameThread (gt.val / 64) == gt.val % 64) ||
    (!s.renameFeat && s.start.cores.any (fun n => gt.val == 64 * n))
  | _ => false

/-- An accepted release; the watchdog count starts again (R531). -/
def State.release (s : State) : State :=
  let s := s.start.reserved.foldl (fun s g => (s.zeroBank g).icacheBank g) s
  let s := s.start.cores.foldl (fun s n => s.renameLeave n) s
  let s := (List.range 32).foldl (fun s n => if s.bit (fRenameEnable n) then s.renameLeave n else s) s
  let s := s.stepEnds 7
  let s := (s.setMode modeRun).modStart (fun x => { x with release := true })
  (s.modMode (fun m => { m with expired := false })).limpIfDue

/-- A write of `BOOT_RELEASE` with RELEASE set. -/
def State.releaseBy (s : State) (who : Agent) : State :=
  if s.bootWriter who ∧ s.bit fAuth ∧ s.fld fMode = modeStart ∧ s.fld fStep = 7 then s.release
  else s.refuse .glob 0x830

def execBootRelease (who : Agent) (s : State) : Host.Outcome State Fault Refusal :=
  .next (s.releaseBy who)

/-- RELEASE_START: at wheel position 0 the masked threads that own slots are started together. -/
def execReleaseStart (s : State) : Host.Outcome State Fault Refusal :=
  .next (
    if !s.start.release then s
    else
      let due := allThreads.filter (fun gt =>
        (s.reg (startReg (0x900 + 4 * (gt / 32)))).getLsbD (gt % 32) && s.corePresent (gt / 64) &&
        s.slotsOwned gt != 0 && s.fld (fState gt) == stIdle)
      (due.foldl (fun s gt => s.startThread gt) s).modStart (fun x => { x with release := false }))

/-- START_TIMEOUT (R511). -/
def execStartTimeout (s : State) : Host.Outcome State Fault Refusal :=
  .next (
    if s.fld fMode = modeStart ∧ !s.bit fHeld ∧ bitsOf (s.hdrWord 8) 31 16 ≠ 0 then s.startFail 0x20 else s)

/-- A write in the global block (R484, R485, R599). -/
def State.writeGlob (s : State) (who : Agent) (off : Nat) (data : Word) : State :=
  if off = 0x820 then s.doorbell who data
  else if off = 0x830 then
    (if data.getLsbD 0 then s.releaseBy who else if s.bootWriter who then s else s.refuse .glob off)
  else
    s.rowWrite .glob off (data &&& s.thereMask .glob off)
      (fun _ _ =>
        if off = 0x828 ∨ off = 0x82C then isManager who && s.thawed
        else if 0x900 ≤ off then s.bootWriter who && s.thawed
        else true)

/-! ## Rename mode (R493 to R497) -/

def execRenameEnter (who : Agent) (n : Core) (t : Fin 64) (s : State) : Host.Outcome State Fault Refusal :=
  .next (s.atBlock who (.core n.val) 0x80 (fun s => s.writeRenameCtl n.val (BitVec.ofNat 32 (256 + t.val))))
def execRenameExit (who : Agent) (n : Core) (s : State) : Host.Outcome State Fault Refusal :=
  .next (s.atBlock who (.core n.val) 0x80 (fun s =>
    s.writeRenameCtl n.val (s.reg (0x10100080 + n.val * 0x10000) &&& ~~~ 0x100)))

end Sys2Proof.Machine
end

