-- ==== Sys2Proof/Machine/Modes.lean ====
section
/-!
DEFINITION. Modes, clocks, power domains, fault collection, wakes and debug commands (R514 to R535,
R540, R543, R544).
-/
namespace Sys2Proof.Machine

/-! ## The entry into SERVICE (R522) -/

/-- A virtual complex is FREE, its owner entries cleared and its generation advanced (R464). -/
def State.vcFreed (s : State) (v : Nat) : State :=
  let s := ((s.ledgerAdvance v).countWrap (vcGen v)).dropOwners v
  (s.setFld (vcState v) vcFree).modVc v (fun _ => {})

/-- An item on its way to or from the sequencers or the edge queue of a bay. -/
def bayItem (p : Crossing × XItem) : Bool :=
  match p.2 with
  | .edge _ _ _ _ => true
  | .write _ a _ _ _ => (match blockOf a with
    | some (.bay n) => decide (bayReg n 0x100 ≤ a) && decide (a < bayReg n 0x300)
    | _ => false)
  | _ => false

/-- The units of a bay at reset values: sequencers, staging registers, edge queue. -/
def State.bayReset (s : State) (n : Nat) : State :=
  let s := s.resetRange (bayReg n 0x100) (bayReg n 0x300)
  { s with
    seqs := s.seqs.filter (fun p => p.1 / 8 != n)
    edges := Map.erase s.edges n
    latched := s.latched.filter (fun p => decide (p.1 < 10240 + 16 * n) || decide (10240 + 16 * n + 16 ≤ p.1))
    held := s.held.filter (fun p => decide (p.1 < 10240 + 16 * n) || decide (10240 + 16 * n + 16 ≤ p.1))
    credits := s.credits.filter (fun p => p.1 / 8 != n && p.1 != edgeKey n) }

/-- A present bank is woken and zeroed. -/
def State.bankWiped (s : State) (g : Nat) : State :=
  if !s.bankPresent g then s
  else
    let s := ((s.zeroBank g).setFld (fPower g) psOn).setFld (fPstate g) psOn
    { s with offBanks := s.offBanks.filter (fun x => x != g) }

/-- Step 3 of R522: what the caches leave undone is gone before the banks are zeroed. -/
def State.serviceWipe (s : State) : State :=
  let s := (List.range 32).foldl (fun s c => s.dropCaches c) s
  let s := (List.range 320).foldl (fun s g => s.bankWiped g) s
  let ts := s.threads.map (fun p => (p.1, { p.2 with
    g := [], fn := false, fz := false, fc := false, fv := false, lineBuf := [] }))
  { s with threads := ts.filter (fun p => p.2 != {}) }

/-- The entry into SERVICE, down notices first (R552). -/
def State.enterService (s : State) : State :=
  let s := (List.range 4).foldl (fun s p => if s.linkIsUp p then s.linkPush p .notice else s) s
  let s := s.modStart (fun x => { x with sec := none, release := false })
  let s := (List.range 32).foldl (fun s n => s.renameLeave n) s
  let s := allThreads.foldl (fun s gt => s.stopFully gt) s
  let s := (List.range 32).foldl (fun s n => s.bayReset n) { s with xq := s.xq.filter (fun p => !bayItem p) }
  let s := (List.range 1024).foldl (fun s m => s.timerReset m) s
  let s := (List.range 128).foldl (fun s c => s.chanReset c) s
  let s := (List.range 64).foldl (fun s v => s.vcFreed v) s
  let s := if s.fld fLc = lcDevelop then s else s.serviceWipe
  let s := (List.range 1024).foldl (fun s l => s.laneStatic l) s
  s.setMode modeService

/-! ## Mode requests (R515, R516, R519) -/

def fLcService (lc : Word) : Bool := lc == lcDevelop || lc == lcFieldService || lc == lcReturned

/-- A request is refused. -/
def State.modeNo (s : State) : State := s.refuse .power 0

/-- DORMANT is on its way (R519, steps 1 to 3): threads, sequencers, timers and channels stop; a global fence
is opened, every data cache flushed, and lines of the host-side agent recalled. -/
def State.dormantBegin (s : State) : State :=
  let s := allThreads.foldl (fun s gt => s.stopFully gt) s
  let s := (List.range 32).foldl (fun s n => s.bayStop n) s
  let s := (List.range 1024).foldl (fun s m => if s.bit (fRunning m) then (s.setBit (fRunning m) false).disarm m else s) s
  let s := (List.range 128).foldl (fun s c => if s.fld (fChState c) = chActive then s.chAbort c else s) s
  let s := ({ s with mode := { s.mode with goal := some 1 } } : State).setBit fModeBusy true
  let s := s.fenceOpen
  let s := (List.range 32).foldl (fun s c => if s.corePresent c then s.startFlush c (fun f => { f with all := 0 }) else s) s
  s.home (s.dir.map (fun p => p.1))

/-- Step 3 of R519 is done, and posted bulk writes and aborted channels of step 2 are: what leaves the complex
has left and is answered. -/
def State.dormantQuiet (s : State) : Bool :=
  !s.bit fFenceBusy && (List.range 32).all (fun c => !s.corePresent c || !s.bit (fFlushBusy c)) &&
  s.dir.all (fun p => match p.2 with
    | some e => !e.sharers.contains 32
    | none => true) &&
  s.bulks.all (fun p => p.2.posted.isEmpty) &&
  (List.range 128).all (fun c => s.fld (fChState c) != chAborting) &&
  s.ledgerQ.isEmpty && s.ledger.all (fun p => match p.2 with
    | some e => e.limbo
    | none => true)

/-- DORMANT may be entered: every virtual complex FREE, no loft store under way (R516). -/
def State.mayDormant (s : State) : Bool :=
  (List.range 64).all (fun v => s.fld (vcState v) == vcFree) && !s.bit fLoftBusy

/-- A request for mode m, from an agent that may make one and with no transition under way. -/
def State.modeGo (s : State) (m : Word) : State :=
  let here := s.fld fMode
  if m = modeDormant then
    (if here ≠ modeStart ∧ s.mayDormant then s.dormantBegin else s.modeNo)
  else if m = modeRun then
    (if here = modeService then s.warmStart
     else if here = modeLimp ∧ s.reg 0x10808008 = 0 ∧ !s.bit fFaultSafe then
       s.modeAtCclk modeRun (s.fld ⟨modeReg 0x10, 15, 0⟩)
     else s.modeNo)
  else if m = modeLimp then (if here = modeRun then s.enterLimp else s.modeNo)
  else if m = modeService then
    (if here ≠ modeService ∧ fLcService (s.fld fLc) then s.enterService else s.modeNo)
  else s.modeNo

/-- A request through a path and at a time R516 allows, in a mode that makes transitions. -/
def State.modeReq (s : State) (who : Agent) (f : State → State) : State :=
  if s.fld fMode = modeOff ∨ s.fld fMode = modeDormant then s
  else if !isManager who ∨ s.bit fModeBusy then s.modeNo
  else f s

def execModeReqDormant (who : Agent) (s : State) : Host.Outcome State Fault Refusal :=
  .next (s.modeReq who (fun s => s.modeGo modeDormant))
def execModeReqRun (who : Agent) (s : State) : Host.Outcome State Fault Refusal :=
  .next (s.modeReq who (fun s => s.modeGo modeRun))
def execModeReqService (who : Agent) (s : State) : Host.Outcome State Fault Refusal :=
  .next (s.modeReq who (fun s => s.modeGo modeService))

/-- MODE_REQ_LIMP: a request, or with no agent a fence or FAULT_SAFE that has fallen due. -/
def execModeReqLimp (who : Option Agent) (s : State) : Host.Outcome State Fault Refusal :=
  .next (
    match who with
    | some w => s.modeReq w (fun s => s.modeGo modeLimp)
    | none => s.limpIfDue)

/-! ## Clock changes (R521) -/

/-- The commit group asks for a PCLKq other than the one in force. -/
def State.pclkMoves (s : State) (q : Nat) : Bool :=
  bitsOf (s.pendReg (modeReg 0x14)) (8 * q + 7) (8 * q) != s.fld (fPclk q)

/-- The bays of a quadrant are still: sequencers STOPPED or FAULTED, edge queues empty. -/
def State.quadStill (s : State) (q : Nat) : Bool :=
  (List.range 8).all (fun i =>
    (List.range 8).all (fun k => s.seqStill (8 * q + i) k) && (s.edgeQ (8 * q + i)).isEmpty)

/-- `MODE_CTL.CLOCK`. -/
def State.clockGo (s : State) : State :=
  let here := s.fld fMode
  let cclk := bitsOf (s.pendReg (modeReg 0x10)) 15 0
  let qs := (List.range 4).filter (fun q => s.pclkMoves q)
  if (here ≠ modeRun ∧ here ≠ modeService) ∨ cclk.toNat < 400 ∨ 1600 < cclk.toNat ∨
      !(qs.all (fun q => s.quadStill q)) then s.modeNo
  else
    let cs := (if cclk = s.fld fCclk then [] else [(0, cclk.toNat)]) ++
      qs.map (fun q => (q + 1, (bitsOf (s.pendReg (modeReg 0x14)) (8 * q + 7) (8 * q)).toNat))
    let s := (s.commitReg (modeReg 0x10)).commitReg (modeReg 0x14)
    if cs.isEmpty then s else s.askClocks cs 0

def execClockChange (who : Agent) (s : State) : Host.Outcome State Fault Refusal :=
  .next (s.modeReq who (fun s => s.clockGo))

/-- A write of `MODE_CTL` (R516, R544). -/
def State.writeModeCtl (s : State) (who : Agent) (data : Word) : State :=
  let r := bitsOf data 2 0
  if r = 0 ∧ !data.getLsbD 4 then (if isManager who then s else s.modeNo)
  else s.modeReq who (fun s =>
    if data.getLsbD 4 then (if r = 0 then s.clockGo else s.modeNo) else s.modeGo r)

/-! ## Power domains (R523 to R526, R533) -/

/-- A domain's bit of `PD_REQ` may be cleared. -/
def State.mayPowerDown (s : State) (i : Nat) : Bool :=
  let low (g : Nat) : Bool := let p := s.fld (fPstate g); p == psRetention || p == psOff
  if i < 32 then
    (List.range 64).all (fun t => s.fld (fState (64 * i + t)) == stIdle) && !s.renaming i &&
    (List.range 4).all (fun b => !s.bankPresent (4 * i + b) || (s.fld (fOwnerKind (4 * i + b)) == 0 && low (4 * i + b)))
  else if i < 40 then
    (List.range 24).all (fun j => let g := 128 + 24 * (i - 32) + j; !s.bankPresent g || low g)
  else if i < 44 then s.quadStill (i - 40)
  else if i = 46 then (List.range 4).all (fun p => s.portStopped p)
  else false

/-- A request bit of a domain changes: before a core goes its data cache is flushed, before a quadrant
its pads are held. -/
def State.pdRequest (s : State) (i : Nat) (on : Bool) : State :=
  let s := s.setBit ⟨0x10900018 + 4 * (i / 32), i % 32, i % 32⟩ on
  if on then s
  else if i < 32 then s.startFlush i (fun f => { f with all := 0 })
  else if 40 ≤ i ∧ i < 44 then s.padHold (i - 40)
  else s

/-- A write of one half of `PD_REQ`, each bit judged alone. -/
def State.writePdReq (s : State) (hi : Bool) (data : Word) : State :=
  let first := if hi then 32 else 0
  let p := (List.range (if hi then 18 else 32)).foldl (fun (p : State × Bool) j =>
    let i := first + j
    let old := (s.reg (0x10900018 + 4 * (i / 32))).getLsbD j
    let new := data.getLsbD j
    if new = old ∨ !s.dieHas i then p
    else if (new && !(decide (i < 32) && s.bit (fFenced i))) || (!new && s.mayPowerDown i) then
      (p.1.pdRequest i new, p.2)
    else (p.1, true)) (s, false)
  if p.2 then p.1.refuse .power (if hi then 0x1C else 0x18) else p.1

def execPdReqWrite (who : Agent) (hi : Bool) (data : Word) (s : State) : Host.Outcome State Fault Refusal :=
  .next (s.atBlock who .power (if hi then 0x1C else 0x18) (fun s => s.writePdReq hi data))

/-- A core domain is released with cold-reset values; what names its threads as members of a pair lies
elsewhere (R426), and the model's operation numbers go on. -/
def State.coreUp (s : State) (n : Nat) : State :=
  let s := (s.dropCaches n).resetRange (0x10100000 + n * 0x10000) (0x10110000 + n * 0x10000)
  let ts := s.threads.map (fun p => (p.1, if p.1 / 64 = n then { ({} : Thread) with twin := p.2.twin, nextOp := p.2.nextOp } else p.2))
  { s with
    threads := ts.filter (fun p => p.2 != {})
    capture := Map.erase s.capture n }

/-- A quadrant domain is released with cold-reset values; SAFE stays as the loft gave it, the epoch bits are
the timebase's (R237), and the pad hold is released. -/
def State.quadUp (s : State) (q : Nat) : State :=
  let ls := (List.range 256).map (fun j => 256 * q + j)
  let safes := ls.map (fun l => (l, s.fld (fSafe l)))
  let s := (List.range 8).foldl (fun s i => s.bayReset (8 * q + i)) s
  let s := s.resetRange (bayReg (8 * q) 0) (bayReg (8 * q + 8) 0)
  let s := s.resetRange (laneReg (256 * q) 0) (laneReg (256 * q + 256) 0)
  let s := ls.foldl (fun s l => s.modLane l (fun x => { pad := x.pad })) s
  let s := safes.foldl (fun s p => s.setFld (fSafe p.1) p.2) s
  let s := s.setFld (fPtEpoch (8 * q)) (s.fld fEpoch)
  s.modMode (fun m => { m with hold := m.hold.filter (fun x => x != q) })

/-- The bridge domain is released with cold-reset values; SELF is a strap, and lock is the SerDes's. -/
def State.bridgeUp (s : State) : State :=
  let die := s.fld ⟨brReg 0 8, 1, 0⟩
  let s := (s.resetRange 0x10C00000 0x10C40000).setBoardDie die
  { s with links := (s.links.filter (fun p => p.2.locked)).map (fun p => (p.1, { locked := true })), routes := [] }

/-- The logic of a domain as it is when its power has come up. -/
def State.domainUp (s : State) (i : Nat) : State :=
  if i < 32 then s.coreUp i
  else if 40 ≤ i ∧ i < 44 then s.quadUp (i - 40)
  else if i = 46 then s.bridgeUp
  else s

/-- Domains of a rank (R523). -/
def rankOf (i : Nat) : Nat :=
  if i < 32 then 3 else if i < 40 then 2 else if i < 44 then 3
  else if i = 44 ∨ i = 47 then 1 else if i = 45 ∨ i = 46 then 2 else 0

/-- Every domain of a rank is powered. -/
def State.rankDone (s : State) (r : Nat) : Bool := (List.range 50).all (fun i => rankOf i != r || s.powered i)

/-- In step 1 of START from OFF or DORMANT, the next rank is requested once one is complete (R526). -/
def State.nextRank (s : State) : State :=
  if s.atStep 1 && s.fld fKind != kindWarm then
    let s := if s.rankDone 1 then s.setReg 0x1090001C 0x3F0FF else s
    if s.rankDone 1 && s.rankDone 2 then (s.setReg 0x10900018 0xFFFFFFFF).setReg 0x1090001C 0x3FFFF else s
  else s

/-- `PD_STAT` of a domain. -/
def fPdStat (i : Nat) : Fld := ⟨0x10900020 + 4 * (i / 32), i % 32, i % 32⟩

/-- A domain powers down on the way into DORMANT, in reverse rank order, quadrants with their pads held; after
the last, DORMANT (R519, steps 4 to 6). -/
def State.dormantDown (s : State) (i : Nat) : State :=
  if rankOf i = 0 ∨ !s.powered i ∨ !s.dormantQuiet ∨
      (List.range 50).any (fun j => decide (rankOf i < rankOf j) && s.powered j) then s
  else
    let s := if 40 ≤ i ∧ i < 44 then s.padHold (i - 40) else s
    let s := s.setBit (fPdStat i) false
    if (List.range 50).any (fun j => rankOf j != 0 && s.powered j) then s else s.toDormant

/-- PD_ACK: the power manager answers a domain's request. -/
def execPdAck (i : Fin 50) (s : State) : Host.Outcome State Fault Refusal :=
  .next (
    let i := i.val
    let f := fPdStat i
    let want := (s.reg (0x10900018 + 4 * (i / 32))).getLsbD (i % 32)
    if s.mode.goal = some 1 then s.dormantDown i
    else if want = s.bit f then s
    else if want then ((s.domainUp i).setBit f true).nextRank
    else if i < 32 ∧ s.bit (fFlushBusy i) then s
    else
      let s := if i < 32 then s.dropCaches i else s
      s.setBit f false)

/-! ## Fault collection (R527 to R532, R586) -/

/-- FC_CMD.SAFE. -/
def State.fcSafe (s : State) : State := s.faultSafe 1

/-- FC_CMD.RELEASE (R530). -/
def State.fcRelease (s : State) (who : Agent) : State :=
  if (s.fld fMode = modeLimp ∨ s.fld fMode = modeService) ∧ isManager who ∧ !s.bit fPwrLost then
    (s.setBit fFaultSafe false).setFld fSafeCause 0
  else s.refuse .win 0x8004

def execFcSafe (who : Agent) (s : State) : Host.Outcome State Fault Refusal :=
  .next (s.atBlock who .win 0x8004 (fun s => s.fcSafe))
def execFcRelease (who : Agent) (s : State) : Host.Outcome State Fault Refusal :=
  .next (s.atBlock who .win 0x8004 (fun s => s.fcRelease who))

/-- A rising edge of SAFE_REQ (R586). -/
def execSafeReq (s : State) : Host.Outcome State Fault Refusal :=
  .next (if s.fld fMode = modeOff ∨ s.fld fMode = modeDormant then s else s.fcSafe)

def fWdogOn : Fld := ⟨0x10808010, 16, 16⟩

/-- The watchdog count starts again from zero. -/
def State.wdogRestart (s : State) : State := s.modMode (fun m => { m with expired := false })

def State.wdogKick (s : State) (key : Word) : State :=
  if key = 0xA5 then s.wdogRestart else s.refuse .win 0x8014

def execWdogKick (who : Agent) (key : BitVec 8) (s : State) : Host.Outcome State Fault Refusal :=
  .next (s.atBlock who .win 0x8014 (fun s => s.wdogKick (key.setWidth 32)))

/-- WDOG_EXPIRE: the count reaches PERIOD (R531). -/
def execWdogExpire (s : State) : Host.Outcome State Fault Refusal :=
  .next (
    if s.bit fWdogOn ∧ (s.fld fMode = modeRun ∨ s.fld fMode = modeLimp) ∧ !s.mode.expired then
      ((s.modMode (fun m => { m with expired := true })).setBit ⟨0x10808000, 3, 3⟩ true).faultSafe 5
    else s)

/-- A write of `FC_WDOG`. -/
def State.writeWdog (s : State) (data : Word) : State :=
  let live := s.fld fMode = modeRun ∨ s.fld fMode = modeLimp
  let s1 := s.rowWrite .win 0x8010 data (fun x new =>
    ifStopped (!s.bit fWdogOn) x new && (x.lo != 16 || new != 0 || !live))
  if data.getLsbD 16 ∧ !s.bit fWdogOn then s1.wdogRestart else s1

/-- A write in fault collection. -/
def State.writeFc (s : State) (who : Agent) (off : Nat) (data : Word) : State :=
  if off = 0x8004 then
    (match data.getLsbD 0, data.getLsbD 1 with
      | true, true => s.refuse .win off
      | true, false => s.fcSafe
      | false, true => s.fcRelease who
      | false, false => s)
  else if off = 0x8010 then s.writeWdog data
  else if off = 0x8014 then s.wdogKick (bitsOf data 7 0)
  else s.rowWrite .win off data anyField

/-- What the safety domain holds is gone with its power: pairs, tests, and the registers of the
winnower, of fault collection and of the march engine. `FC_FENCED` stays until the next entry into START
(R519). -/
def State.safetyGone (s : State) : State :=
  let fenced := s.reg 0x10808008
  let s := ((s.resetRange 0x10800000 0x10810000).resetRange 0x10782000 0x10782018).setReg 0x10808008 fenced
  let ts := s.threads.map (fun p => (p.1, { p.2 with twin := none, twinStop := none }))
  { s with
    threads := ts.filter (fun p => p.2 != {}), pairs := [], selfTest := [], inject := none, march := none }

/-- SAFETY_POWER_LOST (R532). -/
def execSafetyPowerLost (s : State) : Host.Outcome State Fault Refusal :=
  .next (
    if s.fld fMode = modeOff ∨ s.fld fMode = modeDormant ∨ !s.powered 47 then s
    else ((s.safetyGone.setBit ⟨0x10900024, 15, 15⟩ false).setBit fPwrLost true).faultSafe 6)

/-- SAFETY_POWER_RETURN: FAULT_SAFE reads 1 with cause 0x06. -/
def execSafetyPowerReturn (s : State) : Host.Outcome State Fault Refusal :=
  .next (
    if s.bit fPwrLost ∧ !s.powered 47 then
      ((s.setBit ⟨0x10900024, 15, 15⟩ true).setFld fSafeCause 6).setBit fFaultSafe true
    else s)

/-! ## Wakes from DORMANT (R535) -/

/-- A wake source is enabled, in DORMANT. -/
def State.mayWake (s : State) (i : Nat) : Bool :=
  s.fld fMode == modeDormant && (s.reg 0x10900040).getLsbD i

/-- The enabled lane among some that has the lowest AON index. -/
def State.wakeLane (s : State) (ls : List (Fin 64)) : Option Nat :=
  let on (i : Fin 64) : Bool :=
    s.mayWake 0 && (s.reg (0x10900048 + 4 * (i.val / 32))).getLsbD (i.val % 32)
  ((ls.filter on).map (fun i => i.val)).min?

/-- The counts of crystal periods in `AON_COUNT` and `AON_WAKE_AT`. -/
def State.aonCount (s : State) : Nat := (s.reg 0x10900060).toNat + 2 ^ 32 * (s.reg 0x10900064).toNat
def State.aonAt (s : State) : Nat := (s.reg 0x10900068).toNat + 2 ^ 32 * (bitsOf (s.reg 0x1090006C) 15 0).toNat
def State.setAon (s : State) (n : Nat) : State :=
  (s.setReg 0x10900060 (BitVec.ofNat 32 n)).setReg 0x10900064 (BitVec.ofNat 32 (n / 2 ^ 32 % 2 ^ 16))

/-- A wake with the sources that show their event in one cycle, as far as they are enabled; none without one. -/
def State.wakeBy (s : State) (ls : List (Fin 64)) (timer soc : Bool) : State :=
  let lane := s.wakeLane ls
  let t := timer && s.mayWake 1 && decide (s.aonCount ≤ s.aonAt)
  let c := soc && s.mayWake 2
  if lane.isNone && !t && !c then s
  else
    let s := if t then s.setAon s.aonAt else s
    s.wake (BitVec.ofNat 32 ((if c then 4 else 0) + (if t then 2 else 0) +
      (match lane with
        | some i => i * 2 ^ 16 + 1
        | none => 0)))

/-- LANE_WAKE: AON lane index i shows its edge for the filter length. -/
def execLaneWake (i : Fin 64) (also : Wakes) (s : State) : Host.Outcome State Fault Refusal :=
  .next (
    if (s.wakeLane [i]).isSome then s.wakeBy (i :: also.lane.toList) also.timer also.soc else s)

/-- AON_TIMER_WAKE: the count of crystal periods reaches AON_WAKE_AT. -/
def execAonTimerWake (count : BitVec 48) (also : Wakes) (s : State) : Host.Outcome State Fault Refusal :=
  .next (
    if s.mayWake 1 ∧ count.toNat = s.aonAt ∧ s.aonCount ≤ count.toNat then s.wakeBy also.lane.toList true also.soc
    else s)

def execSocWake (also : Wakes) (s : State) : Host.Outcome State Fault Refusal :=
  .next (if s.mayWake 2 then s.wakeBy also.lane.toList also.timer true else s)

/-! ## Debug commands (R536 to R540) -/

/-- A debug access is refused: it is counted and recorded in the always-on domain. -/
def State.debugRefuse (s : State) (need : Word) : State :=
  let w := putBits (putBits (putBits (putBits 0 18 16 (s.fld fMode)) 14 12 (s.fld fLc)) 9 8 need) 1 0 s.dbgClass
  (s.countUp ⟨0x10900078, 15, 0⟩).setReg 0x1090007C w

/-- The thread belongs to the authorised virtual complex. -/
def State.dbgOwns (s : State) (own : Nat) : Bool := s.owner own == some (s.fld fDbgVc).toNat

/-- The class a `DBG_CMD` debug access on a thread needs. -/
def State.dbgNeed (s : State) (gt : Nat) : Word := if s.dbgOwns (ownThread gt) then clsHalt else clsFull

/-- Run a `DBG_CMD` on a thread: a debug access is judged first. -/
def State.dbgCmd (s : State) (who : Agent) (gt : Nat) (f : State → State) : State :=
  if who = .debug ∧ s.dbgClass < s.dbgNeed gt then s.debugRefuse (s.dbgNeed gt)
  else if s.corePresent (gt / 64) then f s else s

/-- HALT: with debug cause, and the thread's twin breaks. -/
def State.dbgHalt (s : State) (gt : Nat) : State :=
  let st := s.fld (fState gt)
  if st = stFrozen ∨ st = stFaulted then s.refuse .power 0x74
  else if st = stReady ∨ st = stWait ∨ st = stHalted then
    let s := match (s.thread gt).twin with
      | some (p, _) => s.twinBreak p
      | none => s
    if st = stHalted then s else s.cmdHalt gt 0x74 true
  else s

def State.dbgResume (s : State) (gt : Nat) : State :=
  let st := s.fld (fState gt)
  if st = stHalted ∨ st = stReady ∨ st = stWait then s.cmdResume gt 0x74 else s.refuse .power 0x74

/-- STEP: one instruction, then halted at the next boundary (R89). -/
def State.dbgStep (s : State) (gt : Nat) : State :=
  if s.fld (fState gt) = stHalted then
    (s.cmdResume gt 0x74).modThread gt (fun t => { t with stepping := true })
  else s.refuse .power 0x74

def execDbgHalt (who : Agent) (gt : GT) (s : State) : Host.Outcome State Fault Refusal :=
  .next (s.dbgCmd who gt.val (fun s => s.dbgHalt gt.val))
def execDbgResume (who : Agent) (gt : GT) (s : State) : Host.Outcome State Fault Refusal :=
  .next (s.dbgCmd who gt.val (fun s => s.dbgResume gt.val))
def execDbgStep (who : Agent) (gt : GT) (s : State) : Host.Outcome State Fault Refusal :=
  .next (s.dbgCmd who gt.val (fun s => s.dbgStep gt.val))

/-- A write of `DBG_CMD`. -/
def State.writeDbgCmd (s : State) (who : Agent) (data : Word) : State :=
  let gt := (bitsOf data 10 0).toNat
  match (bitsOf data 17 16).toNat with
  | 0 => s.dbgCmd who gt (fun s => s.dbgHalt gt)
  | 1 => s.dbgCmd who gt (fun s => s.dbgResume gt)
  | 2 => s.dbgCmd who gt (fun s => s.dbgStep gt)
  | _ => s.refuse .power 0x74

/-! ## The power and modes block (R543, R544) -/

/-- Every byte of a word lies within 10 to 200. -/
def pclkOk (w : Word) : Bool :=
  (toBytes 4 w.toNat).all (fun b => decide (10 ≤ b.toNat) && decide (b.toNat ≤ 200))

/-- The sixteen EDGE fields of a `WAKE_EDGE` register. -/
def wakeEdgeRow (off : Nat) : Row :=
  ⟨off, 1, 4, 0, (List.range 16).map (fun k => fd (2 * k + 1) (2 * k) .rw .live)⟩

/-- A write in the power and modes block. -/
def State.writePower (s : State) (who : Agent) (off : Nat) (data : Word) : State :=
  let m := s.thereMask .power off
  let data := (data &&& m) ||| (s.pendReg (0x10900000 + off) &&& ~~~ m)
  if off = 0 then s.writeModeCtl who data
  else if off = 0x18 ∨ off = 0x1C then s.writePdReq (off = 0x1C) data
  else if off = 0x74 then s.writeDbgCmd who data
  else if 0x50 ≤ off ∧ off < 0x60 then s.writeRow .power off (wakeEdgeRow off) data (fun _ new => new != 3)
  else s.rowWrite .power off data (fun x new =>
    (x.cls != .frozen || s.thawed) &&
    (if off = 0x10 ∧ x.lo = 16 then decide (400 ≤ new.toNat) && decide (new.toNat ≤ 1600)
     else if off = 0x14 then pclkOk new
     else true))

/-! ## Every block -/

/-- A write at an offset of a block, of 32 bits or with `hi` of a pair that acts whole: nothing where the unit
is absent. -/
def State.blockStore (s : State) (who : Agent) (b : Blk) (off : Nat) (data : Word) (hi : Option Word) : State :=
  s.atBlock who b off (fun s =>
    match b with
    | .glob => s.writeGlob who off data
    | .power => s.writePower who off data
    | .win => if off < 0x8000 then s.writeWin off data else s.writeFc who off data
    | b => s.blockSet who b off data hi)

/-- A 32-bit write at an offset of a block. -/
def State.blockWrite (s : State) (who : Agent) (b : Blk) (off : Nat) (data : Word) : State :=
  s.blockStore who b off data none

end Sys2Proof.Machine
end

