-- ==== Sys2Proof/Machine/Bus.lean ====
section
/-!
DEFINITION. Accesses to the control register range: what a read returns and what it changes (R2, R10,
R12, R18), writes of one or two words, the crossing queues that lead to blocks in other clock domains
and back (R34 to R39, R600), and the aperture of a virtual complex (R467).
-/
namespace Sys2Proof.Machine

/-! ## Reads at a block -/

/-- The register at an offset belongs to a unit that is there (R2). -/
def State.regThere (s : State) (b : Blk) (off : Nat) : Bool :=
  s.blkPresent b &&
  (match b with
    | .router =>
      if off < 0xB800 then s.inputPresent (off / 4)
      else if 0x18000 ≤ off ∧ off < 0x1C000 then s.corePresent ((off - 0x18000) / 8 / 64)
      else true
    | .engine e => decide (0x2000 ≤ off) || s.chanPresent (32 * e + off / 0x100)
    | .banks => decide (0xA00 ≤ off) || s.bankPresent (off / 8)
    | .win => decide (0x8000 ≤ off) || s.twinFeat
    | _ => true)

/-- A reader that sees secret records (R541). -/
def State.seesSecret (s : State) (who : Agent) : Bool :=
  s.thawed &&
  (match who with
    | .thread gt => s.renaming (gt.val / 64) && s.renameThread (gt.val / 64) == gt.val % 64
    | .debug => s.dbgClass == clsFull && s.fld fLc == lcDevelop
    | _ => false)

/-- A word of the loft record window (R324, R330). -/
def State.loftWord (s : State) (who : Agent) (off : Nat) : Word :=
  let r := off / 0x100
  if s.bit (fRecSecret r) && !s.seesSecret who then 0 else wordAt (s.loftBytes r) (off % 0x100 / 4)

/-- The word the register at an offset shows; zero where there is none (R10). -/
def State.shown (s : State) (b : Blk) (off : Nat) : Word :=
  match b.row off with
  | none => 0
  | some r => s.live b off (s.readValue (b.base + off) r.fields)

/-- A read of an ordinary register: the word shown, with RC fields cleared unless it only looks. -/
def State.plainRead (s : State) (b : Blk) (off : Nat) (peek : Bool) : Word × State :=
  (s.shown b off,
    if peek then s
    else match b.row off with
      | none => s
      | some r => s.clearRC (b.base + off) r.fields)

/-- A 32-bit read of `TB_NOW` or of a timer's count by a thread (R259); ordinary for others. -/
def State.latched32 (s : State) (who : Agent) (b : Blk) (off : Nat) (r : Latch) (peek : Bool) : Word × State :=
  match who with
  | .thread gt =>
    if !s.latches r then s.plainRead b off peek
    else if off % 8 = 0 then s.latchRead gt.val r
    else (s.shadowRead gt.val r, s)
  | _ => s.plainRead b off peek

/-- A read of POOL_ALLOC[p] that does not wait: the most recently cached handle, or the null handle
(R403). -/
def State.handleRead (s : State) (p : Nat) (peek : Bool) : Word × State :=
  if peek then ((s.pool p).cache.headD nullHandle, s)
  else if s.poolLevel p = 0 then (nullHandle, s.poolFail p)
  else match s.poolTake p with
    | some q => q
    | none => (nullHandle, s)

/-- One 32-bit read at a block by an agent: the word and the state after. `peek` reads without side
effects (R537). The wheel position is not part of the state, so WHEEL_STATUS reads as a free value
(log 7). -/
def State.readReg (s : State) (who : Agent) (b : Blk) (off : Nat) (peek : Bool) : Word × State :=
  if !s.regThere b off then (0, s)
  else match b with
    | .loftWin => (s.loftWord who off, s)
    | .core _ => if off = 0 then (Config.freeWord s.freeCtr &&& 0xFFFFFF3F, s.drawn) else s.plainRead b off peek
    | .bay n =>
      if 0x100 ≤ off ∧ off < 0x300 ∧ off % 0x40 = 0x2C then s.rxwTake who n ((off - 0x100) / 0x40)
      else s.plainRead b off peek
    | .timer m =>
      if off = 0x18 ∨ off = 0x1C then s.latched32 who b off (.timer (BitVec.toFin (BitVec.ofNat 10 m))) peek
      else if off = 0x20 ∧ !peek then
        (let p := s.tmrCapTake m
         (p.1, p.2.2))
      else s.plainRead b off peek
    | .timebase => if off = 0x18 ∨ off = 0x1C then s.latched32 who b off .tbNow peek else s.plainRead b off peek
    | .bm => if off < 0x1000 ∧ off % 0x40 = 0x18 then s.handleRead (off / 0x40) peek else s.plainRead b off peek
    | _ => s.plainRead b off peek

/-- A read of one word, or of a `_LO`/`_HI` pair whole: its bytes and the state after. A pair of the
timers chapter leaves the shadow alone (R260); a capture is removed once, with both words (R257). -/
def State.readWords (s : State) (who : Agent) (b : Blk) (off : Nat) (wide peek : Bool) : List Byte × State :=
  let reader : Agent := match b, wide with
    | .timer _, true => .manager
    | .timebase, true => .manager
    | _, _ => who
  if wide then
    let hi := match b with
      | .timer m => if off = 0x20 then some (if s.regThere b off then ((s.tmr m).caps.headD (0, 0)).2 else 0) else none
      | _ => none
    let p := s.readReg reader b off peek
    match hi with
    | some h => (toBytes 4 p.1.toNat ++ toBytes 4 h.toNat, p.2)
    | none =>
      let q := p.2.readReg reader b (off + 4) peek
      (toBytes 4 p.1.toNat ++ toBytes 4 q.1.toNat, q.2)
  else
    let p := s.readReg reader b off peek
    (toBytes 4 p.1.toNat, p.2)

/-! ## Debug accesses judged at their block (R536, R537, R583) -/

/-- The class a debug read of a register needs. -/
def dbgReadNeed (b : Blk) (off : Nat) : Word :=
  match b with
  | .power => if off = 0x70 then clsNone else clsTrace
  | .loftCtl => clsFull
  | .loftWin => clsFull
  | _ => clsTrace

/-- The class a debug write of a register needs. -/
def State.dbgWriteNeed (s : State) (b : Blk) (off : Nat) (data : Word) : Word :=
  let halted (gt : Nat) : Word :=
    if s.dbgOwns (ownThread gt) && s.fld (fState gt) == stHalted then clsHalt else clsFull
  match b with
  | .power => if off = 0x74 then s.dbgNeed (bitsOf data 10 0).toNat else clsFull
  | .core n =>
    if 0x1000 ≤ off ∧ off < 0x2000 then halted (64 * n + (off - 0x1000) / 0x40)
    else if 0x4000 ≤ off ∧ off < 0x8000 ∧ off % 0x100 < 0x80 then halted (64 * n + (off - 0x4000) / 0x100)
    else clsFull
  | .bay n =>
    let stops := if off = 0x304 then bitsOf data 7 0 == 0
      else decide (0x100 ≤ off) && decide (off < 0x300) && off % 0x40 == 0 && (data &&& 9) == 0
    if stops && s.dbgOwns (ownBay n) then clsHalt else clsFull
  | _ => clsFull

/-- A debug access below the class it needs: that class (R536). -/
def State.dbgDenied (s : State) (who : Agent) (need : Word) : Option Word :=
  if who = .debug ∧ s.dbgClass < need then some need else none

/-- A debug read below FULL has no side effects. -/
def State.dbgPeek (s : State) (who : Agent) : Bool := who == .debug && s.dbgClass != clsFull

/-- A read at a block: what it returns and the state after, or the class it lacks. -/
def State.judgedRead (s : State) (who : Agent) (b : Blk) (off : Nat) (wide : Bool) : Except Word (List Byte × State) :=
  match s.dbgDenied who (dbgReadNeed b off) with
  | some k => .error k
  | none => .ok (s.readWords who b off wide (s.dbgPeek who))

/-- A read performed at its block, its data delivered: a handle may have to wait for a refill (R403),
and two registers of the bulk port for posted writes (R418). -/
def State.readAt (s : State) (who : Agent) (b : Blk) (off : Nat) (wide : Bool) (ref : ReqRef) : State :=
  match s.judgedRead who b off wide with
  | .error k => (s.debugRefuse k).deliverError ref (b.base + off)
  | .ok p =>
    if b = .bm ∧ off < 0x1000 ∧ off % 0x40 = 0x18 ∧ s.blkPresent b ∧ !s.dbgPeek who then s.poolServe (off / 0x40) ref
    else if b = .hv ∧ 0x100 ≤ off ∧ off < 0x920 ∧ (off % 0x20 = 0 ∨ off % 0x20 = 8) ∧ s.blkPresent b then
      s.bulkRegRead ((off - 0x100) / 0x20) (off % 0x20) ref
    else p.2.deliver ref p.1

/-! ## Writes at a block -/

/-- A write of one word, or of a pair whole. A mailbox post and a put of the silo act only as 64-bit writes
(R409, R471), and the base of a descriptor is judged whole (R8, R122). -/
def State.writeWords (s : State) (who : Agent) (b : Blk) (off : Nat) (data : Word) (hi : Option Word) : State :=
  match hi with
  | none => s.blockWrite who b off data
  | some h =>
    let both : State := (s.blockWrite who b off data).blockWrite who b (off + 4) h
    match b with
    | .core _ => if 0x4000 ≤ off ∧ off < 0x8000 then s.blockStore who b off data (some h) else both
    | .vct =>
      if off < 0x1000 ∧ off % 0x40 = 0x10 then
        s.atBlock who b off (fun s => s.mbxPost who (off / 0x40) data h)
      else both
    | .bm => if off = 0x2020 then s.atBlock who b off (fun s => s.siloPut who data h) else both
    | _ => both

/-- A write performed at its block: the state after, or the class it lacks. -/
def State.judgedWrite (s : State) (who : Agent) (b : Blk) (off : Nat) (data : Word) (hi : Option Word) : Except Word State :=
  match s.dbgDenied who (s.dbgWriteNeed b off data) with
  | some k => .error k
  | none => .ok (s.writeWords who b off data hi)

/-- The same with its completion delivered. -/
def State.writeAt (s : State) (who : Agent) (b : Blk) (off : Nat) (data : Word) (hi : Option Word) (ref : ReqRef) : State :=
  match s.judgedWrite who b off data hi with
  | .error k => (s.debugRefuse k).deliverError ref (b.base + off)
  | .ok s => s.deliver ref []

/-! ## Crossing queues (R34 to R39) -/

/-- The crossing queue an access takes to its register; none for a register in CCLK (R45, R543). -/
def crossing (b : Blk) (off : Nat) : Option Crossing :=
  match b with
  | .bay n => some (.toBay (fin5 n))
  | .lane l => some (.toBay (fin5 (l / 32)))
  | .timer _ => some .toTclk
  | .timebase => some .toTclk
  | .loftCtl => some .toAon
  | .loftWin => some .toAon
  | .power => if 0x40 ≤ off ∧ off < 0x80 then some .toAon else none
  | .bridge p => some (.toBridge (fin2 p))
  | _ => none

/-- The path of a write: a global GO has a synchroniser of its own (R34, R264). -/
def crossingWrite (b : Blk) (off : Nat) : Option Crossing :=
  if b = .timebase ∧ off = 0x70 then some .goSync else crossing b off

/-- The queue by which the answer comes back. -/
def crossBack (q : Crossing) : Crossing :=
  match q with
  | .toBay n => .fromBay n
  | .toTclk => .fromTclk
  | .goSync => .fromTclk
  | .toAon => .fromAon
  | .toBridge p => .fromBridge p
  | q => q

/-- The oldest item of a crossing queue, and the state without it. -/
def State.xqTake (s : State) (q : Crossing) : Option (XItem × State) :=
  match s.xq.find? (fun p => p.1 == q) with
  | some p => some (p.2, { s with xq := s.xq.erase p })
  | none => none

/-- The cycles of the destination's clock, or crystal periods, that pass until a delivery (log 7). -/
def State.xqTime (s : State) (q : Crossing) (t : Nat) : State :=
  match q with
  | .toBay n => s.passPT n.val t
  | .epoch q => s.passPT (8 * q.val) t
  | .toTclk => s.tclk t
  | .goSync => s.tclk t
  | .toAon => s.setAon (s.aonCount + t)
  | _ => s

/-- A clock on one side of a queue is stopped by a clock change (R38, R521). -/
def State.xqStopped (s : State) (q : Crossing) : Bool :=
  let off (i : Nat) : Bool := s.mode.clocks.any (fun c => c.1 == i)
  match q with
  | .toBay n => off 0 || off (n.val / 8 + 1)
  | .fromBay n => off 0 || off (n.val / 8 + 1)
  | .epoch q => off (q.val + 1)
  | _ => off 0

/-- An answer crosses back, where somebody awaits it. -/
def State.xqAnswer (s : State) (q : Crossing) (ref : ReqRef) (bs : List Byte) : State :=
  if ref = .posted then s else s.xqPush (crossBack q) (.data ref bs)

/-- An item is usable in its destination domain. -/
def State.xqArrive (s : State) (q : Crossing) (it : XItem) : State :=
  match it with
  | .write who a d hi ref =>
    (match q with
      | .epoch k => s.setFld (fPtEpoch (8 * k.val)) d
      | _ =>
        match blockOf a with
        | some b =>
          (match s.judgedWrite who b (a - b.base) d hi with
            | .error k => (s.debugRefuse k).deliverError ref a
            | .ok s => s.xqAnswer q ref [])
        | none => s)
  | .read who a wide ref =>
    (match blockOf a with
      | some b =>
        (match s.judgedRead who b (a - b.base) wide with
          | .error k => (s.debugRefuse k).deliverError ref a
          | .ok p => p.2.xqAnswer q ref p.1)
      | none => s)
  | .data ref bs => s.deliver ref bs
  | .sip tag => s.sipPresent tag
  | .laneReset l => s.laneReset l
  | .edge n req lane act => s.setEdgeQ n (s.edgeQ n ++ [⟨lane, act, (bitsOf req 25 0).toNat, false⟩])

/-- CROSSING_QUEUE_DELIVERY: the oldest item leaves its queue, unless a clock is stopped (R38). A bridge
port's outbound path sends by its classes (R554). -/
def execCrossingQueueDelivery (q : Crossing) (t : BitVec 32) (s : State) : Host.Outcome State Fault Refusal :=
  .next (
    if s.xqStopped q then s
    else match q with
      | .toLink p => s.linkSend p.val
      | q =>
        match s.xqTake q with
        | none => s
        | some (it, s) => (s.xqTime q t.toNat).xqArrive q it)

/-! ## An access on its way to its block (R600) -/

/-- A read of the control register range that is well formed and decoded. An absent unit answers at
once (R2). -/
def State.ctlRead (s : State) (who : Agent) (a : Nat) (wide : Bool) (ref : ReqRef) : State :=
  match blockOf a with
  | none => s
  | some b =>
    let off := a - b.base
    match crossing b off with
    | some q => if s.blkPresent b then s.xqPush q (.read who a wide ref) else s.readAt who b off wide ref
    | none => s.readAt who b off wide ref

/-- A write likewise; its completion is delivered. -/
def State.ctlWrite (s : State) (who : Agent) (a : Nat) (data : Word) (hi : Option Word) (ref : ReqRef) : State :=
  match blockOf a with
  | none => s
  | some b =>
    let off := a - b.base
    match crossingWrite b off with
    | some q => if s.blkPresent b then s.xqPush q (.write who a data hi ref) else s.writeAt who b off data hi ref
    | none => s.writeAt who b off data hi ref

/-! ## Writes as rows (R17, R120 to R122) -/

/-- REGISTER_WRITE: a write arrives at a control register; outside the blocks there is none (R9). At a TXW it
is what TXW_WRITE is (R225). -/
def execRegisterWrite (who : Agent) (addr : BitVec 48) (data : Word) (s : State) :
    Host.Outcome State Fault Refusal :=
  .next (
    let a := addr.toNat
    if a % 4 ≠ 0 then s
    else match blockOf a with
      | some b =>
        let off := a - b.base
        (match b with
          | .bay n =>
            if 0x100 ≤ off ∧ off < 0x300 ∧ off % 0x40 = 0x28 then s.txwWrite who n ((off - 0x100) / 0x40) data
            else s.blockWrite who b off data
          | b => s.blockWrite who b off data)
      | none => s)

/-- Offset of word w of descriptor i of a thread in its core block. -/
def descOff (gt i w : Nat) : Nat := 0x4000 + 0x100 * (gt % 64) + 0x10 * i + 4 * w

/-- SEG_DESCRIPTOR_WRITE: live descriptor i. -/
def execSegDescriptorWrite (who : Agent) (gt : GT) (i : Fin 8) (w : Fin 4) (data : Word) (s : State) :
    Host.Outcome State Fault Refusal :=
  .next (s.atBlock who (.core (gt.val / 64)) (descOff gt.val i.val w.val)
    (fun s => s.writeDesc who gt.val i.val w.val data none))

/-- CEILING_WRITE: ceiling descriptor i. -/
def execCeilingWrite (who : Agent) (gt : GT) (i : Fin 8) (w : Fin 4) (data : Word) (s : State) :
    Host.Outcome State Fault Refusal :=
  .next (s.atBlock who (.core (gt.val / 64)) (descOff gt.val (i.val + 8) w.val)
    (fun s => s.writeDesc who gt.val (i.val + 8) w.val data none))

/-! ## The aperture (R467) -/

/-- A host request is answered: data, or none for an error. -/
def State.hostAnswer (s : State) (x : Option (List Byte)) : State :=
  { s with answers := s.answers ++ [(s.reqCtr, x)], reqCtr := s.reqCtr + 1 }

/-- A host request takes its answer number. -/
def State.numbered (s : State) (f : State → ReqRef → State) : State :=
  f { s with reqCtr := s.reqCtr + 1 } (.host s.reqCtr)

/-- The addresses the aperture of v reaches. -/
def State.aptReach (s : State) (v a : Nat) : Bool :=
  let own (o : Nat) : Bool := s.owner o == some v
  match blockOf a with
  | none => false
  | some b =>
    let off := a - b.base
    match b with
    | .core n =>
      (match setThreadOf n off with
        | some gt => own (ownThread gt)
        | none =>
          decide (0x4000 ≤ off) && decide (off < 0x8000) && decide (off % 0x100 < 0x80) &&
          own (ownThread (64 * n + (off - 0x4000) / 0x100)))
    | .bay n => decide (off < 0xF00) && own (ownBay n)
    | .lane l => own (ownLane l)
    | .timer m => own (ownTimer m)
    | .engine e => decide (off < 0x2000) && own (ownChan (32 * e + off / 0x100))
    | .router => decide (off < 0xB800) && s.bit (fAptEvsel v) && (s.vcInputs v).contains (off / 4)
    | _ => false

/-- APT_ADDR of a window. -/
def State.aptAddr (s : State) (v : Nat) : Nat :=
  (s.reg (vcwReg v 0x2000)).toNat + 2 ^ 32 * (bitsOf (s.reg (vcwReg v 0x2004)) 15 0).toNat

/-- An access to APT_DATA: a read, or a write of a word. Revision 1 has no aperture. -/
def State.aperture (s : State) (v : Nat) (write : Option Word) : State :=
  let a := s.aptAddr v
  if (s.vc v).select ≠ 2 then s.hostAnswer (some (if write.isSome then [] else toBytes 4 0))
  else if a % 4 = 0 ∧ s.aptReach v a then
    let who : Agent := .window (BitVec.toFin (BitVec.ofNat 6 v))
    s.numbered (fun s ref =>
      match write with
      | none => s.ctlRead who a false ref
      | some w => s.ctlWrite who a w none ref)
  else (s.setBit ⟨vcwReg v 0xC, 3, 3⟩ true).hostAnswer none

def execApertureAccess (v : VC) (write : Option Word) (s : State) : Host.Outcome State Fault Refusal :=
  .next (if s.powered 44 then s.aperture v.val write else s.hostAnswer (some (if write.isSome then [] else toBytes 4 0)))

end Sys2Proof.Machine
end

