-- ==== Sys2Proof/Machine/Boundary.lean ====
section
/-!
DEFINITION. The boundary (R465, R536 to R541, R569 to R578, R583, R596, R597): the windows of the host
target port, debug accesses, the register access instrument, snoops of the SoC, scan, and two inputs.
-/
namespace Sys2Proof.Machine

/-! ## The register part of a window (R8, R570) -/

/-- The words of a write of 4 or 8 bytes. -/
def twoWords (bs : List Byte) : Word × Option Word :=
  (wordAt bs 0, if bs.length = 8 then some (wordAt bs 1) else none)

/-- An access to a control register by the host: refused for its form, or sent to its block. -/
def State.hostRegister (s : State) (who : Agent) (a : Nat) (acc : HostAccess) : State :=
  let f := accessForm acc
  match ctlRefusal a f.1 f.2.isSome with
  | some _ => s.hostAnswer none
  | none => s.numbered (fun s ref =>
      match f.2 with
      | none => s.ctlRead who a (f.1 = 8) ref
      | some bs => s.ctlWrite who a (twoWords bs).1 (twoWords bs).2 ref)

/-- An access of 1 to 64 bytes within one line to a bank that CORES owns (R570, R571). -/
def State.hostMemory (s : State) (a : Nat) (acc : HostAccess) : State :=
  let f := accessForm acc
  if f.1 = 0 ∨ 64 < f.1 then s.hostAnswer none
  else match s.region a with
    | .bank _ =>
      (match s.memAccess .debug walkHost a f.1 f.2 with
        | .denied => (s.agentLeaves walkHost).hostAnswer none
        | .held s => s
        | .done s bs => s.hostAnswer (some (if f.2.isSome then [] else bs)))
    | _ => s.hostAnswer none

/-! ## Debug accesses (R536 to R541) -/

/-- The class a debug access to memory needs. -/
def State.dbgMemNeed (s : State) (a : Nat) : Word :=
  match bankOf a with
  | some g => if s.dbgOwns (ownBank g) then clsHalt else clsFull
  | none => clsFull

/-- The class a debug access at an HTP offset needs: of a form or at a place that nothing decodes, FULL
(log 91). -/
def State.dbgNeedAt (s : State) (off : Nat) (acc : HostAccess) : Word :=
  if 0x30000000 ≤ off then s.dbgMemNeed (off - 0x30000000)
  else match blockOf (off - 0x10000000), (accessForm acc).2 with
    | some b, none => dbgReadNeed b (off - 0x10000000 - b.base)
    | some b, some bs => s.dbgWriteNeed b (off - 0x10000000 - b.base) (wordAt bs 0)
    | none, _ => clsFull

/-- A debug access at an HTP offset of the Debug-safety window. Without the fabric nothing but the
refusal is left (R539). -/
def State.debugAccess (s : State) (off : Nat) (acc : HostAccess) : State :=
  if s.fld fMode = modeOff then s
  else if !s.powered 44 then (s.debugRefuse (s.dbgNeedAt off acc)).hostAnswer none
  else if 0x20000000 ≤ off ∧ off < 0x30000000 then s.hostRegister .debug (off - 0x10000000) acc
  else if 0x30000000 ≤ off ∧ off < 0x34000000 then
    (let a := off - 0x30000000
     let k := s.dbgMemNeed a
     if s.dbgClass < k then (s.debugRefuse k).hostAnswer none else s.hostMemory a acc)
  else (s.debugRefuse clsFull).hostAnswer none

def execDebugAccess (off : BitVec 30) (acc : HostAccess) (s : State) : Host.Outcome State Fault Refusal :=
  .next (s.debugAccess off.toNat acc)

/-- TEST_ACCESS_UPDATE: the instrument's aligned 32-bit access (R596). -/
def execTestAccessUpdate (write : Bool) (off : BitVec 29) (data : Word) (s : State) :
    Host.Outcome State Fault Refusal :=
  .next (s.debugAccess (0x20000000 + off.toNat / 4 * 4) (if write then .write32 data else .read32))

/-! ## The window of a virtual complex (R465, R466, R468 to R471) -/

/-- The vectors of word j that v owns. -/
def State.vecMask (s : State) (v j : Nat) : Word :=
  (List.range 32).foldl (fun w b => putBits w b b (boolWord (s.owner (ownVec (32 * j + b)) == some v))) 0

/-- VCW_STATUS. -/
def State.winStatus (s : State) (v : Nat) : Word :=
  let st := s.fld (vcState v)
  let w := putBits (s.reg (vcwReg v 0xC)) 2 2 (boolWord (st == vcFreezing || st == vcFrozen || st == vcImaging))
  putBits w 1 1 (boolWord (st == vcResetting))

/-- A 32-bit read at offset o of window v. A read of one half of MBX_RX, whose value the spec does not
state, is a free value and removes nothing. -/
def State.winRead (s : State) (v o : Nat) : State :=
  let say (w : Word) : State := s.hostAnswer (some (toBytes 4 w.toNat))
  if o = 0 then say (BitVec.ofNat 32 ((s.fld (vcGen v)).toNat * 2 ^ 16 + v))
  else if o = 4 then say (BitVec.ofNat 32 (2 ^ (s.fld (fMaxRev v)).toNat - 1))
  else if o = 8 then say (BitVec.ofNat 32 (s.vc v).select)
  else if o = 0xC then say (s.winStatus v)
  else if o = 0x108 ∨ o = 0x10C then s.drawn.hostAnswer (some (toBytes 4 (Config.freeWord s.freeCtr).toNat))
  else if o = 0x110 then say (s.shown .vct (0x40 * v + 0x18))
  else if 0x200 ≤ o ∧ o < 0x280 then say (s.reg (0x10E00000 + (o - 0x200)) &&& s.vecMask v ((o - 0x200) % 0x40 / 4))
  else if 0x300 ≤ o ∧ o < 0x320 then
    s.numbered (fun s ref => s.readAt (.window (BitVec.toFin (BitVec.ofNat 6 v))) .hv (0x100 + 0x20 * v + (o - 0x300)) false ref)
  else if o = 0x2000 ∨ o = 0x2004 then say (if (s.vc v).select = 2 then s.reg (vcwReg v o) else 0)
  else if o = 0x2008 then s.aperture v none
  else say 0

/-- A 32-bit write. -/
def State.winWrite (s : State) (v o : Nat) (data : Word) : State :=
  let ok (s : State) : State := s.hostAnswer (some [])
  if o = 8 then ok (s.ifaceSelect v data)
  else if o = 0xC then ok (s.setReg (vcwReg v 0xC) (s.reg (vcwReg v 0xC) &&& ~~~ (data &&& 9)))
  else if o = 0x100 ∨ o = 0x104 then ok (s.refuseWin v o)
  else if 0x200 ≤ o ∧ o < 0x240 then
    (let a := 0x10E00000 + (o - 0x200)
     let j := (o - 0x200) / 4
     ok (s.setReg a (s.reg a &&& ~~~ (s.pendClears j data &&& s.vecMask v j))))
  else if 0x240 ≤ o ∧ o < 0x280 then
    (let a := 0x10E00000 + (o - 0x200)
     let m := s.vecMask v ((o - 0x240) / 4)
     ok (s.setReg a ((s.reg a &&& ~~~ m) ||| (data &&& m))))
  else if 0x300 ≤ o ∧ o < 0x320 then
    (let off := 0x100 + 0x20 * v + (o - 0x300)
     if o = 0x310 ∨ o = 0x314 then ok s
     else
       let p := s.watched .hv off (fun s => s.writeHv .manager off data)
       ok (if p.2 then p.1.refuseWin v o else p.1))
  else if (o = 0x2000 ∨ o = 0x2004) ∧ (s.vc v).select = 2 then
    ok (s.setReg (vcwReg v o) (if o = 0x2004 then data &&& 0xFFFF else data))
  else if o = 0x2008 then s.aperture v (some data)
  else ok s

/-- A 64-bit access to a pair of the window. -/
def State.winWide (s : State) (v o : Nat) (wr : Option (List Byte)) : State :=
  match wr with
  | none =>
    if o = 0x108 then
      (let p := s.mbxTake v
       p.2.hostAnswer (some (toBytes 8 p.1.toNat)))
    else if o = 0x2000 ∧ (s.vc v).select = 2 then
      s.hostAnswer (some (toBytes 4 (s.reg (vcwReg v 0x2000)).toNat ++ toBytes 4 (s.reg (vcwReg v 0x2004)).toNat))
    else s.hostAnswer (some (toBytes 8 0))
  | some bs =>
    let lo := wordAt bs 0
    let hi := wordAt bs 1
    if o = 0x100 then (s.mbxTx v lo hi).hostAnswer (some [])
    else if o = 0x2000 ∧ (s.vc v).select = 2 then
      ((s.setReg (vcwReg v 0x2000) lo).setReg (vcwReg v 0x2004) (hi &&& 0xFFFF)).hostAnswer (some [])
    else s.hostAnswer (some [])

/-- An access at offset o of window v: the data window, or a register as R8 asks. -/
def State.winAccess (s : State) (v o : Nat) (acc : HostAccess) (beat : Beat) : State :=
  let f := accessForm acc
  if 0x1000 ≤ o ∧ o < 0x2000 then s.bulkAccess v acc beat
  else if f.1 = 4 ∧ o % 4 = 0 then
    (match f.2 with
      | none => s.winRead v o
      | some bs => s.winWrite v o (wordAt bs 0))
  else if f.1 = 8 ∧ (o = 0x100 ∨ o = 0x108 ∨ o = 0x2000) then s.winWide v o f.2
  else s.hostAnswer none

/-! ## The host target port (R570, R571) -/

/-- HTP_REQUEST: a request is decoded to a window; one that lies in none is an error. -/
def State.htpRequest (s : State) (off : Nat) (acc : HostAccess) (beat : Beat) : State :=
  if off < 0x10000000 then s.hostRegister .manager (0x10000000 + off) acc
  else if off < 0x10001000 then s.bulkAccess 64 acc beat
  else if 0x11000000 ≤ off ∧ off < 0x11400000 then
    s.winAccess ((off - 0x11000000) / 0x10000) (off % 0x10000) acc beat
  else if 0x12000000 ≤ off ∧ off < 0x13800000 then s.hostMemory (0x1000000 + (off - 0x12000000)) acc
  else if 0x20000000 ≤ off ∧ off < 0x34000000 then s.debugAccess off acc
  else s.hostAnswer none

/-- Without the fabric the port takes nothing but a debug access, which is refused. -/
def execHtpRequest (off : BitVec 30) (acc : HostAccess) (beat : Beat) (s : State) :
    Host.Outcome State Fault Refusal :=
  .next (
    if s.powered 44 then s.htpRequest off.toNat acc beat
    else if 0x20000000 ≤ off.toNat ∧ off.toNat < 0x34000000 then s.debugAccess off.toNat acc
    else s)

/-! ## Snoops of the SoC (R341, R578) -/

/-- GW_SNOOP: answered at once where the snoop filter lacks the line; otherwise forwarded as a request of its
home, and answered with what the cores return. -/
def execGwSnoop (line : BitVec 42) (inv : Bool) (s : State) : Host.Outcome State Fault Refusal :=
  .next (
    if !s.powered 44 then s
    else
      let l := line.toNat
      let id := s.reqCtr
      let s : State := { s.countUp ⟨0x10700204, 31, 0⟩ with reqCtr := id + 1 }
      if isGwLine l then s.homeArrive (.snoop l inv id) else s.answerWith id (some []))

/-! ## Scan (R597) -/

/-- What scan leaves behind: a free value. -/
opaque scanState : Nat → List State

/-- The state after a use of scan is unpredictable: every part of the hardware is a free value, registers and
memory in the form the model keeps them (log 12). -/
def State.scanned (s : State) : State :=
  let t := (scanState s.freeCtr).headD s
  let base : State := { t with
    regs := [], pend := [], mem := []
    bankFill := t.bankFill.foldl (fun m p => Map.set 0 m p.1 p.2) []
    reqCtr := s.reqCtr, answers := s.answers, freeCtr := s.freeCtr + 1, pending := s.pending }
  let s := t.regs.foldl (fun s p => s.setReg p.1 p.2) base
  let s := t.pend.foldl (fun s p => s.setPend p.1 p.2) s
  t.mem.foldl (fun s p => s.setByte p.1 p.2) s

/-- TEST_SCAN: scan in BLANK or cleared RETURNED; elsewhere a refusal is counted. -/
def execTestScan (s : State) : Host.Outcome State Fault Refusal :=
  .next (
    let lc := s.fld fLc
    if s.fld fMode = modeOff then s
    else if lc = 0 ∨ (lc = lcReturned ∧ s.mode.cleared = 4) then s.scanned
    else s.countUp ⟨0x10900078, 15, 0⟩)

/-! ## Inputs (R525, R583) -/

/-- PD_LATE: an answer of a domain or a clock is outstanding and has taken more than 10 µs. -/
def execPdLate (s : State) : Host.Outcome State Fault Refusal :=
  .next (
    if s.mode.goal = some 1 ∧ s.dormantQuiet ∨ s.reg 0x10900018 ≠ s.reg 0x10900020 ∨ s.reg 0x1090001C ≠ s.reg 0x10900024 ∨ !s.mode.clocks.isEmpty then
      s.setBit ⟨0x10900004, 8, 8⟩ true
    else s)

/-- DBG_CLASS_CHANGE: the authorised class and virtual complex, in force from here on (log 7). -/
def execDbgClassChange (cls : BitVec 2) (v : VC) (s : State) : Host.Outcome State Fault Refusal :=
  .next (
    if s.fld fMode = modeOff then s
    else (s.setFld fDbgClass (cls.setWidth 32)).setFld fDbgVc (BitVec.ofNat 32 v.val))

end Sys2Proof.Machine
end

