-- ==== Sys2Proof/Machine/Control.lean ====
section
/-!
DEFINITION. Control transfers, hardware loops, the return stack, flag moves, segments and the system
instructions (R180 to R185, R125, R158), and the waiting instructions of one thread: WAIT, RECV,
SETTLE, ISYNC and SEAL (R151, R192 to R194, R199).
-/
namespace Sys2Proof.Machine

/-! ## Control transfers (R181) -/

def execB (x : Issue) (cond : BitVec 4) (disp : BitVec 21) (s : State) :
    Host.Outcome State Fault Refusal :=
  .next (s.issue x { insXfer [] with wf := cond != 0xF, rdFlags := true } (fun s =>
    let t := s.thread x.gt.val
    if t.flags.holds cond then .done s (.delay (target21 t.pc disp) true)
    else .done s (.delay (t.pc + 8) false)))

/-- A call: push the address after the delay slot (R136, R137). -/
def execCall1 (x : Issue) (reads : List Reg) (target : Thread → Word) (s : State) : State :=
  s.issue x (insXfer reads) (fun s =>
    let t := s.thread x.gt.val
    match s.push x.gt.val (t.pc + 8) with
    | some s' => .done s' (.delay (target t) true)
    | none => .fault s (precise 5 1))

def execCall (x : Issue) (disp : BitVec 25) (s : State) : Host.Outcome State Fault Refusal :=
  .next (execCall1 x [] (fun t => target25 t.pc disp) s)

def execBr (x : Issue) (a : Reg) (s : State) : Host.Outcome State Fault Refusal :=
  .next (s.issue x (insXfer [a]) (fun s =>
    .done s (.delay ((s.thread x.gt.val).rd a &&& ~~~ 3) true)))

def execCallr (x : Issue) (a : Reg) (s : State) : Host.Outcome State Fault Refusal :=
  .next (execCall1 x [a] (fun t => t.rd a &&& ~~~ 3) s)

def execRet (x : Issue) (s : State) : Host.Outcome State Fault Refusal :=
  .next (s.issue x (insXfer []) (fun s =>
    match s.pop x.gt.val with
    | some (v, s') => .done s' (.delay v true)
    | none => .fault s (precise 5 2)))

/-- ERET: pop, clear IN_HANDLER; the popped address issues at the next beat, before any further
handler entry (R101, R182). -/
def execEret (x : Issue) (s : State) : Host.Outcome State Fault Refusal :=
  .next (
    let s' := s.issue x (insXfer []) (fun s =>
      match s.pop x.gt.val with
      | some (v, s') => .done (s'.setBit (fInHandler x.gt.val) false) (.goto v (v + 4) false true)
      | none => .fault s (precise 5 2))
    -- an ERET that completed has popped one entry
    if (s'.thread x.gt.val).rs.length < (s.thread x.gt.val).rs.length ∧ (s'.thread x.gt.val).raised.isNone then
      s'.modThread x.gt.val (fun t => { t with noEntry := true })
    else s')

/-- FRET (R158). -/
def execFret (x : Issue) (s : State) : Host.Outcome State Fault Refusal :=
  .next (s.issue x { insXfer [] with priv := true } (fun s =>
    let gt := x.gt.val
    let info := s.reg (tReg gt 0x30)
    let s' := (s.setBit (fInFault gt) false).setBit (fCurLead gt) (info.getLsbD 23)
    .done s' (.goto (s.reg (tReg gt 0x34) &&& ~~~ 3) (s.reg (tCfg gt 8) &&& ~~~ 3) (info.getLsbD 28) true)))

/-- TRAPI n: a precise ILLEGAL fault with DETAIL 0x80 + n is its operation (R181). -/
def execTrapi (x : Issue) (n : BitVec 7) (s : State) : Host.Outcome State Fault Refusal :=
  .next (s.issue x (insXfer []) (fun s => .fault s (precise 2 (0x80 + n.setWidth 8))))

/-! ## Loops (R139 to R142, R183, R185) -/

def execLoop (x : Issue) (k : BitVec 2) (a : Reg) (imm : BitVec 15) (s : State) :
    Host.Outcome State Fault Refusal :=
  .next (s.issue x { insXfer [a] with wf := k != 3 && imm != 0 } (fun s =>
    let t := s.thread x.gt.val
    let start := t.pc + 4
    let stop := t.pc + 4 * zimm15 imm
    match t.loopFault k.toNat start stop with
    | some d => .fault s (precise 6 d)
    | none =>
      if t.rd a = 0 then
        .done (s.setThread x.gt.val (t.setLoop k.toNat { t.loop k.toNat with active := false }))
          (.goto (stop + 4) (stop + 8) false false)
      else
        .done (s.setThread x.gt.val (t.setLoop k.toNat ⟨start, stop, t.rd a, true⟩)) .seq))

/-- Field f of a loop register: start, end, count, active. -/
def Loop.field (l : Loop) (f : Nat) : Word :=
  match f with
  | 0 => l.start
  | 1 => l.stop
  | 2 => l.count
  | _ => boolWord l.active

def execLprd (x : Issue) (d : Reg) (k fi : BitVec 2) (s : State) : Host.Outcome State Fault Refusal :=
  .next (s.issue x { wf := k != 3, writes := [d], pairOk := false } (fun s =>
    let t := s.thread x.gt.val
    .done (s.setThread x.gt.val (t.wr d ((t.loop k.toNat).field fi.toNat))) .seq))

/-- LPWR (R183, R185). -/
def execLpwr (x : Issue) (k fi : BitVec 2) (a : Reg) (s : State) : Host.Outcome State Fault Refusal :=
  .next (s.issue x { wf := k != 3, reads := [a], pairOk := false } (fun s =>
    let t := s.thread x.gt.val
    let l := t.loop k.toNat
    let v := t.rd a
    let put (l : Loop) : Exec := .done (s.setThread x.gt.val (t.setLoop k.toNat l)) .seq
    match fi.toNat with
    | 0 => if l.active then .fault s (precise 6 2) else put { l with start := v }
    | 1 => if l.active then .fault s (precise 6 2) else put { l with stop := v }
    | 2 => put { l with count := v }
    | _ =>
      if v.getLsbD 0 then
        match t.loopFault k.toNat l.start l.stop with
        | some d => .fault s (precise 6 d)
        | none => put { l with active := true }
      else put { l with active := false }))

/-! ## System instructions (R183) -/

def execNop (x : Issue) (s : State) : Host.Outcome State Fault Refusal :=
  .next (s.issue x {} (fun s => .done s .seq))

def execTotask (x : Issue) (s : State) : Host.Outcome State Fault Refusal :=
  .next (s.issue x { pairOk := false } (fun s => .done (s.setBit (fCurLead x.gt.val) false) .seq))

def execRspush (x : Issue) (a : Reg) (s : State) : Host.Outcome State Fault Refusal :=
  .next (s.issue x { reads := [a], pairOk := false } (fun s =>
    match s.push x.gt.val ((s.thread x.gt.val).rd a &&& ~~~ 3) with
    | some s' => .done s' .seq
    | none => .fault s (precise 5 1)))

def execRspop (x : Issue) (d : Reg) (s : State) : Host.Outcome State Fault Refusal :=
  .next (s.issue x { writes := [d], pairOk := false } (fun s =>
    match s.pop x.gt.val with
    | some (v, s') => .done (s'.modThread x.gt.val (fun t => t.wr d v)) .seq
    | none => .fault s (precise 5 2)))

def execMvfl (x : Issue) (d : Reg) (s : State) : Host.Outcome State Fault Refusal :=
  .next (s.issue x (insMvfl d) (fun s =>
    .done (s.modThread x.gt.val (fun t => t.wr d t.flags.toWord)) .seq))

def execMvtf (x : Issue) (a : Reg) (s : State) : Host.Outcome State Fault Refusal :=
  .next (s.issue x { reads := [a], wrFlags := true, pairOk := false } (fun s =>
    .done (s.modThread x.gt.val (fun t => t.setFlags (Flags.ofWord (t.rd a)))) .seq))

/-- FEATn as a thread reads it (R159): FEAT1 names the reading thread and its virtual complex. -/
def State.feat (s : State) (gt n : Nat) : Word :=
  if n = 1 then
    let own : Nat := match s.owner (ownThread gt) with
      | some v => 2 ^ 17 + v * 2 ^ 11
      | none => 0
    BitVec.ofNat 32 (own + gt)
  else s.reg (0x10000100 + 4 * n)

def execRdfeat (x : Issue) (d : Reg) (n : Fin 8) (s : State) : Host.Outcome State Fault Refusal :=
  .next (s.issue x (insRdfeat d) (fun s =>
    .done (s.modThread x.gt.val (fun t => t.wr d (s.feat x.gt.val n.val))) .seq))

def execGetseg (x : Issue) (d : Reg) (si : Fin 8) (w : Fin 4) (s : State) :
    Host.Outcome State Fault Refusal :=
  .next (s.issue x { writes := [d], pairOk := false, via := true } (fun s =>
    .done (s.modThread x.gt.val (fun t => t.wr d (s.reg (tSeg x.gt.val si.val (4 * w.val))))) .seq))

/-- SETSEG (R125, R126): narrow segment si within its ceiling; s7 settles after two instructions. -/
def execSetseg (x : Issue) (si : Fin 8) (a b : Reg) (rights : BitVec 5) (s : State) :
    Host.Outcome State Fault Refusal :=
  .next (s.issue x { reads := [a, b], pairOk := false, priv := true, delayIll := si.val == 7 } (fun s =>
    let gt := x.gt.val
    let t := s.thread gt
    let c := s.desc gt (si.val + 8)
    let ga := (t.rd a).toNat
    let gb := (t.rd b).toNat
    if !c.valid || decide (c.limit < ga + gb) then
      .fault s { precise 0 3 with
        seg := BitVec.ofNat 3 si.val, acc := 6, addr := (t.rd a).setWidth 48 }
    else
      let base : BitVec 48 := BitVec.ofNat 48 (c.base + ga)
      let r : Word := 1 ||| (boolWord (rights.getLsbD 1 && c.r) <<< 1) |||
        (boolWord (rights.getLsbD 2 && c.w) <<< 2) ||| (boolWord (rights.getLsbD 3 && c.x) <<< 3) |||
        (boolWord (rights.getLsbD 4 || c.lead) <<< 5)
      if si.val = 7 then
        .done (s.setThread gt { t with delayed := t.delayed ++ [(2, .seg7 base (t.rd b) r)] }) .seq
      else
        let s := s.setReg (tSeg gt si.val 0) (base.setWidth 32)
        let s := s.setReg (tSeg gt si.val 4) (BitVec.ofNat 32 (base.toNat / 2 ^ 32))
        let s := s.setReg (tSeg gt si.val 8) (t.rd b)
        .done (s.setReg (tSeg gt si.val 0xC) r) .seq))

/-! ## Waiting (R97 to R102, R151, R184, R192 to R194) -/

/-- WAIT takes the lowest pending input in its mask and writes its number (R99, R192). -/
def State.waitTake (s : State) (gt : Nat) (d : Reg) (mask : BitVec 4) : Option State :=
  let m := s.fld (fPend gt) &&& mask.setWidth 32
  if m = 0 then none
  else
    let i := lowestInput m
    some ((s.consume gt i).modThread gt (fun t => t.wr d (BitVec.ofNat 32 i)))

def execWait (x : Issue) (d : Reg) (mask : BitVec 4) (s : State) : Host.Outcome State Fault Refusal :=
  .next (s.issue x { wf := mask != 0, writes := [d], pairOk := false, via := true } (fun s =>
    match s.waitTake x.gt.val d mask with
    | some s' => .done s' .seq
    | none => .wait s (.wait d mask)))

/-- A waiting instruction may complete in this beat: no fault, freeze or HALT that awaits its boundary
and no handler entry comes first (R73, R103). -/
def State.mayComplete (s : State) (gt : Nat) : Bool :=
  let t := s.thread gt
  t.raised.isNone && !s.handlerDue gt && s.hasBeats gt && (!t.boundary || (t.haltReq.isNone && !t.freezeReq))

/-- A waiting WAIT completes when an input in its mask is pending and no handler entry occurs
(R97, R193). -/
def execWaitComplete (gt : GT) (s : State) : Host.Outcome State Fault Refusal :=
  .next (match (s.thread gt.val).waiting with
    | some (.wait d mask) =>
      if !s.mayComplete gt.val then s
      else match s.waitTake gt.val d mask with
        | some s' => s'.completeWait gt.val [d] false true
        | none => s
    | _ => s)

/-- RECV takes the oldest message: low word in gd, Z clear (R194). -/
def State.recvTake (s : State) (gt : Nat) (d : Reg) : Option State :=
  let t := s.thread gt
  match t.inbox with
  | m :: r =>
    let t := ({ t with inbox := r }).wrPair d m
    some (s.setThread gt (t.setFlags { t.flags with z := false }))
  | [] => none

def execRecv (x : Issue) (d : Reg) (wt : Bool) (s : State) : Host.Outcome State Fault Refusal :=
  .next (s.issue x
    { odd := oddReg d, writes := pairRegs d, wrFlags := true, pairOk := false, via := true } (fun s =>
    match s.recvTake x.gt.val d with
    | some s' => .done s' .seq
    | none =>
      if wt then .wait s (.recv d)
      else .done (s.modThread x.gt.val (fun t => t.setFlags { t.flags with z := true })) .seq))

/-- A waiting RECV completes when a message is in the inbox. -/
def execRecvComplete (gt : GT) (s : State) : Host.Outcome State Fault Refusal :=
  .next (match (s.thread gt.val).waiting with
    | some (.recv d) =>
      if !s.mayComplete gt.val then s
      else match s.recvTake gt.val d with
        | some s' => s'.completeWait gt.val (pairRegs d) true true
        | none => s
    | _ => s)

/-- Every long operation has retired and every store has its completion response (R151). -/
def Thread.settled (t : Thread) : Bool := t.ops.isEmpty && t.stores.isEmpty

/-- The late errors a twin member raises at a SETTLE or SEAL (R432). -/
def Thread.lateNow (t : Thread) : Option FaultRec :=
  match t.late with
  | r :: rest => some (lateFault r.2 rest true)
  | [] => none

/-- The late errors of a member are raised: of a primary they fill their agreement entries (R428). -/
def State.dropLate (s : State) (gt : Nat) : State :=
  (s.agreeLate gt (s.thread gt).late).modThread gt (fun t => { t with late := [] })

/-- The line buffer is discarded, and every instruction that follows is fetched afresh (R108). -/
def State.dropLines (s : State) (gt : Nat) : State :=
  s.modThread gt (fun t => { t with lineBuf := [], ahead := none, fetching := none, fetched := none })

def execSettle (x : Issue) (s : State) : Host.Outcome State Fault Refusal :=
  .next (s.issue x { pairOk := false } (fun s =>
    let t := s.thread x.gt.val
    if t.settled then
      match t.lateNow with
      | some r => .fault (s.dropLate x.gt.val) r
      | none => .done s .seq
    else .wait s .settle))

/-- SETTLE_COMPLETE: a waiting SETTLE completes, or raises the late error that it awaited (R151); a waiting
ISYNC completes when the thread's earlier stores are visible, and discards its line buffer (R108, R184). -/
def execSettleComplete (gt : GT) (s : State) : Host.Outcome State Fault Refusal :=
  .next (
    let t := s.thread gt.val
    if !s.mayComplete gt.val then s
    else match t.waiting with
      | some .settle =>
        if !t.settled then s
        else match t.lateNow with
          | some r => ((s.dropLate gt.val).countWindow gt.val).raise gt.val r
          | none => s.completeWait gt.val [] false false
      | some .isync =>
        if t.stores.isEmpty then (s.dropLines gt.val).completeWait gt.val [] false false else s
      | _ => s)

/-- ISYNC completes when the thread's earlier stores are visible, and discards its line buffer
(R108). -/
def execIsync (x : Issue) (s : State) : Host.Outcome State Fault Refusal :=
  .next (s.issue x { pairOk := false } (fun s =>
    if (s.thread x.gt.val).stores.isEmpty then .done (s.dropLines x.gt.val) .seq else .wait s .isync))

/-- SEAL closes the signature window of a twin member at the boundary after it (R199, R435), where
late errors are raised first (R432). -/
def execSeal (x : Issue) (s : State) : Host.Outcome State Fault Refusal :=
  .next (s.issue x { pairOk := false } (fun s =>
    let t := s.thread x.gt.val
    if t.twin.isSome then
      match t.lateNow with
      | some r => .fault (s.dropLate x.gt.val) r
      | none => .done (s.setThread x.gt.val { t with winEnd := true }) .seq
    else .done s .seq))

/-! ## Handler entry and fault entry (R100, R103, R156) -/

/-- A thread enters the handler of its lowest pending enabled input (R100, R102); a push onto a full
RS with RS_TRAP raises RSTACK instead and the event stays pending (R137). -/
def execHandlerEntry (gt : GT) (s : State) : Host.Outcome State Fault Refusal :=
  .next (
    let g := gt.val
    let t := s.thread g
    let st := s.fld (fState g)
    if s.handlerDue g ∧ t.raised.isNone ∧ t.haltReq.isNone ∧ !t.freezeReq ∧
       (st = stReady ∨ st = stWait) ∧ s.hasBeats g then
      match s.push g t.pc with
      | none => s.raise g (precise 5 1)
      | some s1 =>
        let i := lowestInput (s.fld (fPend g) &&& s.fld (fHen g))
        let s2 := s1.consume g i
        let s3 := (s2.setBit (fInHandler g) true).setFld (fHinput g) (BitVec.ofNat 32 i)
        let pc := s.fld (fVector g) * 64 + BitVec.ofNat 32 (16 * i)
        let s4 := s3.modThread g (fun t => { t with
          pc := pc, npc := pc + 4, waiting := none, pairOpen := none, held := false })
        (s4.setFld (fState g) stReady).countWrap (fBeats g)
    else s)

/-- The thread enters its fault handler, rather than FAULTED (R156, R157). -/
def State.entersHandler (s : State) (gt : Nat) (r : FaultRec) : Bool :=
  r.cls != 8 && s.bit (fFaultEnable gt) && !s.bit (fInFault gt)

/-- A raised fault is taken (R156, R157), before any freeze, HALT or handler entry due at the same
boundary (R103): a handler is entered in a beat of the thread's own. -/
def execFaultEntry (gt : GT) (s : State) : Host.Outcome State Fault Refusal :=
  .next (match (s.thread gt.val).raised with
    | some r =>
      if s.entersHandler gt.val r && !s.hasBeats gt.val then s else (s.takeFault gt.val r).atBoundary gt.val
    | none => s)

end Sys2Proof.Machine
end

