-- ==== Sys2Proof/Machine/DmaMove.lean ====
section
/-!
DEFINITION. The data movement of DMA channels (R377 to R379, R383 to R387, R394 to R397): source accesses
into the engine's staging buffer, destination accesses out of it, access by access; what a failure, an
ABORT or an engine's error leaves; the end of a transfer.
-/
namespace Sys2Proof.Machine

/-! ## The stream (R384 to R387) -/

def ChanS.srcS (x : ChanS) : Side := srcSide x.cfg x.src
def ChanS.dstS (x : ChanS) : Side := dstSide x.cfg x.dst

/-- Length of a side's access that begins at stream byte k, of a stream that ends at `count`: an element on a
FIXED side or in the control register range, the bytes of a line elsewhere (R384, R386). -/
def Side.piece (x : Side) (k count : Nat) : Nat :=
  min (count - k) (if x.fixed || inCtl (x.at k) then x.e else 64 - x.at k % 64)

/-- The stream byte, as the source gives it, that is written at place p of the destination (R385). -/
def ChanS.swap (x : ChanS) (p : Nat) : Nat :=
  let e := cfgE x.cfg
  if cfgSwap x.cfg = 1 then p - p % e + (e - 1 - p % e)
  else if cfgSwap x.cfg = 2 then (if p % 4 < 2 then p + 2 else p - 2)
  else p

/-- The lowest stream byte of n places of the destination from p on. -/
def ChanS.lowest (x : ChanS) (p n : Nat) : Nat :=
  (List.range n).foldl (fun m i => min m (x.swap (p + i))) (x.swap p)

/-- Memory behind an address of the first 192 MiB. -/
def underAlias (a : Nat) : Nat := if a < 0xC000000 then a % 0x4000000 else a

/-- A side of count bytes touches the memory at an address. -/
def Side.covers (x : Side) (count a : Nat) : Bool :=
  let b := underAlias x.a
  let a := underAlias a
  if x.fixed then decide (b ≤ a) && decide (a < b + min count x.e)
  else if x.wrap = 0 then decide (b ≤ a) && decide (a < b + count)
  else
    let n := 2 ^ (x.wrap + 1)
    decide (b / n = a / n) && decide ((a % n + n - b % n) % n < count)

/-- Bounds of what a side touches. -/
def Side.span (x : Side) (count : Nat) : Nat × Nat :=
  let b := underAlias x.a
  if x.fixed then (b, b + x.e)
  else if x.wrap = 0 then (b, b + count)
  else
    let n := 2 ^ (x.wrap + 1)
    (b - b % n, b - b % n + n)

/-- The sides may overlap. -/
def ChanS.meets (x : ChanS) : Bool :=
  let p := x.srcS.span x.count
  let q := x.dstS.span x.count
  decide (p.1 < q.2) && decide (q.1 < p.2)

/-- Place p of the destination overlaps the source, so that what it gets is undefined (R387). -/
def ChanS.hit (x : ChanS) (p : Nat) : Bool := x.meets && x.srcS.covers x.count (x.dstS.at p)

/-- A staged stream byte. -/
def ChanS.staged (x : ChanS) (i : Nat) : Option Byte :=
  x.stage.findSome? (fun q => if q.1 ≤ i ∧ i < q.1 + q.2.length then q.2[i - q.1]? else none)

/-- The bytes of n places of the destination from p on, once all of them are staged (R386). -/
def ChanS.ready (x : ChanS) (p n : Nat) : Option (List Byte) :=
  match n with
  | 0 => some []
  | m + 1 =>
    match x.staged (x.swap p), ChanS.ready x (p + 1) m with
    | some b, some bs => some (b :: bs)
    | _, _ => none

/-- n places from the next one on are dealt with; staged bytes below them are let go (R379). -/
def ChanS.moved (x : ChanS) (n : Nat) : ChanS :=
  let e := cfgE x.cfg
  { x with
    wr := x.wr + n
    stage := x.stage.filter (fun q => decide ((x.wr + n) / e * e < q.1 + q.2.length)) }

/-- A transfer moves whole elements only. -/
def ChanS.whole (x : ChanS) : Bool :=
  x.srcS.fixed || x.dstS.fixed || cfgSwap x.cfg != 0 || inCtl x.src || inCtl x.dst

/-- A number of bytes rounded down to what the transfer can stop at. -/
def ChanS.stopAt (x : ChanS) (n : Nat) : Nat :=
  let n := min n x.count
  if x.whole then n / cfgE x.cfg * cfgE x.cfg else n

/-- What the destination is written in, of a transfer that fails. -/
def ChanS.unit (x : ChanS) : Nat :=
  if x.dstS.fixed || inCtl x.dst || cfgSwap x.cfg != 0 then cfgE x.cfg else 1

/-- Where the writes end: at COUNT; after an ABORT with what was read (R394); after a failure with the
element of its lowest stream byte, of which the bytes below are still written (R396). -/
def ChanS.stop (x : ChanS) (aborting : Bool) : Nat :=
  match x.bad with
  | some (k, _) =>
    let l := k / x.unit * x.unit
    if cfgSwap x.cfg = 0 ∨ x.dstS.fixed ∨ inCtl x.dst then l else min x.count (l + x.unit)
  | none => if aborting && !x.late then x.stopAt x.rd else x.count

/-- The element a failure cuts begins here. -/
def ChanS.cut (x : ChanS) : Nat :=
  match x.bad with
  | some (k, _) => k / x.unit * x.unit
  | none => x.count

/-- Length of the next destination access, from place `wr` on: of the element that a failure cuts, a byte. -/
def ChanS.nextWrite (x : ChanS) (aborting : Bool) : Option Nat :=
  let e := x.stop aborting
  if e ≤ x.wr then none
  else if x.cut ≤ x.wr then some 1
  else
    let n := x.dstS.piece x.wr (min e x.cut)
    if inCtl (x.dstS.at x.wr) ∧ n < cfgE x.cfg then none else some n

/-! ## Failures (R396) -/

/-- An access fails, at a stream byte and an address: the lowest such is kept and recorded (log 14). -/
def State.dmaFail (s : State) (c k a : Nat) : State :=
  let lower : Bool := match (s.chan c).bad with
    | some (j, _) => decide (k < j)
    | none => true
  if lower then
    let s := (s.setReg (chReg c 0x38) (BitVec.ofNat 32 a)).setReg (chReg c 0x3C) (BitVec.ofNat 32 (a / 2 ^ 32))
    s.modChan c (fun x => { x with bad := some (k, a) })
  else s

/-- The answer to an access outside the banks is taken: read data are staged, an error is a failure. Reads
have even numbers, twice their first stream byte. -/
def State.dmaTake (s : State) (c : Nat) (r : ChanReq) : State :=
  match r.ans with
  | none => s
  | some ans =>
    let s := s.chanTake c r.job
    let k := r.job / 2
    if r.job % 2 = 0 then
      (match ans with
        | some bs => s.modChan c (fun x => { x with stage := x.stage ++ [(k, bs)] })
        | none => s.dmaFail c k r.addr)
    else match ans with
      | some _ => s
      | none => s.dmaFail c ((s.chan c).lowest k r.n) r.addr

def State.dmaCollect (s : State) (c : Nat) : State := (s.chan c).out.foldl (fun s r => s.dmaTake c r) s

/-! ## One access (R377, R378) -/

def chanFin (c : Nat) : Chan := BitVec.toFin (BitVec.ofNat 7 c)

/-- The channel is being aborted. -/
def State.dmaAborting (s : State) (c : Nat) : Bool := s.fld (fChState c) == chAborting

/-- Bytes of a channel's destination accesses that are under way. -/
def ChanS.writing (x : ChanS) : Nat := ((x.out.filter (fun r => r.job % 2 == 1)).map (fun r => r.n)).sum

/-- Bytes of an engine's staging buffer in use: read or being read, and not yet written (R49, R379). -/
def State.stagingUsed (s : State) (e : Nat) : Nat :=
  ((List.range 32).map (fun i =>
    let x := s.chan (32 * e + i)
    if x.phase = .move then x.rd - x.wr + x.writing else 0)).sum

/-- A control register access of a channel: what is read or written goes to the block, its answer to the
access named by `ref`; none where the form is refused. -/
def State.dmaCtl (s : State) (c a n : Nat) (wr : Option (List Byte)) (ref : ReqRef) : Option State :=
  match ctlRefusal a n wr.isSome with
  | some _ => none
  | none => some (match wr with
    | none => s.ctlRead (.chan (chanFin c)) a (n = 8) ref
    | some bs => s.ctlWrite (.chan (chanFin c)) a (wordAt bs 0) (if n = 8 then some (wordAt bs 1) else none) ref)

/-- An access outside the banks, under number `job`; none where it fails at once. -/
def State.dmaOutside (s : State) (c job a n : Nat) (wr : Option (List Byte)) : Option State :=
  match s.region a with
  | .system => some (s.chanSend c job a n wr)
  | .remote _ => some (s.chanSend c job a n wr)
  | .ctl =>
    let p := s.chanNote c job a n
    p.1.dmaCtl c a n wr (.chan c p.2)
  | _ => none

/-- The address lies where banks and their aliases do. -/
def State.inBanks (s : State) (a : Nat) : Bool :=
  match s.region a with
  | .bank _ => true
  | .aliasSet _ => true
  | .aliasClr _ => true
  | _ => false

/-- A source access, where one can be made: whether it was, and the state after. -/
def State.dmaReadOne (s : State) (c : Nat) : Bool × State :=
  let x := s.chan c
  let k := x.rd
  let a := x.srcS.at k
  let n := x.srcS.piece k x.count
  let ok (s : State) : State := s.modChan c (fun x => { x with rd := k + n })
  if s.dmaAborting c ∨ x.bad.isSome ∨ x.count ≤ k then (false, s.agentLeaves (walkRead c))
  else if 2048 < s.stagingUsed (c / 32) + n then (false, s)
  else if s.inBanks a then
    (match s.memAccess (.gleaner (c / 32)) (walkRead c) a n none with
      | .denied => (true, s.dmaFail c k a)
      | .held s => (false, s)
      | .done s bs => (true, (ok s).modChan c (fun x => { x with stage := x.stage ++ [(k, bs)] })))
  else match s.dmaOutside c (2 * k) a n none with
    | some s => (true, ok s)
    | none => (true, s.dmaFail c k a)

/-- The places of a destination access that are alike: none of them overlaps the source, or all do. -/
def ChanS.run (x : ChanS) (p n : Nat) : Nat :=
  if x.meets then ((List.range n).takeWhile (fun i => x.hit (p + i) == x.hit p)).length else n

/-- The bytes with free values at the places that overlap the source. -/
def State.openBytes (s : State) (x : ChanS) (p : Nat) (bs : List Byte) : List Byte × State :=
  if x.meets then
    let f := s.freeBytes bs.length
    (bs.zipIdx.map (fun q => if x.hit (p + q.2) then f.1.getD q.2 0 else q.1), f.2)
  else (bs, s)

/-- A destination access of n bytes in the banks. Places that overlap the source are passed over until the
transfer ends, so that what is still to be read stays as it was (R387). -/
def State.dmaWriteBank (s : State) (c n : Nat) : Bool × State :=
  let x := s.chan c
  let p := x.wr
  let a := x.dstS.at p
  let m := x.run p n
  if x.hit p then (true, s.modChan c (fun x => x.moved m))
  else match x.ready p m with
    | none => (false, s)
    | some bs =>
      match s.memAccess (.gleaner (c / 32)) (walkWrite c) a m (some bs) with
      | .denied => (true, s.dmaFail c (x.lowest p m) a)
      | .held s => (false, s)
      | .done s _ => (true, s.modChan c (fun x => x.moved m))

/-- The same elsewhere. An element of the control register range that overlaps the source is passed over
likewise. -/
def State.dmaWriteOut (s : State) (c n : Nat) : Bool × State :=
  let x := s.chan c
  let p := x.wr
  let a := x.dstS.at p
  if inCtl a ∧ (List.range n).any (fun i => x.hit (p + i)) then (true, s.modChan c (fun x => x.moved n))
  else match x.ready p n with
    | none => (false, s)
    | some bs =>
      let q := s.openBytes x p bs
      match q.2.dmaOutside c (2 * p + 1) a n (some q.1) with
      | some s => (true, s.modChan c (fun x => x.moved n))
      | none => (true, s.dmaFail c (x.lowest p n) a)

/-- A destination access, where one can be made: whether it was, and the state after. -/
def State.dmaWriteOne (s : State) (c : Nat) : Bool × State :=
  let x := s.chan c
  match x.nextWrite (s.dmaAborting c), x.bad with
  | none, _ => (false, s)
  | some n, bad =>
    if bad.any (fun b => decide (x.cut ≤ x.wr) && decide (b.1 ≤ x.swap x.wr)) then (true, s.modChan c (fun x => x.moved 1))
    else if s.inBanks (x.dstS.at x.wr) then s.dmaWriteBank c n
    else s.dmaWriteOut c n

/-- At most n accesses of a channel, writes before reads, as far as none has to wait. -/
def State.dmaRun (s : State) (c n : Nat) : State :=
  match n with
  | 0 => s.dmaCollect c
  | m + 1 =>
    let w := (s.dmaCollect c).dmaWriteOne c
    if w.1 then w.2.dmaRun c m
    else
      let r := w.2.dmaReadOne c
      if r.1 then r.2.dmaRun c m else r.2

/-! ## The end of a transfer (R383, R387, R394 to R397) -/

/-- What place p of the destination holds at the end is undefined: it overlaps the source, or lies at or
above a failure. -/
def ChanS.left (x : ChanS) (p : Nat) : Bool :=
  x.hit p || x.bad.any (fun b => decide (b.1 ≤ x.swap p))

/-- One place of the destination at the end: its length, and the state after, or the state in which it
waits. Bank bytes left open take free values. An element of control registers left open is written with free
values, after a failure or not at all. -/
def State.dmaOpen (s : State) (c : Nat) (x : ChanS) (p : Nat) : Option Nat × State :=
  let a := x.dstS.at p
  if inCtl a then
    let n := max 1 (x.dstS.piece p x.count)
    if (List.range n).any (fun i => x.left (p + i)) then
      let f := s.freeBytes n
      let d := f.2.drawn
      if x.bad.isNone ∨ Config.freeBool f.2.freeCtr then (some n, (d.dmaCtl c a n (some f.1) .posted).getD d)
      else (some n, d)
    else (some n, s)
  else if s.inBanks a ∧ x.left p then
    let f := s.freeBytes 1
    match f.2.memAccess (.gleaner (c / 32)) (walkWrite c) a 1 (some f.1) with
    | .denied => (some 1, s)
    | .held s => (none, s)
    | .done s _ => (some 1, s)
  else (some 1, s)

/-- The places left open up to `stop` are dealt with, one after the other: whether all are. -/
def State.dmaClose (s : State) (c stop fuel : Nat) : Bool × State :=
  match fuel with
  | 0 => (true, s)
  | f + 1 =>
    let x := s.chan c
    let p := max x.close (if x.meets then 0 else x.cut)
    if stop ≤ p then (true, s)
    else
      let q := s.dmaOpen c x p
      match q.1 with
      | some n => (q.2.modChan c (fun x => { x with close := p + n })).dmaClose c stop f
      | none => (false, q.2)

/-- RESIDUE of a transfer under way: bytes not yet written. -/
def State.dmaResidue (s : State) (c : Nat) : State :=
  let x := s.chan c
  s.setReg (chReg c 0x20) (BitVec.ofNat 32 (x.count - (x.wr - x.writing)))

/-- The end of a transfer: nothing of it is under way, and nothing more is to be written. -/
def State.dmaSettle (s : State) (c : Nat) : State :=
  let x := s.chan c
  let ab := s.dmaAborting c
  if !x.out.isEmpty ∨ (x.nextWrite ab).isSome then s.dmaResidue c
  else
    let e := x.stop ab
    let q := s.dmaClose c (if x.bad.isSome then x.count else e) x.count
    if !q.1 then q.2.dmaResidue c
    else match x.bad with
      | some (k, _) => q.2.chanFinish c (if x.eng then rsEngine else rsBus) (x.count - k)
      | none =>
        if ab ∧ !x.late then q.2.chanFinish c rsAborted (x.count - e) else q.2.chanFinish c rsDone 0

/-- Channel c is moving data. -/
def State.dmaMoving (s : State) (c : Nat) : Bool :=
  s.chanPresent c && (s.chan c).phase == .move &&
  (s.fld (fChState c) == chActive || s.fld (fChState c) == chAborting)

/-- DMA_TRANSFER_DONE: at most n more accesses of a transfer; it completes once every write is performed, or
stops where it is aborted (R383, R394, R395). A row that finds it unfinished leaves it so (log 14). -/
def execDmaTransferDone (c : Chan) (n : Word) (s : State) : Host.Outcome State Fault Refusal :=
  .next (
    let c := c.val
    if !s.dmaMoving c then s
    else
      let s := s.dmaRun c n.toNat
      if (s.chan c).bad.isSome then s.dmaResidue c else s.dmaSettle c)

/-- A transfer that has failed goes on to its end. -/
def State.dmaStop (s : State) (c : Nat) : State := (s.dmaRun c (2 * (s.chan c).count)).dmaSettle c

/-- DMA_ACCESS_FAIL: a transfer with a failed access stops, once the accesses already issued are completed
(R396). -/
def execDmaAccessFail (c : Chan) (s : State) : Host.Outcome State Fault Refusal :=
  .next (
    let c := c.val
    if !s.dmaMoving c then s
    else
      let s := s.dmaCollect c
      if (s.chan c).bad.isSome then s.dmaStop c else s.dmaResidue c)

/-- A channel stops with RESULT ENGINE: a transfer as after a failure of the element it writes next (R397,
log 14). -/
def State.dmaEngine (s : State) (c : Nat) : State :=
  let x := s.chan c
  match x.phase with
  | .move =>
    let k := x.wr / x.unit * x.unit
    ((s.dmaFail c k (x.dstS.at k)).modChan c (fun x => { x with eng := true })).dmaStop c
  | .back => s.setFld (fChResult c) rsEngine
  | _ => (s.setFld (fChResult c) rsEngine).chanStop c (some true)

/-- ENGINE_ERROR: every channel of the engine that is ACTIVE or ABORTING stops (R397). -/
def execEngineError (e : Fin 4) (s : State) : Host.Outcome State Fault Refusal :=
  .next (
    let e := e.val
    if !s.enginePresent e then s
    else
      let s := (List.range 32).foldl (fun s i =>
        let c := 32 * e + i
        if s.fld (fChState c) = chActive ∨ s.fld (fChState c) = chAborting then s.dmaEngine c else s) s
      let s := s.setBit ⟨0x10608000 + 0x10000 * e, 1, 1⟩ true
      (s.present (0x17A4 + e) false 0).faultMinor)

end Sys2Proof.Machine
end

