-- ==== Sys2Proof/Machine/Memory.lean ====
section
/-!
DEFINITION. What the instructions that access memory do (R123 to R132, R177 to R179, R186 to R189,
R195 to R198): the path of each part of an access, loads, stores, AGREE, the table reads, SEND and
EDGE; and the rows that bring their answers: STORE_COMPLETION, PORT_B_RETRY and ICACHE_REFILL.
-/
namespace Sys2Proof.Machine

/-! ## Checks -/

/-- One contract break for an access outside the places of R94. -/
def State.accessBreak (s : State) (gt : Nat) (as : List Nat) : State :=
  if as.all (contractFree gt) then s else s.contractBreak gt (some (s.thread gt).pc)

/-- Every part passes R123 before any is performed (R128); a split access is no form of R8. -/
def State.checkParts (s : State) (gt i : Nat) (k : AccKind) (ps : List Part) (split second : Bool) : Option FaultRec :=
  match ps with
  | [] => none
  | p :: r =>
    match s.checkAccess gt i k p.2.1 p.2.2 with
    | .error c =>
      some (({ c with detail := if split && c.cls == 4 && c.detail == 3 then 2 else c.detail } : CheckFail).toRec i second)
    | .ok a =>
      if split && s.threadRegion a == .ctl then
        some ((⟨4, 2, BitVec.ofNat 48 a, k.code⟩ : CheckFail).toRec i second)
      else s.checkParts gt i k r split true

/-- A held instruction. -/
def State.holdFor (s : State) (gt : Nat) (brk : Bool) : Exec := .hold (if brk then s.holdBreak gt else s)

/-! ## Paths -/

/-- An access of a thread to a bank: the own core's bins at port A; another core's at port B, behind the
thread's own earlier access to the same bytes, and again when it receives BUSY (R313, R314); the granary
through the data cache, or judged by the home (R334, R349). -/
def State.bankPart (s : State) (gt : Nat) (acc : MemAcc) (cached clash : Bool) : State :=
  let own (x : MemAcc) : Bool := x.ref.ofThread gt && overlap x.addr x.act.size acc.addr acc.act.size
  if ownBin gt acc.addr then s.performAt acc
  else if acc.addr < 0x800000 then
    if clash || s.portB.any own then { s with portB := s.portB ++ [acc] } else s.performAt acc
  else if cached && s.bit (fDcEnable (gt / 64)) then s.cacheAccess (gt / 64) acc
  else s.homeAccess acc

/-- An access to the system region, through the data cache where that caches it, or to a remote window:
a request of the ledger (R334, R362). -/
def State.farPart (s : State) (gt : Nat) (acc : MemAcc) : State :=
  let c := gt / 64
  if 0x100000000000 ≤ acc.addr ∧ s.bit (fDcEnable c) ∧ s.bit (fSysCache c) then s.cacheAccess c acc
  else
    s.ledgerSend (accessEntry acc.ref gt acc.addr acc.act.size (match acc.act with | .write bs => some bs | _ => none))

/-- The bytes of a near read as they stand, and the state after: a read at port A that meets a write at
port B is undefined, and is counted (R313); a read of the own register set is made at once (R179). -/
def State.nearRead (s : State) (gt a n : Nat) (clash : Bool) : List Byte × State :=
  if ownSet gt a then s.readWords (ownAgent gt) (.core (gt / 64)) (a - coreBase gt) (n == 8) false
  else if clash then
    (match bankOf (underlying a) with
      | some g => (s.countUp (fCollide g)).freeBytes n
      | none => s.freeBytes n)
  else (s.bytes (underlying a) n, s)

/-- A part of a load is read, for whoever awaits it. -/
def State.loadPart (s : State) (gt a n : Nat) (ref : ReqRef) (clash : Bool) : State :=
  if nearAt gt a then
    (let p := s.nearRead gt a n clash
     p.2.deliver ref p.1)
  else match s.threadRegion a with
    | .bank _ => s.bankPart gt ⟨ref, a, .read n⟩ true clash
    | .aliasSet x => s.bankPart gt ⟨ref, x, .read n⟩ false clash
    | .aliasClr x => s.bankPart gt ⟨ref, x, .read n⟩ false clash
    | .ctl => s.ctlRead (ownAgent gt) a (n == 8) ref
    | .remote _ => s.farPart gt ⟨ref, a, .read n⟩
    | .system => s.farPart gt ⟨ref, a, .read n⟩
    | .unmapped => s

/-- Words of a write to the control register range. -/
def wordOfBytes (bs : List Byte) : Word := BitVec.ofNat 32 (ofBytes bs)

/-- A part of a store is performed or presented; one to the thread's own sets settles as R105 says. A shadow writes data as held, and through the other
alias with plain data (R170, R423). -/
def State.storePart (s : State) (gt a : Nat) (plain : List Byte) (ref : ReqRef) (clash : Bool) : State :=
  let sh := (s.thread gt).isShadow
  let held := if sh then plain.map (fun b => ~~~ b) else plain
  match s.threadRegion a with
  | .bank _ => s.bankPart gt ⟨ref, a, .write held⟩ true clash
  | .aliasSet x => s.bankPart gt ⟨ref, x, if sh then .clrBits plain else .setBits plain⟩ false clash
  | .aliasClr x => s.bankPart gt ⟨ref, x, if sh then .setBits plain else .clrBits plain⟩ false clash
  | .ctl =>
    let s := match ownTxw gt a with
      | some k => if s.bayPresent (gt / 64) then s.useCredit (txKey (gt / 64) k) else s
      | none => s
    s.ctlWrite (ownAgent gt) a (wordOfBytes (plain.take 4))
      (if plain.length = 8 then some (wordOfBytes (plain.drop 4)) else none) ref
  | .remote _ => s.farPart gt ⟨ref, a, .write held⟩
  | .system => s.farPart gt ⟨ref, a, .write held⟩
  | .unmapped => s

/-! ## Loads (R177 to R179) -/

/-- An alias access has an ACCESS code of its own (R153). -/
def accCode (k : AccKind) (a : Nat) : BitVec 3 :=
  if 0x4000000 ≤ a ∧ a < 0xC000000 then AccKind.aliasAcc.code else k.code

/-- Write a result that is there at once. -/
def Thread.wrResult (t : Thread) (d : Reg) (pair : Bool) (r : OpResult) : Thread :=
  match r with
  | .value lo hi => if pair then t.wrPair d (Word.pair lo hi) else t.wr d lo
  | _ => t

/-- A load whose parts are all near: its bytes in plain values, and the state after; `clash` says of each part
whether it meets a write at port B. -/
def State.nearLoad (s : State) (gt : Nat) (ps : List Part) (clash : List Bool) : List Byte × State :=
  match ps with
  | [] => ([], s)
  | p :: r =>
    let q := s.nearRead gt p.1 p.2.2 (clash.headD false)
    let rest := q.2.nearLoad gt r clash.tail
    ((if (s.thread gt).isShadow then q.1.map (fun b => ~~~ b) else q.1) ++ rest.1, rest.2)

/-- Bytes by position. -/
def bytesAt (bs : List Byte) : Map Byte := bs.zipIdx.foldl (fun m p => Map.set 0 m p.2 p.1) []

/-- Every part of an operation is read, the bytes of the first from position pos on. -/
def State.loadParts (s : State) (gt id pos : Nat) (ps : List Part) (clash : List Bool) : State :=
  match ps with
  | [] => s
  | p :: r =>
    (s.loadPart gt p.1 p.2.2 (.op gt id pos) (clash.headD false)).loadParts gt id (pos + p.2.2) r clash.tail

/-- A long operation issues, and its parts are read (R145). -/
def State.issueLong (s : State) (gt : Nat) (d : Reg) (pair : Bool) (seg : Fin 8) (acc : BitVec 3) (form : LoadForm)
    (agree : Bool) (ps : List Part) (clash : List Bool) : State :=
  let t := s.thread gt
  let s := s.setThread gt (t.addOp ⟨0, t.pc, d, pair, BitVec.ofNat 3 seg.val, acc, form, ps.length, [], none, agree,
    ps.any (fun p => paddedAt gt p.1)⟩)
  s.loadParts gt t.nextOp 0 ps clash

/-- Whether the parts of an access collide at the ports of a bin (R313). -/
def opClashes (m : MemOp) : List Bool := [m.clash, m.clash2]

/-- The operation of a load of n bytes. -/
def State.loadBody (s : State) (gt : Nat) (m : MemOp) (n : Nat) (form : LoadForm) (agree : Bool) : Exec :=
  let ps := s.memParts gt m n
  match s.checkParts gt m.seg.val .load ps (decide (1 < ps.length)) false with
  | some r => .fault s r
  | none =>
    match s.accessHeld gt false ps with
    | some brk => s.holdFor gt brk
    | none =>
      let s := s.accessBreak gt (ps.map (fun p => p.1))
      if ps.all (fun p => nearAt gt p.1) then
        let q := s.nearLoad gt ps (opClashes m)
        .done (q.2.modThread gt (fun t => t.wrResult m.d (n == 8) (form.result (bytesAt q.1)))) .seq
      else
        .done (s.issueLong gt m.d (n == 8) m.seg (accCode .load (s.memBase gt m + s.memOff gt m)) form agree ps (opClashes m)) .seq

/-- A load of n bytes. -/
def execLoad (x : Issue) (m : MemOp) (n : Nat) (form : LoadForm) (s : State) : State :=
  let gt := x.gt.val
  s.issue x (s.insLoad gt m n) (fun s =>
    s.loadBody gt m n form ((s.thread gt).primaryOf.isSome && s.memVia gt m n))

def execLdb (x : Issue) (m : MemOp) (s : State) : Host.Outcome State Fault Refusal :=
  .next (execLoad x m 1 (.sext 1) s)
def execLdbu (x : Issue) (m : MemOp) (s : State) : Host.Outcome State Fault Refusal :=
  .next (execLoad x m 1 (.zext 1) s)
def execLdh (x : Issue) (m : MemOp) (s : State) : Host.Outcome State Fault Refusal :=
  .next (execLoad x m 2 (.sext 2) s)
def execLdhu (x : Issue) (m : MemOp) (s : State) : Host.Outcome State Fault Refusal :=
  .next (execLoad x m 2 (.zext 2) s)
def execLdw (x : Issue) (m : MemOp) (s : State) : Host.Outcome State Fault Refusal :=
  .next (execLoad x m 4 (.zext 4) s)
def execLdd (x : Issue) (m : MemOp) (s : State) : Host.Outcome State Fault Refusal :=
  .next (execLoad x m 8 .pair s)

/-- AGREE: as LDW outside a twin; the primary's read, and the shadow's value, go through the agreement
buffer whatever the region (R198). -/
def execAgree (x : Issue) (m : MemOp) (s : State) : Host.Outcome State Fault Refusal :=
  .next (
    let gt := x.gt.val
    let i := s.insLoad gt m 4
    s.issue x { i with
      pairOk := false, via := true, long := i.long && !(s.thread gt).isShadow
      reads := if (s.thread gt).isShadow then [] else [m.a] }
      (fun s => s.loadBody gt m 4 (.zext 4) (s.thread gt).primaryOf.isSome))

/-! ## Stores (R177, R130, R151, R433) -/

/-- A store, or the part of one, outside the near places awaits its response as StoreOp; one to a far place or
of a split store is a long operation (R130, R145). -/
def State.storeOne (s : State) (gt : Nat) (seg : Fin 8) (a : Nat) (bs : List Byte) (rest : Option (Nat × List Byte))
    (second split clash : Bool) : State :=
  if nearAt gt a then s.storePart gt a bs .posted clash
  else
    let t := s.thread gt
    let o : StoreOp := ⟨t.nextOp, t.pc, BitVec.ofNat 3 seg.val, accCode .store a, BitVec.ofNat 48 a, rest, second, none,
      false, split || farAt a⟩
    (s.setThread gt { t with stores := t.stores ++ [o], nextOp := t.nextOp + 1 }).storePart gt a bs (.store gt t.nextOp) clash

/-- Every part of a store; of two that lie in the system region or a remote window the second is
presented after the first's response (R130). -/
def State.storeParts (s : State) (gt : Nat) (seg : Fin 8) (ps : List Part) (bs : List Byte) (clash clash2 : Bool) : State :=
  match ps with
  | [p] => s.storeOne gt seg p.1 bs none false false clash
  | [p, q] =>
    if farAt p.1 then s.storeOne gt seg p.1 (bs.take p.2.2) (some (q.1, bs.drop p.2.2)) false true clash
    else
      (s.storeOne gt seg p.1 (bs.take p.2.2) none false true clash).storeOne gt seg q.1 (bs.drop p.2.2) none true true
        clash2
  | _ => s

/-- The record of a store: tag 0x01 (R433). -/
def recStore (n : Nat) (a off : Nat) (seg : Fin 8) (bs : List Byte) : List Byte :=
  let al := if 0x4000000 ≤ a ∧ a < 0x8000000 then 0x10 else if 0x8000000 ≤ a ∧ a < 0xC000000 then 0x20 else 0
  [1, BitVec.ofNat 8 (n + al), BitVec.ofNat 8 seg.val, 0] ++ toBytes 4 off ++ toBytes 8 (ofBytes bs)

/-- The operation of a store of n bytes. -/
def State.storeBody (s : State) (gt : Nat) (m : MemOp) (n : Nat) (bs : List Byte) : Exec :=
  let ps := s.memParts gt m n
  match s.checkParts gt m.seg.val .store ps (decide (1 < ps.length)) false with
  | some r => .fault s r
  | none =>
    match s.accessHeld gt true ps with
    | some brk => s.holdFor gt brk
    | none => .done ((s.accessBreak gt (ps.map (fun p => p.1))).storeParts gt m.seg ps bs m.clash m.clash2) .seq

/-- An operation of form VIA, or not, whose completion forms a record in either member (R433). -/
def State.recorded (s : State) (gt : Nat) (via : Bool) (ws : List Reg) (rec : List Byte) (body : State → Exec) : Exec :=
  match (if via then s.viaBody gt ws false body else body s) with
  | .done s' nx => .done (s'.modThread gt (fun t => t.record rec)) nx
  | e => e

/-- The bytes a store moves, in plain values. -/
def Thread.storeBytes (t : Thread) (d : Reg) (n : Nat) : List Byte :=
  if n = 8 then toBytes 8 (t.rdPair d).toNat else toBytes n (t.rd d).toNat

/-- A store of n bytes. -/
def execStore (x : Issue) (m : MemOp) (n : Nat) (s : State) : State :=
  let gt := x.gt.val
  s.issue x (insStore m n) (fun s =>
    let bs := (s.thread gt).storeBytes m.d n
    let off := s.memOff gt m
    s.recorded gt (s.memVia gt m n) [] (recStore n (s.memBase gt m + off) off m.seg bs)
      (fun s => s.storeBody gt m n bs))

def execStb (x : Issue) (m : MemOp) (s : State) : Host.Outcome State Fault Refusal := .next (execStore x m 1 s)
def execSth (x : Issue) (m : MemOp) (s : State) : Host.Outcome State Fault Refusal := .next (execStore x m 2 s)
def execStw (x : Issue) (m : MemOp) (s : State) : Host.Outcome State Fault Refusal := .next (execStore x m 4 s)
def execStd (x : Issue) (m : MemOp) (s : State) : Host.Outcome State Fault Refusal := .next (execStore x m 8 s)

/-! ## Tables (R186 to R189) -/

/-- The entries a table instruction reads, as parts (R123: offsets are modulo 2^32). -/
def State.tableParts (s : State) (gt : Nat) (seg : Fin 8) (w : Nat) (b : Word) (ks : List Nat) : List Part :=
  ks.map (fun k =>
    let off := (b + BitVec.ofNat 32 (k * w)).toNat
    ((s.desc gt seg.val).base + off, off, w))

/-- Every entry passes R123 as a table read and lies at a multiple of its width (R188). The entries are
judged in the order they are read, each whole before the next: of a misaligned entry and a later one that
fails R123 the spec does not say which fault is raised (DESIGN CHOICE, log 81). -/
def State.checkTable (s : State) (gt : Nat) (seg : Fin 8) (ps : List Part) : Option FaultRec :=
  match ps with
  | [] => none
  | p :: r =>
    match s.checkAccess gt seg.val .table p.2.1 p.2.2 with
    | .error c => some (c.toRec seg.val false)
    | .ok a =>
      if a % p.2.2 ≠ 0 then some ((⟨4, 2, BitVec.ofNat 48 a, AccKind.table.code⟩ : CheckFail).toRec seg.val false)
      else s.checkTable gt seg r

/-- The operation of a table instruction: a long operation over its entries; each read elsewhere counts a
contract break (R189). -/
def State.tableBody (s : State) (gt : Nat) (d : Reg) (seg : Fin 8) (ps : List Part) (form : LoadForm)
    (clash : List Bool) : Exec :=
  match s.checkTable gt seg ps with
  | some r => .fault s r
  | none =>
    match s.accessHeld gt false ps with
    | some brk => s.holdFor gt brk
    | none =>
      let s := ps.foldl (fun s p => s.accessBreak gt [p.1]) s
      .done (s.issueLong gt d false seg AccKind.table.code form false ps clash) .seq

/-- A table instruction's columns. -/
def insTable (wf odd : Bool) (d b : Reg) (as : List Reg) : Ins :=
  { wf := wf, odd := odd, reads := b :: as, writes := [d], access := true, long := true, pairOk := false }

/-- The reads that collide, by the bits of an operand (R313). -/
def clashBits (n w : Nat) : List Bool := (List.range n).map (fun i => w.testBit i)

/-- Interval and fraction of an input at n bits (R186). -/
def tableIdx (x n : Nat) : Nat := x / 2 ^ (32 - n)
def tableFrac (x n : Nat) : Nat := x / 2 ^ (16 - n) % 2 ^ 16

def execTli (x : Issue) (d a b : Reg) (seg : Fin 8) (w : Bool) (n : BitVec 6) (clash : BitVec 2) (s : State) :
    Host.Outcome State Fault Refusal :=
  .next (
    let gt := x.gt.val
    let k := n.toNat
    s.issue x (insTable (k != 0 && decide (k < 16)) false d b [a]) (fun s =>
      let t := s.thread gt
      let v := (t.rd a).toNat
      let wd := if w then 4 else 2
      let i := tableIdx v k
      s.tableBody gt d seg (s.tableParts gt seg wd (t.rd b) [i, i + 1]) (.tli wd (tableFrac v k))
        (clashBits 2 clash.toNat)))

def execTli2 (x : Issue) (d a b : Reg) (seg : Fin 8) (w : Bool) (n : BitVec 6) (clash : BitVec 4)
    (s : State) :
    Host.Outcome State Fault Refusal :=
  .next (
    let gt := x.gt.val
    let nx := n.toNat / 8 + 1
    let ny := n.toNat % 8 + 1
    s.issue x (insTable true (oddReg a) d b (pairRegs a)) (fun s =>
      let t := s.thread gt
      let vx := (t.rd a).toNat
      let vy := (t.rd (a + 1)).toNat
      let wd := if w then 4 else 2
      let cols := 2 ^ nx + 1
      let e := tableIdx vy ny * cols + tableIdx vx nx
      s.tableBody gt d seg (s.tableParts gt seg wd (t.rd b) [e, e + 1, e + cols, e + cols + 1])
        (.tli2 wd (tableFrac vx nx) (tableFrac vy ny)) (clashBits 4 clash.toNat)))

/-! ## SEND (R195, R196) -/

/-- The destination word names a thread of this die. -/
def State.sendHere (s : State) (w : Word) : Bool := !w.getLsbD 13 || (bitsOf w 12 11).toNat == s.selfDie

/-- The operation of SEND: on the own core the message is judged at once; to another core it is on its
way, and its outcome comes back; to another die the outcome is that of the outbound path. -/
def State.sendBody (s : State) (gt : Nat) (d : Reg) (w : Word) (data : BitVec 64) : Exec :=
  let t := s.thread gt
  let op (need : Nat) (r : Option OpResult) : LongOp := ⟨0, t.pc, d, false, 0, 0, .zext 4, need, [], r, t.primaryOf.isSome,
    false⟩
  if s.sendHere w then
    if (bitsOf w 10 0).toNat / 64 = gt / 64 then
      let r := s.acceptMessage gt w data
      .done (r.2.modThread gt (fun t => t.wr d (BitVec.ofNat 32 r.1))) .seq
    else
      .done { (s.setThread gt (t.addOp (op 1 none))) with msgs := s.msgs ++ [(gt, t.nextOp, w, data)] } .seq
  else
    let r := s.sendToDie (bitsOf w 12 11).toNat w data
    .done (r.2.modThread gt (fun t => t.addOp (op 0 (some (.value (BitVec.ofNat 32 r.1) 0))))) .seq

def execSend (x : Issue) (d a b : Reg) (s : State) : Host.Outcome State Fault Refusal :=
  .next (
    let gt := x.gt.val
    let w := (s.thread gt).rd b
    let own := s.sendHere w && (bitsOf w 10 0).toNat / 64 == gt / 64
    s.issue x
      { odd := oddReg a, reads := b :: pairRegs a, writes := [d], pairOk := false
        long := !own && !(s.thread gt).isShadow }
      (fun s =>
        let data := (s.thread gt).rdPair a
        s.recorded gt (s.thread gt).twin.isSome [d] ([4, 0, 0, 0] ++ toBytes 4 w.toNat ++ toBytes 8 data.toNat)
          (fun s => s.sendBody gt d w data)))

/-! ## EDGE (R197, R232) -/

/-- The check of an EDGE request: a store of the first word of the bay block. -/
def State.edgeCheck (s : State) (gt : Nat) (seg : Fin 8) : Option FaultRec :=
  let d := s.desc gt seg.val
  let a := bayReg (gt / 64) 0
  if a < d.base ∨ 0x100000000 ≤ a - d.base then
    let low := BitVec.ofInt 32 ((a : Int) - d.base)
    some ((match checkRights d (s.bit (fCurLead gt)) .store false true (low.setWidth 48) with
      | some c => c
      | none => ⟨0, 2, low.setWidth 48, AccKind.store.code⟩).toRec seg.val false)
  else match s.checkAccess gt seg.val .store (a - d.base) 4 with
    | .error c => some (c.toRec seg.val false)
    | .ok _ => none

/-- The operation of EDGE: with a credit the request enters the bay's crossing queue (R231, R232). -/
def State.edgeBody (s : State) (gt : Nat) (req : Word) (seg : Fin 8) (lane : BitVec 5) (act : BitVec 2) : Exec :=
  match s.edgeCheck gt seg with
  | some r => .fault s r
  | none =>
    let n := gt / 64
    if !s.bayPresent n then .done s .seq
    else if 16 ≤ (s.credit (edgeKey n)).1 then s.holdFor gt true
    else .done ((s.useCredit (edgeKey n)).xqPush (.toBay (fin5 n)) (.edge n req lane.toNat act.toNat)) .seq

def execEdge (x : Issue) (a : Reg) (seg : Fin 8) (lane : BitVec 5) (act : BitVec 2) (s : State) :
    Host.Outcome State Fault Refusal :=
  .next (
    let gt := x.gt.val
    s.issue x (insEdge a) (fun s =>
      let req := (s.thread gt).rd a
      s.recorded gt (s.thread gt).twin.isSome []
        ([3, lane.setWidth 8, act.setWidth 8, BitVec.ofNat 8 seg.val] ++ toBytes 4 req.toNat)
        (fun s => s.edgeBody gt req seg lane act)))

/-! ## Completions -/

/-- The late fault of a store whose target answered with an error; a second half that fails leaves the
first written (R131). -/
def StoreOp.lateRec (o : StoreOp) : FaultRec :=
  { precise 4 4 with seg := o.seg, acc := o.acc, addr := o.addr, second := o.second, partialSt := o.second, oppc := o.pc }

/-- The response of a store is taken: the second half follows, or the store is complete, or its error
falls due (R130, R151, R356). -/
def State.storeDone (s : State) (gt : Nat) (o : StoreOp) (ok : Bool) : State :=
  let drop : State := s.modThread gt (fun t => { t with stores := t.stores.filter (fun p => p.id != o.id) })
  match ok, o.rest with
  | true, some (a, bs) =>
    (s.modThread gt (fun t => { t with stores := t.stores.map (fun p =>
      if p.id = o.id then { p with addr := BitVec.ofNat 48 a, rest := none, second := true, answer := none } else p) })).farPart
      gt ⟨.store gt o.id, a, .write bs⟩
  | true, none => drop.atBoundary gt
  | false, _ => if o.quiet then drop else (drop.modThread gt (fun t => { t with late := Map.insert t.late o.id o.lateRec })).atBoundary gt

/-- STORE_COMPLETION: the oldest store of the thread that has its response; `late` says that the response of
a bay or timer register came later than the pad (R93). -/
def execStoreCompletion (gt : GT) (late : Bool) (s : State) : Host.Outcome State Fault Refusal :=
  .next (match (s.thread gt.val).stores.find? (fun o => o.answer.isSome) with
    | some o =>
      let s := if o.quiet then s else s.padBreak gt.val (paddedAt gt.val o.addr.toNat) late o.pc
      s.storeDone gt.val o (o.answer.getD true)
    | none => s)

/-- Two accesses of one thread overlap. -/
def MemAcc.sameThread (x y : MemAcc) : Bool :=
  let gt (r : ReqRef) : Option Nat := match r with
    | .op g _ _ => some g
    | .store g _ => some g
    | _ => none
  gt x.ref == gt y.ref && decide (x.addr < y.addr + y.act.size) && decide (y.addr < x.addr + x.act.size)

/-- PORT_B_RETRY: the i-th waiting access is presented again; it may meet BUSY again, and does not pass
an earlier one of its thread to the same bytes (R149, R314). -/
def execPortBRetry (i : Nat) (clash : Bool) (s : State) : Host.Outcome State Fault Refusal :=
  .next (match s.portB[i]? with
    | some acc =>
      if clash || (s.portB.take i).any acc.sameThread then s
      else ({ s with portB := s.portB.eraseIdx i } : State).performAt acc
    | none => s)

/-! ## Instruction cache refills (R79 to R85, R123) -/

/-- A line reaches the thread's line buffer, and the instruction cache unless that is off or every way of
the set is locked (R80, R84, R85). -/
def State.lineFill (s : State) (gt line way : Nat) : State :=
  let n := gt / 64
  let s := s.modThread gt (fun t => { t.useLine line with ahead := if t.ahead = some line then none else t.ahead })
  if s.bit (fIcEnable n) && s.fld (fLockWays n) != 0xF then
    let kept := (Map.get [] s.icache n).filter (fun p => p.1 != line && !(p.2 == way && p.1 % 128 == line % 128))
    { s with icache := Map.set [] s.icache n ((line, way) :: kept) }
  else s

/-- ICMISS_BEATS counts the lost beats (R82). -/
def State.lostBeats (s : State) (gt : Nat) (lost : Word) : State :=
  s.setFld (fIcmiss gt) (BitVec.ofNat 32 (min 0xFFFFFFFF ((s.fld (fIcmiss gt)).toNat + lost.toNat)))

/-- The address of the instruction whose line is missing. -/
def State.lineNeeded (s : State) (gt : Nat) : Option Nat :=
  match s.checkAccess gt 7 .fetch (s.thread gt).pc.toNat 4 with
  | .error _ => none
  | .ok a => if s.lineHit gt (lineOf (underlying a)) then none else some a

/-- The address of the next sequential line that the predictor looks for, where s7 covers it (R80). -/
def State.lineAhead (s : State) (gt : Nat) : Option Nat :=
  match (s.thread gt).ahead with
  | none => none
  | some l =>
    match s.checkAccess gt 7 .fetch (l * 64 - underlying (s.desc gt 7).base) 4 with
    | .error _ => none
    | .ok a => if lineOf (underlying a) = l then some a else none

/-- A fetch of a far line is asked of the ledger. -/
def State.lineAsk (s : State) (gt line : Nat) : State :=
  let id := (s.thread gt).nextOp
  (s.modThread gt (fun t => { t with fetching := some (line, id), fetched := none, nextOp := id + 1 })).ledgerSend
    (accessEntry (.fetch gt id) gt (line * 64) 64 none)

/-- ICACHE_REFILL: a line fetched from the system region or a remote window has come; or the line that
holds the next instruction is missing, or the one after it that the predictor wants, and comes from a bank,
or is asked of the ledger. Beats are lost for a needed line only (R82). A way that is locked while another is
not is never chosen. A deterministic thread does not use the cache. -/
def execIcacheRefill (gt : GT) (line : BitVec 42) (way : Fin 4) (lost : Word) (s : State) :
    Host.Outcome State Fault Refusal :=
  .next (
    let g := gt.val
    let t := s.thread g
    let l := line.toNat
    let locks := s.fld (fLockWays (g / 64))
    let here (a : Nat) : Bool := lineOf (underlying a) == l
    let need := (s.lineNeeded g).any here
    let fill (s : State) : State := (s.lineFill g l way.val).lostBeats g (if need then lost else 0)
    if locks.getLsbD way.val && locks != 0xF then s
    else match t.fetching, t.fetched with
      | some k, some _ =>
        if k.1 = l then fill (s.modThread g (fun t => { t with fetching := none, fetched := none })) else s
      | some _, none => s
      | none, _ =>
        if s.fld (fState g) = stReady ∧ !s.det g ∧ t.raised.isNone then
          match ((s.lineNeeded g).toList ++ (s.lineAhead g).toList).find? here with
          | none => s
          | some a =>
            if s.drainingAt a then s
            else if farAt a then s.lineAsk g l
            else fill s
        else s)

end Sys2Proof.Machine
end

