-- ==== Sys2Proof/Machine/Dispatch.lean ====
section
/-! DEFINITION. One arm for each command, calling its meaning. -/

namespace Sys2Proof.Machine

def exec (i : Instr) (s : State) : Host.Outcome State Fault Refusal :=
  match i with
  | .registerWrite who addr data => Sys2Proof.Machine.execRegisterWrite who addr data s
  | .crossingQueueDelivery q t => Sys2Proof.Machine.execCrossingQueueDelivery q t s
  | .eventSynchroniserDelivery port b => Sys2Proof.Machine.execEventSynchroniserDelivery port b s
  | .slotCommit who n => Sys2Proof.Machine.execSlotCommit who n s
  | .slotTableApply n => Sys2Proof.Machine.execSlotTableApply n s
  | .threadStart who gt => Sys2Proof.Machine.execThreadStart who gt s
  | .threadHalt who gt => Sys2Proof.Machine.execThreadHalt who gt s
  | .threadResume who gt => Sys2Proof.Machine.execThreadResume who gt s
  | .threadStop who gt => Sys2Proof.Machine.execThreadStop who gt s
  | .handlerEntry gt => Sys2Proof.Machine.execHandlerEntry gt s
  | .faultEntry gt => Sys2Proof.Machine.execFaultEntry gt s
  | .icacheRefill gt line way lost => Sys2Proof.Machine.execIcacheRefill gt line way lost s
  | .icacheInvAll who n => Sys2Proof.Machine.execIcacheInvAll who n s
  | .longOpRetire gt j late => Sys2Proof.Machine.execLongOpRetire gt j late s
  | .storeCompletion gt late => Sys2Proof.Machine.execStoreCompletion gt late s
  | .add x f d a b => Sys2Proof.Machine.execAdd x f d a b s
  | .addc x f d a b => Sys2Proof.Machine.execAddc x f d a b s
  | .sub x f d a b => Sys2Proof.Machine.execSub x f d a b s
  | .subc x f d a b => Sys2Proof.Machine.execSubc x f d a b s
  | .and x f d a b => Sys2Proof.Machine.execAnd x f d a b s
  | .or x f d a b => Sys2Proof.Machine.execOr x f d a b s
  | .xor x f d a b => Sys2Proof.Machine.execXor x f d a b s
  | .sll x f d a b => Sys2Proof.Machine.execSll x f d a b s
  | .srl x f d a b => Sys2Proof.Machine.execSrl x f d a b s
  | .sra x f d a b => Sys2Proof.Machine.execSra x f d a b s
  | .ror x f d a b => Sys2Proof.Machine.execRor x f d a b s
  | .slt x f d a b => Sys2Proof.Machine.execSlt x f d a b s
  | .sltu x f d a b => Sys2Proof.Machine.execSltu x f d a b s
  | .cmp x a b => Sys2Proof.Machine.execCmp x a b s
  | .addi x d a imm => Sys2Proof.Machine.execAddi x d a imm s
  | .andi x d a imm => Sys2Proof.Machine.execAndi x d a imm s
  | .ori x d a imm => Sys2Proof.Machine.execOri x d a imm s
  | .xori x d a imm => Sys2Proof.Machine.execXori x d a imm s
  | .slli x d a cnt => Sys2Proof.Machine.execSlli x d a cnt s
  | .srli x d a cnt => Sys2Proof.Machine.execSrli x d a cnt s
  | .srai x d a cnt => Sys2Proof.Machine.execSrai x d a cnt s
  | .rori x d a cnt => Sys2Proof.Machine.execRori x d a cnt s
  | .cmpi x a imm => Sys2Proof.Machine.execCmpi x a imm s
  | .lui x d imm => Sys2Proof.Machine.execLui x d imm s
  | .mul x d a b => Sys2Proof.Machine.execMul x d a b s
  | .mulh x d a b => Sys2Proof.Machine.execMulh x d a b s
  | .mulhu x d a b => Sys2Proof.Machine.execMulhu x d a b s
  | .mulw x d a b => Sys2Proof.Machine.execMulw x d a b s
  | .mulwu x d a b => Sys2Proof.Machine.execMulwu x d a b s
  | .div x d a b => Sys2Proof.Machine.execDiv x d a b s
  | .divu x d a b => Sys2Proof.Machine.execDivu x d a b s
  | .rem x d a b => Sys2Proof.Machine.execRem x d a b s
  | .remu x d a b => Sys2Proof.Machine.execRemu x d a b s
  | .addp x f d a b => Sys2Proof.Machine.execAddp x f d a b s
  | .subp x f d a b => Sys2Proof.Machine.execSubp x f d a b s
  | .shasig x d a which => Sys2Proof.Machine.execShasig x d a which s
  | .ldb x m => Sys2Proof.Machine.execLdb x m s
  | .ldbu x m => Sys2Proof.Machine.execLdbu x m s
  | .ldh x m => Sys2Proof.Machine.execLdh x m s
  | .ldhu x m => Sys2Proof.Machine.execLdhu x m s
  | .ldw x m => Sys2Proof.Machine.execLdw x m s
  | .ldd x m => Sys2Proof.Machine.execLdd x m s
  | .stb x m => Sys2Proof.Machine.execStb x m s
  | .sth x m => Sys2Proof.Machine.execSth x m s
  | .stw x m => Sys2Proof.Machine.execStw x m s
  | .std x m => Sys2Proof.Machine.execStd x m s
  | .agree x m => Sys2Proof.Machine.execAgree x m s
  | .tli x d a b seg w n clash => Sys2Proof.Machine.execTli x d a b seg w n clash s
  | .tli2 x d a b seg w n clash => Sys2Proof.Machine.execTli2 x d a b seg w n clash s
  | .crc x d a b w n => Sys2Proof.Machine.execCrc x d a b w n s
  | .crcr x d a b w n => Sys2Proof.Machine.execCrcr x d a b w n s
  | .b x cond disp => Sys2Proof.Machine.execB x cond disp s
  | .call x disp => Sys2Proof.Machine.execCall x disp s
  | .br x a => Sys2Proof.Machine.execBr x a s
  | .callr x a => Sys2Proof.Machine.execCallr x a s
  | .ret x => Sys2Proof.Machine.execRet x s
  | .eret x => Sys2Proof.Machine.execEret x s
  | .fret x => Sys2Proof.Machine.execFret x s
  | .trapi x n => Sys2Proof.Machine.execTrapi x n s
  | .loop x k a imm => Sys2Proof.Machine.execLoop x k a imm s
  | .lprd x d k f => Sys2Proof.Machine.execLprd x d k f s
  | .lpwr x k f a => Sys2Proof.Machine.execLpwr x k f a s
  | .nop x => Sys2Proof.Machine.execNop x s
  | .wait x d mask => Sys2Proof.Machine.execWait x d mask s
  | .waitComplete gt => Sys2Proof.Machine.execWaitComplete gt s
  | .recv x d wt => Sys2Proof.Machine.execRecv x d wt s
  | .recvComplete gt => Sys2Proof.Machine.execRecvComplete gt s
  | .send x d a b => Sys2Proof.Machine.execSend x d a b s
  | .settle x => Sys2Proof.Machine.execSettle x s
  | .settleComplete gt => Sys2Proof.Machine.execSettleComplete gt s
  | .isync x => Sys2Proof.Machine.execIsync x s
  | .seal x => Sys2Proof.Machine.execSeal x s
  | .rdfeat x d n => Sys2Proof.Machine.execRdfeat x d n s
  | .totask x => Sys2Proof.Machine.execTotask x s
  | .rspush x a => Sys2Proof.Machine.execRspush x a s
  | .rspop x d => Sys2Proof.Machine.execRspop x d s
  | .mvfl x d => Sys2Proof.Machine.execMvfl x d s
  | .mvtf x a => Sys2Proof.Machine.execMvtf x a s
  | .setseg x si a b rights => Sys2Proof.Machine.execSetseg x si a b rights s
  | .getseg x d si w => Sys2Proof.Machine.execGetseg x d si w s
  | .edge x a seg lane act => Sys2Proof.Machine.execEdge x a seg lane act s
  | .segDescriptorWrite who gt j w data => Sys2Proof.Machine.execSegDescriptorWrite who gt j w data s
  | .ceilingWrite who gt j w data => Sys2Proof.Machine.execCeilingWrite who gt j w data s
  | .latchingRead gt r dt => Sys2Proof.Machine.execLatchingRead gt r dt s
  | .shadowHiRead gt r => Sys2Proof.Machine.execShadowHiRead gt r s
  | .widePairRead who r dt => Sys2Proof.Machine.execWidePairRead who r dt s
  | .laneInputTransition l accepted level time => Sys2Proof.Machine.execLaneInputTransition l accepted level time s
  | .laneLastRead who l => Sys2Proof.Machine.execLaneLastRead who l s
  | .bayCommit who n pt => Sys2Proof.Machine.execBayCommit who n pt s
  | .progWrite who n j data => Sys2Proof.Machine.execProgWrite who n j data s
  | .seqStart who n k => Sys2Proof.Machine.execSeqStart who n k s
  | .seqStop who n k => Sys2Proof.Machine.execSeqStop who n k s
  | .seqContinue who n k => Sys2Proof.Machine.execSeqContinue who n k s
  | .seqFlush who n k => Sys2Proof.Machine.execSeqFlush who n k s
  | .seqJmp n k pt => Sys2Proof.Machine.execSeqJmp n k pt s
  | .seqWait n k pt => Sys2Proof.Machine.execSeqWait n k pt s
  | .seqIn n k pt => Sys2Proof.Machine.execSeqIn n k pt s
  | .seqOut n k pt => Sys2Proof.Machine.execSeqOut n k pt s
  | .seqPush n k pt => Sys2Proof.Machine.execSeqPush n k pt s
  | .seqPull n k pt => Sys2Proof.Machine.execSeqPull n k pt s
  | .seqMov n k pt => Sys2Proof.Machine.execSeqMov n k pt s
  | .seqSet n k pt => Sys2Proof.Machine.execSeqSet n k pt s
  | .seqEvt n k pt => Sys2Proof.Machine.execSeqEvt n k pt s
  | .seqStamp n k pt => Sys2Proof.Machine.execSeqStamp n k pt s
  | .seqStallRelease n k pt => Sys2Proof.Machine.execSeqStallRelease n k pt s
  | .seqEventLatch n k j => Sys2Proof.Machine.execSeqEventLatch n k j s
  | .txwWrite who n k data => Sys2Proof.Machine.execTxwWrite who n k data s
  | .rxwRead who n k => Sys2Proof.Machine.execRxwRead who n k s
  | .creditReturn n c => Sys2Proof.Machine.execCreditReturn n c s
  | .edgeEntryCheck n pt => Sys2Proof.Machine.execEdgeEntryCheck n pt s
  | .edgeEntryApply n pt => Sys2Proof.Machine.execEdgeEntryApply n pt s
  | .anchorTake q dt time => Sys2Proof.Machine.execAnchorTake q dt time s
  | .tbRate who dt => Sys2Proof.Machine.execTbRate who dt s
  | .tbStep who dt => Sys2Proof.Machine.execTbStep who dt s
  | .tbSnap who dt => Sys2Proof.Machine.execTbSnap who dt s
  | .tbAdjEnd => Sys2Proof.Machine.execTbAdjEnd s
  | .ppsRecord dt => Sys2Proof.Machine.execPpsRecord dt s
  | .gsGo who dt => Sys2Proof.Machine.execGsGo who dt s
  | .goAtDue dt => Sys2Proof.Machine.execGoAtDue dt s
  | .tmrStart who m => Sys2Proof.Machine.execTmrStart who m s
  | .tmrStop who m => Sys2Proof.Machine.execTmrStop who m s
  | .tmrCommit who m => Sys2Proof.Machine.execTmrCommit who m s
  | .tmrForceReload who m => Sys2Proof.Machine.execTmrForceReload who m s
  | .tmrSnap who m => Sys2Proof.Machine.execTmrSnap who m s
  | .timerCount m dt => Sys2Proof.Machine.execTimerCount m dt s
  | .timerZero m dt => Sys2Proof.Machine.execTimerZero m dt s
  | .timerInputSeen m j dt => Sys2Proof.Machine.execTimerInputSeen m j dt s
  | .timerCapture m => Sys2Proof.Machine.execTimerCapture m s
  | .tmrCapRead who m wide => Sys2Proof.Machine.execTmrCapRead who m wide s
  | .evselWrite who x data => Sys2Proof.Machine.execEvselWrite who x data s
  | .forceWrite who x data => Sys2Proof.Machine.execForceWrite who x data s
  | .eventDelivery e coincide => Sys2Proof.Machine.execEventDelivery e coincide s
  | .levelDelivery x => Sys2Proof.Machine.execLevelDelivery x s
  | .msgAccept n here => Sys2Proof.Machine.execMsgAccept n here s
  | .portBRetry j clash => Sys2Proof.Machine.execPortBRetry j clash s
  | .bankHandover who g kind engine => Sys2Proof.Machine.execBankHandover who g kind engine s
  | .drainComplete g => Sys2Proof.Machine.execDrainComplete g s
  | .bankPowerRequest who g p => Sys2Proof.Machine.execBankPowerRequest who g p s
  | .bankEnterDone g => Sys2Proof.Machine.execBankEnterDone g s
  | .bankWakeDone g => Sys2Proof.Machine.execBankWakeDone g s
  | .bankClearDone g => Sys2Proof.Machine.execBankClearDone g s
  | .marchGo who => Sys2Proof.Machine.execMarchGo who s
  | .marchDone fails again => Sys2Proof.Machine.execMarchDone fails again s
  | .loftStoreGo who r secret => Sys2Proof.Machine.execLoftStoreGo who r secret s
  | .loftStoreDone ok => Sys2Proof.Machine.execLoftStoreDone ok s
  | .rdShared c line => Sys2Proof.Machine.execRdShared c line s
  | .rdUnique c line => Sys2Proof.Machine.execRdUnique c line s
  | .upgrade c line => Sys2Proof.Machine.execUpgrade c line s
  | .snpShared c line => Sys2Proof.Machine.execSnpShared c line s
  | .snpInv c line => Sys2Proof.Machine.execSnpInv c line s
  | .ackShared c line => Sys2Proof.Machine.execAckShared c line s
  | .ackInv c line => Sys2Proof.Machine.execAckInv c line s
  | .snpData c line inv data => Sys2Proof.Machine.execSnpData c line inv data s
  | .invWbInflight c line => Sys2Proof.Machine.execInvWbInflight c line s
  | .wbData c line data => Sys2Proof.Machine.execWbData c line data s
  | .evictClean c line => Sys2Proof.Machine.execEvictClean c line s
  | .wbAck c line => Sys2Proof.Machine.execWbAck c line s
  | .compAck c line => Sys2Proof.Machine.execCompAck c line s
  | .fillS c line => Sys2Proof.Machine.execFillS c line s
  | .fillE c line => Sys2Proof.Machine.execFillE c line s
  | .grantE c line => Sys2Proof.Machine.execGrantE c line s
  | .retry c line => Sys2Proof.Machine.execRetry c line s
  | .proceed c line => Sys2Proof.Machine.execProceed c line s
  | .dcacheFlushAll who n => Sys2Proof.Machine.execDcacheFlushAll who n s
  | .dcacheDisable who n => Sys2Proof.Machine.execDcacheDisable who n s
  | .sysCacheDisable who n => Sys2Proof.Machine.execSysCacheDisable who n s
  | .dirFenceGo who => Sys2Proof.Machine.execDirFenceGo who s
  | .fenceComplete => Sys2Proof.Machine.execFenceComplete s
  | .ledgerIssue j => Sys2Proof.Machine.execLedgerIssue j s
  | .sipResponse tag err data => Sys2Proof.Machine.execSipResponse tag err data s
  | .ledgerTimeout tag => Sys2Proof.Machine.execLedgerTimeout tag s
  | .chCommit who c => Sys2Proof.Machine.execChCommit who c s
  | .chGo who c => Sys2Proof.Machine.execChGo who c s
  | .chAbort who c => Sys2Proof.Machine.execChAbort who c s
  | .chTrigger c j => Sys2Proof.Machine.execChTrigger c j s
  | .dmaTransferDone c n => Sys2Proof.Machine.execDmaTransferDone c n s
  | .descriptorLoad c => Sys2Proof.Machine.execDescriptorLoad c s
  | .descriptorWriteback c => Sys2Proof.Machine.execDescriptorWriteback c s
  | .dmaAccessFail c => Sys2Proof.Machine.execDmaAccessFail c s
  | .engineError e => Sys2Proof.Machine.execEngineError e s
  | .poolEnable who p => Sys2Proof.Machine.execPoolEnable who p s
  | .poolDisable who p => Sys2Proof.Machine.execPoolDisable who p s
  | .poolAlloc who p => Sys2Proof.Machine.execPoolAlloc who p s
  | .poolRefill p => Sys2Proof.Machine.execPoolRefill p s
  | .poolSpill p => Sys2Proof.Machine.execPoolSpill p s
  | .bmFree who h => Sys2Proof.Machine.execBmFree who h s
  | .siloEnable who => Sys2Proof.Machine.execSiloEnable who s
  | .siloPut who lo hi => Sys2Proof.Machine.execSiloPut who lo hi s
  | .siloRecordWrite lag => Sys2Proof.Machine.execSiloRecordWrite lag s
  | .siloRecordDone => Sys2Proof.Machine.execSiloRecordDone s
  | .siloTrigger who => Sys2Proof.Machine.execSiloTrigger who s
  | .siloRearm who => Sys2Proof.Machine.execSiloRearm who s
  | .bulkWindowAccess k acc clash => Sys2Proof.Machine.execBulkWindowAccess k acc clash s
  | .bulkAddrWrite k data => Sys2Proof.Machine.execBulkAddrWrite k data s
  | .bulkStatusRead k addr => Sys2Proof.Machine.execBulkStatusRead k addr s
  | .bulkWritePerform k clash => Sys2Proof.Machine.execBulkWritePerform k clash s
  | .twinSeed who p => Sys2Proof.Machine.execTwinSeed who p s
  | .twinBreak who p => Sys2Proof.Machine.execTwinBreak who p s
  | .windowEnd gt => Sys2Proof.Machine.execWindowEnd gt s
  | .twinCompare p brk => Sys2Proof.Machine.execTwinCompare p brk s
  | .twinReportTimeout p brk => Sys2Proof.Machine.execTwinReportTimeout p brk s
  | .coreSelftestDone n pass => Sys2Proof.Machine.execCoreSelftestDone n pass s
  | .winInjectGo who u => Sys2Proof.Machine.execWinInjectGo who u s
  | .injectionTestDone u pass => Sys2Proof.Machine.execInjectionTestDone u pass s
  | .ownerByteWrite who off data => Sys2Proof.Machine.execOwnerByteWrite who off data s
  | .vcCreate who v => Sys2Proof.Machine.execVcCreate who v s
  | .vcReset who v => Sys2Proof.Machine.execVcReset who v s
  | .vcGenAdvance v => Sys2Proof.Machine.execVcGenAdvance v s
  | .vcRemove who v => Sys2Proof.Machine.execVcRemove who v s
  | .vcFreeze who v => Sys2Proof.Machine.execVcFreeze who v s
  | .vcFreezeComplete v => Sys2Proof.Machine.execVcFreezeComplete v s
  | .vcThaw who v => Sys2Proof.Machine.execVcThaw who v s
  | .vcSave who v => Sys2Proof.Machine.execVcSave who v s
  | .vcRestore who v => Sys2Proof.Machine.execVcRestore who v s
  | .imageDone v => Sys2Proof.Machine.execImageDone v s
  | .ifaceSelect v data => Sys2Proof.Machine.execIfaceSelect v data s
  | .apertureAccess v write => Sys2Proof.Machine.execApertureAccess v write s
  | .mbxTx v lo hi => Sys2Proof.Machine.execMbxTx v lo hi s
  | .mbxMove v => Sys2Proof.Machine.execMbxMove v s
  | .vcMbxPost who v lo hi => Sys2Proof.Machine.execVcMbxPost who v lo hi s
  | .mbxRx v => Sys2Proof.Machine.execMbxRx v s
  | .vcrReq v => Sys2Proof.Machine.execVcrReq v s
  | .coldReset boardDie => Sys2Proof.Machine.execColdReset boardDie s
  | .warmReset => Sys2Proof.Machine.execWarmReset s
  | .supplyUp boardDie lc => Sys2Proof.Machine.execSupplyUp boardDie lc s
  | .supplyLoss => Sys2Proof.Machine.execSupplyLoss s
  | .fuseLoad words parityOk => Sys2Proof.Machine.execFuseLoad words parityOk s
  | .repairAndHeader => Sys2Proof.Machine.execRepairAndHeader s
  | .bankWakeAndMarch fails => Sys2Proof.Machine.execBankWakeAndMarch fails s
  | .comparatorInjection pass => Sys2Proof.Machine.execComparatorInjection pass s
  | .bootAuthentication rom man stored placed busErr => Sys2Proof.Machine.execBootAuthentication rom man stored placed busErr s
  | .bootDoorbellReady who => Sys2Proof.Machine.execBootDoorbellReady who s
  | .bootDoorbellRecovery who => Sys2Proof.Machine.execBootDoorbellRecovery who s
  | .secDone pass => Sys2Proof.Machine.execSecDone pass s
  | .loftConfiguration => Sys2Proof.Machine.execLoftConfiguration s
  | .bootRelease who => Sys2Proof.Machine.execBootRelease who s
  | .releaseStart => Sys2Proof.Machine.execReleaseStart s
  | .startTimeout => Sys2Proof.Machine.execStartTimeout s
  | .renameEnter who n t => Sys2Proof.Machine.execRenameEnter who n t s
  | .renameExit who n => Sys2Proof.Machine.execRenameExit who n s
  | .modeReqDormant who => Sys2Proof.Machine.execModeReqDormant who s
  | .modeReqRun who => Sys2Proof.Machine.execModeReqRun who s
  | .modeReqLimp who => Sys2Proof.Machine.execModeReqLimp who s
  | .modeReqService who => Sys2Proof.Machine.execModeReqService who s
  | .clockChange who => Sys2Proof.Machine.execClockChange who s
  | .clkAck j => Sys2Proof.Machine.execClkAck j s
  | .pdReqWrite who hi data => Sys2Proof.Machine.execPdReqWrite who hi data s
  | .pdAck j => Sys2Proof.Machine.execPdAck j s
  | .fcSafe who => Sys2Proof.Machine.execFcSafe who s
  | .fcRelease who => Sys2Proof.Machine.execFcRelease who s
  | .safeReq => Sys2Proof.Machine.execSafeReq s
  | .wdogKick who key => Sys2Proof.Machine.execWdogKick who key s
  | .wdogExpire => Sys2Proof.Machine.execWdogExpire s
  | .safetyPowerLost => Sys2Proof.Machine.execSafetyPowerLost s
  | .laneWake j also => Sys2Proof.Machine.execLaneWake j also s
  | .aonTimerWake count also => Sys2Proof.Machine.execAonTimerWake count also s
  | .socWake also => Sys2Proof.Machine.execSocWake also s
  | .lifecycleChange lc => Sys2Proof.Machine.execLifecycleChange lc s
  | .debugAccess off acc => Sys2Proof.Machine.execDebugAccess off acc s
  | .dbgHalt who gt => Sys2Proof.Machine.execDbgHalt who gt s
  | .dbgResume who gt => Sys2Proof.Machine.execDbgResume who gt s
  | .dbgStep who gt => Sys2Proof.Machine.execDbgStep who gt s
  | .brEnable who p => Sys2Proof.Machine.execBrEnable who p s
  | .brDisable who p => Sys2Proof.Machine.execBrDisable who p s
  | .linkUp p partner offer id => Sys2Proof.Machine.execLinkUp p partner offer id s
  | .trainingTimeout p => Sys2Proof.Machine.execTrainingTimeout p s
  | .linkDown p cause => Sys2Proof.Machine.execLinkDown p cause s
  | .serdesLockLost p => Sys2Proof.Machine.execSerdesLockLost p s
  | .flitReceive p good seq ack => Sys2Proof.Machine.execFlitReceive p good seq ack s
  | .flitNak p seq => Sys2Proof.Machine.execFlitNak p seq s
  | .ackTimeout p => Sys2Proof.Machine.execAckTimeout p s
  | .downNotice p => Sys2Proof.Machine.execDownNotice p s
  | .retrain p => Sys2Proof.Machine.execRetrain p s
  | .inboundRequest p addr acc => Sys2Proof.Machine.execInboundRequest p addr acc s
  | .inboundBridgeEvent p j hop level => Sys2Proof.Machine.execInboundBridgeEvent p j hop level s
  | .inboundMessage p dst role data => Sys2Proof.Machine.execInboundMessage p dst role data s
  | .msgNack p full => Sys2Proof.Machine.execMsgNack p full s
  | .timeExchangeStart p t1 => Sys2Proof.Machine.execTimeExchangeStart p t1 s
  | .timeExchangeReply p t2 t3 t4 stepped => Sys2Proof.Machine.execTimeExchangeReply p t2 t3 t4 stepped s
  | .htpRequest off acc clash => Sys2Proof.Machine.execHtpRequest off acc clash s
  | .gwSnoop line inv => Sys2Proof.Machine.execGwSnoop line inv s
  | .testAccessUpdate write off data => Sys2Proof.Machine.execTestAccessUpdate write off data s
  | .testScan => Sys2Proof.Machine.execTestScan s
  | .pdLate => Sys2Proof.Machine.execPdLate s
  | .safetyPowerReturn => Sys2Proof.Machine.execSafetyPowerReturn s
  | .serdesLockGained p => Sys2Proof.Machine.execSerdesLockGained p s
  | .dbgClassChange cls v => Sys2Proof.Machine.execDbgClassChange cls v s

end Sys2Proof.Machine
end

