-- ==== Sys2Proof/Safety.lean ====
section
/-!
DEFINITION. What counts as a safe state and a safe run, and the terms the statements use: what a command
leaves alone, and when an instruction issues and acts.
-/
namespace Sys2Proof.Machine

/-- Memory has its canonical form: equal contents of the bins and the granary are equal lists. -/
def State.Inv (s : State) : Prop := Memory.wf s.bankFill s.mem = true

/-- A step answers a next state: nothing the table lists stops the complex. -/
def State.runs (s : State) : Prop := ∃ t, step s = .next t

/-! ## Frames -/

/-- Every control register reads as before but those at the listed addresses. -/
def State.sameRegsBut (s t : State) (as : List Nat) : Prop :=
  ∀ a, (∀ b ∈ as, canon a ≠ canon b) → t.reg a = s.reg a

/-- Every byte of the bins and the granary reads as before. -/
def State.sameMem (s t : State) : Prop := ∀ a, t.byte a = s.byte a

/-- Every byte of the bins and the granary reads as before but n from address b. -/
def State.sameMemBut (s t : State) (b n : Nat) : Prop := ∀ a, (a < b ∨ b + n ≤ a) → t.byte a = s.byte a

/-- Every thread's typed part is as before but one. -/
def State.sameThreadsBut (s t : State) (gt : Nat) : Prop := ∀ g, g ≠ gt → t.thread g = s.thread g

/-- Nothing but control registers changed, and of these only the listed ones. -/
def State.onlyRegs (s t : State) (as : List Nat) : Prop :=
  t = { s with regs := t.regs } ∧ s.sameRegsBut t as

/-- What an instruction of a thread that completes leaves alone, beside its own effect: everything but
control registers and threads, every other thread, and every control register but the thread's status and
its two counters of beats. -/
def State.stepped (s t : State) (gt : Nat) : Prop :=
  t = { s with regs := t.regs, threads := t.threads } ∧ s.sameThreadsBut t gt ∧
  s.sameRegsBut t [tReg gt 0x04, tReg gt 0x24, tReg gt 0x2C]

/-- The part of a thread that only instructions with an effect of their own on it change: its return
stack, its outstanding operations and stores, its messages, hop counts, the timer shadow and its twin
membership. -/
def Thread.sameRest (u v : Thread) : Prop :=
  v.rs = u.rs ∧ v.ops = u.ops ∧ v.stores = u.stores ∧ v.nextOp = u.nextOp ∧ v.inbox = u.inbox ∧
  v.hop = u.hop ∧ v.evHop = u.evHop ∧ v.shadowHi = u.shadowHi ∧ v.twin = u.twin

/-- Every general register but the listed ones reads as before. -/
def Thread.sameRegsBut (u v : Thread) (ds : List Reg) : Prop := ∀ r, r ∉ ds → v.rd r = u.rd r

/-! ## Issuing -/

/-- The instruction of a thread issues in this beat and acts: its encoding is defined (R163), nothing holds it
back (R56, R57, R82, R87, R146), its fetch and its form raise no fault (R155), no earlier write of the
thread's own settles with it (R105), and no STOP awaits its boundary (R71). -/
abbrev State.issues (s : State) (x : Issue) (i : Ins) : Prop :=
  x.undef = false ∧ s.canIssue x.gt.val x i = true ∧ s.fetchFault x.gt.val = none ∧
  s.earlyFault x.gt.val i = none ∧ (∀ p ∈ (s.thread x.gt.val).delayed, p.1 ≠ 0) ∧
  (s.thread x.gt.val).stopReq = false

/-- The same for an instruction of form VIA, in a thread that is no twin member (R428). -/
abbrev State.issuesAlone (s : State) (x : Issue) (i : Ins) : Prop :=
  s.issues x i ∧ (s.thread x.gt.val).twin = none

/-- The loops of two threads are the same. -/
def Thread.sameLoops (u v : Thread) : Prop := v.lp0 = u.lp0 ∧ v.lp1 = u.lp1 ∧ v.lp2 = u.lp2

/-- The loops after an instruction that is no transfer: at an active loop's end they count (R140, R141). -/
def Thread.loopsAfter (u : Thread) : Thread :=
  if u.inDelay then u else (u.loopBack u.pc [2, 1, 0]).1

/-- The next addresses of a thread after an instruction that is no transfer: out of a delay slot, back
to a loop's start, or on (R133, R140). -/
def Thread.wentOn (u v : Thread) : Prop :=
  v.pc = u.successor ∧ v.npc = u.successor + 4 ∧ v.inDelay = false ∧ u.loopsAfter.sameLoops v

/-- The next addresses after a transfer with a delay slot: the slot is next, the target after it (R133). -/
def Thread.tookDelay (u v : Thread) (target : Word) : Prop :=
  v.pc = u.npc ∧ v.npc = target ∧ v.inDelay = true ∧ u.sameLoops v

/-- An instruction that is no transfer completed, having written of what a program sees at most the
listed general registers and the flags; its line buffer holds what issuing left there (R80). -/
def State.ran (s t : State) (gt : Nat) (ds : List Reg) : Prop :=
  s.stepped t gt ∧ (s.thread gt).wentOn (t.thread gt) ∧ (s.thread gt).sameRest (t.thread gt) ∧
  (s.thread gt).sameRegsBut (t.thread gt) ds ∧
  (t.thread gt).lineBuf = ((s.fetchAhead gt).thread gt).lineBuf

/-- The outcome of an instruction that writes a general register and leaves the flags as given: g0
discards the write (R109). -/
def State.yields (s : State) (o : Host.Outcome State Fault Refusal) (gt : Nat) (d : Reg) (r : Word)
    (fl : Flags) : Prop :=
  ∃ t, o = .next t ∧ s.ran t gt [d] ∧ (t.thread gt).rd d = (if d = 0 then 0 else r) ∧
    (t.thread gt).flags = fl

/-- The same for an even register pair (R111); of the pair g0:g1 only g1 is written. -/
def State.yieldsPair (s : State) (o : Host.Outcome State Fault Refusal) (gt : Nat) (d : Reg) (r : BitVec 64)
    (fl : Flags) : Prop :=
  ∃ t, o = .next t ∧ s.ran t gt [d, d + 1] ∧
    (t.thread gt).rd d = (if d = 0 then 0 else r.extractLsb' 0 32) ∧
    (t.thread gt).rd (d + 1) = r.extractLsb' 32 32 ∧ (t.thread gt).flags = fl

/-- What a command of one thread leaves alone when it also writes the listed control registers. -/
def State.touched (s t : State) (gt : Nat) (as : List Nat) : Prop :=
  t = { s with regs := t.regs, threads := t.threads } ∧ s.sameThreadsBut t gt ∧
  s.sameRegsBut t ([tReg gt 0x04, tReg gt 0x24, tReg gt 0x2C] ++ as)

/-- A thread keeps its general registers but the listed ones, its flags and everything of `sameRest`. -/
def Thread.keptBut (u v : Thread) (ds : List Reg) : Prop :=
  u.sameRegsBut v ds ∧ v.flags = u.flags ∧ u.sameRest v

/-- The return stack after a push: at most eight entries, the oldest dropped (R136). -/
def Thread.pushed (u : Thread) (v : Word) : Thread := { u with rs := v :: u.rs.take 7 }

/-- The instruction has raised this fault at its own address: it is taken in a beat of its own (R156). The
thread's registers, flags, return stack and loops are as before. Where an imprecise fault of an earlier long
operation of a thread that is no twin member is pending, that one is raised in its place (R155). -/
def State.raisedAt (s t : State) (gt : Nat) (cls : BitVec 4) (detail : Byte) : Prop :=
  s.stepped t gt ∧ (s.thread gt).keptBut (t.thread gt) [] ∧ (s.thread gt).sameLoops (t.thread gt) ∧
  (t.thread gt).pc = (s.thread gt).pc ∧ (t.thread gt).npc = (s.thread gt).npc ∧
  ∃ r, (t.thread gt).raised = some r ∧ r.pc = (s.thread gt).pc ∧
    r.npc = (s.thread gt).successor ∧ r.inDelay = (s.thread gt).inDelay ∧
    (match (s.thread gt).late, (s.thread gt).twin with
      | q :: rest, none => r.imprecise = true ∧ r.cls = q.2.cls ∧ r.detail = q.2.detail ∧
          r.oppc = q.2.oppc ∧ r.extra = !rest.isEmpty
      | _, _ => r.imprecise = false ∧ r.cls = cls ∧ r.detail = detail)

/-! ## Accesses to the thread's own core's bins -/

/-- Steps 1 to 4 of R123 pass for n bytes at an offset of segment i. -/
def State.reaches (s : State) (gt i off n : Nat) (rd wr : Bool) : Prop :=
  let d := s.desc gt i
  d.valid = true ∧ (d.lead = true → s.bit (fCurLead gt) = true) ∧ (rd = true → d.r = true) ∧
  (wr = true → d.w = true) ∧ off + n - 1 ≤ d.limit

/-- The n bytes from a lie in the thread's own core's bins, in banks that CORES owns and that are not
DRAINING (R304, R305). -/
def State.ownBins (s : State) (gt a n : Nat) : Prop :=
  a / 0x40000 = gt / 64 ∧ (a + n - 1) / 0x40000 = gt / 64 ∧
  ∀ b, (b = a / 0x10000 ∨ b = (a + n - 1) / 0x10000) → s.coresBank b = true ∧ s.bit (fDraining b) = false

/-- No half still to come of a far split store of the thread lies in the n bytes from a (R130, R149). -/
def Thread.clearOf (u : Thread) (a n : Nat) : Prop :=
  ∀ o ∈ u.stores, ∀ p, o.rest = some p → a + n ≤ p.1 ∨ p.1 + p.2.length ≤ a

/-- A byte of the bins as a thread's value: a shadow holds complements (R423). -/
def State.heldByte (s : State) (gt a : Nat) : Byte :=
  if (s.thread gt).isShadow then ~~~ (s.byte a) else s.byte a

/-- What a store to a byte leaves, by the region of the address: plain, bit-set alias, bit-clear alias (R42,
R309). -/
inductive StoreWay where
  | plain | setAlias | clearAlias
  deriving DecidableEq, Repr

def StoreWay.shift (w : StoreWay) : Nat :=
  match w with
  | .plain => 0
  | .setAlias => 0x4000000
  | .clearAlias => 0x8000000
def StoreWay.leaves (w : StoreWay) (old data : Byte) : Byte :=
  match w with
  | .plain => data
  | .setAlias => old ||| data
  | .clearAlias => old &&& ~~~ data

/-- The signed table entry of w bytes (2 or 4) at an address of the bins (R186). -/
def State.entry (s : State) (gt a w : Nat) : Int :=
  if w = 2 then (s.heldByte gt (a + 1) ++ s.heldByte gt a).toInt
  else (s.heldByte gt (a + 3) ++ s.heldByte gt (a + 2) ++ s.heldByte gt (a + 1) ++ s.heldByte gt a).toInt

/-- floor((v + 0x8000) / 0x1_0000), exact (R187). -/
def tableRound (v : Int) : Int := (v + 0x8000).fdiv 0x10000

/-- A long operation of the thread has issued: its registers and flags are as before and it goes on (R145,
R146). -/
def State.longIssued (s t : State) (gt : Nat) (o : LongOp) : Prop :=
  let u := s.thread gt
  u.wentOn (t.thread gt) ∧
  ({ u with ops := u.ops ++ [o], nextOp := u.nextOp + 1 } : Thread).keptBut (t.thread gt) [] ∧
  o.id = u.nextOp ∧ o.pc = u.pc

/-! ## Commands of the blocks -/

/-- The command came by no window of a virtual complex (R465). -/
def direct (who : Agent) : Prop := ∀ v, who ≠ .window v

/-- The state with fields of control registers set in turn, and nothing else changed. -/
def State.put (s : State) (l : List (Fld × Word)) : State := l.foldl (fun s p => s.setFld p.1 p.2) s

/-- The state with whole control registers set in turn, and nothing else changed. -/
def State.setWords (s : State) (l : List (Nat × Word)) : State := l.foldl (fun s p => s.setReg p.1 p.2) s

/-- The command has its effect, and the state after it is as told. -/
def State.after (s : State) (c : Instr) (p : State → Prop) : Prop := ∃ t, exec c s = .next t ∧ p t

/-- The bits of control registers outside the listed fields read as before. -/
def State.keeps (s t : State) (fs : List Fld) : Prop :=
  ∀ a i, (∀ f ∈ fs, canon a = canon f.addr → ¬ (f.lo ≤ i ∧ i ≤ f.hi)) → (t.reg a).getLsbD i = (s.reg a).getLsbD i

/-- A sequencer's instruction is over and the sequencer goes on at a word (R214, R222). -/
def State.seqGoes (s : State) (n k pc : Nat) : State :=
  (s.modSeq n k (fun x => { x with judged := false, ends := none, stamp := none })).put
    [(fSeqPC n k, BitVec.ofNat 32 pc), (fSeqState n k, sqRunning)]

/-- A sequencer enters FAULTED with a code and presents SEQ_FAULT; nothing of the instruction is performed
(R214, R217, R224). -/
def State.seqFails (s : State) (n k : Nat) (code : Word) : State :=
  ((s.modSeq n k (fun x => { x with judged := false, ends := none, stamp := none })).put
    [(fSeqState n k, sqFaulted), (fSeqFault n k, code)]).present (0x403 + 4 * (8 * n + k)) false 0

/-- A timer starts as START starts one: the count is the reload value, the prescaler restarts, and the timer is
armed no more (R252, R254, R263). -/
def State.startsTimer (s t : State) (m : Nat) : Prop :=
  t.bit (fRunning m) = true ∧ t.bit (fArm m) = false ∧ t.tmrCount m = s.tmrWide m 0xC ∧ (t.tmr m).presc = 0

/-- The record of a capture with its value and tag: VALID, RISE, EPOCH_CHANGED, KIND, low epoch and high
nanoseconds (R255 to R257). -/
def State.capture1 (s : State) (m : Nat) (rise : Bool) : Word × Word :=
  let kind := s.bit ⟨tmrReg m 0, 26, 26⟩
  let ep := (s.fld fEpoch).toNat
  let other := match (s.tmr m).epoch with
    | some e => decide (e ≠ ep)
    | none => false
  (if kind then s.reg (tmrReg m 0x18) else BitVec.ofNat 32 s.tbNs,
    BitVec.ofBool true ++ BitVec.ofBool rise ++ BitVec.ofBool other ++ BitVec.ofBool kind ++ (0 : BitVec 20) ++
      BitVec.ofNat 4 ep ++ BitVec.ofNat 4 (s.tbNs / 2 ^ 32))

/-- Nothing of a core waits for its data cache: no access, and no flush (R334, R339). -/
def State.cacheQuiet (s : State) (c : Nat) : Prop :=
  (∀ p ∈ s.dwait, p.1 ≠ c) ∧ Map.get {} s.flush c = {} ∧ s.bit (fFlushBusy c) = false

/-- Between two states a home has only changed the entry of a line, counted a use, and sent messages (R342). -/
def State.homeSent (u t : State) (l : Nat) (e : Option DEntry) (ms : List CohMsg) : Prop :=
  t = { u with dir := t.dir, dirClock := t.dirClock, coh := u.coh ++ ms } ∧ t.dentry l = e ∧
  ∀ x, x ≠ l → t.dentry x = u.dentry x

/-- An event of a port is on its way: in the routing pipeline, or in the port's synchroniser (R37, R275). -/
def State.shows (t : State) (port : Nat) (b : Bool) (hop : Nat) : Prop :=
  if portInCclk port then ∃ l, Routed.event port b hop l ∈ t.routed
  else hop + 1 ≤ Map.get 0 t.toggles (2 * port + (if b then 1 else 0))

/-- Of what R453 lists, a virtual complex owns these threads and timers and no other unit. -/
def State.ownsOnly (s : State) (v : Nat) (threads timers : List Nat) : Prop :=
  s.vcThreads v = threads ∧ s.vcTimers v = timers ∧ s.vcBays v = [] ∧ s.vcLanes v = [] ∧ s.vcChans v = [] ∧
  s.vcVecs v = [] ∧ s.vcOuts v = []

/-- A start of a kind has begun: everything is as after a cold reset but the loft, the control registers of the
listed ranges, the board die number in the ports, and the kind; the pads, what left for the system, and the
counters of the model go on (R480, R533). -/
def State.starts (s t : State) (kind die : Word) (rs : List (Nat × Nat)) : Prop :=
  t = { State.reset with
    regs := t.regs, loft := s.loft, store := t.store, freeCtr := s.freeCtr, reqCtr := s.reqCtr, answers := s.answers,
    lanes := s.keptLanes, sip := s.sip, pending := s.pending, mode := { cleared := t.mode.cleared, hold := t.mode.hold } } ∧
  t.fld ⟨0x10000800, 5, 4⟩ = kind ∧ (∀ p < 4, t.fld ⟨0x10C00008 + p * 0x10000, 1, 0⟩ = die) ∧
  ∀ a, canon a = a → a ≠ 0x10000800 → (∀ p < 4, a ≠ 0x10C00008 + p * 0x10000) →
    t.reg a = if ∃ r ∈ rs, r.1 ≤ a ∧ a < r.2 then s.reg a else State.reset.reg a

/-- START has ended with a terminal failure: the code, HELD, and FAULT_SAFE (R510, R512). -/
def State.startEnds (s t : State) (code : Word) : Prop :=
  t.fld ⟨0x10000800, 23, 16⟩ = code ∧ t.bit ⟨0x10000800, 7, 7⟩ = true ∧ t.bit fFaultSafe = true ∧ t.mem = s.mem

/-- A wake from DORMANT has begun a START of the wake kind, its sources in WAKE_STATUS (R535). -/
def State.wakes (s t : State) (sources : Word) : Prop :=
  t.fld fMode = modeStart ∧ t.fld ⟨0x10000800, 5, 4⟩ = 1 ∧ t.reg 0x10900044 = sources ∧ t.loft = s.loft ∧
  t.reg 0x10900040 = s.reg 0x10900040 ∧ t.threads = []

/-- The link of a port that was UP has gone down with a cause: it is DOWN, nothing of its outbound path is left,
BR_DOWN counts it, and the port presents event B (R552, R563). -/
def State.linkWent (s t : State) (p : Nat) (cause : Word) : Prop :=
  t.fld (fLinkState p) = linkDownSt ∧ t.fld (fCause p) = cause ∧ t.bit (fPartnerValid p) = false ∧
  t.fld (fLinkVer p) = 0 ∧ (t.link p).wait = [] ∧ (t.link p).out = [] ∧ (t.link p).exch = none ∧
  (t.fld ⟨brReg p 0x14, 15, 0⟩).toNat = min 0xFFFF ((s.fld ⟨brReg p 0x14, 15, 0⟩).toNat + 1) ∧
  t.shows (0x17B0 + p) true 0

/-! ## Reference computations of the instruction set -/

/-- A signed 32-bit operation with this exact result overflows (R172). -/
def overflows32 (i : Int) : Bool := decide (i < -(2 ^ 31) ∨ 2 ^ 31 ≤ i)
/-- The same of a signed 64-bit operation (R174). -/
def overflows64 (i : Int) : Bool := decide (i < -(2 ^ 63) ∨ 2 ^ 63 ≤ i)

/-- The word a fault writes to FAULT_INFO (R153). -/
def faultWord (r : FaultRec) (inFault lead inHandler : Bool) : Word :=
  (1 : BitVec 1) ++ BitVec.ofBool r.imprecise ++ BitVec.ofBool r.atSettle ++ BitVec.ofBool r.inDelay ++
  BitVec.ofBool r.partialSt ++ BitVec.ofBool r.second ++ BitVec.ofBool r.extra ++ BitVec.ofBool inFault ++
  BitVec.ofBool lead ++ BitVec.ofBool inHandler ++ (0 : BitVec 2) ++ r.cls ++ r.seg ++ r.acc ++ (0 : BitVec 2) ++
  r.detail

/-- The mask of a CRC state of w bits (R190). -/
def crcMask (w : Nat) : Word := BitVec.allOnes 32 >>> (32 - w)
/-- One data bit of CRC, most significant first, and of CRCR, least significant first (R190). -/
def crcBit (w : Nat) (p s : Word) (b : Bool) : Word :=
  ((s <<< 1) &&& crcMask w) ^^^ (if s.getLsbD (w - 1) ^^ b then p else 0)
def crcrBit (p s : Word) (b : Bool) : Word :=
  (s >>> 1) ^^^ (if s.getLsbD 0 ^^ b then p else 0)
/-- The bits n - 1 down to 0 of a data word, and 0 up to n - 1. -/
def bitsDown (dat : Word) : Nat → List Bool
  | 0 => []
  | n + 1 => dat.getLsbD n :: bitsDown dat n
def bitsUp (dat : Word) (n : Nat) : List Bool := (bitsDown dat n).reverse
/-- The state after CRC and CRCR as the program of R190 computes it. -/
def crcRef (w n : Nat) (p s dat : Word) : Word :=
  (bitsDown dat n).foldl (crcBit w (p &&& crcMask w)) (s &&& crcMask w)
def crcrRef (w n : Nat) (p s dat : Word) : Word :=
  (bitsUp dat n).foldl (crcrBit (p &&& crcMask w)) (s &&& crcMask w)

end Sys2Proof.Machine
end

