-- ==== Sys2Proof/Certificates/Slice0/Obligations.lean ====
section
/-!
DEFINITION. The statements for the provers. Each docstring names the rules of the spec it formalises.
-/
open Sys2Proof Sys2Proof.Machine

/-! ## The machine -/

/-- A step runs the command at the front of the queue, with the queue's rest. With no command waiting the complex
idles. The model's choice (log 6). -/
def Obligations.StepRunsFrontCommandOrIdles : Prop :=
  (∀ (c : Instr) (rest : List Instr) (s : State),
    step { s with pending := c :: rest } = exec c { s with pending := rest }) ∧
  (∀ s : State, s.pending = [] → step s = .next s)

/-- Memory has its canonical form at reset. What reset leaves: START at its first step, of the cold kind, with the
always-on and the loft domain powered and no other, every thread IDLE, no virtual complex, every lane at its safe
state, and the reset values of the registers (R14, R53, R243, R451, R480, R482). Memory reads zero, and every unlisted
register zero: the model's choice (logs 1 and 4). -/
def Obligations.ResetIsCanonicalStart : Prop :=
  (State.reset.Inv) ∧
  (State.reset.fld fMode = modeStart ∧ State.reset.fld ⟨0x10000800, 2, 0⟩ = 1 ∧
  State.reset.fld ⟨0x10000800, 5, 4⟩ = 0 ∧
  (∀ i < 64, State.reset.powered i = true ↔ i = 48 ∨ i = 49) ∧ (∀ gt < 2048, State.reset.fld (fState gt) = stIdle) ∧
  (∀ v < 64, State.reset.fld (vcState v) = vcFree) ∧ (∀ l < 1024, State.reset.fld (fSafe l) = 2) ∧
  State.reset.fld ⟨0x106C0000, 4, 0⟩ = 0x15 ∧ State.reset.fld ⟨0x106C0008, 13, 0⟩ = 0x3C00 ∧
  (∀ n < 32, State.reset.bit (fDcEnable n) = true) ∧ State.reset.tbNow = 0 ∧ State.reset.threads = [] ∧
  State.reset.ledger = [] ∧ State.reset.coh = [] ∧ State.reset.pending = [] ∧ (∀ a, State.reset.byte a = 0))

/-- Every step keeps the canonical form of memory, whatever the command and the state. -/
def Obligations.StepKeepsMemoryCanonical : Prop :=
  ∀ s t : State, s.Inv → step s = .next t → t.Inv

/-- Every command of the table has its effect in every state whose memory is canonical: no command stops the complex,
and none takes or adds a waiting command. -/
def Obligations.EveryCommandActs : Prop :=
  ∀ (c : Instr) (s : State), s.Inv → ∃ t, exec c s = .next t ∧ t.pending = s.pending

/-! ## Arithmetic and logic -/

/-- ADD, ADDC, SUB and SUBC write d with the sum and, with F, the four flags: N bit 31 of the result, Z a zero result,
C the carry out of bit 31 of the addition as written, V its signed overflow (R171, R172). Nothing else of the thread
changes but its next addresses, and nothing outside it but its counts of beats. CMP and CMPI write the four flags of
the subtraction and no register (R171 to R173). The logic, shift and comparison instructions write d and, with F, N
and Z; C and V stay. A shift count is bits [4:0] of its register (R171, R172). -/
def Obligations.AluWritesResultAndFlags : Prop :=
  (∀ (x : Issue) (f : Bool) (d a b : Reg) (s : State),
    let u := s.thread x.gt.val
    let p := u.rd a
    let q := u.rd b
    let k : Nat := if u.flags.c then 1 else 0
    let fl (r : Word) (c v : Bool) : Flags := if f then ⟨r.getLsbD 31, r == 0, c, v⟩ else u.flags
    (s.issues x (insAlu d a b false f) →
      s.yields (exec (.add x f d a b) s) x.gt.val d (p + q)
        (fl (p + q) (decide (2 ^ 32 ≤ p.toNat + q.toNat)) (overflows32 (p.toInt + q.toInt))) ∧
      s.yields (exec (.sub x f d a b) s) x.gt.val d (p - q)
        (fl (p - q) (decide (q.toNat ≤ p.toNat)) (overflows32 (p.toInt - q.toInt)))) ∧
    (s.issues x (insAlu d a b true f) →
      s.yields (exec (.addc x f d a b) s) x.gt.val d (p + q + BitVec.ofNat 32 k)
        (fl (p + q + BitVec.ofNat 32 k) (decide (2 ^ 32 ≤ p.toNat + q.toNat + k))
          (overflows32 (p.toInt + q.toInt + k))) ∧
      s.yields (exec (.subc x f d a b) s) x.gt.val d (p + ~~~ q + BitVec.ofNat 32 k)
        (fl (p + ~~~ q + BitVec.ofNat 32 k) (decide (q.toNat + 1 ≤ p.toNat + k))
          (overflows32 (p.toInt - q.toInt - 1 + k))))) ∧
  (∀ (x : Issue) (a b : Reg) (imm : BitVec 15) (s : State),
    let u := s.thread x.gt.val
    let res (o : Host.Outcome State Fault Refusal) (p q : Word) : Prop :=
      ∃ t, o = .next t ∧ s.ran t x.gt.val [] ∧ (t.thread x.gt.val).flags =
        ⟨(p - q).getLsbD 31, p == q, decide (q.toNat ≤ p.toNat), overflows32 (p.toInt - q.toInt)⟩
    (s.issues x (insAlu 0 a b false true) → res (exec (.cmp x a b) s) (u.rd a) (u.rd b)) ∧
    (s.issues x { insImm 0 a with wrFlags := true } →
      res (exec (.cmpi x a imm) s) (u.rd a) (imm.signExtend 32))) ∧
  (∀ (x : Issue) (f : Bool) (d a b : Reg) (s : State), s.issues x (insAlu d a b false f) →
    let u := s.thread x.gt.val
    let p := u.rd a
    let q := u.rd b
    let n := q.toNat % 32
    let res (i : Instr) (r : Word) : Prop := s.yields (exec i s) x.gt.val d r
      (if f then { u.flags with n := r.getLsbD 31, z := r == 0 } else u.flags)
    res (.and x f d a b) (p &&& q) ∧ res (.or x f d a b) (p ||| q) ∧ res (.xor x f d a b) (p ^^^ q) ∧
    res (.sll x f d a b) (p <<< n) ∧ res (.srl x f d a b) (p >>> n) ∧
    res (.sra x f d a b) (p.sshiftRight n) ∧ res (.ror x f d a b) ((p >>> n) ||| (p <<< ((32 - n) % 32))) ∧
    res (.slt x f d a b) (if p.slt q then 1 else 0) ∧ res (.sltu x f d a b) (if p < q then 1 else 0))

/-- The immediate forms write d and no flag: ADDI sign-extends its immediate, the logic forms zero-extend it, LUI
places it in bits [31:12] (R164, R173). The multiplies write the product's low or high word, or the whole product into
an even pair; none writes the flags (R175). ADDP and SUBP add and subtract even pairs with the flags of the 64-bit
result; SHASIG applies one of the four functions of SHA-384 to a pair (R174). -/
def Obligations.ImmediatesProductsAndPairs : Prop :=
  (∀ (x : Issue) (d a : Reg) (imm : BitVec 15) (cnt : BitVec 5) (up : BitVec 20) (s : State),
    let u := s.thread x.gt.val
    let p := u.rd a
    let n := cnt.toNat
    let res (i : Instr) (r : Word) : Prop := s.yields (exec i s) x.gt.val d r u.flags
    (s.issues x (insImm d a) →
      res (.addi x d a imm) (p + imm.signExtend 32) ∧ res (.andi x d a imm) (p &&& imm.setWidth 32) ∧
      res (.ori x d a imm) (p ||| imm.setWidth 32) ∧ res (.xori x d a imm) (p ^^^ imm.setWidth 32) ∧
      res (.slli x d a cnt) (p <<< n) ∧ res (.srli x d a cnt) (p >>> n) ∧
      res (.srai x d a cnt) (p.sshiftRight n) ∧
      res (.rori x d a cnt) ((p >>> n) ||| (p <<< ((32 - n) % 32)))) ∧
    (s.issues x { writes := [d] } → res (.lui x d up) (up ++ (0 : BitVec 12)))) ∧
  (∀ (x : Issue) (d a b : Reg) (s : State),
    let u := s.thread x.gt.val
    let p := u.rd a
    let q := u.rd b
    let sp : BitVec 64 := p.signExtend 64 * q.signExtend 64
    let up : BitVec 64 := p.setWidth 64 * q.setWidth 64
    (s.issues x (insAlu d a b false false) →
      s.yields (exec (.mul x d a b) s) x.gt.val d (p * q) u.flags ∧
      s.yields (exec (.mulh x d a b) s) x.gt.val d (sp.extractLsb' 32 32) u.flags ∧
      s.yields (exec (.mulhu x d a b) s) x.gt.val d (up.extractLsb' 32 32) u.flags) ∧
    (s.issues x { odd := oddReg d, reads := [a, b], writes := pairRegs d } →
      s.yieldsPair (exec (.mulw x d a b) s) x.gt.val d sp u.flags ∧
      s.yieldsPair (exec (.mulwu x d a b) s) x.gt.val d up u.flags)) ∧
  (∀ (x : Issue) (f : Bool) (d a b : Reg) (which : Fin 4) (s : State),
    let u := s.thread x.gt.val
    let p : BitVec 64 := u.rd (a + 1) ++ u.rd a
    let q : BitVec 64 := u.rd (b + 1) ++ u.rd b
    let rot (n : Nat) : BitVec 64 := (p >>> n) ||| (p <<< (64 - n))
    let fl (r : BitVec 64) (c v : Bool) : Flags := if f then ⟨r.getLsbD 63, r == 0, c, v⟩ else u.flags
    (s.issues x (insWide d a b f) →
      s.yieldsPair (exec (.addp x f d a b) s) x.gt.val d (p + q)
        (fl (p + q) (decide (2 ^ 64 ≤ p.toNat + q.toNat)) (overflows64 (p.toInt + q.toInt))) ∧
      s.yieldsPair (exec (.subp x f d a b) s) x.gt.val d (p - q)
        (fl (p - q) (decide (q.toNat ≤ p.toNat)) (overflows64 (p.toInt - q.toInt)))) ∧
    (s.issues x { odd := oddReg d || oddReg a, reads := pairRegs a, writes := pairRegs d } →
      s.yieldsPair (exec (.shasig x d a which) s) x.gt.val d
        (match which with
          | 0 => rot 28 ^^^ rot 34 ^^^ rot 39
          | 1 => rot 14 ^^^ rot 18 ^^^ rot 41
          | 2 => rot 1 ^^^ rot 8 ^^^ (p >>> 7)
          | 3 => rot 19 ^^^ rot 61 ^^^ (p >>> 6)) u.flags))

/-- CRC and CRCR step the state in d by n bits of the data in a under the polynomial in b, as the program of R190
does, with w and n one more than their fields, and write no flag. -/
def Obligations.CrcSteps : Prop :=
  ∀ (x : Issue) (d a b : Reg) (w n : BitVec 5) (s : State), s.issues x { reads := [d, a, b], writes := [d] } →
    let u := s.thread x.gt.val
    s.yields (exec (.crc x d a b w n) s) x.gt.val d
      (crcRef (w.toNat + 1) (n.toNat + 1) (u.rd b) (u.rd d) (u.rd a)) u.flags ∧
    s.yields (exec (.crcr x d a b w n) s) x.gt.val d
      (crcrRef (w.toNat + 1) (n.toNat + 1) (u.rd b) (u.rd d) (u.rd a)) u.flags

/-- A division issues as a long operation whose result, or whose zero divisor, waits for its retirement; d keeps its
value until then and no flag changes (R145, R150, R176). A ready operation retires: its value is written to d, or to
the pair, and the operation leaves the list; a failed one writes nothing, and at a boundary of a thread that is no
twin member its error is raised, imprecise, with the operation's address in OPPC (R146, R150, R152, R166). The
response of a bay or timer register that came later than the pad (`late`) counts one contract break of a deterministic
thread (R93, R94). -/
def Obligations.DivisionsIssueAndRetire : Prop :=
  (∀ (x : Issue) (d a b : Reg) (s : State), s.issues x { insAlu d a b false false with long := true } →
    let u := s.thread x.gt.val
    let p := u.rd a
    let q := u.rd b
    let res (i : Instr) (v : Word) : Prop := ∃ t o, exec i s = .next t ∧ s.stepped t x.gt.val ∧
      s.longIssued t x.gt.val o ∧ o.d = d ∧ o.pair = false ∧ o.need = 0 ∧
      o.result = some (if q = 0 then .divZero else .value v 0)
    res (.div x d a b) (p.sdiv q) ∧ res (.divu x d a b) (p / q) ∧
    res (.rem x d a b) (p.srem q) ∧ res (.remu x d a b) (p % q)) ∧
  (∀ (g : GT) (i : Fin 4) (late : Bool) (o : LongOp) (s : State),
    let gt := g.val
    let u := s.thread gt
    let breaks : Prop := o.padded = true ∧ late = true ∧ s.det gt = true
    u.ops[i.val]? = some o → o.need = 0 → (u.stopReq = false ∨ u.boundary = false) →
    let left : Thread := { u with ops := u.ops.filter (fun p => p.id != o.id) }
    (∀ lo hi, o.result = some (.value lo hi) → (o.pair = true → oddReg o.d = false) →
      ∃ t, exec (.longOpRetire g i late) s = .next t ∧
        t = { s with regs := t.regs, threads := t.threads, pairs := t.pairs } ∧ s.sameThreadsBut t gt ∧
        t.fld (fContract gt) = (if breaks then s.countUp (fContract gt) else s).fld (fContract gt) ∧
        left.keptBut (t.thread gt) (if o.pair then [o.d, o.d + 1] else [o.d]) ∧ (t.thread gt).pc = u.pc ∧
        (t.thread gt).rd o.d = (if o.d = 0 then 0 else lo) ∧
        (o.pair = true → (t.thread gt).rd (o.d + 1) = hi)) ∧
    (∀ f, o.lateRec = some f →
      ∃ t, exec (.longOpRetire g i late) s = .next t ∧ left.keptBut (t.thread gt) [] ∧ (t.thread gt).pc = u.pc ∧
        (u.twin = none → u.boundary = true → u.raised = none → u.twinStop = none → u.late = [] →
          (s.fld (fState gt) = stReady ∨ s.fld (fState gt) = stWait) →
          ∃ r, (t.thread gt).raised = some r ∧ r.imprecise = true ∧ r.oppc = o.pc ∧ r.pc = u.pc ∧
            r.npc = u.successor ∧ r.extra = false ∧
            (o.result = some .divZero → r.cls = 9 ∧ r.detail = 0) ∧
            (∀ a k, o.result = some (.busError a k) → r.cls = 4 ∧ r.detail = 4 ∧ r.addr = a))))

/-! ## Moves, control transfers, waiting and faults -/

/-- NOP does nothing; TOTASK clears CUR_LEAD; MVFL writes the flags to d[3:0] and MVTF takes them from a[3:0]; LPRD
reads a field of a loop register (R116, R183). In a thread that is no twin member, RDFEAT reads a feature register,
FEAT1 naming the reading thread and its virtual complex, and GETSEG a word of a live descriptor (R159, R183). -/
def Obligations.MovesFeaturesAndSegmentReads : Prop :=
  (∀ (x : Issue) (d a : Reg) (k fi : BitVec 2) (s : State),
    let gt := x.gt.val
    let u := s.thread gt
    let l : Loop := if k = 0 then u.lp0 else if k = 1 then u.lp1 else u.lp2
    (s.issues x {} → ∃ t, exec (.nop x) s = .next t ∧ s.ran t gt [] ∧ (t.thread gt).flags = u.flags) ∧
    (s.issues x { pairOk := false } → ∃ t, exec (.totask x) s = .next t ∧ s.touched t gt [tCfg gt 0] ∧
      u.wentOn (t.thread gt) ∧ u.keptBut (t.thread gt) [] ∧
      t.reg (tCfg gt 0) = s.reg (tCfg gt 0) &&& ~~~ 2) ∧
    (s.issues x { writes := [d], rdFlags := true } → s.yields (exec (.mvfl x d) s) gt d
      ((0 : BitVec 28) ++ BitVec.ofBool u.flags.n ++ BitVec.ofBool u.flags.z ++ BitVec.ofBool u.flags.c ++
        BitVec.ofBool u.flags.v) u.flags) ∧
    (s.issues x { reads := [a], wrFlags := true, pairOk := false } →
      ∃ t, exec (.mvtf x a) s = .next t ∧ s.ran t gt [] ∧ (t.thread gt).flags =
        ⟨(u.rd a).getLsbD 3, (u.rd a).getLsbD 2, (u.rd a).getLsbD 1, (u.rd a).getLsbD 0⟩) ∧
    (s.issues x { wf := k != 3, writes := [d], pairOk := false } → s.yields (exec (.lprd x d k fi) s) gt d
      (match fi with
        | 0 => l.start
        | 1 => l.stop
        | 2 => l.count
        | 3 => if l.active then 1 else 0) u.flags)) ∧
  (∀ (x : Issue) (d : Reg) (n si : Fin 8) (w : Fin 4) (s : State),
    let gt := x.gt.val
    let u := s.thread gt
    (s.issuesAlone x { writes := [d], via := true } → s.yields (exec (.rdfeat x d n) s) gt d
      (if n = 1 then
        (match s.owner (ownThread gt) with
          | some v => BitVec.ofNat 32 (2 ^ 17 + v * 2 ^ 11 + gt)
          | none => BitVec.ofNat 32 gt)
       else s.reg (0x10000100 + 4 * n.val)) u.flags) ∧
    (s.issuesAlone x { writes := [d], pairOk := false, via := true } →
      s.yields (exec (.getseg x d si w) s) gt d (s.reg (tSeg gt si.val (4 * w.val))) u.flags))

/-- RSPUSH pushes a with bits [1:0] cleared; a push onto a full stack drops the oldest entry and sets WRAPPED where
RS_TRAP is 0, and raises RSTACK overflow where it is 1. RSPOP takes the newest entry, and raises RSTACK underflow on
an empty stack (R136 to R138, R183). LOOP checks its range and arms its loop register, or, with a count of zero,
leaves it inactive and goes on at end + 4. LPWR writes a field; writing start or end of an active loop raises LOOP,
and setting active is checked as LOOP is (R139, R142, R183, R185). An LPWR that stands at a loop's end counts with the
value it wrote: the model's choice (log 76). -/
def Obligations.ReturnStackAndLoops : Prop :=
  (∀ (x : Issue) (d a : Reg) (s : State),
    let gt := x.gt.val
    let u := s.thread gt
    (s.issues x { reads := [a], pairOk := false } →
      if 8 ≤ u.rs.length ∧ s.bit (fRsTrap gt) = true then
        ∃ t, exec (.rspush x a) s = .next t ∧ s.raisedAt t gt 5 1
      else ∃ t, exec (.rspush x a) s = .next t ∧ s.touched t gt [tCfg gt 0x10] ∧ u.wentOn (t.thread gt) ∧
        (u.pushed (u.rd a &&& ~~~ 3)).keptBut (t.thread gt) [] ∧
        t.reg (tCfg gt 0x10) = (if 8 ≤ u.rs.length then s.reg (tCfg gt 0x10) ||| 0x10 else s.reg (tCfg gt 0x10))) ∧
    (s.issues x { writes := [d], pairOk := false } →
      match u.rs with
      | [] => ∃ t, exec (.rspop x d) s = .next t ∧ s.raisedAt t gt 5 2
      | v :: r => ∃ t, exec (.rspop x d) s = .next t ∧ s.stepped t gt ∧ u.wentOn (t.thread gt) ∧
        ({ u with rs := r } : Thread).keptBut (t.thread gt) [d] ∧
        (t.thread gt).rd d = (if d = 0 then 0 else v))) ∧
  (∀ (x : Issue) (k fi : BitVec 2) (a : Reg) (imm : BitVec 15) (s : State),
    let gt := x.gt.val
    let u := s.thread gt
    let l : Loop := u.loop k.toNat
    let start := u.pc + 4
    let stop := u.pc + 4 * imm.setWidth 32
    (s.issues x { insXfer [a] with wf := k != 3 && imm != 0 } →
      match u.loopFault k.toNat start stop with
      | some dt => ∃ t, exec (.loop x k a imm) s = .next t ∧ s.raisedAt t gt 6 dt
      | none => ∃ t, exec (.loop x k a imm) s = .next t ∧ s.stepped t gt ∧ u.keptBut (t.thread gt) [] ∧
        if u.rd a = 0 then (t.thread gt).pc = stop + 4 ∧ (t.thread gt).npc = stop + 8 ∧
          (t.thread gt).inDelay = false ∧ (u.setLoop k.toNat { l with active := false }).sameLoops (t.thread gt)
        else (u.setLoop k.toNat ⟨start, stop, u.rd a, true⟩).wentOn (t.thread gt)) ∧
    (s.issues x { wf := k != 3, reads := [a], pairOk := false } →
      let put (m : Loop) : Prop := ∃ t, exec (.lpwr x k fi a) s = .next t ∧ s.stepped t gt ∧
        u.keptBut (t.thread gt) [] ∧ (u.setLoop k.toNat m).wentOn (t.thread gt)
      let bad (dt : Byte) : Prop := ∃ t, exec (.lpwr x k fi a) s = .next t ∧ s.raisedAt t gt 6 dt
      match fi with
      | 0 => if l.active then bad 2 else put { l with start := u.rd a }
      | 1 => if l.active then bad 2 else put { l with stop := u.rd a }
      | 2 => put { l with count := u.rd a }
      | 3 => if (u.rd a).getLsbD 0 then
          (match u.loopFault k.toNat l.start l.stop with
            | some dt => bad dt
            | none => put { l with active := true })
        else put { l with active := false }))

/-- B, BR, CALL, CALLR and RET have one delay slot: the slot is next and the target after it, taken or not. CALL and
CALLR push the address after the slot, RET pops (R133, R136 to R138, R181). The conditions of B over the flags (R180).
-/
def Obligations.TransfersTakeDelaySlot : Prop :=
  (∀ (x : Issue) (cond : BitVec 4) (d21 : BitVec 21) (d25 : BitVec 25) (a : Reg) (s : State),
    let gt := x.gt.val
    let u := s.thread gt
    let goes (i : Instr) (v : Thread) (target : Word) : Prop := ∃ t, exec i s = .next t ∧ s.stepped t gt ∧
      v.keptBut (t.thread gt) [] ∧ u.tookDelay (t.thread gt) target
    let calls (i : Instr) (target : Word) : Prop :=
      if 8 ≤ u.rs.length ∧ s.bit (fRsTrap gt) = true then ∃ t, exec i s = .next t ∧ s.raisedAt t gt 5 1
      else ∃ t, exec i s = .next t ∧ s.touched t gt [tCfg gt 0x10] ∧
        (u.pushed (u.pc + 8)).keptBut (t.thread gt) [] ∧ u.tookDelay (t.thread gt) target ∧
        t.reg (tCfg gt 0x10) = (if 8 ≤ u.rs.length then s.reg (tCfg gt 0x10) ||| 0x10 else s.reg (tCfg gt 0x10))
    (s.issues x { insXfer [] with wf := cond != 0xF, rdFlags := true } →
      goes (.b x cond d21) u (if u.flags.holds cond then u.pc + 4 * d21.signExtend 32 else u.pc + 8)) ∧
    (s.issues x (insXfer [a]) → goes (.br x a) u (u.rd a &&& ~~~ 3) ∧
      calls (.callr x a) (u.rd a &&& ~~~ 3)) ∧
    (s.issues x (insXfer []) → calls (.call x d25) (u.pc + 4 * d25.signExtend 32) ∧
      (match u.rs with
        | [] => ∃ t, exec (.ret x) s = .next t ∧ s.raisedAt t gt 5 2
        | v :: r => goes (.ret x) { u with rs := r } v))) ∧
  (∀ f : Flags,
    f.holds 0x0 = f.z ∧ f.holds 0x1 = !f.z ∧ f.holds 0x2 = f.c ∧ f.holds 0x3 = !f.c ∧
    f.holds 0x4 = f.n ∧ f.holds 0x5 = !f.n ∧ f.holds 0x6 = f.v ∧ f.holds 0x7 = !f.v ∧
    f.holds 0x8 = (f.c && !f.z) ∧ f.holds 0x9 = (!f.c || f.z) ∧ f.holds 0xA = (f.n == f.v) ∧
    f.holds 0xB = (f.n != f.v) ∧ f.holds 0xC = (!f.z && (f.n == f.v)) ∧
    f.holds 0xD = (f.z || (f.n != f.v)) ∧ f.holds 0xE = true)

/-- ERET pops its address and clears IN_HANDLER; FRET, at LEAD, clears IN_FAULT, restores CUR_LEAD from the record and
resumes at FAULT_PC and then FAULT_NPC, in the delay slot the record says; neither has a delay slot. TRAPI n raises ILLEGAL with DETAIL 0x80 + n. A word that is
no defined encoding raises ILLEGAL with DETAIL 0x00, whatever row presents it (R101, R158, R163, R181, R182). -/
def Obligations.ReturnsAndTraps : Prop :=
  ∀ (x : Issue) (n : BitVec 7) (s : State),
    let gt := x.gt.val
    let u := s.thread gt
    (x.undef = true → s.fetchFault gt = none → (∀ p ∈ u.delayed, p.1 ≠ 0) → u.stopReq = false →
      (s.canIssue gt x { wf := false } = true → ∃ t, exec (.nop x) s = .next t ∧ s.raisedAt t gt 2 0) ∧
      (s.canIssue gt x { insXfer [] with wf := false } = true →
        ∃ t, exec (.trapi x n) s = .next t ∧ s.raisedAt t gt 2 0)) ∧
    (s.issues x (insXfer []) →
      (match u.rs with
        | [] => ∃ t, exec (.eret x) s = .next t ∧ s.raisedAt t gt 5 2
        | v :: r => ∃ t, exec (.eret x) s = .next t ∧ s.stepped t gt ∧
          ({ u with rs := r } : Thread).keptBut (t.thread gt) [] ∧ u.sameLoops (t.thread gt) ∧
          (t.thread gt).pc = v ∧ (t.thread gt).npc = v + 4 ∧ (t.thread gt).inDelay = false ∧
          t.bit (fInHandler gt) = false) ∧
      ∃ t, exec (.trapi x n) s = .next t ∧ s.raisedAt t gt 2 (0x80 + n.setWidth 8)) ∧
    (s.issues x { insXfer [] with priv := true } →
      ∃ t, exec (.fret x) s = .next t ∧ s.touched t gt [tCfg gt 0] ∧ u.keptBut (t.thread gt) [] ∧
        u.sameLoops (t.thread gt) ∧ t.bit (fInFault gt) = false ∧
        t.bit (fCurLead gt) = (s.reg (tReg gt 0x30)).getLsbD 23 ∧
        (t.thread gt).pc = s.reg (tReg gt 0x34) &&& ~~~ 3 ∧ (t.thread gt).npc = s.reg (tCfg gt 8) &&& ~~~ 3 ∧
        (t.thread gt).inDelay = (s.reg (tReg gt 0x30)).getLsbD 28)

/-- SETSEG within its ceiling writes segment si: the base is the ceiling's plus ga, the limit gb, and each right is
the immediate's where the ceiling has it, LEAD_ONLY also where the ceiling has it. Outside its ceiling it raises
SEGMENT with DETAIL 0x03 and leaves si; s7 stays for two further instructions and is in force when the second has
completed (R125, R126). SETTLE completes when no long operation and no store is outstanding, or raises the late error
that the thread still holds, and otherwise waits; it completes, or raises the error, when the last has retired. ISYNC
waits for stores, and leaves the line buffer empty, at once or when the last store is visible. SEAL marks the end of a
twin member's signature window, or raises the late error it holds, and does nothing elsewhere (R108, R151, R199,
R432). -/
def Obligations.SetsegSettleIsyncSeal : Prop :=
  (∀ (x : Issue) (si : Fin 8) (a b : Reg) (rights : BitVec 5) (s : State),
    s.issues x { reads := [a, b], pairOk := false, priv := true, delayIll := si.val == 7 } →
    let gt := x.gt.val
    let u := s.thread gt
    let ceil (off : Nat) : Word := s.reg (tSeg gt (si.val + 8) off)
    let cb : Nat := (ceil 0).toNat + 2 ^ 32 * ((ceil 4).toNat % 2 ^ 16)
    let at' : List Nat := [tSeg gt si.val 0, tSeg gt si.val 4, tSeg gt si.val 8, tSeg gt si.val 0xC]
    let base : Nat := (cb + (u.rd a).toNat) % 2 ^ 48
    let given : Word := (0 : BitVec 26) ++
      BitVec.ofBool (rights.getLsbD 4 || (ceil 0xC).getLsbD 5) ++ (0 : BitVec 1) ++
      BitVec.ofBool (rights.getLsbD 3 && (ceil 0xC).getLsbD 3) ++
      BitVec.ofBool (rights.getLsbD 2 && (ceil 0xC).getLsbD 2) ++
      BitVec.ofBool (rights.getLsbD 1 && (ceil 0xC).getLsbD 1) ++ (1 : BitVec 1)
    if (ceil 0xC).getLsbD 0 = false ∨ (ceil 8).toNat < (u.rd a).toNat + (u.rd b).toNat then
      ∃ t, exec (.setseg x si a b rights) s = .next t ∧ s.raisedAt t gt 0 3
    else ∃ t, exec (.setseg x si a b rights) s = .next t ∧ s.touched t gt at' ∧ u.wentOn (t.thread gt) ∧
      u.keptBut (t.thread gt) [] ∧
      if si.val = 7 then (∀ c ∈ at', t.reg c = s.reg c) ∧
        (t.thread gt).delayed = u.delayed.map (fun p => (p.1 - 1, p.2)) ++
          [(1, .seg7 (BitVec.ofNat 48 base) (u.rd b) given)]
      else t.reg (tSeg gt si.val 0) = BitVec.ofNat 32 base ∧
        t.reg (tSeg gt si.val 4) = BitVec.ofNat 32 (base / 2 ^ 32) ∧ t.reg (tSeg gt si.val 8) = u.rd b ∧
        t.reg (tSeg gt si.val 0xC) = given) ∧
  (∀ (x : Issue) (base : BitVec 48) (limit rights : Word) (s : State),
    let gt := x.gt.val
    let u := s.thread gt
    let at' : List Nat := [tSeg gt 7 0, tSeg gt 7 4, tSeg gt 7 8, tSeg gt 7 0xC]
    x.undef = false → s.canIssue gt x {} = true → s.fetchFault gt = none → s.earlyFault gt {} = none →
    u.stopReq = false → u.delayed = [(0, .seg7 base limit rights)] →
    ∃ t, exec (.nop x) s = .next t ∧ s.touched t gt at' ∧ u.wentOn (t.thread gt) ∧ u.keptBut (t.thread gt) [] ∧
      (t.thread gt).delayed = [] ∧ t.reg (tSeg gt 7 0) = base.extractLsb' 0 32 ∧
      t.reg (tSeg gt 7 4) = (base.extractLsb' 32 16).setWidth 32 ∧ t.reg (tSeg gt 7 8) = limit ∧
      t.reg (tSeg gt 7 0xC) = rights) ∧
  (∀ (x : Issue) (s : State),
    let gt := x.gt.val
    let u := s.thread gt
    let waits (i : Instr) (w : Waiting) : Prop := ∃ t, exec i s = .next t ∧ s.stepped t gt ∧
      u.keptBut (t.thread gt) [] ∧ (t.thread gt).pc = u.pc ∧ (t.thread gt).waiting = some w ∧
      t.fld (fState gt) = stWait
    let goes (i : Instr) : Prop := ∃ t, exec i s = .next t ∧ s.stepped t gt ∧
      u.wentOn (t.thread gt) ∧ u.keptBut (t.thread gt) []
    let syncs (i : Instr) : Prop := ∃ t, exec i s = .next t ∧ s.stepped t gt ∧
      u.wentOn (t.thread gt) ∧ u.keptBut (t.thread gt) [] ∧ (t.thread gt).lineBuf = []
    let late (i : Instr) (r : Nat × FaultRec) (rest : Map FaultRec) : Prop := ∃ t rec, exec i s = .next t ∧
      u.keptBut (t.thread gt) [] ∧ (t.thread gt).pc = u.pc ∧ (t.thread gt).late = [] ∧
      (t.thread gt).raised = some rec ∧ rec.cls = r.2.cls ∧ rec.detail = r.2.detail ∧ rec.oppc = r.2.oppc ∧
      rec.imprecise = true ∧ rec.atSettle = true ∧ rec.extra = !rest.isEmpty ∧ rec.pc = u.pc
    let settles (i : Instr) : Prop :=
      match u.late with
      | [] => goes i
      | r :: rest => late i r rest
    (s.issues x { pairOk := false } →
      (if u.ops = [] ∧ u.stores = [] then settles (.settle x) else waits (.settle x) .settle) ∧
      (if u.stores = [] then syncs (.isync x) else waits (.isync x) .isync) ∧
      (u.twin = none → goes (.seal x)) ∧
      (u.twin ≠ none → u.late = [] → ∃ t, exec (.seal x) s = .next t ∧ s.stepped t gt ∧
        u.wentOn (t.thread gt) ∧ u.keptBut (t.thread gt) [] ∧ (t.thread gt).winEnd = true) ∧
      (∀ r rest, u.twin ≠ none → u.late = r :: rest → late (.seal x) r rest)) ∧
    (s.mayComplete gt = true → u.stopReq = false → (∀ p ∈ u.delayed, p.1 ≠ 0) →
      (u.waiting = some .settle → u.ops = [] → u.stores = [] → settles (.settleComplete x.gt)) ∧
      (u.waiting = some .isync → u.stores = [] → syncs (.settleComplete x.gt))))

/-- WAIT with an input of its mask pending takes the lowest, writes its number, clears its PEND bit and carries its
hop count plus one; with none pending the thread waits. A WAIT that waits completes in the same way once an input is
pending and no handler entry is due (R97 to R99, R192, R193, R280). A thread enters its handler for its lowest pending
enabled input: its address is pushed, IN_HANDLER is set with the input's number, the PEND bit is cleared, and it goes
on at VECTOR × 64 + 16 × input, out of any wait (R100 to R102, R280). -/
def Obligations.WaitsAndHandlersTakeLowestInput : Prop :=
  (∀ (x : Issue) (d : Reg) (mask : BitVec 4) (s : State),
    let gt := x.gt.val
    let u := s.thread gt
    let m : Word := s.reg (tReg gt 0x1C) &&& mask.setWidth 32
    let took (o : Host.Outcome State Fault Refusal) : Prop :=
      ∃ (t : State) (i : Nat), o = .next t ∧ i < 4 ∧ m.getLsbD i = true ∧ (∀ j, j < i → m.getLsbD j = false) ∧
        s.touched t gt [tReg gt 0x1C] ∧ u.wentOn (t.thread gt) ∧ (t.thread gt).flags = u.flags ∧
        u.sameRegsBut (t.thread gt) [d] ∧ (t.thread gt).rd d = (if d = 0 then 0 else BitVec.ofNat 32 i) ∧
        ({ u with hop := min 8 (Map.get 0 u.evHop i + 1) } : Thread).sameRest (t.thread gt) ∧
        t.reg (tReg gt 0x1C) = s.reg (tReg gt 0x1C) &&& ~~~ ((1 : Word) <<< i)
    (s.issuesAlone x { wf := mask != 0, writes := [d], pairOk := false, via := true } →
      if m = 0 then ∃ t, exec (.wait x d mask) s = .next t ∧ s.stepped t gt ∧ u.keptBut (t.thread gt) [] ∧
        (t.thread gt).pc = u.pc ∧ (t.thread gt).waiting = some (.wait d mask) ∧ t.fld (fState gt) = stWait
      else took (exec (.wait x d mask) s)) ∧
    (u.waiting = some (.wait d mask) → u.twin = none → (∀ p ∈ u.delayed, p.1 ≠ 0) → u.stopReq = false → m ≠ 0 →
      s.mayComplete gt = true → took (exec (.waitComplete x.gt) s))) ∧
  (∀ (g : GT) (s : State),
    let gt := g.val
    let u := s.thread gt
    let m : Word := s.reg (tReg gt 0x1C) &&& s.reg (tReg gt 0x18)
    s.handlerDue gt = true → u.raised = none → u.haltReq = none → u.freezeReq = false →
    (s.fld (fState gt) = stReady ∨ s.fld (fState gt) = stWait) → s.hasBeats gt = true →
    (u.rs.length < 8 ∨ s.bit (fRsTrap gt) = false) →
    ∃ (t : State) (i : Nat), exec (.handlerEntry g) s = .next t ∧ i < 4 ∧ m.getLsbD i = true ∧
      (∀ j, j < i → m.getLsbD j = false) ∧
      s.touched t gt [tReg gt 0x1C, tCfg gt 0x10] ∧
      ({ u.pushed u.pc with hop := min 8 (Map.get 0 u.evHop i + 1) } : Thread).keptBut (t.thread gt) [] ∧
      u.sameLoops (t.thread gt) ∧ (t.thread gt).waiting = none ∧
      t.bit (fInHandler gt) = true ∧ t.fld (fHinput gt) = BitVec.ofNat 32 i ∧ t.fld (fState gt) = stReady ∧
      t.reg (tReg gt 0x1C) = s.reg (tReg gt 0x1C) &&& ~~~ ((1 : Word) <<< i) ∧
      (t.thread gt).pc = (s.reg (tReg gt 0x20) &&& ~~~ 63) + BitVec.ofNat 32 (16 * i) ∧
      (t.thread gt).npc = (t.thread gt).pc + 4)

/-- RECV takes the oldest message into its pair and clears Z; with an empty inbox it sets Z and leaves the pair, or
waits. A RECV that waits completes with the first message (R194). SEND judges a message to a thread of its own core at
once and writes the outcome to d; one to another core is on its way, as a long operation that its outcome completes;
one to another die enters the outbound path of its route, if that has room (R195, R196, R289 to R291, R561). Of the
threads whose messages have reached a core in a cycle, one of the core next in rotating order has its oldest message
to that core judged: stale where the role generation or the membership does not agree, full where the inbox holds
eight, and otherwise appended; its outcome is the sender's result (R31, R287 to R291). -/
def Obligations.MessagesAreSentAndReceived : Prop :=
  (∀ (x : Issue) (d : Reg) (wt : Bool) (s : State),
    let gt := x.gt.val
    let u := s.thread gt
    let took (o : Host.Outcome State Fault Refusal) (m : BitVec 64) (r : List (BitVec 64)) : Prop :=
      ∃ t, o = .next t ∧ s.stepped t gt ∧ u.wentOn (t.thread gt) ∧ u.sameRegsBut (t.thread gt) [d, d + 1] ∧
        (t.thread gt).rd d = (if d = 0 then 0 else m.extractLsb' 0 32) ∧
        (t.thread gt).rd (d + 1) = m.extractLsb' 32 32 ∧ (t.thread gt).flags = { u.flags with z := false } ∧
        ({ u with inbox := r } : Thread).sameRest (t.thread gt)
    (s.issuesAlone x { odd := oddReg d, writes := pairRegs d, wrFlags := true, pairOk := false, via := true } →
      match u.inbox with
      | m :: r => took (exec (.recv x d wt) s) m r
      | [] =>
        if wt then ∃ t, exec (.recv x d wt) s = .next t ∧ s.stepped t gt ∧ u.keptBut (t.thread gt) [] ∧
          (t.thread gt).pc = u.pc ∧ (t.thread gt).waiting = some (.recv d) ∧ t.fld (fState gt) = stWait
        else ∃ t, exec (.recv x d wt) s = .next t ∧ s.ran t gt [] ∧
          (t.thread gt).flags = { u.flags with z := true }) ∧
    (∀ m r, u.inbox = m :: r → u.waiting = some (.recv d) → oddReg d = false → u.twin = none →
      (∀ p ∈ u.delayed, p.1 ≠ 0) → u.stopReq = false → s.mayComplete gt = true →
      took (exec (.recvComplete x.gt) s) m r)) ∧
  (∀ (x : Issue) (d a b : Reg) (s : State),
    let gt := x.gt.val
    let u := s.thread gt
    let w := u.rd b
    let data := u.rdPair a
    let dst := (bitsOf w 10 0).toNat
    let die := (bitsOf w 12 11).toNat
    let here : Prop := w.getLsbD 13 = false ∨ die = s.selfDie
    let ins (long : Bool) : Ins :=
      { odd := oddReg a, reads := b :: pairRegs a, writes := [d], pairOk := false, long := long }
    let own (code : Word) (t : State) : Prop :=
      u.wentOn (t.thread gt) ∧ u.sameRegsBut (t.thread gt) [d] ∧ (t.thread gt).flags = u.flags ∧
      (t.thread gt).rd d = (if d = 0 then 0 else code)
    (here → dst / 64 = gt / 64 → s.issuesAlone x (ins false) →
      let pass : Prop := s.memberOk gt dst = true ∧ s.fld (fRoleGen dst) = bitsOf w 27 16
      let inbox := (s.thread dst).inbox
      (pass → inbox.length < 8 → s.after (.send x d a b) (fun t => own 0 t ∧ (t.thread dst).inbox = inbox ++ [data])) ∧
      (pass → 8 ≤ inbox.length → s.after (.send x d a b) (fun t => own 1 t ∧ (t.thread dst).inbox = inbox ∧
        t.fld (fFullCount dst) = (s.countUp (fFullCount dst)).fld (fFullCount dst))) ∧
      (¬ pass → s.after (.send x d a b) (fun t => own 2 t ∧ (t.thread dst).inbox = inbox ∧
        t.fld (fStaleCount dst) = (s.countUp (fStaleCount dst)).fld (fStaleCount dst)))) ∧
    (here → dst / 64 ≠ gt / 64 → s.issuesAlone x (ins true) → s.after (.send x d a b) (fun t =>
      ∃ o, s.longIssued t gt o ∧ o.d = d ∧ o.pair = false ∧ o.need = 1 ∧ o.result = none ∧
        t.msgs = s.msgs ++ [(gt, u.nextOp, w, data)])) ∧
    (¬ here → s.issuesAlone x (ins true) →
      let res (code : Word) (t : State) : Prop :=
        ∃ o, s.longIssued t gt o ∧ o.d = d ∧ o.need = 0 ∧ o.result = some (.value code 0)
      (s.route die = none → s.after (.send x d a b) (fun t => res 2 t ∧ t.links = s.links)) ∧
      (∀ p, s.route die = some p → 16 ≤ (s.link p).messages → s.after (.send x d a b) (fun t =>
        res 1 t ∧ t.links = s.links)) ∧
      (∀ p, s.route die = some p → (s.link p).messages < 16 → s.after (.send x d a b) (fun t =>
        res 0 t ∧ t.links = (s.linkPush p (.message w data)).links)))) ∧
  (∀ (n : Core) (here : List GT) (g : GT) (k : Nat) (m : Nat × Nat × Word × BitVec 64) (s : State),
    let w := m.2.2.1
    let dst := (bitsOf w 10 0).toNat
    let sends (q : GT) : Bool := s.msgs.any (fun m => m.1 == q.val && decide ((bitsOf m.2.2.1 10 0).toNat / 64 = n.val))
    let turn (j : Nat) : Nat := (Map.get 31 s.msgTurn n.val + 1 + j) % 32
    k < 32 → (∀ j < k, ∀ q ∈ here, sends q = true → q.val / 64 ≠ turn j) →
    here.find? (fun q => sends q && decide (q.val / 64 = turn k)) = some g →
    s.msgs.find? (fun m => m.1 == g.val && decide ((bitsOf m.2.2.1 10 0).toNat / 64 = n.val)) = some m →
    let u : State := { s with msgs := s.msgs.erase m, msgTurn := Map.set 31 s.msgTurn n.val (g.val / 64) }
    let ends (v : State) (code : Word) : State :=
      v.modOp m.1 m.2.1 (fun o => { o with need := 0, result := some (.value code 0) })
    let pass : Prop := s.memberOk m.1 dst = true ∧ s.fld (fRoleGen dst) = bitsOf w 27 16
    let inbox := (s.thread dst).inbox
    (s.corePresent n.val = false → exec (.msgAccept n here) s = .next (ends (u.countUp ⟨0x1051C014, 15, 0⟩) 2)) ∧
    (s.corePresent n.val = true → ¬ pass → exec (.msgAccept n here) s = .next (ends (u.countUp (fStaleCount dst)) 2)) ∧
    (s.corePresent n.val = true → pass → 8 ≤ inbox.length →
      exec (.msgAccept n here) s = .next (ends (u.countUp (fFullCount dst)) 1)) ∧
    (s.corePresent n.val = true → pass → inbox.length < 8 →
      exec (.msgAccept n here) s = .next (ends (u.modThread dst (fun t => { t with inbox := inbox ++ [m.2.2.2] })) 0)))

/-- A raised fault writes the whole record. With ENABLE set and IN_FAULT clear the thread enters its fault handler, in
a beat of its own, at BASE × 64 with IN_FAULT set and CUR_LEAD as LEAD_ALLOWED says, its return stack, loops, flags, PEND bits and
IN_HANDLER unchanged; otherwise it enters FAULTED, its long operations discarded (R153, R156, R157). -/
def Obligations.FaultEntryWritesRecord : Prop :=
  ∀ (g : GT) (r : FaultRec) (s : State),
    let gt := g.val
    let u := s.thread gt
    let rec' (t : State) : Prop :=
      t.reg (tReg gt 0x30) = faultWord r (s.bit (fInFault gt)) (s.bit (fCurLead gt)) (s.bit (fInHandler gt)) ∧
      t.reg (tReg gt 0x34) = r.pc &&& ~~~ 3 ∧ t.reg (tReg gt 0x38) = r.addr.extractLsb' 0 32 ∧
      t.reg (tReg gt 0x3C) = (r.addr.extractLsb' 32 16).setWidth 32 ∧
      t.reg (tCfg gt 0x8) = r.npc &&& ~~~ 3 ∧ t.reg (tCfg gt 0xC) = r.oppc &&& ~~~ 3
    u.raised = some r → r.cls ≠ 8 →
    (s.bit (fFaultEnable gt) = true → s.bit (fInFault gt) = false → s.hasBeats gt = false →
      exec (.faultEntry g) s = .next s) ∧
    (s.bit (fFaultEnable gt) = true → s.bit (fInFault gt) = false → s.hasBeats gt = true → u.stopReq = false →
      ∃ t, exec (.faultEntry g) s = .next t ∧ rec' t ∧
        s.touched t gt [tReg gt 0x30, tReg gt 0x34, tReg gt 0x38, tReg gt 0x3C, tCfg gt 0, tCfg gt 8, tCfg gt 0xC] ∧
        u.keptBut (t.thread gt) [] ∧ u.sameLoops (t.thread gt) ∧
        t.bit (fInHandler gt) = s.bit (fInHandler gt) ∧ t.bit (fInFault gt) = true ∧
        t.bit (fCurLead gt) = s.bit (fLeadAllowed gt) ∧
        (t.thread gt).pc = s.reg (tCfg gt 4) &&& ~~~ 63 ∧ (t.thread gt).npc = (t.thread gt).pc + 4 ∧
        (t.thread gt).inDelay = false) ∧
    ((s.bit (fFaultEnable gt) = false ∨ s.bit (fInFault gt) = true) →
      ∃ t, exec (.faultEntry g) s = .next t ∧ rec' t ∧ t.fld (fState gt) = stFaulted ∧
        (t.thread gt).ops = [] ∧ (t.thread gt).raised = none ∧
        (t.thread gt).g = u.g ∧ (t.thread gt).flags = u.flags ∧ (t.thread gt).rs = u.rs ∧
        t.reg 0x10808000 = s.reg 0x10808000 ||| 2)

/-! ## Loads and stores -/

/-- A load whose bytes lie in the thread's own core's bins completes at once, split or not: the bytes are taken
little-endian, sign- or zero-extended, a pair with the lower address in d; no memory changes (R6, R111, R123, R127,
R177, R178). Where a port B write meets the read of a part in the same cycle (`clash`, and `clash2` for the second half
of a split load) the spec leaves the bytes open (R313), and only the rest is stated. AGREE outside a twin is LDW
(R198). -/
def Obligations.LoadsFromOwnBins : Prop :=
  ∀ (x : Issue) (m : MemOp) (s : State),
    let gt := x.gt.val
    let u := s.thread gt
    let off := (u.rd m.a + m.imm.signExtend 32).toNat
    let a := (s.desc gt m.seg.val).base + off
    let b (i : Nat) : Byte := s.heldByte gt (a + i)
    let ok (n : Nat) : Prop := s.reaches gt m.seg.val off n true false ∧ s.ownBins gt a n ∧ u.clearOf a n
    let res (n : Nat) (i : Instr) (w : List Reg) (r : Prop) : Prop :=
      if m.clash = true ∨ (m.clash2 = true ∧ a % n ≠ 0) then ∃ t, exec i s = .next t ∧ u.wentOn (t.thread gt) ∧ u.sameRest (t.thread gt) ∧
        u.sameRegsBut (t.thread gt) w ∧ (t.thread gt).flags = u.flags ∧ s.sameMem t
      else r
    (ok 1 → s.issues x (s.insLoad gt m 1) →
      res 1 (.ldb x m) [m.d] (s.yields (exec (.ldb x m) s) gt m.d ((b 0).signExtend 32) u.flags) ∧
      res 1 (.ldbu x m) [m.d] (s.yields (exec (.ldbu x m) s) gt m.d ((b 0).setWidth 32) u.flags)) ∧
    (ok 2 → s.issues x (s.insLoad gt m 2) →
      res 2 (.ldh x m) [m.d] (s.yields (exec (.ldh x m) s) gt m.d ((b 1 ++ b 0).signExtend 32) u.flags) ∧
      res 2 (.ldhu x m) [m.d] (s.yields (exec (.ldhu x m) s) gt m.d ((b 1 ++ b 0).setWidth 32) u.flags)) ∧
    (ok 4 → s.issues x (s.insLoad gt m 4) →
      res 4 (.ldw x m) [m.d] (s.yields (exec (.ldw x m) s) gt m.d (b 3 ++ b 2 ++ b 1 ++ b 0) u.flags)) ∧
    (ok 4 → s.issuesAlone x { s.insLoad gt m 4 with pairOk := false, via := true } →
      res 4 (.agree x m) [m.d] (s.yields (exec (.agree x m) s) gt m.d (b 3 ++ b 2 ++ b 1 ++ b 0) u.flags)) ∧
    (ok 8 → s.issues x (s.insLoad gt m 8) →
      res 8 (.ldd x m) [m.d, m.d + 1] (s.yieldsPair (exec (.ldd x m) s) gt m.d
        (b 7 ++ b 6 ++ b 5 ++ b 4 ++ b 3 ++ b 2 ++ b 1 ++ b 0) u.flags))

/-- A store to the thread's own core's bins, or through an alias of them, completes at once, split or not: each byte
of the operand goes little-endian to its address, through the bit-set alias ORed into it and through the bit-clear
alias cleared from it, and every other byte of memory stays. No register changes. A shadow stores what it holds,
complements (R42, R123, R127, R177, R178, R309, R423). The response of a store: with none of it still to come the
store is no longer outstanding, and an error is raised at the boundary, its partial effect marked when it was a second
half's (R130, R131, R151). The response of a bay or timer register that came later than the pad (`late`) counts one
contract break of a deterministic thread (R93, R94). -/
def Obligations.StoresToOwnBins : Prop :=
  (∀ (x : Issue) (m : MemOp) (w : StoreWay) (s : State),
    let gt := x.gt.val
    let u := s.thread gt
    let off := (u.rd m.a + m.imm.signExtend 32).toNat
    let a := (s.desc gt m.seg.val).base + off - w.shift
    let res (i : Instr) (n : Nat) (v : BitVec 64) : Prop :=
      w.shift ≤ (s.desc gt m.seg.val).base + off →
      s.reaches gt m.seg.val off n (w != .plain) true → s.ownBins gt a n → u.clearOf (a + w.shift) n →
      (w ≠ .plain → ∀ p ∈ s.dwait, p.2.ref.ofThread gt = true → a + n ≤ p.2.addr ∨ p.2.addr + p.2.act.size ≤ a) →
      s.issues x { odd := n == 8 && oddReg m.d, reads := m.a :: memRegs m.d n, access := true } →
      ∃ t, exec i s = .next t ∧ t = { s with regs := t.regs, threads := t.threads, mem := t.mem, icache := t.icache } ∧
        s.sameThreadsBut t gt ∧ s.sameRegsBut t [tReg gt 0x04, tReg gt 0x24, tReg gt 0x2C] ∧
        u.wentOn (t.thread gt) ∧ u.keptBut (t.thread gt) [] ∧ s.sameMemBut t a n ∧
        ∀ k, k < n → t.byte (a + k) =
          (if u.isShadow && w == .plain then ~~~ (v.extractLsb' (8 * k) 8)
           else if u.isShadow then
            (if w == .setAlias then .clearAlias else StoreWay.setAlias).leaves (s.byte (a + k)) (v.extractLsb' (8 * k) 8)
           else w.leaves (s.byte (a + k)) (v.extractLsb' (8 * k) 8))
    res (.stb x m) 1 ((u.rd m.d).setWidth 64) ∧ res (.sth x m) 2 ((u.rd m.d).setWidth 64) ∧
    res (.stw x m) 4 ((u.rd m.d).setWidth 64) ∧ res (.std x m) 8 (u.rd (m.d + 1) ++ u.rd m.d)) ∧
  (∀ (g : GT) (late : Bool) (o : StoreOp) (s : State),
    let gt := g.val
    let u := s.thread gt
    let breaks : Prop := paddedAt gt o.addr.toNat = true ∧ late = true ∧ s.det gt = true
    u.stores.find? (fun p => p.answer.isSome) = some o → o.quiet = false → (u.stopReq = false ∨ u.boundary = false) →
    let left : Thread := { u with stores := u.stores.filter (fun p => p.id != o.id) }
    (o.answer = some true → o.rest = none →
      ∃ t, exec (.storeCompletion g late) s = .next t ∧ s.touched t gt [tReg gt 0x14] ∧
        left.keptBut (t.thread gt) [] ∧ (t.thread gt).pc = u.pc ∧
        t.fld (fContract gt) = (if breaks then s.countUp (fContract gt) else s).fld (fContract gt)) ∧
    (o.answer = some false →
      ∃ t, exec (.storeCompletion g late) s = .next t ∧ s.touched t gt [tReg gt 0x14] ∧
        left.keptBut (t.thread gt) [] ∧ (t.thread gt).pc = u.pc ∧
        (u.twin = none → u.boundary = true → u.raised = none → u.twinStop = none → u.late = [] →
          (s.fld (fState gt) = stReady ∨ s.fld (fState gt) = stWait) →
          ∃ r, (t.thread gt).raised = some r ∧ r.cls = 4 ∧ r.detail = 4 ∧ r.imprecise = true ∧
            r.partialSt = o.second ∧ r.second = o.second ∧ r.addr = o.addr ∧ r.oppc = o.pc)))

/-- A table instruction whose entries lie in the thread's own core's bins, each at a multiple of its width, issues as
a long operation with the interpolated value of the two or four entries for its result; where an entry lies at no
multiple of its width the fault is BUS with DETAIL 0x02 and nothing is read (R186 to R189). Where a port B write meets the read of an
entry in the same cycle (`clash`, `clash4`) the spec leaves its bytes open (R313), and the value is not stated. -/
def Obligations.TablesInterpolate : Prop :=
  ∀ (x : Issue) (d a b : Reg) (seg : Fin 8) (w : Bool) (n : BitVec 6) (clash : BitVec 2) (clash4 : BitVec 4) (s : State),
    let gt := x.gt.val
    let u := s.thread gt
    let wd : Nat := if w then 4 else 2
    let off (k : Nat) : Nat := (u.rd b + BitVec.ofNat 32 (k * wd)).toNat
    let at' (k : Nat) : Nat := (s.desc gt seg.val).base + off k
    let near (k : Nat) : Prop := s.reaches gt seg.val (off k) wd true false ∧ s.ownBins gt (at' k) wd ∧
      u.clearOf (at' k) wd
    let e (k : Nat) : Int := s.entry gt (at' k) wd
    let res (i : Instr) (ks : List Nat) (hit : Prop) (v : Int) : Prop :=
      (∀ k ∈ ks, near k) →
      if ∀ k ∈ ks, at' k % wd = 0 then
        ∃ t o, exec i s = .next t ∧ (¬ hit → s.stepped t gt) ∧ s.sameMem t ∧ u.wentOn (t.thread gt) ∧
          ({ u with ops := (t.thread gt).ops, nextOp := u.nextOp + 1 } : Thread).keptBut (t.thread gt) [] ∧
          (t.thread gt).ops.length = u.ops.length + 1 ∧ (t.thread gt).ops.getLast? = some o ∧
          (∀ p ∈ u.ops, p.id ≠ u.nextOp → p ∈ (t.thread gt).ops) ∧ o.id = u.nextOp ∧ o.pc = u.pc ∧
          o.d = d ∧ o.pair = false ∧ o.need = 0 ∧ (∃ r, o.result = some (.value r 0)) ∧
          (¬ hit → o.result = some (.value (BitVec.ofInt 32 v) 0))
      else ∃ t, exec i s = .next t ∧ s.raisedAt t gt 4 2
    (let p : Word := u.rd a
     let k := n.toNat
     let i : Nat := (p >>> (32 - k)).toNat
     let f : Nat := (p >>> (16 - k)).toNat % 0x10000
     s.issues x (insTable (k != 0 && decide (k < 16)) false d b [a]) →
     res (.tli x d a b seg w n clash) [i, i + 1] (clash ≠ 0) (e i + tableRound ((e (i + 1) - e i) * f))) ∧
    (let nx := n.toNat / 8 + 1
     let ny := n.toNat % 8 + 1
     let ix : Nat := (u.rd a >>> (32 - nx)).toNat
     let fx : Nat := (u.rd a >>> (16 - nx)).toNat % 0x10000
     let iy : Nat := (u.rd (a + 1) >>> (32 - ny)).toNat
     let fy : Nat := (u.rd (a + 1) >>> (16 - ny)).toNat % 0x10000
     let cols := 2 ^ nx + 1
     let k (r c : Nat) : Nat := r * cols + c
     let r0 : Int := e (k iy ix) + tableRound ((e (k iy (ix + 1)) - e (k iy ix)) * fx)
     let r1 : Int := e (k (iy + 1) ix) + tableRound ((e (k (iy + 1) (ix + 1)) - e (k (iy + 1) ix)) * fx)
     s.issues x (insTable true (oddReg a) d b (pairRegs a)) →
     res (.tli2 x d a b seg w n clash4) [k iy ix, k iy (ix + 1), k (iy + 1) ix, k (iy + 1) (ix + 1)] (clash4 ≠ 0)
       (r0 + tableRound ((r1 - r0) * fy)))

/-- A word load or store of the system region that the data cache does not serve is a request of the ledger: the load
issues as a long operation and d keeps its value, the store is outstanding until its response. Behind held requests it
is held unissued in its turn (R145, R334, R362, R364, R366). -/
def Obligations.SystemRegionAccessesGoToLedger : Prop :=
  ∀ (x : Issue) (m : MemOp) (s : State),
    let gt := x.gt.val
    let u := s.thread gt
    let off := (u.rd m.a + m.imm.signExtend 32).toNat
    let a := (s.desc gt m.seg.val).base + off
    0x100000000000 ≤ a → a < 2 ^ 48 → a % 4 = 0 → s.det gt = false → s.ledgerQ ≠ [] →
    (s.bit (fDcEnable (gt / 64)) = false ∨ s.bit (fSysCache (gt / 64)) = false) →
    s.bit (fFlushBusy (gt / 64)) = false → u.clearOf a 4 →
    (s.reaches gt m.seg.val off 4 true false → s.issuesAlone x (s.insLoad gt m 4) →
      ∃ t o, exec (.ldw x m) s = .next t ∧ s.longIssued t gt o ∧ o.d = m.d ∧ o.need = 1 ∧ o.result = none ∧
        t.ledgerQ = s.ledgerQ ++
          [⟨.access (.op gt u.nextOp 0), gt, a, 4, none, s.vcTagOf (ownThread gt), 0, false⟩]) ∧
    (s.reaches gt m.seg.val off 4 false true →
      s.issuesAlone x { odd := false, reads := m.a :: memRegs m.d 4, access := true } →
      ∃ t o, exec (.stw x m) s = .next t ∧ u.wentOn (t.thread gt) ∧
        ({ u with stores := u.stores ++ [o], nextOp := u.nextOp + 1 } : Thread).keptBut (t.thread gt) [] ∧
        o.id = u.nextOp ∧ o.pc = u.pc ∧ o.answer = none ∧
        t.ledgerQ = s.ledgerQ ++ [⟨.access (.store gt u.nextOp), gt, a, 4,
          some (toBytes 4 (u.rd m.d).toNat), s.vcTagOf (ownThread gt), 0, false⟩])

/-! ## Core control and the register fabric -/

/-- START makes an IDLE thread READY at its START address with an empty return stack, idle loops, clear flags and no
pending input, in a new role; HALT stops a READY or WAIT thread at a boundary with no long operation outstanding;
RESUME lets it go on, and an error that arrived meanwhile is raised where it stands (R150). STOP makes a thread that
waits or is at a boundary IDLE at once, its long operations dropped; a READY thread at no boundary goes on with the
stop asked for. What R72, R452 and R483 refuse is refused, and a thread's command to itself settles as its writes do
(R69 to R76, R105, R112, R288). -/
def Obligations.ThreadCommands : Prop :=
  ∀ (who : Agent) (g : GT) (s : State),
    let gt := g.val
    let u := s.thread gt
    let st := s.fld (fState gt)
    let no := s.refuse (.core (gt / 64)) (0x1000 + 0x40 * (gt % 64))
    let entry := s.reg (tReg gt 0x08) &&& ~~~ 3
    let role : Fld := ⟨0x10518000 + 8 * gt, 11, 0⟩
    let later (cmd : Word) : State :=
      s.modThread gt (fun t => { t with delayed := t.delayed ++ [(2, .reg (tReg gt 0) cmd)] })
    s.corePresent (gt / 64) = true →
    (exec (.threadStart (.thread g) g) s = .next (later 1) ∧ exec (.threadHalt (.thread g) g) s = .next (later 2) ∧
      exec (.threadResume (.thread g) g) s = .next (later 4) ∧ exec (.threadStop (.thread g) g) s = .next (later 8)) ∧
    (direct who → who ≠ .thread g →
    let mayStart : Prop := st = stIdle ∧ s.ownerFree gt = false ∧
      (s.fld fMode ≠ modeStart ∨ s.renaming (gt / 64) = true)
    (mayStart → s.after (.threadStart who g) (fun t =>
      t = { s with regs := t.regs, threads := t.threads } ∧ s.sameThreadsBut t gt ∧
      s.keeps t [fState gt, fPend gt, fInHandler gt, fInFault gt, fCurLead gt, fWrapped gt, role] ∧
      t.fld (fState gt) = stReady ∧ t.fld (fPend gt) = 0 ∧ t.bit (fInHandler gt) = false ∧
      t.bit (fInFault gt) = false ∧ t.fld (fCurLead gt) = s.fld (fLeadAllowed gt) ∧ t.bit (fWrapped gt) = false ∧
      (t.fld role).toNat = ((s.fld role).toNat + 1) % 4096 ∧
      (t.thread gt).pc = entry ∧ (t.thread gt).npc = entry + 4 ∧ (t.thread gt).inDelay = false ∧
      (t.thread gt).rs = [] ∧ (t.thread gt).inbox = [] ∧ (t.thread gt).hop = 0 ∧ (t.thread gt).g = u.g ∧
      (t.thread gt).lp0.active = false ∧ (t.thread gt).lp1.active = false ∧ (t.thread gt).lp2.active = false ∧
      (u.twin = none → (t.thread gt).flags = ⟨false, false, false, false⟩))) ∧
    (¬ mayStart → exec (.threadStart who g) s = .next no) ∧
    ((st = stReady ∨ st = stWait) → u.boundary = true → u.longDone = true → u.stopReq = false → u.raised = none →
      u.twinStop = none → u.late = [] → u.broke = none → u.freezeReq = false → s.after (.threadHalt who g) (fun t =>
        t = { s with regs := t.regs, threads := t.threads } ∧ s.sameThreadsBut t gt ∧
        s.keeps t [fState gt, fHaltCause gt, fPriorWait gt] ∧ t.fld (fState gt) = stHalted ∧
        t.fld (fHaltCause gt) = 1 ∧ (t.bit (fPriorWait gt) = true ↔ st = stWait) ∧
        (t.thread gt).pc = u.pc ∧ u.keptBut (t.thread gt) [])) ∧
    ((st = stFrozen ∨ st = stFaulted) → exec (.threadHalt who g) s = .next no) ∧
    (st = stHalted → u.stopReq = false → u.raised = none → u.twinStop = none → u.broke = none → u.freezeReq = false →
      u.haltReq = none →
      let ready := s.put [(fState gt, stReady), (fHaltCause gt, 0), (fPriorWait gt, 0)]
      (u.late = [] → exec (.threadResume who g) s = .next ready) ∧
      (∀ l rest, u.late = l :: rest → u.twin = none → u.boundary = true → s.after (.threadResume who g) (fun t =>
        t = { ready with threads := t.threads } ∧ s.sameThreadsBut t gt ∧ ∃ r, (t.thread gt).raised = some r ∧
        r.imprecise = true ∧ r.cls = l.2.cls ∧ r.detail = l.2.detail ∧ r.oppc = l.2.oppc ∧ r.pc = u.pc))) ∧
    ((st = stIdle ∨ st = stFrozen ∨ st = stFaulted) → exec (.threadResume who g) s = .next no) ∧
    (st = stReady → u.boundary = false → exec (.threadStop who g) s = .next
      (s.modThread gt (fun t => { t with stopReq := true }))) ∧
    (st ≠ stIdle → st ≠ stFrozen → (st = stReady → u.boundary = true) →
      s.after (.threadStop who g) (fun t => ∃ w, t = w.flushDelayed gt ∧
      w = { s with regs := w.regs, threads := w.threads } ∧ s.sameThreadsBut w gt ∧
      w.regs = (s.put [(fHaltCause gt, 0), (fPriorWait gt, 0), (fState gt, stIdle)]).regs ∧
      (w.thread gt).ops = [] ∧ (w.thread gt).g = u.g ∧ (w.thread gt).pc = u.pc ∧
      (w.thread gt).stores = (u.stores.filter (fun o => o.rest.isSome)).map (fun o => { o with quiet := true }))) ∧
    (st = stFrozen → exec (.threadStop who g) s = .next no))

/-- A commit captures a core's pending slot table when it gives no thread more than 16 slots nor two slots nearer than
four, and is refused otherwise, or where the writer may not; at the wheel's start the captured table is live, and
every deterministic thread whose slots changed while it was READY or WAIT counts one contract break (R58 to R62,
R456). Invalidation empties a core's instruction cache. A line a thread lacks for its next instruction comes into its
line buffer, and into the cache where that is on and has an unlocked way, and the lost beats are counted; a line of
the system region is asked of the ledger first and comes when its data are there. An instruction that issues has its
line in the line buffer, and one in the second half of its line the next line too, where the buffer or the cache holds
that (R79 to R85). -/
def Obligations.SlotTablesAndInstructionCache : Prop :=
  (∀ (who : Agent) (c : Core) (s : State),
    let n := c.val
    let tb := s.pendingTable n
    let own := ownedSlots tb
    let legal : Prop := ∀ p ∈ own, (own.filter (fun q => q.2 == p.2)).length ≤ 16 ∧
      ∀ q ∈ own, q.1 ≠ p.1 → q.2 = p.2 → 4 ≤ slotDistance p.1 q.1
    let mayNot : Prop := ∃ g : GT, who = .thread g ∧ (s.owner (ownThread g.val)).isSome = true
    (direct who → s.corePresent n = true →
      (¬ mayNot → legal → exec (.slotCommit who c) s = .next
        (({ s with capture := Map.set [] s.capture n tb } : State).put [(fSlotPending n, 1)])) ∧
      (mayNot ∨ ¬ legal → exec (.slotCommit who c) s = .next (s.refuse (.core n) 4))) ∧
    (s.bit (fSlotPending n) = false → exec (.slotTableApply c) s = .next s) ∧
    (s.bit (fSlotPending n) = true →
      (∀ k < 64, (s.thread (64 * n + k)).stopReq = false ∨ (s.thread (64 * n + k)).boundary = false) →
      s.after (.slotTableApply c) (fun t =>
      let new := Map.get [] s.capture n
      (∀ i < 64, t.reg (slotLive n i) = new.getD i 0) ∧ t.bit (fSlotPending n) = false ∧
      t.capture = Map.erase s.capture n ∧
      ∀ k < 64,
        let gt := 64 * n + k
        let broke : Prop := s.det gt = true ∧ (s.fld (fState gt) = stReady ∨ s.fld (fState gt) = stWait) ∧
          slotsFor (s.liveTable n) k ≠ slotsFor new k
        (broke → t.fld (fContract gt) = (s.countUp (fContract gt)).fld (fContract gt)) ∧
        (¬ broke → t.fld (fContract gt) = s.fld (fContract gt))))) ∧
  (∀ (who : Agent) (c : Core) (g : GT) (line : BitVec 42) (way : Fin 4) (lost : Word) (s : State),
    let gt := g.val
    let n := gt / 64
    let l := line.toNat
    let u := s.thread gt
    let locks := s.fld (fLockWays n)
    let front (k : Nat) (ls : List Nat) : List Nat := (k :: ls.filter (fun z => z != k)).take 2
    let ahead := if u.ahead = some l then none else u.ahead
    let filled (beats : Nat) (t : State) : Prop :=
      t = { s with regs := t.regs, threads := t.threads, icache := t.icache } ∧ s.sameThreadsBut t gt ∧
      s.keeps t [fIcmiss gt] ∧ (t.fld (fIcmiss gt)).toNat = min 0xFFFFFFFF ((s.fld (fIcmiss gt)).toNat + beats) ∧
      (s.bit (fIcEnable n) = true → locks ≠ 0xF → (l, way.val) ∈ Map.get [] t.icache n) ∧
      (¬ (s.bit (fIcEnable n) = true ∧ locks ≠ 0xF) → t.icache = s.icache)
    (direct who → s.corePresent c.val = true →
      exec (.icacheInvAll who c) s = .next { s with icache := Map.erase s.icache c.val }) ∧
    (∀ a, (locks.getLsbD way.val = false ∨ locks = 0xF) → s.checkAccess gt 7 .fetch u.pc.toNat 4 = .ok a →
      lineOf (underlying a) = l → s.lineHit gt l = false →
      (∀ id d, u.fetching = some (l, id) → u.fetched = some d → s.after (.icacheRefill g line way lost) (fun t =>
        filled lost.toNat t ∧ t.thread gt =
          { u with fetching := none, fetched := none, lineBuf := front l u.lineBuf, ahead := ahead })) ∧
      (u.fetching = none → s.fld (fState gt) = stReady → s.det gt = false → u.raised = none → s.drainingAt a = false →
      (farAt a = false → s.after (.icacheRefill g line way lost) (fun t =>
        filled lost.toNat t ∧ t.thread gt = { u with lineBuf := front l u.lineBuf, ahead := ahead })) ∧
      (0x100000000000 ≤ a → s.ledgerQ ≠ [] → s.after (.icacheRefill g line way lost) (fun t =>
        t.thread gt = { u with fetching := some (l, u.nextOp), fetched := none, nextOp := u.nextOp + 1 } ∧
        t.icache = s.icache ∧ t.ledgerQ = s.ledgerQ ++
          [⟨.access (.fetch gt u.nextOp), gt, l * 64, 64, none, s.vcTagOf (ownThread gt), 0, false⟩])))) ∧
    (∀ x a, x.gt = g → s.issues x {} → s.det gt = false → s.checkAccess gt 7 .fetch u.pc.toNat 4 = .ok a →
      let k := lineOf (underlying a)
      s.after (.nop x) (fun t => (t.thread gt).lineBuf =
        if 32 ≤ a % 64 ∧ (k + 1 ∈ u.lineBuf ∨ s.icacheHit gt (k + 1) = true) then front k (front (k + 1) u.lineBuf)
        else front k u.lineBuf)))

/-- A word of a live descriptor may be written only while its thread is stopped. A base or limit clears VALID; a write
that sets VALID is refused unless the whole descriptor fits the address space and lies within its ceiling. A ceiling
word is written only through the Manager window, and a live descriptor that it no longer contains loses VALID (R119 to
R122). A write of a control register acts by the class of its fields: a Stopped one takes the value while its unit is
stopped and is refused while it runs, a Commit one takes it as pending, a W1C one clears the bits written 1, and a
read-only register stays; one to an absent unit, outside the blocks or misaligned changes nothing. A refusal of a
write that came through a window of a virtual complex is reported by the window and not by the block (R2, R9, R12,
R17, R18, R20, R21, R465). -/
def Obligations.RegisterAndDescriptorWrites : Prop :=
  (∀ (who : Agent) (g : GT) (j : Fin 8) (w : Fin 4) (data : Word) (s : State),
    let gt := g.val
    let i := j.val
    let st := s.fld (fState gt)
    let stopped : Prop := st = stIdle ∨ st = stHalted ∨ st = stFaulted ∨ st = stFrozen
    let new := data &&& (if w = 1 then 0xFFFF else if w = 3 then 0x2F else 0xFFFFFFFF)
    let rights (k : Nat) : Nat := tSeg gt k 0xC
    let no (k : Nat) : State := s.refuse (.core (gt / 64)) (0x4000 + 0x100 * (gt % 64) + 0x10 * k + 4 * w.val)
    direct who → s.corePresent (gt / 64) = true →
    (let a := tSeg gt i (4 * w.val)
     let run (v : State) : Prop := exec (.segDescriptorWrite who g j w data) s = .next v
     (new = s.reg a → run s) ∧
     (new ≠ s.reg a → ¬ stopped → run (no i)) ∧
     (new ≠ s.reg a → stopped → w ≠ 3 → run (s.setWords [(a, new), (rights i, s.reg (rights i) &&& ~~~ 1)])) ∧
     (new ≠ s.reg a → stopped → w = 3 →
       let d : Desc := { s.desc gt i with rights := new }
       let c := s.desc gt (i + 8)
       let fits : Prop := d.base + d.limit < 2 ^ 48 ∧ c.valid = true ∧ c.base ≤ d.base ∧
         d.base + d.limit ≤ c.base + c.limit ∧ (d.r = true → c.r = true) ∧ (d.w = true → c.w = true) ∧
         (d.x = true → c.x = true) ∧ (c.lead = true → d.lead = true)
       (new.getLsbD 0 = false ∨ fits → run (s.setReg a new)) ∧
       (new.getLsbD 0 = true → ¬ fits → run (no i)))) ∧
    (let a := tSeg gt (i + 8) (4 * w.val)
     let run (v : State) : Prop := exec (.ceilingWrite who g j w data) s = .next v
     (new = s.reg a → run s) ∧
     (new ≠ s.reg a → ¬ stopped ∨ (who ≠ .manager ∧ who ≠ .debug) → run (no (i + 8))) ∧
     (new ≠ s.reg a → stopped → who = .manager ∨ who = .debug →
       let u := s.setReg a new
       let d := u.desc gt i
       let c := u.desc gt (i + 8)
       (w = 3 → new.getLsbD 0 = true → 2 ^ 48 ≤ c.base + c.limit → run (no (i + 8))) ∧
       (¬ (w = 3 ∧ new.getLsbD 0 = true ∧ 2 ^ 48 ≤ c.base + c.limit) →
         run (if d.valid = true ∧ d.within c = false then u.setReg (rights i) (d.rights &&& ~~~ 1) else u))))) ∧
  (∀ (who : Agent) (b : Core) (q : Seq) (m : Timer) (v : VC) (addr : BitVec 48) (data : Word) (s : State),
    let at' (a : Nat) : BitVec 48 := BitVec.ofNat 48 a
    let x := seqReg b.val q.val 0x14
    let off := 0x114 + 0x40 * q.val
    let still : Prop := s.fld (fSeqState b.val q.val) = sqStopped ∨ s.fld (fSeqState b.val q.val) = sqFaulted
    (direct who → s.bayPresent b.val = true →
      (still → s.after (.registerWrite who (at' x) data) (fun t => s.onlyRegs t [x] ∧ t.reg x = data)) ∧
      (¬ still → data ≠ s.reg x → exec (.registerWrite who (at' x) data) s = .next (s.refuse (.bay b.val) off))) ∧
    (s.bayPresent b.val = true → ¬ still → data ≠ s.reg x →
      s.after (.registerWrite (.window v) (at' x) data) (fun t =>
        t.bit ⟨vcwReg v.val 0xC, 0, 0⟩ = true ∧ t.reg x = s.reg x ∧
        t.bit (cfgRefused (.bay b.val) off) = s.bit (cfgRefused (.bay b.val) off))) ∧
    (direct who → s.timerPresent m.val = true → ∀ o ∈ [0xC, 0x10, 0x14],
      s.after (.registerWrite who (at' (tmrReg m.val o)) data) (fun t =>
        t = { s with pend := t.pend } ∧ t.pendReg (tmrReg m.val o) = data ∧
        ∀ a, canon a ≠ canon (tmrReg m.val o) → t.pendReg a = s.pendReg a)) ∧
    (direct who → s.powered 44 = true → s.after (.registerWrite who (at' 0x1051C000) data) (fun t =>
      s.onlyRegs t [0x1051C000] ∧ t.reg 0x1051C000 = s.reg 0x1051C000 &&& ~~~ (data &&& 7))) ∧
    (direct who → exec (.registerWrite who (at' 0x10000000) data) s = .next s) ∧
    (s.bayPresent b.val = false → exec (.registerWrite who (at' x) data) s = .next s) ∧
    (addr.toNat % 4 ≠ 0 ∨ blockOf addr.toNat = none → exec (.registerWrite who addr data) s = .next s))

/-- The oldest item of a crossing queue is usable in its destination domain: an EDGE request joins the edge queue,
data reach whoever awaits them, an epoch reaches the quadrant, an access is performed at its register and answered,
and a request of the ledger leaves by its system initiator port with its stream identifier. Of a bridge port's
outbound queue the oldest flit of the first class that has one enters the replay buffer. While a clock on one side of
a queue is stopped nothing leaves it (R34, R35, R38, R39, R49, R231, R237, R554, R576). An event of a producer
outside CCLK has crossed: it enters the routing pipeline under the selects that name it, and the synchroniser is free
(R37, R274, R275). -/
def Obligations.CrossingsAndSynchronisersDeliver : Prop :=
  (∀ (q : Crossing) (d : BitVec 32) (it : XItem) (s : State),
    s.xq.find? (fun p => p.1 == q) = some (q, it) →
    let u := ({ s with xq := s.xq.erase (q, it) } : State).xqTime q d.toNat
    let run (v : State) : Prop := exec (.crossingQueueDelivery q d) s = .next v
    let stopped : Prop := ∃ c ∈ s.mode.clocks, c.1 ∈ (match q with
      | .toBay n => [0, n.val / 8 + 1]
      | .fromBay n => [0, n.val / 8 + 1]
      | .epoch k => [k.val + 1]
      | _ => [0])
    (stopped → run s) ∧
    (¬ stopped → (∀ p, q ≠ .toLink p) →
      (∀ tag e, it = .sip tag → Map.get none u.ledger tag = some e →
        let sid : BitVec 7 := match e.use, e.vc with
          | .access _, some (v, _) => BitVec.ofNat 7 v
          | .access _, none => 0x40
          | _, _ => 0x41
        run { u with sip := u.sip ++ [⟨if e.addr / 64 % 2 = 0 then 0 else 1, BitVec.ofNat 48 (e.addr - 0x100000000000),
          BitVec.ofNat 14 tag, sid, e.sipKind, e.n, e.wr.getD []⟩] }) ∧
      (∀ n req lane act, it = .edge n req lane act →
        run (u.setEdgeQ n (u.edgeQ n ++ [⟨lane, act, (bitsOf req 25 0).toNat, false⟩]))) ∧
      (∀ ref bs, it = .data ref bs → run (u.deliver ref bs)) ∧
      (∀ who a w hi ref k, it = .write who a w hi ref → q = .epoch k → run (u.put [(fPtEpoch (8 * k.val), w)])) ∧
      (∀ who a w hi ref b, it = .write who a w hi ref → (∀ k, q ≠ .epoch k) → who ≠ .debug → blockOf a = some b →
        run ((u.writeWords who b (a - b.base) w hi).xqAnswer q ref [])) ∧
      (∀ who a wide ref b, it = .read who a wide ref → who ≠ .debug → blockOf a = some b →
        let r := u.readWords who b (a - b.base) wide false
        run (r.2.xqAnswer q ref r.1)))) ∧
  (∀ (p : Fin 4) (d : BitVec 32) (it : BrItem) (s : State),
    let l := s.link p.val
    (∀ c ∈ s.mode.clocks, c.1 ≠ 0) → l.out.length < 204 → l.wait.find? (fun i => i.cls == it.cls) = some it →
    (∀ i ∈ l.wait, it.cls ≤ i.cls) →
    exec (.crossingQueueDelivery (.toLink p) d) s = .next (s.modLink p.val (fun l =>
      { l with wait := l.wait.erase it, out := l.out ++ [(l.seq, 0, it)], seq := l.seq + 1 }))) ∧
  (∀ (port : BitVec 13) (b : Bool) (h : Nat) (s : State),
    let key := 2 * port.toNat + (if b then 1 else 0)
    Map.get 0 s.toggles key = h + 1 → h < 8 →
    exec (.eventSynchroniserDelivery port b) s = .next { s with
      toggles := Map.erase s.toggles key
      routed := s.routed ++
        [.event port.toNat b h ((s.selectsOf port.toNat b).map (fun x => (x, s.vecTag x)))] })

/-! ## Lanes, sequencers, timers and events -/

/-- A store to TXW by a thread of the hosting core uses a transmit credit and appends its word, and is held back
without one; any other agent's is refused. A read of RXW takes the oldest word, or reads zero and sets RX_UNDERRUN;
any other agent reads zero. A credit that comes back may be used again (R225 to R227, R232). EDGE puts its request on
the way to the bay and uses an edge credit; without one of the 16 it does not issue (R197, R232). The oldest entry of
an edge queue that has not been looked at is queued, or is late: then it leaves with its credit, EDGE_LATE is set and
presented, and with LATE_APPLY it acts as an untimed change of the cycle does. Every queued entry whose T − 1 has come acts, in order of phase and
then of arrival, each from its own phase on, and its credit goes back (R202, R232 to R234). -/
def Obligations.StagingAndEdgeQueues : Prop :=
  (∀ (who : Agent) (gt : GT) (b : Core) (q : Seq) (c : Credit) (data : Word) (s : State),
    let n := b.val
    let k := q.val
    let key := match c with | .tx j => txKey n j.val | .edge => edgeKey n
    let cr := s.credit (txKey n k)
    let hosted : Prop := ∃ g : GT, who = .thread g ∧ g.val / 64 = n
    (s.bayPresent n = true → gt.val / 64 = n →
      (cr.1 < 2 → exec (.txwWrite (.thread gt) b q data) s = .next
        ((s.setCredit (txKey n k) (cr.1 + 1) cr.2).modSeq n k (fun x => { x with tx := x.tx ++ [data] }))) ∧
      (2 ≤ cr.1 → exec (.txwWrite (.thread gt) b q data) s = .next (s.holdBreak gt.val))) ∧
    (s.bayPresent n = true → ¬ hosted → direct who →
      exec (.txwWrite who b q data) s = .next (s.refuse (.bay n) (0x128 + 0x40 * k)) ∧
      exec (.rxwRead who b q) s = .next (s.answer (toBytes 4 0))) ∧
    (s.bayPresent n = true → hosted → exec (.rxwRead who b q) s = .next (
      match (s.seq n k).rx with
      | w :: r => (s.modSeq n k (fun x => { x with rx := r })).answer (toBytes 4 w.toNat)
      | [] => (s.put [(⟨seqReg n k 4, 12, 12⟩, 1)]).answer (toBytes 4 0))) ∧
    (0 < (s.credit key).2 → exec (.creditReturn b c) s = .next
      (s.setCredit key ((s.credit key).1 - 1) ((s.credit key).2 - 1)))) ∧
  (∀ (x : Issue) (a : Reg) (seg : Fin 8) (lane : BitVec 5) (act : BitVec 2) (s : State),
    let gt := x.gt.val
    let n := gt / 64
    let u := s.thread gt
    let cr := s.credit (edgeKey n)
    let d := s.desc gt seg.val
    let block := bayReg n 0
    s.issuesAlone x { reads := [a], access := true } → s.bayPresent n = true →
    d.base ≤ block → block - d.base < 2 ^ 32 → s.reaches gt seg.val (block - d.base) 4 false true →
    (cr.1 < 16 → s.after (.edge x a seg lane act) (fun t =>
      t = { s with regs := t.regs, threads := t.threads, xq := t.xq, credits := t.credits } ∧
      s.sameThreadsBut t gt ∧ s.sameRegsBut t [tReg gt 0x04, tReg gt 0x24, tReg gt 0x2C] ∧
      u.wentOn (t.thread gt) ∧ u.keptBut (t.thread gt) [] ∧
      t.xq = s.xq ++ [(.toBay (fin5 n), .edge n (u.rd a) lane.toNat act.toNat)] ∧
      t.credits = (s.setCredit (edgeKey n) (cr.1 + 1) cr.2).credits)) ∧
    (16 ≤ cr.1 → s.after (.edge x a seg lane act) (fun t =>
      (t.thread gt).pc = u.pc ∧ t.xq = s.xq ∧ t.credits = s.credits ∧ u.keptBut (t.thread gt) []))) ∧
  (∀ (b : Core) (dt : PinTime) (s : State),
    let n := b.val
    let q := s.edgeQ n
    let u := s.passPT n dt.toNat
    s.bayPresent n = true → s.bayHeld n = false →
    (∀ i e, q[i]? = some e → e.checked = false → (∀ j < i, ∀ p, q[j]? = some p → p.checked = true) →
      let late : Prop := 2 ^ 23 ≤ ptDistance (e.time / 4) (u.pt n)
      (¬ late → exec (.edgeEntryCheck b dt) s = .next (u.setEdgeQ n (q.set i { e with checked := true }))) ∧
      (late →
        let v := (((u.setEdgeQ n (q.eraseIdx i)).put [(⟨bayReg n 0x30C, 1, 1⟩, 1)]).present (0x1780 + n) true 0).sendCredit
          (edgeKey n) 1
        exec (.edgeEntryCheck b dt) s = .next (if u.bit (fLateApply n) then v.edgeAct n e (v.untimedAt n) else v))) ∧
    (let due (e : EdgeE) : Bool := e.checked && decide (ptDistance (e.time / 4) (u.pt n) = 0)
     let es := q.filter due
     let order := [0, 1, 2, 3].flatMap (fun p => es.filter (fun e => e.time % 4 == p))
     exec (.edgeEntryApply b dt) s = .next
       ((order.foldl (fun v e => v.edgeAct n e e.time) (u.setEdgeQ n (q.filter (fun e => !due e)))).sendCredit
         (edgeKey n) es.length)))

/-- START sets a stopped sequencer running at ENTRY with empty shift registers and no latched event, STOP stops one at
its present instruction, CONTINUE goes on from where it stopped, FLUSH empties the staging registers of a stopped one
and returns its credits; what R228 and R483 refuse is refused (R224, R225, R228, R229). A word of the program store
changes only while no sequencer whose range holds it runs; otherwise the write is refused. The word it replaces is kept
for the rest of the cycle (R216). A commit of the bay puts
the pending pin maps, lane drivers and inversions in force together. An event that has crossed to a sequencer is
latched, or overruns a latched one (R213, R215, R224, R278). -/
def Obligations.SequencerAndBayCommands : Prop :=
  (∀ (who : Agent) (b : Core) (q : Seq) (s : State),
    let n := b.val
    let k := q.val
    let st := s.fld (fSeqState n k)
    let still : Prop := st = sqStopped ∨ st = sqFaulted
    let no := s.refuse (.bay n) (0x100 + 0x40 * k)
    let fresh : State := s.modSeq n k (fun x => { x with judged := false, ends := none, stamp := none })
    direct who → s.bayPresent n = true →
    (exec (.seqStart who b q) s = .next (
      if still ∧ s.fld fMode ≠ modeStart then
        let u : State :=
          { s.modSeq n k (fun x => { x with judged := false, ends := none, stamp := none, hop := 0 }) with
            latched := Map.erase (Map.erase s.latched (selSeq n k 0)) (selSeq n k 1) }
        (u.setWords [(seqReg n k 0x1C, 0), (seqReg n k 0x20, 0)]).put
          [(fOsrLeft n k, 0), (fIsrCount n k, 0), (fSeqFault n k, 0),
            (fSeqPC n k, bitsOf (s.reg (seqReg n k 8)) 21 16), (fSeqState n k, sqRunning)]
      else no)) ∧
    exec (.seqStop who b q) s = .next (if still then s else fresh.put [(fSeqState n k, sqStopped)]) ∧
    exec (.seqContinue who b q) s = .next (
      if s.fld fMode = modeStart ∨ st = sqFaulted then no
      else if st = sqStopped then s.put [(fSeqState n k, sqRunning)] else s) ∧
    exec (.seqFlush who b q) s = .next (
      if still then
        (s.sendCredit (txKey n k) (s.seq n k).tx.length).modSeq n k (fun x => { x with tx := [], rx := [] })
      else no)) ∧
  (∀ (who : Agent) (b : Core) (q : Seq) (i : Fin 64) (e : Fin 2) (data : Word) (dt : PinTime) (s : State),
    let n := b.val
    let x := selSeq n q.val e.val
    let h := Map.get 0 s.held x
    (direct who → s.bayPresent n = true →
      let used : Prop := ∃ k < 8, s.inRange n k i.val = true ∧
        s.fld (fSeqState n k) ≠ sqStopped ∧ s.fld (fSeqState n k) ≠ sqFaulted
      (used → exec (.progWrite who b i data) s = .next (s.refuse (.bay n) (4 * i.val))) ∧
      (¬ used → exec (.progWrite who b i data) s = .next
        { s.setReg (bayReg n (4 * i.val)) (data &&& 0xFFFF) with
          progOld := s.progOld ++ [(n, i.val, s.reg (bayReg n (4 * i.val)))] }) ∧
      s.after (.bayCommit who b dt) (fun t =>
        (∀ k < 8, bitsOf (t.reg (seqReg n k 0xC)) 27 0 = bitsOf (s.pendReg (seqReg n k 0xC)) 27 0) ∧
        (∀ l, l / 32 = n → t.fld (fDriver l) = bitsOf (s.pendReg (laneReg l 0)) 3 0 ∧
          t.fld (fInvIn l) = bitsOf (s.pendReg (laneReg l 0)) 9 9) ∧
        t.mem = s.mem ∧ t.threads = s.threads)) ∧
    (h ≠ 0 →
      let u : State := { s with held := Map.erase s.held x }
      (Map.get 0 s.latched x = 0 →
        exec (.seqEventLatch b q e) s = .next { u with latched := Map.set 0 s.latched x h }) ∧
      (Map.get 0 s.latched x ≠ 0 → exec (.seqEventLatch b q e) s = .next
        (({ u with latched := Map.set 0 s.latched x (max (Map.get 0 s.latched x) h) } : State).overrun x))))

/-- One cycle of the sequencer instruction at PC, of a running sequencer or of one that waited or stalled on it: it
completes and the sequencer goes on at the next word, a jump at its target; it waits, or it stalls; an undefined
encoding faults with 0x1 and a target outside the range with 0x2. A timed change reaches the lanes at the time in Y,
an untimed one in the next cycle; a word written in the cycle of the row is met as it was before (R202, R214, R216 to
R224). -/
def Obligations.SequencerInstructions : Prop :=
  ∀ (b : Core) (q : Seq) (dt : PinTime) (s : State),
    let n := b.val
    let k := q.val
    let u := s.passPT n dt.toNat
    let pt := u.pt n
    let w := u.seqWord n k
    let ty := (bitsOf w 15 12).toNat
    let f (hi lo : Nat) : Nat := (bitsOf w hi lo).toNat
    let st := s.fld (fSeqState n k)
    s.bayPresent n = true →
    let does (i : Instr) (v : State) : Prop :=
      (st = sqRunning → exec i s = .next v) ∧
      (st = sqWaiting ∨ st = sqStalled → exec (.seqStallRelease b q dt) s = .next v)
    let fin (v : State) : State := v.seqGoes n k (s.seqNext n k)
    let rests (v : State) (c : Word) : State := v.put [(fSeqState n k, c)]
    let bad (c : Word) : State := u.seqFails n k c
    let x := u.seqX n k
    let y := u.seqY n k
    let osr := u.reg (seqReg n k 0x1C)
    let isr := u.reg (seqReg n k 0x20)
    let left := (u.fld (fOsrLeft n k)).toNat
    let cnt := (u.fld (fIsrCount n k)).toNat
    let tx := (u.seq n k).tx
    let rx := (u.seq n k).rx
    let latch (i : Nat) : Nat := Map.get 0 u.latched (selSeq n k i)
    let d := ptDistance (bitsOf y 25 2).toNat pt
    -- a change at the time in Y: late, now, or not yet
    let timed (i : Instr) (ok : Nat → State → State) (late : State → State) (c : Word) : Prop :=
      let l := u.put [(fSeqLate n k, 1)]
      ((u.seq n k).judged = false ∧ 2 ^ 23 ≤ d →
        does i (fin (if u.bit (fLateApply n) then ok (4 * (pt + 1)) l else late l))) ∧
      (¬ ((u.seq n k).judged = false ∧ 2 ^ 23 ≤ d) → d = 0 → does i (fin (ok (bitsOf y 25 0).toNat u))) ∧
      (¬ ((u.seq n k).judged = false ∧ 2 ^ 23 ≤ d) → d ≠ 0 →
        does i (rests (u.modSeq n k (fun p => { p with judged := true })) c))
    -- ISR holds a new word: kept, or pushed where AUTO_PUSH says so
    let shifts (i : Instr) (v : State) (r : Word) (m : Nat) : Prop :=
      if u.bit (fAutoPush n k) = true ∧ (u.fld (fPushThresh n k)).toNat ≤ m then
        (if rx.length < 2 then
          does i (fin (((v.pushRx n k r).setWords [(seqReg n k 0x20, 0)]).put [(fIsrCount n k, 0)]))
        else does i (rests u sqStalled))
      else does i (fin ((v.setWords [(seqReg n k 0x20, r)]).put [(fIsrCount n k, BitVec.ofNat 32 m)]))
    (ty = 0 →
      let c := f 11 8
      let jl := u.laneIn (32 * n + (u.fld (fJlane n k)).toNat)
      let yes : Bool := match c with
        | 0 => true
        | 1 => x == 0
        | 2 => x != 0
        | 3 => x - 1 != 0
        | 4 => y == 0
        | 5 => y != 0
        | 6 => y - 1 != 0
        | 7 => jl
        | 8 => !jl
        | 9 => left == 0
        | 10 => decide ((u.fld (fPushThresh n k)).toNat ≤ cnt)
        | 11 => !tx.isEmpty
        | 12 => decide (rx.length < 2)
        | 13 => latch 0 != 0
        | _ => decide (2 ^ 23 ≤ d)
      let v := if c = 3 then u.setX n k (x - 1) else if c = 6 then u.setY n k (y - 1) else u
      does (.seqJmp b q dt) (
        if f 7 6 ≠ 0 ∨ c = 15 then bad 1
        else if yes then (if u.inRange n k (f 5 0) then v.seqGoes n k (f 5 0) else bad 2)
        else fin v)) ∧
    (ty = 1 →
      let pol := w.getLsbD 11
      let arg := f 7 0
      let i : Instr := .seqWait b q dt
      (f 10 8 = 0 → arg < 32 → does i (if u.laneIn (32 * n + arg) = pol then fin u else rests u sqWaiting)) ∧
      (f 10 8 = 1 → pol = true → arg < 2 → does i (
        if latch arg = 0 then rests u sqWaiting
        else fin (({ u with latched := Map.erase u.latched (selSeq n k arg) } : State).modSeq n k
          (fun p => { p with hop := min 8 (latch arg) })))) ∧
      (f 10 8 = 2 → pol = true → arg = 0 → timed i (fun _ v => v) id sqWaiting) ∧
      (f 10 8 = 3 → pol = true → does i (match (u.seq n k).ends with
        | some e => if (pt + 2 ^ 24 - e) % 2 ^ 24 < 2 ^ 23 then fin u else rests u sqWaiting
        | none => if arg = 0 then fin u
          else rests (u.modSeq n k (fun p => { p with ends := some ((pt + arg) % 2 ^ 24) })) sqWaiting)) ∧
      (f 10 8 = 4 → pol = true → arg = 0 → does i (if tx = [] then rests u sqWaiting else fin u)) ∧
      (4 < f 10 8 ∨ (0 < f 10 8 ∧ pol = false) ∨ (f 10 8 = 0 ∧ 32 ≤ arg) ∨ (f 10 8 = 1 ∧ 2 ≤ arg) ∨
        ((f 10 8 = 2 ∨ f 10 8 = 4) ∧ arg ≠ 0) → does i (bad 1))) ∧
    (ty = 2 →
      let c := f 4 0 + 1
      let g : Nat := match f 11 9 with
        | 0 => u.laneGroup n (u.fld (fInBase n k)).toNat c
        | 1 => x.toNat % 2 ^ c
        | 2 => y.toNat % 2 ^ c
        | 3 => 0
        | _ => 2 ^ c - 1
      let gw : Word := BitVec.ofNat 32 g
      (f 8 5 = 0 → f 11 9 ≤ 4 → shifts (.seqIn b q dt) u
        (if c = 32 then gw else if u.bit (fInMsb n k) then (isr <<< c) ||| gw else (isr >>> c) ||| (gw <<< (32 - c)))
        (min 32 (cnt + c))) ∧
      (f 8 5 ≠ 0 ∨ 4 < f 11 9 → does (.seqIn b q dt) (bad 1))) ∧
    (ty = 3 →
      let i : Instr := .seqOut b q dt
      let c := f 4 0 + 1
      let t := w.getLsbD 8
      let pull : Prop := left = 0 ∧ u.bit (fAutoPull n k) = true
      let undefd : Prop := f 7 5 ≠ 0 ∨ 5 < f 11 9 ∨ (t = true ∧ 1 < f 11 9)
      let out (o : Word) (l : Nat) (at' : Option Nat) (v : State) : State :=
        let g : Word := if v.bit (fOutMsb n k) then o >>> (32 - c) else o &&& BitVec.ofNat 32 (2 ^ c - 1)
        let o' : Word := if c = 32 then 0 else if v.bit (fOutMsb n k) then o <<< c else o >>> c
        let v := (v.setWords [(seqReg n k 0x1C, o')]).put [(fOsrLeft n k, BitVec.ofNat 32 (l - c))]
        match at' with
        | none => v
        | some q' => match f 11 9 with
            | 0 => v.driveLanes n k (v.fld (fOutBase n k)).toNat c q' false g
            | 1 => v.driveLanes n k (v.fld (fOutBase n k)).toNat c q' true g
            | 2 => v.setX n k g
            | 3 => v.setY n k g
            | 4 => v
            | _ => v.setY n k (v.seqY n k + g)
      let runs (o : Word) (l : Nat) (p : State → State) : Prop :=
        if t then timed i (fun q' v => out o l (some q') (p v)) (fun v => out o l none (p v)) sqStalled
        else does i (fin (out o l (some (4 * (pt + 1))) (p u)))
      (undefd → does i (bad 1)) ∧
      (¬ undefd → ¬ pull → runs osr left id) ∧
      (¬ undefd → pull → match tx with
        | [] => does i (rests u sqStalled)
        | v :: _ => runs v 32 (fun z => z.takeTx n k))) ∧
    (ty = 4 →
      does (.seqPush b q dt) (
        if f 10 0 ≠ 0 then bad 1
        else if rx.length < 2 then
          fin (((u.pushRx n k isr).setWords [(seqReg n k 0x20, 0)]).put [(fIsrCount n k, 0)])
        else if w.getLsbD 11 then fin (u.put [(⟨seqReg n k 4, 13, 13⟩, 1)])
        else rests u sqStalled)) ∧
    (ty = 5 →
      does (.seqPull b q dt) (
        if f 10 0 ≠ 0 then bad 1
        else match tx with
          | v :: _ => fin (((u.takeTx n k).setWords [(seqReg n k 0x1C, v)]).put [(fOsrLeft n k, 32)])
          | [] => if w.getLsbD 11 then fin (u.put [(⟨seqReg n k 4, 14, 14⟩, 1)]) else rests u sqStalled)) ∧
    (ty = 6 →
      let i : Instr := .seqMov b q dt
      let a : Word := match f 5 3 with
        | 0 => x
        | 1 => y
        | 2 => osr
        | 3 => isr
        | 4 => BitVec.ofNat 32 (u.laneGroup n (u.fld (fInBase n k)).toNat 32)
        | 5 => BitVec.ofNat 32 (u.ptWord n)
        | 6 => 0
        | _ => u.seqStatusWord n k
      let r : Word := match f 8 6 with
        | 0 => a
        | 1 => a + x
        | 2 => a - x
        | 3 => ~~~ a
        | 4 => bitRev a
        | _ => byteRev a
      let lanes (oe : Bool) : State :=
        u.driveLanes n k (u.fld (fOutBase n k)).toNat ((u.fld (fMovCount n k)).toNat + 1) (4 * (pt + 1)) oe r
      does i (
        if f 2 0 ≠ 0 ∨ 5 < f 8 6 then bad 1
        else match f 11 9 with
          | 0 => fin (u.setX n k r)
          | 1 => fin (u.setY n k r)
          | 2 => fin ((u.setWords [(seqReg n k 0x1C, r)]).put [(fOsrLeft n k, 32)])
          | 3 => fin ((u.setWords [(seqReg n k 0x20, r)]).put [(fIsrCount n k, 32)])
          | 4 => if u.inRange n k (bitsOf r 5 0).toNat then u.seqGoes n k (bitsOf r 5 0).toNat else bad 2
          | 5 => fin (lanes false)
          | 6 => fin (lanes true)
          | _ => bad 1)) ∧
    (ty = 7 →
      let i : Instr := .seqSet b q dt
      let t := w.getLsbD 8
      let imm := bitsOf w 7 0
      let lanes (oe : Bool) (q' : Nat) (v : State) : State :=
        v.driveLanes n k (v.fld (fSetBase n k)).toNat (v.fld (fSetCount n k)).toNat q' oe imm
      (f 11 9 < 2 → f 7 5 = 0 → t = false → does i (fin (lanes (decide (f 11 9 = 1)) (4 * (pt + 1)) u))) ∧
      (f 11 9 < 2 → f 7 5 = 0 → t = true → timed i (lanes (decide (f 11 9 = 1))) id sqStalled) ∧
      (f 11 9 = 2 → t = false → does i (fin (u.setX n k imm))) ∧
      (f 11 9 = 3 → t = false → does i (fin (u.setY n k imm))) ∧
      (4 ≤ f 11 9 ∨ (2 ≤ f 11 9 ∧ t = true) ∨ (f 11 9 < 2 ∧ f 7 5 ≠ 0) → does i (bad 1))) ∧
    (ty = 8 →
      does (.seqEvt b q dt) (
        if f 11 2 ≠ 0 then bad 1
        else fin (u.present (0x400 + 4 * (8 * n + k) + f 1 0 / 2) (w.getLsbD 0) (u.seq n k).hop))) ∧
    (ty = 9 →
      let i : Instr := .seqStamp b q dt
      let l := 32 * n + f 4 0
      let last := u.reg (laneReg l 0xC)
      let v := u.setBit (fNew l) false
      (f 9 5 ≠ 0 ∨ f 11 10 = 3 ∨ (f 11 10 = 0 ∧ f 4 0 ≠ 0) → does i (bad 1)) ∧
      (f 9 5 = 0 → f 11 10 = 0 → f 4 0 = 0 → shifts i u (BitVec.ofNat 32 (2 ^ 26 + u.ptWord n)) 32) ∧
      (f 9 5 = 0 → f 11 10 = 1 → shifts i v last 32) ∧
      (f 9 5 = 0 → f 11 10 = 2 → match (u.seq n k).stamp with
        | some (_, true) => shifts i v last 32
        | some (_, false) => does i (rests u sqWaiting)
        | none => does i (rests (u.modSeq n k (fun p => { p with stamp := some (f 4 0, false) })) sqWaiting))) ∧
    (9 < ty → ∀ i ∈ [Instr.seqJmp b q dt, .seqWait b q dt, .seqIn b q dt, .seqOut b q dt, .seqPush b q dt,
      .seqPull b q dt, .seqMov b q dt, .seqSet b q dt, .seqEvt b q dt, .seqStamp b q dt], does i (bad 1))

/-- A level the sampler shows for some cycles passes the filter when a run of FILT_LEN samples, one in every FILT_UNIT
cycles, holds it, or at its first sample without a filter; it becomes the lane's input and is recorded with the
pin-time of the run's first sample, epoch and direction, and the lane's producer presents it; a record not yet read is
marked overrun. A shorter run is rejected and marked as a glitch. In synchronised mode there is one sample in a cycle,
with phase 0; in fast mode a phase is kept (R203 to R206, R269). A write of the filter within the run restarts the
count after its cycle (log 80). A thread's 32-bit read of a low half of the timebase or of a linked pair's count keeps the high
half in the thread's shadow, which its read of the high half returns; a 64-bit read takes both halves at once. A read
of a capture takes the oldest, and an empty queue or an absent timer reads zero (R2, R257, R259 to R261). -/
def Obligations.LaneInputsAndLatches : Prop :=
  (∀ (who : Agent) (k : Lane) (level : Bool) (time held : BitVec 26) (s : State),
    let l := k.val
    let new := level != s.bit (fInvIn l)
    let fast := s.bit (fFast l)
    let c := time.toNat / 4
    let ph := if fast then time.toNat % 4 else 0
    let cycles := (ph + held.toNat) / 4
    let len := s.filtLen l
    let unit := s.filtUnit l
    let run : Instr := .laneInputTransition k level time held
    let passes (at' : Nat) : Prop := s.after run (fun t =>
      t.laneIn l = new ∧
      t.reg (laneReg l 0xC) = bitsOf (s.fld (fPtEpoch (l / 32))) 3 0 <<< 28 ||| boolWord new <<< 27 ||| 1 <<< 26 |||
        BitVec.ofNat 32 (at' % 2 ^ 26) ∧
      (s.bit (fNew l) = true → t.bit ⟨laneReg l 8, 6, 6⟩ = true) ∧
      t.toggles = (s.present l (!new) 0).toggles ∧ t.mem = s.mem ∧ t.threads = s.threads ∧
      (∀ i, i ≠ l → t.lane i = s.lane i))
    -- the first cycle in which the filter may begin to count
    let start := match (s.lane l).filtFrom with
      | some w => if (w + 2 ^ 24 - c) % 2 ^ 24 < cycles then c + (w + 2 ^ 24 - c) % 2 ^ 24 + 1 else c
      | none => c
    s.lanePresent l = true →
    ((s.lane l).pad = level → exec run s = .next s) ∧
    ((s.lane l).pad ≠ level →
      (len = 0 → (if fast then held.toNat ≠ 0 else cycles ≠ 0) → passes (4 * c + ph)) ∧
      ((if fast then len = 0 ∧ held.toNat = 0 else cycles = 0) → exec run s = .next s) ∧
      (len ≠ 0 → (fast = true ∨ cycles ≠ 0) →
        ∀ f, start ≤ f → f % unit = 0 → (∀ g, start ≤ g → g % unit = 0 → f ≤ g) →
          (f + (len - 1) * unit < c + cycles → passes (4 * f + (if f = c then ph else 0))) ∧
          (c + cycles ≤ f + (len - 1) * unit → exec run s = .next (s.put [(⟨laneReg l 8, 4, 4⟩, 1)])))) ∧
    exec (.laneLastRead who k) s = .next ((s.put [(fNew l, 0)]).answer (toBytes 4 (s.reg (laneReg l 0xC)).toNat))) ∧
  (∀ (who : Agent) (g : GT) (r : Latch) (p : WidePair) (m : Timer) (wide : Bool) (dt : BitVec 32) (s : State),
    let gt := g.val
    let u := s.tclk dt.toNat
    let h := u.pairValue (latchPair r)
    let there := match r with | .tbNow => s.powered 44 | .timer j => s.timerPresent j.val
    let both := match r with | .tbNow => true | .timer j => s.linkedEven j.val
    let bytes (a b : Word) : List Byte := toBytes 4 a.toNat ++ (if wide then toBytes 4 b.toNat else [])
    (there = true → both = true → exec (.latchingRead g r dt) s = .next
      ((u.modThread gt (fun t => { t with shadowHi := h.2 })).answer (toBytes 4 h.1.toNat))) ∧
    (there = true → both = false → exec (.latchingRead g r dt) s = .next (u.answer (toBytes 4 h.1.toNat))) ∧
    (there = false → exec (.latchingRead g r dt) s = .next (s.answer (toBytes 4 0))) ∧
    exec (.shadowHiRead g r) s = .next
      (s.answer (toBytes 4 (if there = true ∧ both = true then (s.thread gt).shadowHi.toNat else 0))) ∧
    (s.pairPresent p = true → exec (.widePairRead who p dt) s = .next
      (u.answer (toBytes 4 (u.pairValue p).1.toNat ++ toBytes 4 (u.pairValue p).2.toNat))) ∧
    (s.pairPresent p = false → exec (.widePairRead who p dt) s = .next (s.answer (toBytes 8 0))) ∧
    (s.timerPresent m.val = true → exec (.tmrCapRead who m wide) s = .next (
      match (s.tmr m.val).caps with
      | c :: rest => (s.modTmr m.val (fun x => { x with caps := rest })).answer (bytes c.1 c.2)
      | [] => s.answer (bytes 0 0))) ∧
    (s.timerPresent m.val = false → exec (.tmrCapRead who m wide) s = .next (s.answer (bytes 0 0))))

/-- The timebase advances by its increment in every TCLK cycle, adjusted while ADJ_LEFT counts down. RATE puts the
pending rate and adjustment in force, STEP loads the pending time in a new epoch, ends an adjustment and cancels a
start at a time, SNAP copies time and epoch (R239, R241, R242, R245, R266). A pulse seen while recording is on records
time and epoch and counts, at the edge at which NS reaches a multiple of 2^K a quadrant records its anchor, once, several quadrants
at the same edge, and GS_GO,
or a start at a time that has come, starts every armed timer together (R235, R239, R246, R263, R265). -/
def Obligations.TimebaseAnchorsAndStarts : Prop :=
  (∀ (who : Agent) (dt : BitVec 32) (s : State),
    let n := dt.toNat
    let adj : Fld := ⟨tbReg 4, 17, 17⟩
    s.powered 44 = true →
    s.after .tbAdjEnd (fun t => t.tbNow = s.tbAfter (s.reg (tbReg 0x30)).toNat % 2 ^ 96 ∧
      t.reg (tbReg 0x30) = 0 ∧ (s.reg (tbReg 0x30) ≠ 0 → t.bit adj = false) ∧
      s.onlyRegs { t with tcycle := s.tcycle, tbHist := s.tbHist } [tbReg 4, tbReg 0x10, tbReg 0x18, tbReg 0x1C, tbReg 0x30]) ∧
    (direct who →
      (s.following = true → s.pendReg (tbReg 0x2C) ≠ 0 → s.after (.tbRate who dt) (fun t =>
        t.bit ⟨tbReg 4, 20, 20⟩ = true ∧ t.tbNow = s.tbAfter n % 2 ^ 96 ∧ t.reg (tbReg 0x20) = s.reg (tbReg 0x20))) ∧
      (s.following = false ∨ s.pendReg (tbReg 0x2C) = 0 → s.after (.tbRate who dt) (fun t =>
        t.tbNow = s.tbAfter n % 2 ^ 96 ∧ (∀ o ∈ [0x20, 0x28, 0x2C], t.reg (tbReg o) = s.pendReg (tbReg o)) ∧
        t.fld ⟨tbReg 0x24, 7, 0⟩ = bitsOf (s.pendReg (tbReg 0x24)) 7 0 ∧
        t.reg (tbReg 0x30) = s.pendReg (tbReg 0x2C) ∧ t.bit adj = (s.pendReg (tbReg 0x2C) != 0))) ∧
      s.after (.tbStep who dt) (fun t =>
        t.tbNow = (s.pendReg (tbReg 0x34)).toNat + 2 ^ 32 * (s.pendReg (tbReg 0x38)).toNat +
          2 ^ 64 * (s.pendReg (tbReg 0x3C)).toNat ∧
        (t.fld fEpoch).toNat = ((s.fld fEpoch).toNat + 1) % 65536 ∧ t.reg (tbReg 0x30) = 0 ∧
        t.bit adj = false ∧ t.bit fGoAtEn = false ∧
        (s.bit fGoAtEn = true → t.bit ⟨tbReg 4, 18, 18⟩ = true) ∧
        t.xq = s.xq ++ (List.finRange 4).map (fun q =>
          (Crossing.epoch q, XItem.write .manager (bayReg (8 * q.val) 0x310) (t.fld fEpoch) none .posted))) ∧
      s.after (.tbSnap who dt) (fun t =>
        t.tbNow = s.tbAfter n % 2 ^ 96 ∧ t.reg (tbReg 0x40) = t.reg (tbReg 0x10) ∧ t.reg (tbReg 0x44) = s.fld fEpoch ∧
        t.reg (tbReg 0x48) = t.reg (tbReg 0x18) ∧ t.reg (tbReg 0x4C) = t.reg (tbReg 0x1C)))) ∧
  (∀ (who : Agent) (dt : BitVec 32) (q : Fin 4) (time : BitVec 26) (m : Timer) (s : State),
    let n := 8 * q.val
    let now := s.tbAfter dt.toNat % 2 ^ 96
    let u := s.tclk dt.toNat
    let ctl := s.reg (bayReg n 0xF00)
    let k := 2 ^ (bitsOf ctl 4 0).toNat
    let armed : Prop := s.bit (fArm m.val) = true ∧ s.linkedOdd m.val = false
    s.powered 44 = true →
    (s.ppsEdge = true → s.bit ⟨tbReg 0x50, 0, 0⟩ = true → s.after (.ppsRecord dt) (fun t =>
      t.ppsEdge = false ∧ t.tbNow = now ∧ t.fld ⟨tbReg 0x54, 31, 16⟩ = s.fld fEpoch ∧
      (t.fld ⟨tbReg 0x54, 15, 0⟩).toNat = ((s.fld ⟨tbReg 0x54, 15, 0⟩).toNat + 1) % 65536 ∧
      t.reg (tbReg 0x58) = t.reg (tbReg 0x18) ∧ t.reg (tbReg 0x5C) = t.reg (tbReg 0x1C) ∧
      t.reg (tbReg 0x60) = t.reg (tbReg 0x10) ∧ t.toggles = (s.present 0x17A0 true 0).toggles)) ∧
    (dt ≠ 0 → u.tbPast.head? = some (now, (s.fld fEpoch).toNat)) ∧
    (∀ v ep before past, u.tbPast = (v, ep) :: (before, ep) :: past → before / 2 ^ 32 / k ≠ v / 2 ^ 32 / k →
      s.quadPresent q.val = true → ctl.getLsbD 8 = true → Map.get 0 s.anchored q.val ≠ u.tcycle + 1 →
      s.after (.anchorTake q dt time) (fun t =>
        t.tbNow = now ∧ Map.get 0 t.anchored q.val = t.tcycle + 1 ∧
        t.reg (bayReg n 0xF04) = BitVec.ofNat 32 (2 ^ 28 * (ep % 16) + time.toNat) ∧
        t.reg (bayReg n 0xF08) = t.reg (tbReg 0x18) ∧ t.reg (bayReg n 0xF0C) = t.reg (tbReg 0x1C) ∧
        t.reg (bayReg n 0xF10) = t.reg (tbReg 0x10) ∧
        (t.fld ⟨bayReg n 0xF14, 15, 0⟩).toNat = ((s.fld ⟨bayReg n 0xF14, 15, 0⟩).toNat + 1) % 65536)) ∧
    (direct who → s.fld fMode ≠ modeStart → s.after (.gsGo who dt) (fun t =>
      (armed → s.startsTimer t m.val) ∧ t.bit (fArm m.val) = false ∧
      (¬ armed → t.bit (fRunning m.val) = s.bit (fRunning m.val)))) ∧
    (s.bit fGoAtEn = true → s.goAt ≤ now / 2 ^ 32 → s.after (.goAtDue dt) (fun t =>
      (armed → s.startsTimer t m.val) ∧ t.bit (fArm m.val) = false ∧ t.bit fGoAtEn = false ∧
      (s.goLate = true → t.bit ⟨tbReg 4, 19, 19⟩ = true ∧ t.goLate = false))))

/-- The timer commands: START loads the count from the reload buffer and runs, STOP stops, COMMIT puts the pending
values in force, FORCE_RELOAD loads, SNAP copies the count; each is refused in the odd timer of a linked pair, and
START also in a running timer and before release (R252, R254, R258, R262, R483). A load takes the compare values and
levels of the period from the buffer; a tick on its way at FORCE_RELOAD may be discarded (R252 to R254, log 83). A running timer that counts TCLK goes
down by one in a counting cycle, from zero to its reload value; a channel whose held compare value the count reaches leaves its NOMATCH level; when it becomes zero it presents ZERO, and a one-shot
stops. An event seen on its input 1 or a transition of its capture lane appends a capture, or is lost where four wait
(R250, R251, R255, R256, R277). -/
def Obligations.TimersCountAndCapture : Prop :=
  (∀ (who : Agent) (j : Timer) (s : State),
    let m := j.val
    let no := s.refuse (.timer m) 4
    let odd : Prop := s.linkedOdd m = true
    direct who → s.timerPresent m = true →
    (odd ∨ s.bit (fRunning m) = true ∨ s.fld fMode = modeStart → exec (.tmrStart who j) s = .next no) ∧
    (¬ odd → s.bit (fRunning m) = false → s.fld fMode ≠ modeStart → s.after (.tmrStart who j) (fun t =>
      s.startsTimer t m ∧ ∀ c < 2, t.bit (fLevel m c) =
        (s.bit (fNoMatch m c) != decide (s.tmrWide m (0x10 + 4 * c) = s.tmrWide m 0xC)))) ∧
    (odd → exec (.tmrStop who j) s = .next no ∧ exec (.tmrCommit who j) s = .next no ∧
      exec (.tmrForceReload who j) s = .next no ∧ exec (.tmrSnap who j) s = .next no) ∧
    (¬ odd → exec (.tmrStop who j) s = .next (s.put [(fRunning m, 0), (fArm m, 0)])) ∧
    (¬ odd → s.after (.tmrCommit who j) (fun t => s.onlyRegs { t with pend := s.pend } (
        [0x0, 0xC, 0x10, 0x14].map (tmrReg m) ++ [0x0, 0xC, 0x10, 0x14].map (tmrReg (m + 1))) ∧
      (∀ k, k = m ∨ (k = m + 1 ∧ s.linkedEven m = true) →
        (∀ o ∈ [0xC, 0x10, 0x14], t.reg (tmrReg k o) = s.pendReg (tmrReg k o)) ∧
        t.fld ⟨tmrReg k 0, 18, 17⟩ = bitsOf (s.pendReg (tmrReg k 0)) 18 17))) ∧
    (¬ odd → s.after (.tmrForceReload who j) (fun t =>
      t.tmrCount m = s.tmrWide m 0xC ∧ (t.tmr m).cmps = (s.tmrWide m 0x10, s.tmrWide m 0x14) ∧
      (t.tmr m).presc = (if s.bit (fRunning m) then 0 else (s.tmr m).presc) ∧
      t.bit (fRunning m) = s.bit (fRunning m) ∧
      (s.bit (fRunning m) = false ∨ s.tickWaits m = false →
        t.held = s.held ∧ (t.tmr m).cntEdge = (s.tmr m).cntEdge ∧ t.freeCtr = s.freeCtr))) ∧
    (¬ odd → exec (.tmrSnap who j) s = .next (s.setWords
      [(tmrReg m 0x28, BitVec.ofNat 32 (s.tmrCount m)), (tmrReg m 0x2C, BitVec.ofNat 32 (s.tmrCount m / 2 ^ 32))]))) ∧
  (∀ (j : Timer) (dt : BitVec 32) (s : State),
    let m := j.val
    let v := s.tmrCount m
    let reload := s.tmrWide m 0xC
    let counts : Prop := s.bit (fRunning m) = true ∧ s.fld ⟨tmrReg m 0, 1, 0⟩ = 0 ∧ s.linkedOdd m = false
    let zero : Prop := v = 1 ∨ (v = 0 ∧ reload = 0)
    let h := Map.get 0 s.held (selTimer m 1)
    let src := s.fld ⟨tmrReg m 0, 20, 19⟩
    let caps := (s.tmr m).caps
    s.timerPresent m = true →
    (counts → ¬ zero → s.after (.timerCount j dt) (fun t =>
      t.tmrCount m = (if v = 0 then reload else v - 1) ∧ (t.tmr m).presc = 0 ∧ t.bit (fRunning m) = true ∧
      t.tbNow = s.tbAfter dt.toNat % 2 ^ 96 ∧
      (v ≠ 0 → ∀ c < 2,
        let x := s.tmr m
        t.bit (fLevel m c) = if (if c = 0 then x.cmps.1 else x.cmps.2) = v - 1
          then !(if c = 0 then x.noMatch.1 else x.noMatch.2) else s.bit (fLevel m c)))) ∧
    (counts → zero → s.after (.timerZero j dt) (fun t =>
      t.tmrCount m = 0 ∧ (t.tmr m).presc = 0 ∧ t.bit (fRunning m) = !s.bit ⟨tmrReg m 0, 2, 2⟩ ∧
      Map.get 0 t.toggles (2 * (0x800 + 2 * m) + 1) ≠ 0)) ∧
    (h ≠ 0 → src = 1 → caps.length < 4 → s.after (.timerInputSeen j .ev1 dt) (fun t =>
      (t.tmr m).caps = caps ++ [(s.tclk dt.toNat).capture1 m false] ∧ Map.get 0 t.held (selTimer m 1) = 0 ∧
      Map.get 0 t.toggles (2 * (0x801 + 2 * m) + 1) ≠ 0)) ∧
    (h ≠ 0 → src = 1 → (s.tmr m).capEdge = none → caps.length < 4 → s.after (.timerCapture j) (fun t =>
      (t.tmr m).caps = caps ++ [s.capture1 m false] ∧ Map.get 0 t.held (selTimer m 1) = 0)) ∧
    (h ≠ 0 → src = 1 → (s.tmr m).capEdge = none → 4 ≤ caps.length → s.after (.timerCapture j) (fun t =>
      (t.tmr m).caps = caps ∧ t.bit ⟨tmrReg m 8, 9, 9⟩ = true)) ∧
    (∀ rise, (s.tmr m).capEdge = some (some rise) → 2 ≤ src.toNat → caps.length < 4 →
      s.after (.timerInputSeen j .capLane dt) (fun t =>
        (t.tmr m).caps = caps ++ [(s.tclk dt.toNat).capture1 m rise] ∧ (t.tmr m).capEdge = none)) ∧
    (Map.get 0 s.held (selTimer m 0) ≠ 0 → s.fld ⟨tmrReg m 0, 1, 0⟩ = 1 → s.linkedOdd m = false →
      s.bit (fRunning m) = true → s.fld ⟨tmrReg m 0, 16, 9⟩ = 0 → 1 < v →
      s.after (.timerInputSeen j .ev0 dt) (fun t => t.tmrCount m = v - 1 ∧ Map.get 0 t.held (selTimer m 0) = 0)) ∧
    ((s.tmr m).cntEdge = true → 2 ≤ (s.fld ⟨tmrReg m 0, 1, 0⟩).toNat → s.linkedOdd m = false →
      s.bit (fRunning m) = true → (s.tmr m).presc + 1 ≤ (s.fld ⟨tmrReg m 0, 16, 9⟩).toNat →
      s.after (.timerInputSeen j .cntLane dt) (fun t =>
        t.tmrCount m = v ∧ (t.tmr m).presc = (s.tmr m).presc + 1 ∧ (t.tmr m).cntEdge = false)))

/-- A write of a select clears the sticky bits it names; without FORCE it takes the producer, signal and enable as one
choice, which is refused where the signal does not exist, and with FORCE it sends the input a force write that carries
the agent's hop count, or drops it at hop count 8, and the choice it would make is judged all the same (R270 to R273,
R280, R281). An event of the routing pipeline reaches every input that had selected it, a force write its input, and a
force write delivered in the same cycle merges with the event and sets COINCIDE (R275 to R279). A thread's input
becomes pending with the event's hop count, a host vector pending, an outbound channel's event enters its link, any
other input holds it, and the select shows the hop count; an input that still holds one overruns; an event of a vector
whose complex has gone on a generation, or is being reset or removed, is only counted (R277, R278, R280, R294, R295,
R461, R560). An input in level mode follows its producer: while the level is 1 a thread's input, a sequencer's, a
host vector or any other holds an event of hop count 0, with no overrun, and an outbound channel carries the change of
level (R276, R280, R551, R560); that LAST_HOP stays is the model's choice (log 87). -/
def Obligations.EventsReachInputs : Prop :=
  (∀ (who : Agent) (k : Fin 11776) (data : Word) (s : State),
    let x := k.val
    let a := selAddr x
    let u := s.put [(⟨a, 30, 29⟩, s.fld ⟨a, 30, 29⟩ &&& ~~~ (bitsOf data 30 29))]
    let port := (bitsOf data 12 0).toNat
    let kind := (bitsOf data 14 13).toNat
    let choice := bitsOf data 15 0
    let exists' : Prop := s.signalPresent port (kind == 1) = true ∧ hasSignal port kind = true
    let v := u.put [(⟨a, 15, 0⟩, choice)]
    let from' : Nat × Nat × Bool := match who with
      | .thread g => ((s.thread g.val).hop, 0x1200 + g.val / 2, g.val % 2 == 1)
      | .chan c => ((Map.get {} s.chans c.val).hop, 0x1700 + c.val, false)
      | _ => (0, 0, false)
    let forced : State :=
      if from'.1 < 8 then { u with routed := s.routed ++ [.force x from'.1 (u.vecTag x)] }
      else u.loopDrop from'.2.1 from'.2.2 2 x
    direct who → s.powered 44 = true →
    (s.inputPresent x = false → exec (.evselWrite who k data) s = .next s ∧ exec (.forceWrite who k data) s = .next s) ∧
    (s.inputPresent x = true →
      (choice = s.fld ⟨a, 15, 0⟩ → exec (.evselWrite who k data) s = .next u) ∧
      (choice ≠ s.fld ⟨a, 15, 0⟩ → exists' → exec (.evselWrite who k data) s = .next
        (if 11520 ≤ x then { v with held := Map.erase s.held x } else v)) ∧
      (choice ≠ s.fld ⟨a, 15, 0⟩ → ¬ exists' → exec (.evselWrite who k data) s = .next (u.refuse .router (4 * x))) ∧
      (choice = s.fld ⟨a, 15, 0⟩ ∨ exists' → exec (.forceWrite who k data) s = .next forced) ∧
      (choice ≠ s.fld ⟨a, 15, 0⟩ → ¬ exists' → exec (.forceWrite who k data) s = .next
        (forced.refuse .router (4 * x))))) ∧
  -- what is delivered, and to which inputs
  (∀ (port : BitVec 13) (b : Bool) (k : Fin 11776) (s : State),
    let isEv (r : Routed) : Bool := match r with
      | .event p b' _ _ => decide (port.toNat = p) && b == b'
      | _ => false
    let isF (r : Routed) : Bool := match r with
      | .force y _ _ => decide (k.val = y)
      | _ => false
    (∀ h ts, s.routed.find? isEv = some (.event port.toNat b h ts) →
      let u : State := { s with routed := s.routed.erase (.event port.toNat b h ts) }
      exec (.eventDelivery (.routed port b) false) s = .next (ts.foldl (fun t p => t.deliverInput p.1 h p.2) u) ∧
      ∀ tag h' g, ts = [(k.val, tag)] → u.routed.find? isF = some (.force k.val h' g) →
        exec (.eventDelivery (.routed port b) true) s = .next
          ((({ s with routed := u.routed.erase (.force k.val h' g) } : State).put
            [(⟨selAddr k.val, 29, 29⟩, 1)]).deliverInput k.val (max h h') tag)) ∧
    (∀ h g, s.routed.find? isF = some (.force k.val h g) →
      exec (.eventDelivery (.force k) false) s = .next
        (({ s with routed := s.routed.erase (.force k.val h g) } : State).deliverInput k.val h g))) ∧
  -- what an input does with it
  (∀ (k : Fin 11776) (h : Nat) (tag : Option (Nat × Nat)) (s : State),
    let x := k.val
    let gt := x / 4
    let i := x % 4
    let v := s.put [(⟨selAddr x, 26, 24⟩, BitVec.ofNat 32 h)]
    let gone : Prop := s.vecStale tag = true ∨ s.vecResetting x = true
    let gets (t : State) : Prop := s.deliverInput x h tag = t
    (s.inputPresent x = false → gets s) ∧
    (s.inputPresent x = true → gone → gets (s.countUp ⟨0x10E00080, 15, 0⟩)) ∧
    (s.inputPresent x = true → ¬ gone →
      (x < 8192 →
        let busy := (s.fld (fPend gt)).getLsbD i
        let w := (v.put [(fPend gt, v.fld (fPend gt) ||| (1 : Word) <<< i)]).modThread gt (fun t => { t with
          evHop := Map.set 0 t.evHop i (if busy then max (Map.get 0 t.evHop i) h else h) })
        gets (if busy then w.overrun x else w)) ∧
      (10240 ≤ x → x < 10752 → Map.get 0 s.latched x ≠ 0 →
        gets (({ v with latched := Map.set 0 s.latched x (max (Map.get 0 s.latched x) (h + 1)) } : State).overrun x)) ∧
      (11008 ≤ x → x < 11520 →
        gets (if s.bit (fHvPend (x - 11008)) then v.overrun x else v.put [(fHvPend (x - 11008), 1)])) ∧
      (11520 ≤ x → ∀ p, v.route ((x - 11520) / 64) = some p → gets (v.linkPush p (.event (x - 11520) h))) ∧
      ((8192 ≤ x ∧ x < 10240) ∨ (10240 ≤ x ∧ x < 10752 ∧ Map.get 0 s.latched x = 0) ∨ (10752 ≤ x ∧ x < 11008) ∨
          (11520 ≤ x ∧ v.route ((x - 11520) / 64) = none) →
        let w : State := { v with held := Map.set 0 s.held x (max (Map.get 0 s.held x) (h + 1)) }
        gets (if Map.get 0 s.held x = 0 then w else w.overrun x)))) ∧
  (∀ (k : Fin 11776) (s : State),
    let x := k.val
    let gt := x / 4
    let i := x % 4
    let w := s.reg (selAddr x)
    let level := s.portLevel (bitsOf w 12 0).toNat != w.getLsbD 13
    let c := x - 11520
    w.getLsbD 15 = true → w.getLsbD 14 = true → s.inputPresent x = true →
    let run (t : State) : Prop := exec (.levelDelivery k) s = .next t
    (x < 11520 → level = false → run s) ∧
    (x < 8192 → level = true → run (
      if (s.fld (fPend gt)).getLsbD i then s
      else (s.put [(fPend gt, s.fld (fPend gt) ||| (1 : Word) <<< i)]).modThread gt (fun t =>
        { t with evHop := Map.set 0 t.evHop i 0 }))) ∧
    (10240 ≤ x → x < 10752 → level = true → run (
      if Map.get 0 s.latched x = 0 then { s with latched := Map.set 0 s.latched x 1 } else s)) ∧
    (11008 ≤ x → x < 11520 → level = true → run (
      if s.vecResetting x then s.countUp ⟨0x10E00080, 15, 0⟩ else s.put [(fHvPend (x - 11008), 1)])) ∧
    ((8192 ≤ x ∧ x < 10240) ∨ (10752 ≤ x ∧ x < 11008) → level = true → run (
      if Map.get 0 s.held x = 0 then { s with held := Map.set 0 s.held x 1 } else s)) ∧
    (11520 ≤ x → Map.get false s.outLevels c = level → run s) ∧
    (11520 ≤ x → Map.get false s.outLevels c ≠ level →
      let u : State := { s with outLevels := Map.set false s.outLevels c level }
      run (match s.route (c / 64) with
        | none => u
        | some p => if s.fld (fLinkVer p) = 2 then u.linkPush p (.level c level)
          else if level then u.linkPush p (.event c 0) else u)))

/-! ## Memory, coherence and the ledger -/

/-- A change of a bank's owner stands at once, with DRAINING until nothing judged under the old owner is outstanding;
the lines of a granary bank leaving CORES are recalled, those of busy entries when they close
(R355). A change R303 refuses is refused, and a repeated owner changes
nothing (R302, R303, R305, R306). A POWER request of an unowned bank that is not draining goes into ENTERING or
WAKING, and takes effect when the bank has got there; every other request is refused. A bank that was OFF is cleared
as it wakes, in FIELD always, or wakes with its contents undefined; clearing leaves zeros and drops SCRUB (R308, R317
to R319, R455). -/
def Obligations.BanksChangeOwnerAndPower : Prop :=
  (∀ (who : Agent) (b : Bank) (kind : BitVec 3) (e : BitVec 2) (s : State),
    let g := b.val
    let k : Word := kind.setWidth 32
    let en : Word := e.setWidth 32
    let old := s.fld (fOwnerKind g)
    direct who → s.powered 44 = true → s.bankPresent g = true →
    let bad : Prop := 5 ≤ kind.toNat ∨ (kind = 2 ∧ s.enginePresent e.toNat = false) ∨
      (kind ≠ 0 ∧ s.fld (fPstate g) ≠ psOn) ∨ (old = 4 ∧ kind ≠ 4 ∧ ∃ m, s.march = some m ∧ m.1 = g)
    let given := s.put [(fOwnerKind g, k), (fOwnerEngine g, en), (fDraining g, 1)]
    (k = old → en = s.fld (fOwnerEngine g) → exec (.bankHandover who b kind e) s = .next s) ∧
    (¬ (k = old ∧ en = s.fld (fOwnerEngine g)) →
      (bad → exec (.bankHandover who b kind e) s = .next (s.refuse .banks (8 * g))) ∧
      (¬ bad → exec (.bankHandover who b kind e) s =
        .next (if 128 ≤ g ∧ old = 1 ∧ kind ≠ 1 then
            ({ given with leaving := g :: s.leaving.filter (fun x => x != g) } : State).home (given.dirLines g)
          else given))) ∧
    -- what is recalled: a line that no transaction of its home is open for, and which no request waits for
    (∀ line x, s.dir = [(line, some x)] → x.txn = none → x.sharers ≠ [] → isGwLine line = false →
      bankOf (line * 64) = some g → (∀ q ∈ s.homeQ, q.line ≠ line) → 128 ≤ g → old = 1 → kind ≠ 1 → ¬ bad →
      s.after (.bankHandover who b kind e) (fun t =>
        g ∈ t.leaving ∧ t.coh = s.coh ++ x.sharers.map (fun h => ⟨.snpInv, h, line, 0⟩) ∧
        (∃ y, t.txn line = some y ∧ y.kind = .recall ∧ y.wait = x.sharers ∧ y.inv = true) ∧
        t.fld ⟨0x1070000C, 31, 0⟩ = (s.countUp ⟨0x1070000C, 31, 0⟩).fld ⟨0x1070000C, 31, 0⟩)) ∧
    (s.bit (fDraining g) = true → s.drained g = true →
      exec (.drainComplete b) s = .next { s.put [(fDraining g, 0)] with
        leaving := s.leaving.filter (fun x => x != g)
        homeQ := s.homeQ.filter (fun q => bankOf (q.line * 64) != some g) }) ∧
    (s.bit (fDraining g) = false ∨ s.drained g = false → exec (.drainComplete b) s = .next s)) ∧
  (∀ (who : Agent) (b : Bank) (p : BitVec 2) (s : State),
    let g := b.val
    let q : Word := p.setWidth 32
    let ps := s.fld (fPstate g)
    let wake := s.bit (fClearOnWake g) = true ∨ s.fld fLc = lcField
    (direct who → s.powered 44 = true → s.bankPresent g = true → q ≠ s.fld (fPower g) →
      let bad : Prop := s.fld (fOwnerKind g) ≠ 0 ∨ s.bit (fDraining g) = true ∨ p = 3 ∨ 3 ≤ ps.toNat ∨
        (ps = psOff ∧ q = psRetention)
      (bad → exec (.bankPowerRequest who b p) s = .next (s.refuse .banks (8 * g))) ∧
      (¬ bad → exec (.bankPowerRequest who b p) s = .next (
        if q = ps then s.put [(fPower g, q)]
        else s.put [(fPower g, q), (fPstate g, if q = psOn then psWaking else psEntering)]))) ∧
    (ps = psEntering → s.fld (fPower g) ≠ psOff →
      exec (.bankEnterDone b) s = .next (s.put [(fPstate g, psRetention)])) ∧
    (ps = psEntering → s.fld (fPower g) = psOff → s.after (.bankEnterDone b) (fun t =>
      g ∈ t.offBanks ∧ t = { s.put [(fPstate g, psOff)] with offBanks := t.offBanks })) ∧
    (ps = psWaking → g ∉ s.offBanks → exec (.bankWakeDone b) s = .next (s.put [(fPstate g, psOn)])) ∧
    (ps = psWaking → g ∈ s.offBanks → wake → exec (.bankWakeDone b) s = .next (s.put [(fPstate g, psClearing)])) ∧
    (ps = psWaking → g ∈ s.offBanks → ¬ wake → s.after (.bankWakeDone b) (fun t =>
      g ∉ t.offBanks ∧ t.regs = (s.put [(fPstate g, psOn)]).regs ∧
      ∀ a, bankOf a ≠ some g → t.byte a = s.byte a)) ∧
    (ps = psClearing → s.after (.bankClearDone b) (fun t =>
      g ∉ t.offBanks ∧ t.regs = (s.put [(fPstate g, psOn), (fScrub g, 0)]).regs ∧
      ∀ a, t.byte a = if bankOf a = some g then 0 else s.byte a)))

/-- The march engine tests the bank of MARCH_CTL when the bank is owned by MARCH and on, once what the old owner has under
way is done (R305). A test that meets no failing
bit of the bank leaves zeros, or with PRESERVE the contents; one whose failures soft repair may not mend withdraws the
bank (R321 to R323). A loft store takes the staged record, or is refused while one runs or when a secret record would
lose its mark. Done and verified, the record reads as staged and its count of stores goes up; otherwise every record
stays (R325, R327, R329 to R331). A digest of the boot engine that waited for the controller is stored next (R499,
R503). -/
def Obligations.MarchAndLoft : Prop :=
  (∀ (who : Agent) (fails : List (BitVec 11 × BitVec 9)) (again : Bool) (s : State),
    let c := s.reg (marchReg 0)
    let g := (bitsOf c 24 16).toNat
    let status (h r : Nat) : Word := BitVec.ofNat 32 (h * 2 ^ 16 + r)
    (direct who → s.powered 44 = true →
      let may : Prop := s.bit fMarchBusy = false ∧ s.fld (fOwnerKind g) = 4 ∧ s.fld (fPstate g) = psOn ∧
        s.bankPresent g = true
      (may → exec (.marchGo who) s = .next
        { s.setWords [(marchReg 4, status g 1), (marchReg 8, 0), (marchReg 0x10, 0), (marchReg 0x14, 0)] with
          march := some (g, c.getLsbD 1, c.getLsbD 2) }) ∧
      (¬ may → exec (.marchGo who) s = .next (s.refuse .banks 0x2000))) ∧
    (∀ h pres soft, s.march = some (h, pres, soft) → s.bit (fDraining h) = true →
      exec (.marchDone fails again) s = .next s) ∧
    (∀ h pres soft, s.march = some (h, pres, soft) → h < 320 → s.bit (fDraining h) = false →
      let fs := fails.filter (fun f => decide (f.1.toNat < bankSize h / 64))
      (fs = [] → s.after (.marchDone fails again) (fun t =>
        t.march = none ∧ t.reg (marchReg 4) = status h 2 ∧
        (∀ a, t.byte a = if pres = false ∧ bankOf a = some h then 0 else s.byte a) ∧
        (pres = false → t.bit (fScrub h) = false) ∧ t.bankPresent h = s.bankPresent h)) ∧
      (fs ≠ [] → soft = false → s.after (.marchDone fails again) (fun t =>
        t.march = none ∧ t.reg (marchReg 4) = status h 6 ∧ t.bankPresent h = false ∧
        t.fld (fOwnerKind h) = 0 ∧ t.bit ⟨bankCtl h + 4, 12, 12⟩ = true ∧
        t.bit ⟨0x10808000, 1, 1⟩ = true ∧ ∀ a, bankOf a ≠ some h → t.byte a = s.byte a)))) ∧
  (∀ (who : Agent) (r : Fin 2048) (secret : Bool) (s : State),
    (direct who →
      let bad : Prop := s.bit fLoftBusy = true ∨ (secret = false ∧ s.bit (fRecSecret r.val) = true)
      (bad → exec (.loftStoreGo who r secret) s = .next (s.refuse .loftCtl 0)) ∧
      (¬ bad → exec (.loftStoreGo who r secret) s = .next
        { s.put [(fLoftBusy, 1), (⟨loftReg 4, 26, 16⟩, BitVec.ofNat 32 r.val)] with
          store := some (r.val, secret, s.loftStage) })) ∧
    (∀ sec d, s.store = some (r.val, sec, d) →
      let worn := if 10000000 ≤ (s.fld (fRecCount r.val)).toNat then [((⟨loftReg 4, 3, 3⟩ : Fld), (1 : Word))] else []
      let rest : State := { s with store := none }
      s.start.digest = [] → exec (.loftStoreDone false) s =
        .next ((rest.put ([(fLoftBusy, 0)] ++ worn ++ [(⟨loftReg 4, 2, 1⟩, 2)])).present 0x17AD true 0) ∧
      (s.start.digest = [] → s.after (.loftStoreDone true) (fun t =>
        t.store = none ∧ t.bit fLoftBusy = false ∧ t.fld ⟨loftReg 4, 2, 1⟩ = 1 ∧
        t.toggles = (s.present 0x17AD false 0).toggles ∧
        (∀ q, q ≠ r.val → t.loftRec q = s.loftRec q) ∧ (t.loftRec r.val).data = d ∧
        (t.fld (fRecCount r.val)).toNat = min 0xFFFFFF ((s.fld (fRecCount r.val)).toNat + 1) ∧
        t.bit (fRecSecret r.val) = (sec || s.bit (fRecSecret r.val)))) ∧
      -- a digest kept meanwhile is stored next
      (s.start.digest ≠ [] → ∀ ok, s.after (.loftStoreDone ok) (fun t =>
        t.start.digest = [] ∧ t.bit fLoftBusy = true ∧ t.store = some (0x41, true, t.loftStage) ∧
        t.fld ⟨loftReg 4, 26, 16⟩ = 0x41 ∧ t.toggles = (s.present 0x17AD (!ok) 0).toggles))))

/-- A request that reaches the home of a line whose bank CORES own takes its place in the order received, and waits while
the line is busy; otherwise it opens a transaction: with no other holder the requester is sent the line EXCLUSIVE at
once, with sharers and RD_SHARED it is sent the line SHARED and joins them, and where a holder must downgrade or lose
the line a forward goes to every one of them. An UPGRADE of the only sharer is granted; one whose bit is clear is an
RD_UNIQUE. For a line of the system region the gateway asks the SoC for the data. A request of the host-side agent
comes from outside, while it has a credit. Where the set has no way, the least recently used line that is not busy is
recalled for the request, or with none the request is answered RETRY and a promise recorded (R340 to R342, R345 to
R347, R351, R352). -/
def Obligations.HomesTakeRequests : Prop :=
  ∀ (c : Fin 33) (line : BitVec 42) (k : CohKind) (m : CohMsg) (s u : State),
    let l := line.toNat
    let n := c.val
    let row : Instr := match k with
      | .rdShared => .rdShared c line
      | .rdUnique => .rdUnique c line
      | _ => .upgrade c line
    let used := s.dirClock + 1
    let takes (e : DEntry) (ms : List CohMsg) : Prop :=
      s.after row (fun t => u.homeSent t l (some e) ms)
    let line' : List CohMsg := [⟨.fillE, n, l, s.bankLine l⟩]
    let own (inv : Bool) : DEntry := ⟨[n], true, some { kind := .unique, req := n, inv := inv, fill := true }, used⟩
    let set := setOf l
    (k = .rdShared ∨ k = .rdUnique ∨ k = .upgrade) → s.homeOpen l = some true →
    (s.takeMsg k n l = some (m, u) ∨
      (n = 32 ∧ s.takeMsg k n l = none ∧ u = s ∧ isGranaryLine l = true ∧ s.reqQueued 32 < 8)) →
    s.promises = [] → s.wayAwaited l = false → (∀ q ∈ s.homeQ, q.line ≠ l) →
    s.leaving = [] → s.mode.goal ≠ some 1 →
    -- no entry
    (s.dentry l = none →
      ((s.setEntries set).length < 8 → isGwLine l = false → takes (own (k != .rdShared)) line') ∧
      ((s.setEntries set).length < 8 → isGwLine l = true → exec row s = .next
        ((({ u with dirClock := used } : State).setDentry l (some ⟨[], false,
          some { kind := .unique, req := n, inv := k != .rdShared, fetch := true }, used⟩)).ledgerSend
            (gwEntry (.gwFill l true) l none))) ∧
      (8 ≤ (s.setEntries set).length → ∀ v e, s.lruVictim set = some (v, e) → e.sharers ≠ [] → s.after row (fun t =>
        t.coh = u.coh ++ e.sharers.map (fun h => ⟨.snpInv, h, v, 0⟩) ∧ t.homeQ = u.homeQ ∧
        t.dentry v = some { e with
          txn := some { kind := .recall, wait := e.sharers, inv := true, next := some (n, k, l) }, used := used } ∧
        (∀ x, x ≠ v → t.dentry x = u.dentry x) ∧
        t.fld ⟨0x1070000C, 31, 0⟩ = (s.countUp ⟨0x1070000C, 31, 0⟩).fld ⟨0x1070000C, 31, 0⟩)) ∧
      (8 ≤ (s.setEntries set).length → s.lruVictim set = none → s.after row (fun t =>
        t.coh = u.coh ++ [⟨.retry, n, l, 0⟩] ∧ t.promises = [(set, n, l, false)] ∧ t.dir = u.dir ∧ t.homeQ = u.homeQ ∧
        t.fld ⟨0x10700008, 31, 0⟩ = (s.countUp ⟨0x10700008, 31, 0⟩).fld ⟨0x10700008, 31, 0⟩))) ∧
    (∀ e, s.dentry l = some e →
      let hs := e.sharers.filter (fun h => h != n)
      let mine : Prop := n ∈ e.sharers
      -- busy: the request has its place
      (∀ x, e.txn = some x → x.ready = false → (x.fetch = false ∨ x.data.isSome = true ∨ x.snoop.isSome = true) →
        exec row s = .next { u with homeQ := u.homeQ ++ [.cache n k l] }) ∧
      (e.txn = none →
        (k = .rdShared → hs = [] → isGwLine l = false → takes (own false) line') ∧
        (k = .rdShared → hs ≠ [] → e.excl = false → isGwLine l = false →
          takes ⟨n :: hs, false, some { kind := .shared, req := n, fill := true }, used⟩
            [⟨.fillS, n, l, s.bankLine l⟩]) ∧
        (k = .rdShared → hs ≠ [] → e.excl = true →
          takes { e with txn := some { kind := .shared, req := n, wait := hs }, used := used }
            (hs.map (fun h => ⟨.snpShared, h, l, 0⟩))) ∧
        (k = .rdUnique ∨ (k = .upgrade ∧ ¬ mine) → hs = [] → isGwLine l = false → takes (own true) line') ∧
        (k = .rdUnique ∨ (k = .upgrade ∧ ¬ mine) → hs ≠ [] →
          takes { e with txn := some { kind := .unique, req := n, wait := hs, inv := true }, used := used }
            (hs.map (fun h => ⟨.snpInv, h, l, 0⟩))) ∧
        (k = .upgrade → mine → hs = [] → takes ⟨[n], true, none, used⟩ [⟨.grantE, n, l, 0⟩]) ∧
        (k = .upgrade → mine → hs ≠ [] →
          takes { e with txn := some { kind := .upgrade, req := n, wait := hs, inv := true }, used := used }
            (hs.map (fun h => ⟨.snpInv, h, l, 0⟩)))))

/-- The home of a granary line waits until every forward has been answered; with the last answer it sends the fill or
the grant, or performs the access that waited. Data that a holder returns, in a forward's answer or in its writeback,
are written to the bank once; a writeback that crossed a forward is that forward's answer, and the evicting cache
takes WB_ACK. An eviction clears the sender's bit and takes WB_ACK, and COMP_ACK closes the transaction of a fill; the
host-side agent's answers and writebacks come from outside (R340, R342, R346, R349, R353, R354). -/
def Obligations.HomesTakeAnswers : Prop :=
  ∀ (c : Fin 33) (line : BitVec 42) (data : Line) (m : CohMsg) (e : DEntry) (x : Txn) (s u : State),
    let l := line.toNat
    let n := c.val
    let host (k : CohKind) : Prop := n = 32 ∧ s.takeMsg k n l = none ∧ u = s ∧ m.data = data
    let answers (k : CohKind) : Prop := s.takeMsg k n l = some (m, u) ∨ (host k ∧ s.hostSnooped l = true)
    let leaves (k : CohKind) : Prop := s.takeMsg k n l = some (m, u) ∨ (host k ∧ isGranaryLine l = true ∧ 32 ∈ e.sharers)
    let wait := x.wait.filter (fun h => h != n)
    let rest := e.sharers.filter (fun h => h != n)
    -- the entry once the holder has answered: an invalidated one holds the line no more
    let e' : DEntry := { e with sharers := if x.inv then rest else e.sharers, excl := false }
    let acks (i : Instr) (k : CohKind) (p : State → Prop) : Prop := answers k → s.after i p
    let evicts (i : Instr) (k : CohKind) (p : State → Prop) : Prop := leaves k → s.after i p
    let has (t : State) (d : Line) : Prop := t.bytes (l * 64) 64 = lineBytes d ∧ ∀ a, lineOf a ≠ l → t.byte a = u.byte a
    let back : CohMsg := ⟨.wbAck, n, l, 0⟩
    isGwLine l = false → (∀ q ∈ s.homeQ, q.line ≠ l) → s.promises = [] → s.leaving = [] → s.mode.goal ≠ some 1 →
    s.dentry l = some e →
    (e.txn = some x → n ∈ x.wait → x.fill = false → x.fetch = false → x.snoop = none →
      (n ∉ x.wbGot → ∀ p ∈ [(Instr.ackShared c line, CohKind.ackShared), (.ackInv c line, .ackInv)],
        (wait ≠ [] → acks p.1 p.2 (fun t =>
          u.homeSent t l (some { e' with txn := some { x with wait := wait } }) [])) ∧
        (wait = [] → x.kind = .shared → acks p.1 p.2 (fun t =>
          u.homeSent t l (some { e' with
              sharers := x.req :: e'.sharers.filter (fun h => h != x.req), txn := some { x with wait := [], fill := true } })
            [⟨.fillS, x.req, l, u.bankLine l⟩])) ∧
        (wait = [] → x.kind = .unique → acks p.1 p.2 (fun t =>
          u.homeSent t l (some { e' with
              sharers := [x.req], excl := true, txn := some { x with wait := [], fill := true } })
            [⟨.fillE, x.req, l, u.bankLine l⟩])) ∧
        (wait = [] → x.kind = .upgrade → acks p.1 p.2 (fun t =>
          u.homeSent t l (some { e' with sharers := [x.req], excl := true, txn := none })
            [⟨.grantE, x.req, l, 0⟩])) ∧
        (∀ ref a b, wait = [] → x.kind = .access → x.inv = false → x.acc = some ⟨ref, a, .read b⟩ → e.sharers ≠ [] →
          acks p.1 p.2 (fun t => t.dentry l = some { e' with txn := none } ∧
            t.coh = u.coh ∧ t.mem = u.mem ∧ t.answers = (u.deliver ref (u.bytes a b)).answers ∧
            t.threads = (u.deliver ref (u.bytes a b)).threads)) ∧
        (∀ ref a bs, wait = [] → x.kind = .access → x.inv = true → x.acc = some ⟨ref, a, .write bs⟩ → rest = [] →
          acks p.1 p.2 (fun t => t.dentry l = none ∧ t.coh = u.coh ∧ t.mem = (u.setBytes a bs).mem ∧
            t.answers = (u.deliver ref (u.bytes a bs.length)).answers))) ∧
      (wait = [] → x.kind = .shared → acks (.snpData c line false data) .snpDataS (fun t =>
        has t m.data ∧ t.coh = u.coh ++ [⟨.fillS, x.req, l, m.data⟩])) ∧
      (wait = [] → x.kind = .unique → acks (.snpData c line true data) .snpDataI (fun t =>
        has t m.data ∧ t.coh = u.coh ++ [⟨.fillE, x.req, l, m.data⟩])) ∧
      (n ∉ x.wbGot → acks (.invWbInflight c line) .invWb (fun t =>
        u.homeSent t l (some { e with txn := some { x with invWb := n :: x.invWb } }) [])) ∧
      (n ∈ x.wbGot → wait ≠ [] → acks (.invWbInflight c line) .invWb (fun t =>
        has t (x.data.getD 0) ∧ t.coh = u.coh ++ [back] ∧
        t.fld ⟨0x10700010, 31, 0⟩ = (s.countUp ⟨0x10700010, 31, 0⟩).fld ⟨0x10700010, 31, 0⟩)) ∧
      (n ∉ x.invWb → evicts (.wbData c line data) .wbData (fun t => u.homeSent t l (some { e with
        sharers := rest, txn := some { x with data := some m.data, wbGot := n :: x.wbGot } }) [])) ∧
      (n ∈ x.invWb → wait ≠ [] → evicts (.wbData c line data) .wbData (fun t => has t m.data ∧
        t.coh = u.coh ++ [back] ∧
        t.fld ⟨0x10700010, 31, 0⟩ = (s.countUp ⟨0x10700010, 31, 0⟩).fld ⟨0x10700010, 31, 0⟩))) ∧
    (e.txn = some x →
      (n ∉ x.wait → evicts (.wbData c line data) .wbData (fun t => has t m.data ∧
        t.dentry l = some { e with sharers := rest } ∧ t.coh = u.coh ++ [back])) ∧
      evicts (.evictClean c line) .evictClean (fun t => u.homeSent t l (some { e with sharers := rest }) [back])) ∧
    (e.txn = none →
      let left : Option DEntry := if rest = [] then none else some { e with sharers := rest, excl := false }
      evicts (.evictClean c line) .evictClean (fun t => u.homeSent t l left [back]) ∧
      evicts (.wbData c line data) .wbData (fun t => has t m.data ∧ t.dentry l = left ∧ t.coh = u.coh ++ [back])) ∧
    (e.sharers ≠ [] → s.takeMsg .compAck n l = some (m, u) → s.after (.compAck c line) (fun t =>
      u.homeSent t l (some { e with txn := none }) []))

/-- A data cache answers a forward by the state of its line: a dirty one with its data, one whose writeback is in
flight with INV_WB_INFLIGHT, any other without data, and it keeps the line SHARED or not at all. It takes a fill with
COMP_ACK and a grant, and the load that waited completes from the line; WB_ACK frees the entry of its writeback
buffer, RETRY leaves the request standing and PROCEED sends it again. Writing 0 to ENABLE or to SYS_CACHE, or
FLUSH_ALL, sends the lines it names, and the flush ends with the last WB_ACK (R335 to R337, R339, R343, R346, R348,
R352, R353). -/
def Obligations.DataCachesAnswer : Prop :=
  ∀ (c : Fin 33) (k : Core) (line : BitVec 42) (who : Agent) (m : CohMsg) (s u : State),
    let l := line.toNat
    let n := c.val
    let got (kind : CohKind) : Prop := s.takeMsg kind n l = some (m, u)
    let run (i : Instr) (t : State) : Prop := exec i s = .next t
    let x := u.cline n l
    let held (f : CLine → Option CLine) (v : State) : State := v.setCline n l (x.bind f)
    let taken (st : Nat) : State :=
      ((u.sendMsg .compAck n l 0).reqDone n l).setCline n l (some ⟨st, m.data, false⟩)
    (n ≠ 32 →
      (got .snpShared → run (.snpShared c line) (match x with
        | none => u.sendMsg .ackShared n l 0
        | some y =>
          if y.wb then u.sendMsg (if y.st = 3 then .invWb else .ackShared) n l 0
          else if y.st = 3 then (held (fun y => some { y with st := 1 }) u).sendMsg .snpDataS n l y.data
          else (held (fun y => some { y with st := 1 }) u).sendMsg .ackShared n l 0)) ∧
      (got .snpInv → run (.snpInv c line) (match x with
        | none => u.sendMsg .ackInv n l 0
        | some y =>
          if y.wb then u.sendMsg (if y.st = 3 then .invWb else .ackInv) n l 0
          else if y.st = 3 then (held (fun _ => none) u).sendMsg .snpDataI n l y.data
          else (held (fun _ => none) u).sendMsg .ackInv n l 0)) ∧
      (u.cacheQuiet n →
        (got .fillS → run (.fillS c line) (taken 1)) ∧ (got .fillE → run (.fillE c line) (taken 2)) ∧
        (got .grantE → ∀ y, x = some y → run (.grantE c line)
          ((u.reqDone n l).setCline n l (some { y with st := 2 }))) ∧
        (got .wbAck → run (.wbAck c line) ((u.setCline n l none).modFlush n (fun f => { f with out := f.out.erase l })))) ∧
      (∀ ref a b, u.dwait = [(n, ⟨ref, a, .read b⟩)] → lineOf a = l → u.flushS n = {} →
        s.bit (fFlushBusy n) = false → got .fillS →
        run (.fillS c line)
          (({ taken 1 with dwait := [] } : State).deliver ref (((lineBytes m.data).drop (a % 64)).take b))) ∧
      (∀ sys, got .wbAck → (∀ p ∈ u.dwait, p.1 ≠ n) → u.flushS n = ⟨64, 64, [l], sys⟩ →
        s.bit (fFlushBusy n) = true → s.after (.wbAck c line) (fun t =>
        t.bit (fFlushBusy n) = false ∧ t.cline n l = none ∧ t.flushS n = {}))) ∧
    (got .retry → run (.retry c line) u) ∧
    (got .proceed → ∀ q, u.creq.find? (fun r => r.1 == n && r.2.1 == l) = some (n, l, q) →
      run (.proceed c line) (u.sendMsg q n l 0)) ∧
    (direct who → s.corePresent k.val = true → s.flushS k.val = {} →
      (∀ p ∈ s.dwait, p.1 ≠ k.val) →
      let en := fDcEnable k.val
      let sy := fSysCache k.val
      -- the flush of the one line that is to leave, and of none
      let flushes (v t : State) (a : Nat) (y : CLine) : Prop :=
        t.bit (fFlushBusy k.val) = true ∧ t.cline k.val a = some { y with wb := true } ∧
        t.coh = v.coh ++ [⟨if y.st = 3 then .wbData else .evictClean, k.val, a, if y.st = 3 then y.data else 0⟩] ∧
        a ∈ (t.flushS k.val).out ∧ t.mem = v.mem
      let ends (v t : State) : Prop := t.bit (fFlushBusy k.val) = false ∧ t.coh = v.coh ∧ t.caches = v.caches
      (s.bit (fFlushBusy k.val) = true → run (.dcacheFlushAll who k) s) ∧
      (s.bit en = false → run (.dcacheDisable who k) s) ∧ (s.bit sy = false → run (.sysCacheDisable who k) s) ∧
      (s.linesOf k.val = [] →
        (s.bit (fFlushBusy k.val) = false → s.after (.dcacheFlushAll who k) (ends s)) ∧
        (s.bit en = true → s.after (.dcacheDisable who k) (fun t => t.bit en = false ∧ ends s t)) ∧
        (s.bit sy = true → s.after (.sysCacheDisable who k) (fun t => t.bit sy = false ∧ ends s t))) ∧
      (∀ a y, s.linesOf k.val = [(a, y)] → y.wb = false → s.cline k.val a = some y →
        s.requested k.val a = false →
        (s.bit (fFlushBusy k.val) = false → s.after (.dcacheFlushAll who k) (fun t => flushes s t a y)) ∧
        (s.bit en = true → s.after (.dcacheDisable who k) (fun t => t.bit en = false ∧ flushes s t a y)) ∧
        (s.bit sy = true → s.after (.sysCacheDisable who k) (fun t => t.bit sy = false ∧
          (if isGwLine a then flushes s t a y else ends s t)))))

/-- A held ledger request takes the lowest free entry, with its requester's virtual complex and generation as they
stand, once its share, its line, an index and the queue of its system initiator port allow, and enters that queue; the response of an
entry of the present generation is delivered and counts down its share, a stale one, or one of a complex that is being reset or
removed, is discarded, counted and presented as GEN_STALE; a timeout is a target error and leaves the entry in limbo, whose late response only frees it
(R363, R364, R366 to R369, R461). A waiting port B access is performed when it is presented again and meets no BUSY, but not
before an earlier one of its thread to the same bytes (R149, R314). GO opens a global fence over what is accepted
then, and is refused while one is open; BUSY clears once that has been performed or has entered limbo (R359). -/
def Obligations.LedgerWaitsAndFences : Prop :=
  (∀ (i : Nat) (tag : BitVec 14) (err : Bool) (data : Line) (e : LEntry) (ref : ReqRef) (s : State),
    let k := tag.toNat
    let quota (v : Nat) : Word := s.fld (fQuota v)
    let free := freeIndex s.ledger 0
    let held := { s with ledgerQ := s.ledgerQ.eraseIdx i }
    let tmo := (s.fld ⟨0x106C0000, 4, 0⟩).toNat
    let gone (u : State) : State := { u with ledger := Map.erase s.ledger k, fence := s.fence.erase k }
    let less (x : Fld) (u : State) : State := u.put [(x, BitVec.ofNat 32 ((s.fld x).toNat - 1))]
    let took (u : State) (vc : Option (Nat × Nat)) : State := { u with
      ledger := Map.set none s.ledger free (some { e with vc := vc, tmo := tmo })
      xq := s.xq ++ [(.toSip (sipPort e.addr), .sip free)] }
    let quiet : Prop := ∀ gt id, ref = .store gt id → ∀ o ∈ (s.thread gt).stores, o.id = id → o.quiet = false
    let stale (u : State) : State := (u.countUp ⟨0x106C0010, 31, 0⟩).present 0x17AA true 0
    let bytes := if let some bs := e.wr then bs else ((lineBytes data).drop (e.addr % 64)).take e.n
    (s.ledgerQ[i]? = some e → e.use = .access ref → isRemote e.addr = false →
      let clear : Prop := s.lineHeld e = false ∧ free < 16384 ∧ s.sipRoom (sipPort e.addr) = true
      let run (t : State) : Prop := exec (.ledgerIssue i) s = .next t
      (¬ clear → run s) ∧
      (clear → (∀ x ∈ s.ledgerQ.take i, s.canAllocate (s.tagged x) = false) →
        (s.reqTag e.reqr = none →
          (s.fld fNovcUsed < s.fld ⟨0x106C0008, 13, 0⟩ → run (took (held.countUp fNovcUsed) none)) ∧
          (s.fld ⟨0x106C0008, 13, 0⟩ ≤ s.fld fNovcUsed → run s)) ∧
        (∀ v g, s.reqTag e.reqr = some (v, g) →
          ((s.fld (fCount v)).toNat + 1 < (quota v).toNat → run (took (held.countUp (fCount v)) (some (v, g)))) ∧
          ((s.fld (fCount v)).toNat + 1 = (quota v).toNat →
            run (took ((held.countUp (fCount v)).present 0x17AA false 0) (some (v, g)))) ∧
          (quota v ≤ s.fld (fCount v) → run s)))) ∧
    (Map.get none s.ledger k = none → exec (.sipResponse tag err data) s = .next s.faultMinor) ∧
    (Map.get none s.ledger k = some e → s.sipSent k = false → exec (.sipResponse tag err data) s = .next s) ∧
    (Map.get none s.ledger k = some e → s.sipSent k = true → e.limbo = true → exec (.sipResponse tag err data) s = .next
      (less fLimbo ((gone s).countUp ⟨0x106C0018, 31, 0⟩))) ∧
    (Map.get none s.ledger k = some e → e.limbo = false → e.use = .access ref →
      let done (u : State) : State := if err then u.deliverError ref e.addr else u.deliver ref bytes
      (s.sipSent k = true →
        (e.vc = none → exec (.sipResponse tag err data) s = .next (done (less fNovcUsed (gone s)))) ∧
        (∀ v g, e.vc = some (v, g) → g = (s.fld (vcGen v)).toNat → s.fld (vcState v) ≠ 4 → s.fld (vcState v) ≠ 5 →
          exec (.sipResponse tag err data) s = .next (done (less (fCount v) (gone s)))) ∧
        (∀ v g, e.vc = some (v, g) → quiet → g = (s.fld (vcGen v)).toNat →
          s.fld (vcState v) = 4 ∨ s.fld (vcState v) = 5 →
          exec (.sipResponse tag err data) s = .next (stale (less (fCount v) (gone s)))) ∧
        (∀ v g, e.vc = some (v, g) → quiet → g ≠ (s.fld (vcGen v)).toNat → exec (.sipResponse tag err data) s = .next
          (stale (less (fOldCount v) (gone s))))) ∧
      (e.vc = none → exec (.ledgerTimeout tag) s = .next (
        (((less fNovcUsed (({ s with
            ledger := Map.set none s.ledger k (some { e with limbo := true })
            fence := s.fence.erase k } : State).countUp ⟨0x106C0014, 31, 0⟩)).countUp fLimbo).deliverError ref e.addr)))) ∧
    (Map.get none s.ledger k = none ∨ (Map.get none s.ledger k = some e ∧ e.limbo = true) →
      exec (.ledgerTimeout tag) s = .next s)) ∧
  (∀ (i : Nat) (clash : Bool) (who : Agent) (acc : MemAcc) (s : State),
    let rest := { s with portB := s.portB.eraseIdx i }
    let before : Prop := ∃ b ∈ s.portB.take i, acc.sameThread b = true
    (s.portB[i]? = some acc →
      (clash = true ∨ before → exec (.portBRetry i clash) s = .next s) ∧
      (clash = false → ¬ before → ∀ n, acc.act = .read n → exec (.portBRetry i clash) s = .next
        (rest.deliver acc.ref (s.bytes acc.addr n))) ∧
      (clash = false → ¬ before → ∀ bs, acc.act = .write bs → exec (.portBRetry i clash) s = .next
        (((rest.setBytes acc.addr bs).icacheDrop (lineOf acc.addr)).deliver acc.ref (s.bytes acc.addr bs.length)))) ∧
    (direct who → s.powered 44 = true →
      (s.bit fFenceBusy = true → exec (.dirFenceGo who) s = .next (s.refuse .dir 4)) ∧
      (s.bit fFenceBusy = false → s.after (.dirFenceGo who) (fun t =>
        t = { s.put [(fFenceBusy, 1)] with
          fence := t.fence, fenceAcc := s.waitingAccs, fenceReq := s.homeQ, fenceClock := s.dirClock } ∧
        ∀ k, k ∈ t.fence ↔ ∃ e, (k, some e) ∈ s.ledger ∧ e.limbo = false))) ∧
    (let open' : Prop := s.fence ≠ [] ∨ (∃ a ∈ s.fenceAcc, a ∈ s.waitingAccs) ∨ (∃ q ∈ s.fenceReq, q ∈ s.homeQ) ∨
        ∃ l e, (l, some e) ∈ s.dir ∧ e.txn.isSome = true ∧ e.used ≤ s.fenceClock
     (s.bit fFenceBusy = false ∨ open' → exec .fenceComplete s = .next s) ∧
     (s.bit fFenceBusy = true → ¬ open' → exec .fenceComplete s = .next
       { s.put [(fFenceBusy, 0)] with fence := [], fenceAcc := [], fenceReq := [] })))

/-! ## Transfers, buffers and windows -/

/-- COMMIT, GO and ABORT of a channel, by the register or by a trigger held on its inputs. A register-mode GO on an
idle channel whose configuration R381 allows begins the transfer, or completes one of no bytes at once; a ring GO
begins with a descriptor or is remembered; ABORT asks an active channel to stop; a reserved channel refuses all three
and ignores its triggers (R376, R380 to R382, R394, R395, R407, R483). A channel reads the descriptor at INDEX, in a
bin at once, in the system region through the ledger; it stops with DESC_BUS on a target error, and with STOPPED where it is being aborted; it goes idle with RING_EMPTY where it
does not own the descriptor, or looks again where a GO came meanwhile; it runs an owned one as a transfer, or ends it
with RESULT CFG (R381, R388, R389, R392, R394). The write-back of a descriptor leaves first its words from
+0x10 on and then CTRL with OWN 0 and the RESULT, and then the ring goes on, or stops (R390, R394). -/
def Obligations.ChannelCommandsAndRings : Prop :=
  (∀ (who : Agent) (ch : Chan) (i : Fin 2) (s : State),
    let c := ch.val
    let st := s.fld (fChState c)
    let no := s.refuse (.engine (c / 32)) (0x100 * (c % 32))
    let x := selChan c i.val
    let h := Map.get 0 s.held x
    let y := s.chan c
    let free : State := { s with held := Map.erase s.held x }
    let cfg := s.reg (chReg c 8)
    let n := s.reg (chReg c 0xC)
    let src := s.reg64 (chReg c 0x10)
    let dst := s.reg64 (chReg c 0x18)
    let begun (hop : Nat) (u : State) : State :=
      ((u.put [(fChState c, chActive)]).setWords [(chReg c 0x20, n)]).setChan c
        { cfg := cfg, count := n.toNat, src := src, dst := dst, hop := hop, phase := .move, seq := y.seq }
    let ring (hop : Nat) (u : State) : State :=
      (u.put [(fChState c, chActive), (fRingEmpty c, 0)]).setChan c { phase := .load, hop := hop, seq := y.seq }
    let aborted (u : State) : State := (u.put [(fChState c, chAborting)]).setChan c { y with late := y.issued }
    let mayGo : Prop := st ≠ chReserved ∧ (s.unreleased = true → c < 32)
    (s.chanPresent c = true →
      (direct who → s.enginePresent (c / 32) = true →
        (st = chReserved → exec (.chCommit who ch) s = .next no ∧ exec (.chGo who ch) s = .next no ∧
          exec (.chAbort who ch) s = .next no) ∧
        (st ≠ chReserved → exec (.chCommit who ch) s =
          .next ([8, 0xC, 0x10, 0x14, 0x18, 0x1C].foldl (fun u o => u.commitReg (chReg c o)) s)) ∧
        (¬ mayGo → exec (.chGo who ch) s = .next no) ∧
        (mayGo → s.bit (fRing c) = false →
          (st = chIdle → dmaOk cfg n.toNat src dst = true → n ≠ 0 → exec (.chGo who ch) s = .next (begun 0 s)) ∧
          (st = chIdle → dmaOk cfg n.toNat src dst = true → n = 0 → s.after (.chGo who ch) (fun t =>
            t.fld (fChState c) = chIdle ∧ t.fld (fChResult c) = 1 ∧ t.reg (chReg c 0x20) = 0 ∧
            t.shows (0x1700 + c) false 0)) ∧
          (¬ (st = chIdle ∧ dmaOk cfg n.toNat src dst = true) → exec (.chGo who ch) s = .next no)) ∧
        (mayGo → s.bit (fRing c) = true →
          (st = chIdle → exec (.chGo who ch) s = .next (ring 0 s)) ∧
          (st = chActive → exec (.chGo who ch) s = .next (s.put [(fGoPending c, 1)])) ∧
          (st ≠ chIdle → st ≠ chActive → exec (.chGo who ch) s = .next no)) ∧
        (st = chActive → exec (.chAbort who ch) s = .next (aborted s)) ∧
        (st = chIdle ∨ st = chAborting → exec (.chAbort who ch) s = .next s)) ∧
      (h ≠ 0 → st = chReserved → exec (.chTrigger ch i) s = .next free) ∧
      (h ≠ 0 → s.owner (ownChan c) = none →
        (i = 1 → st = chActive → exec (.chTrigger ch i) s = .next (aborted free)) ∧
        (i = 0 → mayGo → s.bit (fRing c) = false → st = chIdle → dmaOk cfg n.toNat src dst = true → n ≠ 0 →
          exec (.chTrigger ch i) s = .next (begun h free)) ∧
        (i = 0 → mayGo → s.bit (fRing c) = true → st = chIdle → exec (.chTrigger ch i) s = .next (ring h free)) ∧
        (i = 0 → st = chAborting → exec (.chTrigger ch i) s = .next s)))) ∧
  (∀ (ch : Chan) (q : ChanReq) (bs : List Byte) (u s : State),
    let c := ch.val
    let x := s.chan c
    let st := s.fld (fChState c)
    let a := s.descAddr c
    let has (job : Nat) (ans : Option (Option (List Byte))) : Prop :=
      x.out.find? (fun r => r.job == job) = some q ∧ q.ans = ans
    let none' (job : Nat) : Prop := x.out.find? (fun r => r.job == job) = none
    -- an access of the channel's own leaves through the ledger
    let sends (v : State) (job b n : Nat) (wr : Option (List Byte)) : State :=
      let y := v.chan c
      (v.setChan c { y with seq := y.seq + 1, out := y.out ++ [⟨job, y.seq, b, n, none⟩] }).ledgerSend
        (accessEntry (.chan c y.seq) (2048 + c) b n wr)
    let idle (v : State) : State := (v.put [(fChState c, chIdle)]).chanClear c
    let fails (r : Word) : State := (idle (s.put [(fChResult c, r)])).present (0x1700 + c) true x.hop
    let bin : Prop := a % 32 = 0 ∧ a < 0x800000 ∧ s.bankServes (a / 0x10000) (.gleaner (c / 32)) = true ∧
      s.bit (fDraining (a / 0x10000)) = false ∧
      (s.fld (fOwnerKind (a / 0x10000)) = 1 → s.openSlot (a / 0x10000 / 4) = true)
    (s.owner (ownChan c) = none → x.phase = .load → s.bit (fRing c) = true →
      let run (t : State) : Prop := exec (.descriptorLoad ch) s = .next t
      (st = chAborting → run (fails rsStopped)) ∧
      (st ≠ chAborting → none' 0 → s.region a = .system → run (sends s 0 a 32 none)) ∧
      (st ≠ chAborting → has 0 none → run s) ∧
      (st ≠ chAborting → has 0 (some none) → run (fails rsDescBus)) ∧
      (st ≠ chAborting → (has 0 (some (some bs)) ∧ u = s.chanTake c 0) ∨ (none' 0 ∧ bin ∧ u = s ∧ bs = s.bytes a 32) →
        let w (i : Nat) : Word := (wordsOf bs 8).getD i 0
        ((w 0).getLsbD 31 = false →
          run (if s.bit (fGoPending c) then u.put [(fGoPending c, 0)] else idle (u.put [(fRingEmpty c, 1)]))) ∧
        ((w 0).getLsbD 31 = true → bitsOf (w 0) 28 25 = 0 →
          let src := (w 2).toNat + 2 ^ 32 * ((w 3).toNat % 2 ^ 16)
          let dst := (w 4).toNat + 2 ^ 32 * ((w 5).toNat % 2 ^ 16)
          let y : ChanS := { u.chan c with
            cfg := w 1, count := (w 6).toNat, ctrl := w 0, srcHi := w 3, dstLo := w 4, dstHi := w 5 }
          (dmaOk (w 1) (w 6).toNat src dst = true → w 6 ≠ 0 → run
            (((u.put [(fChState c, chActive)]).setWords [(chReg c 0x20, w 6)]).setChan c
              { y with src := src, dst := dst, phase := .move })) ∧
          (dmaOk (w 1) (w 6).toNat src dst = false → s.after (.descriptorLoad ch) (fun t =>
            t.fld (fChState c) = st ∧ t.fld (fChResult c) = rsCfg ∧ t.reg (chReg c 0x20) = w 6 ∧
            t.chan c = { y with
              phase := .back, rd := 0, wr := 0, stage := [], bad := none, out := [], eng := false, tail := false,
              close := 0 } ∧ t.mem = s.mem))))) ∧
    (x.phase = .back → s.owner (ownChan c) = none →
      let r := s.fld (fChResult c)
      let tail := toBytes 4 x.dstLo.toNat ++ toBytes 4 x.dstHi.toNat ++ toBytes 4 x.count ++
        toBytes 4 (s.reg (chReg c 0x20)).toNat
      let ctrl := toBytes 4 (putBits (putBits x.ctrl 31 31 0) 23 20 r).toNat
      let next := ((s.fld (fRingIdx c)).toNat + 1) % 2 ^ (s.fld (fRingLog c)).toNat
      let run (t : State) : Prop := exec (.descriptorWriteback ch) s = .next t
      (x.tail = false → none' 1 → s.region (a + 16) = .system → run (sends s 1 (a + 16) 16 (some tail))) ∧
      (x.tail = false → has 1 (some none) → run (fails rsDescBus)) ∧
      (x.tail = false → has 1 (some (some bs)) → none' 2 → s.region a = .system →
        run (sends ((s.chanTake c 1).modChan c (fun y => { y with tail := true })) 2 a 4 (some ctrl))) ∧
      (x.tail = true → none' 2 → s.region a = .system → run (sends s 2 a 4 (some ctrl))) ∧
      (x.tail = false → has 1 none → run s) ∧ (x.tail = true → has 2 none → run s) ∧
      (x.tail = true → has 2 (some none) → run (fails rsDescBus)) ∧
      (x.tail = true → has 2 (some (some bs)) →
        let v := s.chanTake c 2
        let adv := v.put [(fRingIdx c, BitVec.ofNat 32 next)]
        let told := if x.ctrl.getLsbD 30 then adv.present (0x1700 + c) false x.hop else adv
        (r ≠ rsDone → run ((idle v).present (0x1700 + c) true x.hop)) ∧
        (r = rsDone → x.ctrl.getLsbD 29 = true → run (idle told)) ∧
        (r = rsDone → x.ctrl.getLsbD 29 = false → st = chAborting →
          run ((idle (told.put [(fChResult c, rsStopped)])).present (0x1700 + c) true x.hop)) ∧
        (r = rsDone → x.ctrl.getLsbD 29 = false → st ≠ chAborting →
          run (told.setChan c { phase := .load, hop := x.hop, seq := x.seq }))) ∧
      (bin → x.tail = false → none' 1 → none' 2 → (∀ w l b, HomeReq.agent w l b ∉ s.homeQ) →
        s.after (.descriptorWriteback ch) (fun t => t.bytes a 4 = ctrl ∧ t.bytes (a + 16) 16 = tail ∧
          (∀ b, (b < a ∨ (a + 4 ≤ b ∧ b < a + 16) ∨ a + 32 ≤ b) → t.byte b = s.byte b) ∧
          (r = rsDone → t.fld (fRingIdx c) = BitVec.ofNat 32 (next % 65536))))))

/-- A transfer in register mode that has moved its bytes is IDLE with RESULT DONE and no residue, and presents DONE;
bytes copied between two lines of the bins read as at the source. An aborted one stops with ABORTED and what was not
written as its residue. A target error outside leaves RESULT BUS, the residue and the address of the failure; an
engine error stops every active channel of the engine (R383, R384, R393 to R397). -/
def Obligations.ChannelsMoveBytes : Prop :=
  ∀ (ch : Chan) (e : Fin 4) (n : Word) (q : ChanReq) (s : State),
    let c := ch.val
    let x := s.chan c
    let ends (t : State) (result residue : Word) (b : Bool) : Prop :=
      t.fld (fChState c) = chIdle ∧ t.fld (fChResult c) = result ∧ t.reg (chReg c 0x20) = residue ∧
      t.chan c = { seq := x.seq } ∧ t.shows (0x1700 + c) b x.hop
    x.hop < 8 → (∀ w l b, HomeReq.agent w l b ∉ s.homeQ) →
    (s.chanPresent c = true → x.phase = .move → s.bit (fRing c) = false → x.bad = none → x.wr = 0 → x.stage = [] →
      x.close = 0 →
      (s.fld (fChState c) = chAborting → x.late = false → x.rd = 0 → x.out = [] → x.count ≠ 0 →
        s.after (.dmaTransferDone ch n) (fun t =>
          ends t rsAborted (BitVec.ofNat 32 x.count) true ∧ t.mem = s.mem)) ∧
      (s.fld (fChState c) = chActive → x.rd = 0 → x.out = [] → 2 ≤ n.toNat → bitsOf x.cfg 27 14 = 0 →
        0 < x.count → x.count ≤ 64 → s.stagingUsed (c / 32) + x.count ≤ 2048 →
        x.src < 0x800000 → x.dst < 0x800000 → x.src % 64 + x.count ≤ 64 → x.dst % 64 + x.count ≤ 64 →
        (x.src + x.count ≤ x.dst ∨ x.dst + x.count ≤ x.src) →
        (∀ a ∈ [x.src, x.dst], ∃ g, bankOf a = some g ∧ s.bankServes g (.gleaner (c / 32)) = true ∧
          s.bit (fDraining g) = false ∧ (s.fld (fOwnerKind g) = 1 → s.openSlot (g / 4) = true)) →
        s.after (.dmaTransferDone ch n) (fun t => ends t rsDone 0 false ∧
          t.bytes x.dst x.count = s.bytes x.src x.count ∧ s.sameMemBut t x.dst x.count)) ∧
      -- the first source access failed: none of the destination is written
      (x.out = [q] → q.job = 0 → q.ans = some none → q.addr < 2 ^ 48 → 0 < x.count → x.count < 2 ^ 32 →
        cfgSwap x.cfg = 0 →
        (∀ p < x.count, s.inBanks (x.dstS.at p) = false ∧ inCtl (x.dstS.at p) = false) →
        (s.fld (fChState c) = chActive ∨ s.fld (fChState c) = chAborting) →
        s.after (.dmaAccessFail ch) (fun t =>
          ends t rsBus (BitVec.ofNat 32 x.count) true ∧ t.mem = s.mem ∧
          t.reg (chReg c 0x38) = BitVec.ofNat 32 q.addr ∧
          t.reg (chReg c 0x3C) = BitVec.ofNat 32 (q.addr / 2 ^ 32)))) ∧
    (s.enginePresent e.val = true →
      (∀ j < 32, s.fld (fChState (32 * e.val + j)) ≠ chActive ∧ s.fld (fChState (32 * e.val + j)) ≠ chAborting) →
      exec (.engineError e) s = .next
        (((s.put [(⟨0x10608000 + 0x10000 * e.val, 1, 1⟩, 1)]).present (0x17A4 + e.val) false 0).faultMinor)) ∧
    (s.enginePresent (c / 32) = true → x.phase = .load → s.fld (fChState c) = chActive →
      (∀ j, j ≠ c → j / 32 = c / 32 → s.fld (fChState j) = chIdle) →
      s.after (.engineError (BitVec.toFin (BitVec.ofNat 2 (c / 32)))) (fun t => ends t rsEngine (s.reg (chReg c 0x20)) true))

/-- The manager enables a pool that R401 allows, empty but for its fresh handles, and disables one; an enable R401
forbids and any other agent's request are refused. ALLOC takes the handle cached last, or the null handle from an
empty pool, and waits while the cache is empty; a refill takes 16 handles of the stack top or fresh ones; a spill
moves the 16 oldest to the stack; FREE caches a handle that is out, or waits while the cache of 32 is full, and is
refused for any other; the stack in the system region is reached through the ledger (R400 to R406).
ENABLE reserves the silo's channel. A put is queued with its source, the time and its number, or counted as an
overrun; the oldest becomes a record of 256 bytes at WRITE_COUNT, unless the ring is full; TRIGGER keeps AFTER_TRIGGER
more puts and then stops the silo, until REARM (R409 to R414). -/
def Obligations.PoolsAndSilo : Prop :=
  (∀ (who : Agent) (pool : Pool) (h : Word) (q : ChanReq) (bs : List Byte) (s : State),
    let p := pool.val
    let x := s.pool p
    let on := s.bit (fPoolOn p)
    let n := s.poolCount p
    let low : Prop := s.poolLevel p - 1 = (s.fld ⟨poolReg p 0x20, 25, 0⟩).toNat
    let no := s.refuse .bm (0x40 * p)
    let stack (sp : Nat) : Nat := s.reg64 (poolReg p 0x10) + 4 * sp
    let top := stack x.sp
    let b := (s.fld fBmChannel).toNat
    let job (k : Nat) : Option ChanReq := (s.chan b).out.find? (fun r => r.job == k)
    let asked (t : State) (k a : Nat) : Prop := ∃ r ∈ (t.chan b).out, r.job = k ∧ r.addr = a ∧ r.n = 64 ∧ r.ans = none
    let kept := x.cache.take (x.cache.length - 16)
    let oldest := (x.cache.drop (x.cache.length - 16)).reverse
    let others (t : State) : Prop := ∀ j, j ≠ p → t.pool j = s.pool j
    s.powered 45 = true → direct who → x.ops = [] →
    (on = true → exec (.poolEnable who pool) s = .next s) ∧
    (on = false → isManager who = false → exec (.poolEnable who pool) s = .next no) ∧
    (on = false → isManager who = true → s.poolMayEnable p = false → exec (.poolEnable who pool) s = .next no) ∧
    (on = false → isManager who = true → s.poolMayEnable p = true →
      exec (.poolEnable who pool) s = .next ((s.put [(fPoolOn p, 1)]).setPool p {})) ∧
    (on = false → exec (.poolDisable who pool) s = .next s) ∧
    (on = true → isManager who = false → exec (.poolDisable who pool) s = .next no) ∧
    (on = true → isManager who = true →
      s.after (.poolDisable who pool) (fun t => t.bit (fPoolOn p) = false ∧ t.pool p = {} ∧ t.poolLevel p = 0)) ∧
    (s.poolLevel p = 0 → s.after (.poolAlloc who pool) (fun t =>
      t.answers = s.answers ++ [(s.reqCtr, some (toBytes 4 0xFFFFFFFF))] ∧ t.pool p = x ∧
      t.bit ⟨0x10681018 + 4 * (p / 32), p % 32, p % 32⟩ = true ∧ (∃ l, Routed.event 0x17A8 true 0 l ∈ t.routed))) ∧
    (∀ k r, x.cache = k :: r → s.poolLevel p ≠ 0 → s.after (.poolAlloc who pool) (fun t =>
      t.answers = s.answers ++ [(s.reqCtr, some (toBytes 4 k.toNat))] ∧ t.pool p = { x with cache := r } ∧
      (low → t.bit ⟨0x10681010 + 4 * (p / 32), p % 32, p % 32⟩ = true ∧
        ∃ l, Routed.event 0x17A8 false 0 l ∈ t.routed))) ∧
    (x.cache = [] → s.poolLevel p ≠ 0 → exec (.poolAlloc who pool) s = .next
      (({ s with reqCtr := s.reqCtr + 1 } : State).setPool p { x with ops := [.alloc (ReqRef.host s.reqCtr)] })) ∧
    (on = true → x.cache.length < 8 → job (poolRead p) = none →
      (x.sp = 0 → s.after (.poolRefill pool) (fun t =>
        let m := min 16 (n - x.fresh)
        t.pool p = { x with
          cache := ((List.range m).map (fun i => BitVec.ofNat 32 (2 ^ 26 * p + x.fresh + i))).reverse ++ x.cache
          fresh := x.fresh + m } ∧ others t ∧ t.mem = s.mem)) ∧
      (16 ≤ x.sp → x.moving = [] → s.region (stack (x.sp - 16)) = .system → s.after (.poolRefill pool) (fun t =>
        t.pool p = x ∧ asked t (poolRead p) (stack (x.sp - 16)) ∧ t.mem = s.mem))) ∧
    (on = true → x.cache.length ≤ 16 → job (poolRead p) = some q → q.ans = some (some bs) →
      s.after (.poolRefill pool) (fun t =>
        t.pool p = { x with cache := (wordsOf bs 16).reverse ++ x.cache, sp := x.sp - 16 } ∧ others t ∧ t.mem = s.mem)) ∧
    (on = true → 24 < x.cache.length → x.moving = [] → (∀ r ∈ (s.chan b).out, r.job ≠ poolRead p) →
      job (poolWrite p) = none →
      (s.region top = .system → s.after (.poolSpill pool) (fun t =>
        t.pool p = { x with cache := kept, moving := oldest } ∧ asked t (poolWrite p) top ∧ t.mem = s.mem)) ∧
      (top % 64 = 0 → top < 0x800000 → s.bankServes (top / 0x10000) (.gleaner (b / 32)) = true →
        s.bit (fDraining (top / 0x10000)) = false →
        (s.fld (fOwnerKind (top / 0x10000)) = 1 → s.openSlot (top / 0x10000 / 4) = true) →
        s.after (.poolSpill pool) (fun t =>
          t.pool p = { x with cache := kept, moving := [], sp := x.sp + 16 } ∧
          t.bytes top 64 = oldest.flatMap (fun k => toBytes 4 k.toNat) ∧ s.sameMemBut t top 64))) ∧
    (on = true → x.moving ≠ [] → job (poolWrite p) = some q → q.ans = some (some bs) →
      s.after (.poolSpill pool) (fun t => t.pool p = { x with moving := [], sp := x.sp + 16 } ∧ others t ∧ t.mem = s.mem)) ∧
    (p = (bitsOf h 31 26).toNat →
      let i := (bitsOf h 25 0).toNat
      let bad : Prop := on = false ∨ h = 0xFFFFFFFF ∨ x.fresh ≤ i ∨ s.poolLevel p = n
      (bad → s.after (.bmFree who h) (fun t =>
        t = { (s.setWords [(0x10681020, h)]).refuse .bm 0x1008 with pools := t.pools } ∧ t.pool p = x ∧ others t)) ∧
      (¬ bad → s.after (.bmFree who h) (fun t => t = { s with pools := t.pools } ∧ others t ∧
        t.pool p = if x.cache.length < 32 then { x with cache := h :: x.cache } else { x with ops := [.free h] })))) ∧
  (∀ (who : Agent) (lo hi : Word) (lag : BitVec 3) (s : State),
    let c := (s.fld fSiloChannel).toNat
    let on := s.bit fSiloOn
    let x := s.silo
    let after := s.bit fTriggered
    let stopped : Prop := s.bit fSiloStopped = true ∨ (after = true ∧ x.post = 0)
    let drop (u : State) : State := (u.countUp ⟨siloReg 0x28, 31, 16⟩).present 0x17A9 true 0
    let full (l : List Put) : Word := boolWord (decide (8 ≤ l.length))
    let keeps (u : State) (y : SiloS) : State := { u with silo := y }.put [(⟨siloReg 4, 0, 0⟩, full y.queue)]
    let wr := s.reg (siloReg 0x10)
    let ring := s.siloRing
    s.powered 45 = true →
    (direct who →
      (on = true → exec (.siloEnable who) s = .next s) ∧
      (on = false → s.mayReserve c = false → exec (.siloEnable who) s = .next (s.refuse .bm 0x2000)) ∧
      (on = false → s.mayReserve c = true → s.after (.siloEnable who) (fun t =>
        t.bit fSiloOn = true ∧ t.fld (fChState c) = chReserved ∧ t.reg (siloReg 0x10) = 0 ∧ t.reg (siloReg 0x14) = 0 ∧
        t.bit fTriggered = false ∧ t.bit fSiloStopped = false ∧ t.silo = { stamp := x.stamp })) ∧
      (on = true → stopped → exec (.siloPut who lo hi) s = .next (s.countUp ⟨siloReg 0x28, 15, 0⟩)) ∧
      (on = false ∨ (¬ stopped ∧ (8 ≤ x.queue.length ∨ putOk lo.toNat hi = false)) →
        exec (.siloPut who lo hi) s = .next (drop s)) ∧
      (on = true → ¬ stopped → x.queue.length < 8 → putOk lo.toNat hi = true →
        let p : Put := ⟨lo.toNat, hi, putSource who, s.tbPast, s.tcycle, x.seq + 1, after⟩
        exec (.siloPut who lo hi) s = .next (keeps s { x with
          queue := x.queue ++ [p], seq := x.seq + 1, post := if after then x.post - 1 else x.post })) ∧
      (on = true → after = false → s.after (.siloTrigger who) (fun t =>
        let post := (s.fld ⟨siloReg 0, 23, 8⟩).toNat
        t.bit fTriggered = true ∧ t.reg (siloReg 0x18) = wr ∧ t.silo = { x with post := post } ∧
        (post = 0 → t.bit fSiloStopped = true) ∧ (post ≠ 0 → t.bit fSiloStopped = s.bit fSiloStopped))) ∧
      (on = false ∨ after = true → exec (.siloTrigger who) s = .next s) ∧
      exec (.siloRearm who) s = .next (s.put [(fTriggered, 0), (fSiloStopped, 0)])) ∧
    (∀ p rest, x.queue = p :: rest → p.after = false →
      (s.bit ⟨siloReg 0, 30, 30⟩ = false → (wr - s.reg (siloReg 0x14)).toNat = ring →
        exec (.siloRecordWrite lag) s = .next (drop (keeps s { x with queue := rest }))) ∧
      (s.bit ⟨siloReg 0, 30, 30⟩ = true → p.addr < 0x800000 → x.writing = [] → (s.chan c).out = [] →
        let served (g : Nat) : Prop := s.bankServes g (.gleaner (c / 32)) = true ∧ s.bit (fDraining g) = false ∧
          (s.fld (fOwnerKind g) = 1 → s.openSlot (g / 4) = true)
        let n := (bitsOf p.hi 23 16).toNat
        p.addr % 64 + n ≤ 64 → served (p.addr / 0x10000) →
        let base := s.reg64 (siloReg 8) + 256 * (wr.toNat % ring)
        let l := s.siloLag p lag.toNat
        let time := p.hist.getD l (0, 0)
        let rec' := siloRecord p time.1 time.2 (s.bytes p.addr n)
        let y (left : List Nat) : SiloS :=
          { x with queue := rest, writing := [⟨p.seq, base, rec', left⟩], stamp := p.cycle - l }
        (s.region base = .system → s.after (.siloRecordWrite lag) (fun t =>
          t.silo = y [0, 1, 2, 3] ∧ t.reg (siloReg 0x10) = wr + 1 ∧ t.mem = s.mem ∧
          (t.chan c).out.map (fun r => (r.job, r.addr, r.n)) =
            (List.range 4).map (fun i => (4 * p.seq + i, base + 64 * i, 64)))) ∧
        (base % 256 = 0 → base < 0x800000 → served (base / 0x10000) → s.after (.siloRecordWrite lag) (fun t =>
            t.silo = y [] ∧ t.reg (siloReg 0x10) = wr + 1 ∧ t.bytes base 256 = rec' ∧
            s.sameMemBut t base 256)))) ∧
    (∀ q r, x.writing = q :: r → (∀ z ∈ x.writing, z.left = []) → s.after .siloRecordDone (fun t =>
      t.silo = { x with writing := r } ∧ t.reg (siloReg 0x2C) = BitVec.ofNat 32 q.seq ∧
      ∃ l, Routed.event 0x17A9 false 0 l ∈ t.routed)))

/-- A beat at the data window of a context reads or posts at BULK_ADDR, which advances; one with a byte the context
may not reach moves nothing, answers an error and shows that byte, and the later beats of its burst are not performed.
A beat waits while its bank drains, and for a burst buffer. Posted writes are performed oldest first, one that meets
BUSY again later, and a read of BULK_STATUS or BULK_ADDR waits for them. BUSY retries of bin accesses are counted. A
write of BULK_ADDR drops what was prefetched, and one past the bins and the granary is refused (R49, R305, R415 to
R421). -/
def Obligations.BulkPortBeats : Prop :=
  ∀ (ctx : Fin 65) (acc : HostAccess) (beat : Beat) (clash addr : Bool) (data : Word) (s : State),
    let k := ctx.val
    let x := s.bulk k
    let a := (s.fld (fBulkAddr k)).toNat
    let n := (accessForm acc).1
    let wr := (accessForm acc).2
    let at' (u : State) (b : Nat) : State := u.put [(fBulkAddr k, BitVec.ofNat 32 b)]
    let run (t : State) : Prop := exec (.bulkWindowAccess ctx acc beat) s = .next t
    let errs (u : State) : State := { u with answers := s.answers ++ [(s.reqCtr, none)], reqCtr := s.reqCtr + 1 }
    let off := if addr then 0 else 8
    let busy (h : Nat) : State :=
      if h = 0 then s
      else s.put [(fBulkBusy k, 1),
        (⟨bulkReg k 0x18, 31, 0⟩, BitVec.ofNat 32 (min 0xFFFFFFFF ((s.fld ⟨bulkReg k 0x18, 31, 0⟩).toNat + h)))]
    let room : Prop := (x.posted.map (fun w => w.2.length)).sum + (wr.getD []).length ≤ 4096
    let holds : Prop := x.posted ≠ [] ∨ x.pre ≠ []
    (x.bad = true →
      (beat.cont = true → run (errs s)) ∧
      (beat.cont = false → exec (.bulkWindowAccess ctx acc beat) s =
        exec (.bulkWindowAccess ctx acc beat) (s.setBulk k { x with bad := false }))) ∧
    (x.bad = false →
      (∀ b, s.bulkBad k a n = some b → run (errs
        ((at' ((s.put [(fBulkErr k, 1)]).setWords [(bulkReg k 0xC, BitVec.ofNat 32 b)]) b).setBulk k { x with bad := true }))) ∧
      (s.bulkBad k a n = none →
        (s.bulkDraining a n = true ∨ x.rst = true → run s) ∧
        (s.bulkDraining a n = false → x.rst = false →
          (∀ bs, wr = some bs → holds ∨ (s.bulks = [] ∧ s.bulkWait = []) →
            (room → run
              ((at' (s.setBulk k { x with posted := x.posted ++ [(a, bs)], pre := [] }) (a + bs.length)).answer [])) ∧
            (¬ room → run s)) ∧
          (wr.isSome = true → ¬ holds → s.bulkWait = [] →
            2 ≤ (s.bulks.filter (fun p => p.1 != k && p.2.holds)).length →
            (∀ p ∈ s.bulks, p.1 ≠ k → p.2.pre = [] ∨ p.2.posted ≠ []) → run { s with bulkWait := [k] }) ∧
          (wr = none → s.bit (fPrefetch k) = true → x.preAt = a → n ≤ x.pre.length →
            run ((at' (s.setBulk k { x with pre := x.pre.drop n, preAt := a + n }) (a + n)).answer (x.pre.take n ++ [0]))) ∧
          (wr = none → s.bit (fPrefetch k) = false → a + n ≤ 0x800000 → a % 64 + n ≤ 64 →
            let h := if n = 0 then 0 else beat.busy.toNat
            run ((at' (busy h) (a + n)).answer (s.bytes a n ++ [if h = 0 then 0 else 1])))))) ∧
    (∀ p bs r, x.posted = (p, bs) :: r → p < 0x800000 → 0 < bs.length → p % 64 + bs.length ≤ 64 →
      (clash = true → exec (.bulkWritePerform ctx clash) s = .next (busy 1)) ∧
      (clash = false → s.after (.bulkWritePerform ctx clash) (fun t => t.bytes p bs.length = bs ∧
        s.sameMemBut t p bs.length ∧ (t.bulk k).posted = r ∧
        (r = [] → (t.bulk k).reads = [] ∧ t.bit ⟨bulkReg k 8, 0, 0⟩ = false)))) ∧
    (x.posted = [] → x.reads = [] → s.after (.bulkStatusRead ctx addr) (fun t =>
      ∃ v, t.answers = s.answers ++ [(s.reqCtr, some (toBytes 4 v))] ∧ v = (t.reg (bulkReg k off)).toNat)) ∧
    (x.posted ≠ [] → s.after (.bulkStatusRead ctx addr) (fun t => t.answers = s.answers ∧
      (t.bulk k).reads = x.reads ++ [(ReqRef.host s.reqCtr, bulkReg k off)])) ∧
    ((bitsOf data 27 0).toNat < 0xC000000 → exec (.bulkAddrWrite ctx data) s =
      .next ((s.setBulk k { x with pre := [] }).put [(fBulkAddr k, bitsOf data 27 0)])) ∧
    (0xC000000 ≤ (bitsOf data 27 0).toNat → exec (.bulkAddrWrite ctx data) s = .next (s.refuse .hv (0x100 + 0x20 * k)))

/-- The window of a virtual complex selects revision 1, or 2 where it may. Its aperture performs an access that
reaches a resource of the complex, and answers any other with an error. A mailbox ring takes 64 entries and counts
what it drops; the oldest entry of the host moves into DEST's inbox, and a post into an empty ring forces the host
vector (R465, R467 to R471). The SoC's reset request resets the complex as RESET does (R582). -/
def Obligations.WindowsAndMailboxes : Prop :=
  ∀ (vc : VC) (who : Agent) (gt : GT) (data lo hi : Word) (write : Option Word) (s : State),
    let v := vc.val
    let x := s.vc v
    let r := (bitsOf data 1 0).toNat
    let st := s.fld (vcState v)
    let pair : BitVec 64 := hi ++ lo
    let dest := (s.fld (fMbxDest v)).toNat
    let vec := (s.fld (fMbxVector v)).toNat
    let apt := s.aptAddr v
    s.powered 44 = true →
    (r = x.select → exec (.ifaceSelect vc data) s = .next s) ∧
    (r ≠ x.select → r = 1 ∨ (r = 2 ∧ s.fld (fMaxRev v) = 2) →
      exec (.ifaceSelect vc data) s = .next (s.modVc v (fun y => { y with select := r }))) ∧
    (r ≠ x.select → ¬ (r = 1 ∨ (r = 2 ∧ s.fld (fMaxRev v) = 2)) →
      exec (.ifaceSelect vc data) s = .next (s.refuseWin v 8)) ∧
    (x.select = 2 → s.aptReach v apt = false → exec (.apertureAccess vc write) s = .next
      { s.put [(⟨vcwReg v 0xC, 3, 3⟩, 1)] with answers := s.answers ++ [(s.reqCtr, none)], reqCtr := s.reqCtr + 1 }) ∧
    (x.select ≠ 2 → exec (.apertureAccess vc write) s = .next (s.answer (if write.isSome then [] else toBytes 4 0))) ∧
    (x.select = 2 → apt = tReg gt.val 0x08 → s.owner (ownThread gt.val) = some v → s.corePresent (gt.val / 64) = true →
      (write = none → s.after (.apertureAccess vc write) (fun t =>
        t.answers = s.answers ++ [(s.reqCtr, some (toBytes 4 (s.reg apt).toNat))])) ∧
      (∀ w, write = some w → s.fld (fState gt.val) = stIdle → s.after (.apertureAccess vc write) (fun t =>
        t.answers = s.answers ++ [(s.reqCtr, some [])] ∧ t.reg apt >>> 2 = w >>> 2))) ∧
    (exec (.mbxTx vc lo hi) s = .next (
      if x.fromHost.length < 64 then s.modVc v (fun y => { y with fromHost := x.fromHost ++ [pair] })
      else (s.countUp ⟨vctReg v 0x1C, 31, 16⟩).refuseWin v 0x100)) ∧
    (let may : Prop := s.bit (fMbxDestValid v) = true ∧ s.owner (ownThread dest) = some v ∧ st = vcActive ∧
        s.corePresent (dest / 64) = true ∧ (s.thread dest).inbox.length < 8
     (x.fromHost = [] ∨ ¬ may → exec (.mbxMove vc) s = .next s) ∧
     (∀ y rest, x.fromHost = y :: rest → may → exec (.mbxMove vc) s = .next
       ((s.modVc v (fun z => { z with fromHost := rest })).modThread dest (fun t => { t with inbox := t.inbox ++ [y] })))) ∧
    (let mine : Prop := ∃ g : GT, who = .thread g ∧ s.owner (ownThread g.val) = some v
     (¬ mine → isManager who = false → exec (.vcMbxPost who vc lo hi) s = .next (s.refuse .vct (0x40 * v + 0x10))) ∧
     (mine → st = vcResetting ∨ st = vcRemoving → exec (.vcMbxPost who vc lo hi) s = .next s) ∧
     (mine → st ≠ vcResetting → st ≠ vcRemoving → 64 ≤ x.toHost.length →
       exec (.vcMbxPost who vc lo hi) s = .next (s.countUp ⟨vctReg v 0x1C, 15, 0⟩)) ∧
     (mine → st ≠ vcResetting → st ≠ vcRemoving → x.toHost.length < 64 →
       let u := s.modVc v (fun y => { y with toHost := x.toHost ++ [pair] })
       let rings : Prop := x.toHost = [] ∧ s.bit (fMbxVecValid v) = true ∧ s.owner (ownVec vec) = some v
       (¬ rings → exec (.vcMbxPost who vc lo hi) s = .next u) ∧
       (rings → exec (.vcMbxPost who vc lo hi) s = .next
         { u with routed := s.routed ++ [.force (selVec vec) 0 (s.vecTag (selVec vec))] }))) ∧
    (exec (.mbxRx vc) s = .next (match x.toHost with
      | [] => s.answer (toBytes 8 0)
      | y :: rest => (s.modVc v (fun z => { z with toHost := rest })).answer (toBytes 8 y.toNat))) ∧
    (st ≠ vcActive → st ≠ vcFrozen → exec (.vcrReq vc) s = .next ((s.refuse .vct (0x40 * v)).answer [0])) ∧
    (st = vcActive ∨ st = vcFrozen → s.after (.vcrReq vc) (fun t => ∃ u,
      exec (.vcReset .manager vc) s = .next u ∧ t = u.answer [1]))

/-! ## Virtual complexes, twins and the winnower -/

/-- The manager's CREATE, RESET and REMOVE act by STATE as R459 lists, and every other request is refused. RESET and
REMOVE stop what the complex owns at once, and empty its mailboxes and window; when QUARANTINE is not presented the
generation advances, the ledger counts its entries as old, and the complex is ACTIVE, or FREE with its owner entries
cleared, a bank's under SCRUB, and its quota back in the reserve. The manager gives and takes owner bytes of stopped
units (R370, R451, R454, R455, R458 to R460, R463). -/
def Obligations.VirtualComplexCommands : Prop :=
  ∀ (who : Agent) (vc : VC) (gt : GT) (tm : Timer) (off : Fin 16384) (data : Word) (s : State),
    let v := vc.val
    let st := s.fld (vcState v)
    let no := s.refuse .vct (0x40 * v)
    let quiet (w : Word) (t : State) : Prop := t.fld (vcState v) = w ∧ t.vc v = {} ∧ t.fld (vcGen v) = s.fld (vcGen v)
    s.powered 44 = true →
    (isManager who = false → ∀ i ∈ [Instr.vcCreate who vc, .vcReset who vc, .vcRemove who vc], exec i s = .next no) ∧
    (isManager who = true →
      (st = vcFree → exec (.vcCreate who vc) s = .next (s.put [(vcState v, vcActive)])) ∧
      (st ≠ vcFree → exec (.vcCreate who vc) s = .next no) ∧
      (st ≠ vcActive → st ≠ vcFrozen → exec (.vcReset who vc) s = .next no) ∧
      (st ≠ vcFree → st ≠ vcActive → st ≠ vcFrozen → exec (.vcRemove who vc) s = .next no) ∧
      (∀ i w, (i = Instr.vcReset who vc ∧ w = vcResetting ∧ (st = vcActive ∨ st = vcFrozen)) ∨
          (i = Instr.vcRemove who vc ∧ w = vcRemoving ∧ (st = vcFree ∨ st = vcActive ∨ st = vcFrozen)) →
        (s.ownsOnly v [] [] → s.after i (quiet w)) ∧
        (s.ownsOnly v [gt.val] [] → (s.thread gt.val).delayed = [] → (s.thread gt.val).twin = none →
          s.after i (fun t => quiet w t ∧ t.fld (fState gt.val) = stIdle ∧ (t.thread gt.val).ops = [] ∧
            (t.thread gt.val).inbox = [] ∧ (∀ r, (t.thread gt.val).rd r = 0) ∧
            (t.thread gt.val).flags = ⟨false, false, false, false⟩)) ∧
        (s.ownsOnly v [] [tm.val] → s.after i (fun t => quiet w t ∧ t.bit (fRunning tm.val) = false ∧
          t.bit (fArm tm.val) = false ∧ (t.tmr tm.val).caps = [])))) ∧
    ((st ≠ vcResetting ∧ st ≠ vcRemoving) ∨ s.quarantine v = true → exec (.vcGenAdvance vc) s = .next s) ∧
    (s.quarantine v = false →
      let count := (s.fld (fCount v)).toNat
      let old := (s.fld (fOldCount v)).toNat
      let moved (t : State) : Prop := (t.fld (vcGen v)).toNat = ((s.fld (vcGen v)).toNat + 1) % 4096 ∧
        t.fld (fCount v) = 0 ∧ (old + count < 2 ^ 14 → (t.fld (fOldCount v)).toNat = old + count) ∧
        (old = 0 → t.fld (fOldGen v) = s.fld (vcGen v))
      (st = vcResetting → s.after (.vcGenAdvance vc) (fun t => t.fld (vcState v) = vcActive ∧ moved t)) ∧
      (st = vcRemoving → (∀ p < 64, s.bit (fPoolVcValid p) = false) → s.after (.vcGenAdvance vc) (fun t =>
        t.fld (vcState v) = vcFree ∧ moved t ∧ t.fld (fQuota v) = 0 ∧
        t.fld fReserve = bitsOf (s.fld fReserve + s.fld (fQuota v)) 13 0 ∧
        (∀ o, s.ownedBy v 0x2000 0x1A00 = [o] →
          t.ownByte (0x2000 + o) = if isBankByte (0x2000 + o) then BitVec.ofNat 32 (0x40 + v) else 0)))) ∧
    (let o := off.val
     let w := 0x10D00000 + o
     let b := bitsOf data 7 0
     -- a word that changes at most its first byte
     o % 4 = 0 → isOwnByte o = true → isBankByte o = false → 0x2000 ≤ o → o < 0x3A00 →
     s.reg w &&& 0x40404040 = 0 → bitsOf data 31 8 = bitsOf (s.reg w) 31 8 → b &&& 0x40 = 0 → b ≠ s.ownByte o →
     s.ownedThere o = true →
     let vs := s.fld (vcState (bitsOf data 5 0).toNat)
     let may : Prop := isManager who = true ∧ ¬ (b.getLsbD 7 = true ∧ (s.ownByte o).getLsbD 7 = true) ∧
       (vs = vcFree ∨ vs = vcActive) ∧ s.ownedStopped o = true
     (may → exec (.ownerByteWrite who off data) s = .next (s.put [(⟨w, 7, 0⟩, b)])) ∧
     (¬ may → exec (.ownerByteWrite who off data) s = .next (s.refuse .vct o)))

/-- The manager's FREEZE stops the threads of an active complex at their boundaries and its timers; the freeze
completes when its threads and channels are quiet and its ledger entries are done, or in the capture form only its
writes are outstanding; THAW lets everything go on (R459, R472 to R474). SAVE and RESTORE of a frozen complex begin
as IMAGING. A SAVE ends once its writes are answered. A RESTORE reads the header, then the rest, and judges the
whole: an image it rejects changes nothing; one it accepts it reads again and writes onto the complex, a thread
that was READY becoming FROZEN. All end FROZEN with the RESULT: done, an access failed, or rejected (R459, R475,
R478; the two readings by pieces are log 23's). -/
def Obligations.FreezesAndImages : Prop :=
  ∀ (who : Agent) (vc : VC) (gt : GT) (tm : Timer) (s : State),
    let v := vc.val
    let st := s.fld (vcState v)
    let x := s.vc v
    let g := gt.val
    let no := s.refuse .vct (0x40 * v)
    let cap := s.bit (fVcCapture v)
    s.powered 44 = true →
    (isManager who = false → ∀ i ∈ [Instr.vcFreeze who vc, .vcThaw who vc, .vcSave who vc, .vcRestore who vc],
      exec i s = .next no) ∧
    (isManager who = true →
      (st ≠ vcActive → st ≠ vcFrozen → exec (.vcFreeze who vc) s = .next no ∧ exec (.vcThaw who vc) s = .next no) ∧
      (st = vcFrozen → exec (.vcFreeze who vc) s = .next s) ∧ (st = vcActive → exec (.vcThaw who vc) s = .next s) ∧
      (st = vcActive →
        (s.ownsOnly v [] [] → exec (.vcFreeze who vc) s = .next
          ((s.put [(vcState v, vcFreezing)]).modVc v (fun y => { y with capture := cap }))) ∧
        (s.ownsOnly v [g] [] → s.fld (fState g) = stReady → (s.thread g).boundary = true → (s.thread g).ops = [] →
          (s.thread g).stores = [] → (s.thread g).stopReq = false → (s.thread g).raised = none → (s.thread g).twinStop = none →
          (s.thread g).late = [] → (s.thread g).broke = none → (s.thread g).twin = none →
          s.after (.vcFreeze who vc) (fun t => t.fld (vcState v) = vcFreezing ∧ t.fld (fState g) = stFrozen ∧
            (t.thread g).pc = (s.thread g).pc ∧ (t.thread g).g = (s.thread g).g)) ∧
        (s.ownsOnly v [] [tm.val] → s.bit (fRunning tm.val) = true → s.after (.vcFreeze who vc) (fun t =>
          t.fld (vcState v) = vcFreezing ∧ t.bit (fRunning tm.val) = false ∧ (t.tmr tm.val).wasRun = true ∧
          t.tmrCount tm.val = s.tmrCount tm.val))) ∧
      (st = vcFrozen →
        (s.ownsOnly v [] [] → exec (.vcThaw who vc) s = .next (s.put [(vcState v, vcActive)])) ∧
        (s.ownsOnly v [g] [] → s.fld (fState g) = stFrozen → (s.thread g).stopReq = false →
          (s.thread g).twinStop = none → (s.thread g).late = [] → (s.thread g).broke = none →
          (s.thread g).freezeReq = false → (s.thread g).haltReq = none → exec (.vcThaw who vc) s = .next
          (s.put [(vcState v, vcActive), (fPriorWait g, 0), (fState g, stReady)])) ∧
        (s.ownsOnly v [] [tm.val] → (s.tmr tm.val).wasRun = true → s.after (.vcThaw who vc) (fun t =>
          t.fld (vcState v) = vcActive ∧ t.bit (fRunning tm.val) = true ∧ t.tmrCount tm.val = s.tmrCount tm.val))) ∧
      (st ≠ vcFrozen → exec (.vcSave who vc) s = .next no ∧ exec (.vcRestore who vc) s = .next no) ∧
      (st = vcFrozen → ∀ i restore n, (i = Instr.vcSave who vc ∧ restore = false ∧ n = (s.image v).length) ∨
          (i = Instr.vcRestore who vc ∧ restore = true ∧ n = 64) →
        s.after i (fun t => t.fld (vcState v) = vcImaging ∧ t.bit (fImageBusy v) = true ∧ t.fld (fImageResult v) = 0 ∧
          t.mem = s.mem ∧ (restore = false → (t.reg (vctReg v 0x2C)).toNat = n % 2 ^ 32) ∧
          ∃ j, (t.vc v).job = some j ∧ j.restore = restore ∧ j.stage = 0 ∧ j.head = [] ∧
            j.bad = !s.imageReach v n))) ∧
    (let done : Prop := (∀ u ∈ s.vcThreads v, s.fld (fState u) = stFrozen ∨ s.fld (fState u) = stIdle ∨
          s.fld (fState u) = stFaulted) ∧
        (∀ c ∈ s.vcChans v, s.fld (fChState c) = chIdle ∨ s.fld (fChState c) = chReserved) ∧
        (x.capture = false → s.fld (fCount v) = 0) ∧
        (x.capture = true → ∀ k e g', (k, some e) ∈ s.ledger → e.vc = some (v, g') → e.limbo = true ∨ e.wr.isSome = true)
     (st = vcFreezing → done → exec (.vcFreezeComplete vc) s = .next (s.put [(vcState v, vcFrozen)])) ∧
     (st ≠ vcFreezing ∨ ¬ done → exec (.vcFreezeComplete vc) s = .next s)) ∧
    (let ends (u : State) (r : Word) (t : State) : Prop := t =
        (u.put [(fImageResult v, r), (fImageBusy v, 0), (vcState v, vcFrozen)]).modVc v (fun y => { y with job := none })
     (x.job = none → exec (.imageDone vc) s = .next s) ∧
     ∀ j, x.job = some j →
       let img := j.head ++ j.bytes
       let len := wordAt img 1
       let body := j.bytes.drop 64
       let job (t : State) (k : Nat) (head : List Byte) : Prop := t.fld (vcState v) = st ∧ t.mem = s.mem ∧
         ∃ j', (t.vc v).job = some j' ∧ j'.restore = true ∧ j'.stage = k ∧ j'.head = head
       (j.waits = true → exec (.imageDone vc) s = .next s) ∧
       (j.waits = false → j.restore = false →
         s.after (.imageDone vc) (ends s (if j.failed then imgFailed else imgDone))) ∧
       (j.waits = false → j.restore = true →
         (j.failed = true → j.stage ≠ 2 ∨ j.bad = true → s.after (.imageDone vc) (ends s imgFailed)) ∧
         (j.failed = false → j.stage = 0 →
           s.after (.imageDone vc) (fun t => job t 1 img ∧ t.reg (vctReg v 0x2C) = len)) ∧
         (j.failed = false → j.stage = 1 → s.imageOk v (img.take len.toNat) = false →
           s.after (.imageDone vc) (ends s imgRejected)) ∧
         (j.failed = false → j.stage = 1 → s.imageOk v (img.take len.toNat) = true →
           s.after (.imageDone vc) (fun t => job t 2 (img.take 64))) ∧
         (j.bad = false → j.stage = 2 → (wordAt j.head 0).toNat % 256 = 2 →
           (s.ownsOnly v [] [] → s.after (.imageDone vc) (fun t =>
             t.fld (fImageResult v) = (if j.failed then imgFailed else imgDone) ∧ t.fld (vcState v) = vcFrozen ∧
             t.bit (fImageBusy v) = false ∧ (t.vc v).toHost = [] ∧ (t.vc v).fromHost = [] ∧
             t.threads = s.threads ∧ t.mem = s.mem)) ∧
           (s.ownsOnly v [g] [] → 528 ≤ body.length → s.after (.imageDone vc) (fun t =>
             t.fld (fImageResult v) = (if j.failed then imgFailed else imgDone) ∧ t.fld (vcState v) = vcFrozen ∧
             (∀ r : Reg, r ≠ 0 → (t.thread g).rd r = wordAt body (56 + r.toNat)) ∧
             (t.thread g).pc = wordAt body 89 &&& ~~~ 3 ∧
             (bitsOf (wordAt body 1) 2 0 = stReady → t.fld (fState g) = stFrozen))))))

/-- SEED starts an idle pair that R424 allows at TWIN_ENTRY, the shadow's registers the complements of its primary's,
and is refused otherwise; BREAK ends a pair and halts its shadow. A member's window ends at a boundary with its report
queued, or the member waits there and has broken its contract (R95). Reports that agree leave the queues and are
counted, and in a rerun the last ends it; reports that differ, or one that waited too long, stop the pair, are counted
and presented, and in RUN, unless the pair breaks in the same cycle (R448), may start the automatic sequence, which
tests the cores that no other pair's has tested (R424, R425, R435, R437, R438, R442 to R445, R447). -/
def Obligations.TwinPairs : Prop :=
  ∀ (who : Agent) (pr : Fin 256) (g : GT) (brk : Bool) (s : State),
    let p := pr.val
    let gt := g.val
    let a := s.twinPrimary p
    let b := s.twinShadow p
    let st := s.fld (fTwinState p)
    let q := s.pair p
    let tries : Fld := ⟨twinReg p 0x14, 15, 0⟩
    let u := s.thread gt
    let entry := s.reg (twinReg p 8) &&& ~~~ 3
    (direct who → s.powered 47 = true → s.twinFeat = true →
      (s.maySeed p = false → exec (.twinSeed who pr) s = .next (s.refuse .win (0x100C + 0x40 * p))) ∧
      (s.maySeed p = true → s.after (.twinSeed who pr) (fun t =>
        t.fld (fTwinState p) = twRunning ∧ t.pair p = {} ∧ t.fld (fState a) = stReady ∧ t.fld (fState b) = stReady ∧
        (t.thread a).twin = some (p, false) ∧ (t.thread b).twin = some (p, true) ∧
        (t.thread a).pc = entry ∧ (t.thread b).pc = entry ∧
        (∀ r : Reg, r ≠ 0 → Map.get 0 (t.thread b).g r.toNat = ~~~ (Map.get 0 (s.thread a).g r.toNat)))) ∧
      (st = twOff ∨ st = twBroken → exec (.twinBreak who pr) s = .next s) ∧
      (st ≠ twOff → st ≠ twBroken → (st = twSelftest → q.coreP ≠ some false ∧ q.coreS ≠ some false) →
        (∀ m, m = a ∨ m = b → ∀ k sh, (s.thread m).twin = some (k, sh) → k = p) →
        (s.thread b).boundary = false ∨ (s.fld (fState b) ≠ stReady ∧ s.fld (fState b) ≠ stWait) →
        s.after (.twinBreak who pr) (fun t => t.fld (fTwinState p) = twBroken ∧ t.bit (fBroken' p) = true ∧
          (t.thread a).twin = none ∧ (t.thread b).twin = none ∧ t.pair p = {} ∧ t.shows 0x17AC false 0 ∧
          (s.fld (fState b) = stReady → (t.thread b).haltReq = some true) ∧ t.mem = s.mem))) ∧
    (∀ sh, u.twin = some (p, sh) → u.winEnd = true → u.boundary = true → u.raised = none →
      let mine := if sh then q.repS else q.repP
      (2 ≤ mine.length → exec (.windowEnd g) s = .next (s.holdBreak gt)) ∧
      (mine.length < 2 → exec (.windowEnd g) s = .next
        (((s.modPair p (fun q =>
            let r : Report := ⟨u.sig, u.winBytes, u.winInstr, u.winSeq⟩
            if sh then { q with repS := q.repS ++ [r] } else { q with repP := q.repP ++ [r] })).modThread gt (fun x =>
          { x with
            sig := if sh then 0 else 0xFFFFFFFF
            winInstr := 0
            winBytes := 0
            winSeq := (u.winSeq + 1) % 2 ^ 16
            winEnd := false
            held := false
            broke :=
              if u.held = true ∧ s.det gt = true ∧ s.bit (fTrap gt) = true ∧ u.broke = none then some none
              else u.broke })).atBoundary gt))) ∧
    (∀ x xs y ys v, s.serveUnit p = some v → q.repP = x :: xs → q.repS = y :: ys →
      (st ≠ twRunning → st ≠ twRerun → exec (.twinCompare pr brk) s = .next s) ∧
      (st = twRunning → reportsMatch x y = true → exec (.twinCompare pr brk) s = .next
        ((s.modPair p (fun q => { q with repP := xs, repS := ys })).countWrap tries)) ∧
      (st = twRerun → reportsMatch x y = true → s.after (.twinCompare pr brk) (fun t =>
        (t.pair p).repP = xs ∧ (t.pair p).repS = ys ∧ (t.pair p).rerun = q.rerun - 1 ∧
        (1 < q.rerun → t.fld (fTwinState p) = twRerun) ∧
        (q.rerun ≤ 1 → t.fld (fTwinState p) = twRunning ∧ t.fld (fDecision p) = 1)))) ∧
    (let differ : Prop := ∃ x xs y ys v, s.serveUnit p = some v ∧ q.repP = x :: xs ∧ q.repS = y :: ys ∧
        reportsMatch x y = false
     let lone : Prop := (q.repP = [] ↔ q.repS ≠ []) ∧ a / 64 ∉ s.selfTest ∧ b / 64 ∉ s.selfTest
     let stopped (d : Byte) (t : State) : Prop :=
       t.fld ⟨twinReg p 0x2C, 7, 0⟩ = (s.countUp ⟨twinReg p 0x2C, 7, 0⟩).fld ⟨twinReg p 0x2C, 7, 0⟩ ∧
       t.shows 0x17AB false 0 ∧ t.mem = s.mem ∧
       ∀ m, m = a ∨ m = b → s.fld (fState m) = stReady → (s.thread m).boundary = false →
         (t.thread m).twinStop = some d
     let auto : Prop := s.fld fMode = modeRun ∧ s.bit ⟨twinReg p 4, 20, 20⟩ = true ∧ brk = false
     let tests (r : Option Bool) (t : State) : Prop := t.fld (fTwinState p) = twSelftest ∧ b / 64 ∈ t.selfTest ∧
       (t.pair p).coreP = r ∧ (r = none → a / 64 ∈ t.selfTest) ∧
       (r = some true → a / 64 ∉ s.selfTest → a / 64 ∉ t.selfTest)
     let both (i : Instr) (d : Byte) : Prop := a / 64 ≠ b / 64 →
       (∀ j < 64, (s.thread (a / 64 * 64 + j)).stopReq = false ∧ (s.thread (b / 64 * 64 + j)).stopReq = false) →
       (st = twRunning → ¬ auto → s.after i (fun t => stopped d t ∧ t.fld (fTwinState p) = twStopped)) ∧
       (st = twRunning → auto → (∀ j < 64, s.det (a / 64 * 64 + j) = false ∧ s.det (b / 64 * 64 + j) = false) →
         s.testedFor p (b / 64) = none → s.testedFor p (a / 64) ≠ some false →
         s.after i (tests (s.testedFor p (a / 64)))) ∧
       (st = twRerun → s.bit ⟨twinReg p 4, 21, 21⟩ = false → s.after i (fun t =>
         stopped 3 t ∧ t.fld (fTwinState p) = twStopped ∧ t.fld (fDecision p) = 2))
     (differ → both (.twinCompare pr brk) 1) ∧ (lone → both (.twinReportTimeout pr brk) 2))

/-- A unit of the winnower is tested when WIN_INJECT names it and asks, and its result stands: a failed unit serves no more and is
presented. A core's self-test that no pair awaits leaves the core as it was, or fences it; with both cores known, the
core that failed is fenced and the decision recorded (R439, R441, R443 to R447). -/
def Obligations.WinnowerTests : Prop :=
  ∀ (who : Agent) (unit : Fin 8) (core : Core) (pr : Fin 256) (pass : Bool) (s : State),
    let u := unit.val
    let n := core.val
    let p := pr.val
    let awaits (p : Nat) : Prop := s.fld (fTwinState p) = twSelftest ∧
      ((s.twinPrimary p / 64 = n ∧ (s.pair p).coreP = none) ∨ (s.twinShadow p / 64 = n ∧ (s.pair p).coreS = none))
    let rest : State := { s with selfTest := s.selfTest.erase n }
    (direct who → s.powered 47 = true → s.twinFeat = true →
      let named := s.put [(fInjectUnit, BitVec.ofNat 32 u)]
      (s.bit fInjectBusy = true → exec (.winInjectGo who unit) s = .next (named.refuse .win 4)) ∧
      (s.bit fInjectBusy = false → exec (.winInjectGo who unit) s =
        .next (({ named with inject := some u } : State).put [(fInjectBusy, 1)]))) ∧
    (s.unitBusy u = false → exec (.injectionTestDone unit pass) s = .next s) ∧
    (s.inject = some u → (∀ k < 256, s.fld (fTwinState k) ≠ twSelftest) → s.after (.injectionTestDone unit pass) (fun t =>
      t.inject = none ∧ t.bit fInjectBusy = false ∧ t.fld ⟨0x10800004, 2, 1⟩ = (if pass then 1 else 2) ∧
      t.bit (fUnitOk u) = pass ∧ (pass = false → t.shows 0x17AB true 0) ∧ t.pairs = s.pairs)) ∧
    (n ∉ s.selfTest → exec (.coreSelftestDone core pass) s = .next s) ∧
    (n ∈ s.selfTest → (∀ k < 256, ¬ awaits k) →
      exec (.coreSelftestDone core pass) s = .next (if pass then rest else rest.fence1 [n])) ∧
    (n ∈ s.selfTest → awaits p → (∀ k < 256, k ≠ p → ¬ awaits k) → s.twinPrimary p / 64 = n →
      s.twinShadow p / 64 ≠ n →
      let v := rest.modPair p (fun q => { q with coreP := some pass })
      ((s.pair p).coreS = none → exec (.coreSelftestDone core pass) s = .next v) ∧
      ((s.pair p).coreS = some true → pass = false → exec (.coreSelftestDone core pass) s = .next
        ((v.put [(fDecision p, 4), (fTwinState p, twStopped)]).fence1 [n])) ∧
      ((s.pair p).coreS = some false → pass = true → exec (.coreSelftestDone core pass) s = .next
        ((v.put [(fDecision p, 5), (fTwinState p, twStopped)]).fence1 [s.twinShadow p / 64])))

/-! ## Start-up, modes and power -/

/-- A cold reset, or the supply coming up from OFF, begins a cold START; the loft stays, and with the supply up the
AON counter, DBG_REFUSED and DBG_LAST. A warm reset begins a warm START that keeps the banks, the timebase and the
power domains, with every thread IDLE and every virtual complex FREE in its next generation; in DORMANT it is a wake.
The supply's loss leaves OFF. A lifecycle change clears what R542 lists and starts again, or, to VOID, leaves DORMANT
with no wake source (R464, R480, R515, R518, R542). -/
def Obligations.StartsAndResets : Prop :=
  ∀ (die : BitVec 2) (lc : BitVec 3) (v : VC) (s : State),
    let m := s.fld fMode
    let d : Word := die.setWidth 32
    let settled : Prop := s.lcSeen (s.fld fLc).toNat = s.mode.cleared ∧ s.mode.cleared < 5
    let loft := (0x10A08000, 0x10A0A000)
    let debug := (0x10900070, 0x10900074)
    (m = modeOff → exec (.coldReset die) s = .next s ∧ exec .warmReset s = .next s ∧
      exec (.lifecycleChange lc) s = .next s) ∧
    (m ≠ modeOff → settled → s.after (.coldReset die) (fun t =>
      s.starts t 0 d [loft, debug, (0x10900060, 0x10900068), (0x10900078, 0x10900080)])) ∧
    (m ≠ modeOff → exec (.supplyUp die lc) s = .next s) ∧
    (m = modeOff → s.lcSeen lc.toNat = s.mode.cleared → s.mode.cleared < 5 → s.after (.supplyUp die lc) (fun t =>
      t.fld fMode = modeStart ∧ t.fld ⟨0x10000800, 5, 4⟩ = 0 ∧ (t.fld fLc).toNat = lc.toNat ∧ t.loft = s.loft ∧
      t.threads = [] ∧ t.mem = [])) ∧
    (s.after .supplyLoss (fun t => t.fld fMode = modeOff ∧ t.loft = s.loft ∧ t.mem = [] ∧ t.threads = [] ∧
      ∀ i < 64, t.powered i = false)) ∧
    (m = modeDormant → s.fld fLc = Machine.lcVoid → exec .warmReset s = .next s) ∧
    (m = modeDormant → s.fld fLc ≠ Machine.lcVoid → settled → s.after .warmReset (fun t => t.fld fMode = modeStart ∧
      t.fld ⟨0x10000800, 5, 4⟩ = 1 ∧ t.loft = s.loft ∧ t.threads = [] ∧ t.reg 0x10900060 = s.reg 0x10900060)) ∧
    (m ≠ modeOff → m ≠ modeDormant → (∀ p < 4, s.linkIsUp p = false) → s.after .warmReset (fun t =>
      t.fld fMode = modeStart ∧ t.fld ⟨0x10000800, 5, 4⟩ = 2 ∧ t.mem = s.mem ∧ t.bankFill = s.bankFill ∧
      t.loft = s.loft ∧ (∀ a, 0x10480000 ≤ a → a < 0x10480070 → t.reg a = s.reg a) ∧
      (∀ i < 64, t.powered i = s.powered i) ∧ (∀ gt < 2048, t.fld (fState gt) = stIdle) ∧
      (∀ i, 0x2000 ≤ i → i < 0x3A00 → t.ownByte i = 0) ∧ t.fld (vcState v.val) = vcFree ∧
      (t.fld (vcGen v.val)).toNat = ((s.fld (vcGen v.val)).toNat + 1) % 4096)) ∧
    (m = modeDormant → s.fld fLc = Machine.lcVoid → exec (.lifecycleChange lc) s = .next s) ∧
    (m = modeDormant → s.fld fLc ≠ Machine.lcVoid → exec (.lifecycleChange lc) s = .next (s.put [(fLc, lc.setWidth 32)])) ∧
    (m ≠ modeOff → m ≠ modeDormant →
      let n := s.lcSeen lc.toNat
      (n = (s.fld fLc).toNat → exec (.lifecycleChange lc) s = .next s) ∧
      (n ≠ (s.fld fLc).toNat → n = 5 → s.after (.lifecycleChange lc) (fun t => t.fld fMode = modeDormant ∧
        t.fld ⟨0x10900040, 2, 0⟩ = 0 ∧ (t.fld fLc).toNat = 5 ∧ t.mem = [])) ∧
      (n ≠ (s.fld fLc).toNat → n ≠ 5 → (∀ p < 4, s.linkIsUp p = false) → s.after (.lifecycleChange lc) (fun t =>
        t.fld fMode = modeStart ∧ (t.fld fLc).toNat = n ∧ t.mode.cleared = n ∧
        ((n = 2 ∨ n = 4) → ∀ a, t.byte a = 0) ∧ (n = 1 ∨ n = 3 → t.mem = s.mem))))

/-- The hardware steps of START, each at its own step: the fuses load what R486 names, or a parity error ends START;
the loft header is read, or found bad; every bank that passes its test belongs to CORES; the comparators are tested;
record 0x001 makes every lane static at its safe state and REL_MASK takes the image's mask as far as its threads
are there (R2, R481, R482, R486, R487,
R489, R490, R506, R507, R511). -/
def Obligations.StartSteps : Prop :=
  ∀ (words : List Word) (ok : Bool) (fails : List (Bank × List (BitVec 11 × BitVec 9) × Bool)) (pass : BitVec 8)
    (s : State),
    let w (i : Nat) : Word := words.getD i 0
    let warm : Prop := s.fld fKind = kindWarm
    let step (t : State) : Word := t.fld fStep
    (s.atStep 1 = false ∨ s.ranksUp = false → exec (.fuseLoad words ok) s = .next s) ∧
    (s.atStep 1 = true → s.ranksUp = true → s.start.cores = [] →
      (ok = false → s.after (.fuseLoad words ok) (fun t => s.startEnds t 1)) ∧
      (ok = true → ¬ warm → s.after (.fuseLoad words ok) (fun t => step t = 2 ∧
        t.reg 0x10000310 = w 1 ∧ t.reg 0x10000314 = w 2 ∧ t.reg 0x10000318 = bitsOf (w 3) 19 0 ∧
        t.renameFeat = (w 0).getLsbD 0 ∧ t.twinFeat = (w 0).getLsbD 1 ∧ t.mem = s.mem ∧
        (∀ i < 10, t.reg (0x10781000 + 4 * i) = w (6 + i))))) ∧
    (s.atStep 2 = false → exec .repairAndHeader s = .next s) ∧
    (s.atStep 2 = true → s.after .repairAndHeader (fun t =>
      let bs := s.loftBytes 0
      let good : Prop := wordAt bs 63 = checkCode (bs.take 252) ∧ bitsOf (wordAt bs 0) 15 0 = 1
      step t = 3 ∧ (good → t.start.hdr = bs) ∧ (¬ good → t.start.hdr = [] ∧ t.bit fCfgBad = true))) ∧
    (s.atStep 3 = false → exec (.bankWakeAndMarch fails) s = .next s) ∧
    (s.atStep 3 = true → s.after (.bankWakeAndMarch fails) (fun t => step t = 4)) ∧
    (s.atStep 3 = true → ¬ warm → (∀ g < 320, s.bankPresent g = true → s.fld (fPstate g) = psOn) → s.after (.bankWakeAndMarch []) (fun t =>
      ∀ g < 320, s.bankPresent g = true →
        t.fld (fOwnerKind g) = 1 ∧ ∀ a, bankOf a = some g → t.byte a = 0)) ∧
    (s.atStep 4 = false → exec (.comparatorInjection pass) s = .next s) ∧
    (s.atStep 4 = true → s.after (.comparatorInjection pass) (fun t => step t = 5 ∧
      (s.twinFeat = true → ∀ u < 8, t.bit (fUnitOk u) = pass.getLsbD u))) ∧
    (s.atStep 6 = false → exec .loftConfiguration s = .next s) ∧
    (s.atStep 6 = true → (∀ g < 320, s.bankPresent g = false) → s.start.loaded = true →
      s.after .loftConfiguration (fun t => step t = 7 ∧ t.lanes = s.lanes)) ∧
    (s.atStep 6 = true → (∀ g < 320, s.bankPresent g = false) → s.start.loaded = false →
      s.after .loftConfiguration (fun t =>
      let bs := s.loftBytes 1
      step t = 7 ∧ (∀ l < 1024, t.fld (fDriver l) = 9 ∧
        (wordAt s.start.hdr 4 = checkCode bs → t.fld (fSafe l) =
          (let c := (bs.getD (l / 4) 0).toNat / 4 ^ (l % 4) % 4
           if c = 3 then 2 else BitVec.ofNat 32 c))) ∧
      ∀ i < 64, t.reg (0x10000900 + 4 * i) = s.start.mask.getD i 0 &&& s.thereMask .glob (0x900 + 4 * i))) ∧
    (s.fld fMode = modeStart → s.bit fHeld = false → s.start.cores = [] →
      (bitsOf (wordAt s.start.hdr 2) 31 16 ≠ 0 → s.after .startTimeout (fun t => s.startEnds t 0x20)) ∧
      (bitsOf (wordAt s.start.hdr 2) 31 16 = 0 → exec .startTimeout s = .next s)) ∧
    (s.fld fMode ≠ modeStart ∨ s.bit fHeld = true → exec .startTimeout s = .next s)

/-- The boot engine ends START where the header was bad, rejects an image whose manifest, chunks or signature fail and
tries the next, and places an accepted one: AUTH is set and the bytes of its chunks stand in memory. It waits for a
doorbell, which only the manager rings. Release by the boot thread, once AUTH is set, zeroes the boot-reserved banks
and makes the mode RUN; then the threads of REL_MASK that own slots start (R485, R487, R501 to R505, R508). -/
def Obligations.BootAndRelease : Prop :=
  ∀ (who : Agent) (rom man : List Byte) (stored : List (List Byte)) (placed : List (Option (List Byte)))
    (busErr pass : Bool) (s : State),
    let boot : Instr := .bootAuthentication rom man stored placed busErr
    let img : BootImage := ⟨man, stored, busErr, placed⟩
    let x := s.start
    let rejects (u : State) (code : Word) (t : State) : Prop :=
      t = { u.put [(fReject, code)] with start := { u.start with sec := none, tries := 1 } }
    (s.atStep 5 = false ∨ x.sec ≠ none → exec boot s = .next s) ∧
    (s.atStep 5 = true → x.sec = none → x.booted = false → x.hdr = [] → x.cores = [] →
      s.after boot (fun t => s.startEnds t 2)) ∧
    (s.atStep 5 = true → x.sec = none → x.booted = true →
      (s.bootWaits = true → exec boot s = .next s) ∧
      (s.bootWaits = false → x.tries = 0 → ∀ e, s.manifestCheck man = some e →
        ¬ (busErr = true ∧ man.length < max 0x140 (manWord man 0xC + manWord man 0x10)) →
        s.after boot (rejects s e)) ∧
      (s.bootWaits = false → busErr = false → s.manifestCheck man = none → s.trusts (manDigest man) = false →
        exec boot s = .next { s with start := { x with sec := some img } })) ∧
    (x.sec = none ∨ s.atStep 5 = false → exec (.secDone pass) s = .next s) ∧
    (x.sec = some img → s.atStep 5 = true →
      (pass = false → x.tries = 0 → s.after (.secDone pass) (rejects s 3)) ∧
      (pass = true → (s.hdrWord 8).getLsbD 2 = false → s.chunksOk (chunksOf man) = false → x.tries = 0 →
        s.after (.secDone pass) (fun t => t.bit fAuth = true ∧ t.fld fReject = 5 ∧ t.start.tries = 1)) ∧
      (∀ c bytes, pass = true → (s.hdrWord 8).getLsbD 2 = false → s.chunksOk (chunksOf man) = true →
        chunksOf man = [c] → stored = [bytes] → c.regs = false → c.comp = false → busErr = false →
        bytes.length = c.stored → c.placed ≤ c.stored → sha384 bytes = c.digest → c.dst % 64 + c.placed ≤ 64 →
        s.after (.secDone pass) (fun t => t.bit fAuth = true ∧ t.fld fStep = 6 ∧
          t.bytes c.dst c.placed = bytes.take c.placed))) ∧
    (isManager who = false → exec (.bootDoorbellReady who) s = .next (s.refuse .glob 0x820) ∧
      exec (.bootDoorbellRecovery who) s = .next (s.refuse .glob 0x820)) ∧
    (isManager who = true → s.fld fMode ≠ modeStart →
      exec (.bootDoorbellReady who) s = .next s ∧ exec (.bootDoorbellRecovery who) s = .next s) ∧
    (isManager who = true → s.fld fMode = modeStart →
      s.after (.bootDoorbellReady who) (fun t => t = { s with start := { x with ready := true } }) ∧
      s.after (.bootDoorbellRecovery who) (fun t => t = { s with start := { x with recovery := true } })) ∧
    (let may : Prop := s.bootWriter who = true ∧ s.bit fAuth = true ∧ s.fld fMode = modeStart ∧ s.fld fStep = 7
     (¬ may → exec (.bootRelease who) s = .next (s.refuse .glob 0x830)) ∧
     (may → s.bit fFaultSafe = false → s.reg 0x10808008 = 0 → s.after (.bootRelease who) (fun t => t.fld fMode = modeRun ∧ t.fld fStep = 0 ∧
         t.start.release = true ∧ t.shows 0x17AE false 0 ∧
         ∀ g ∈ x.reserved, ∀ a, bankOf a = some g → t.byte a = 0))) ∧
    (x.release = false → exec .releaseStart s = .next s) ∧
    (x.release = true → s.after .releaseStart (fun t => t.start.release = false ∧ t.mem = s.mem ∧
      ∀ gt < 2048, (s.reg (0x10000900 + 4 * (gt / 32))).getLsbD (gt % 32) = true → s.corePresent (gt / 64) = true →
        s.slotsOwned gt ≠ 0 → s.fld (fState gt) = stIdle → t.fld (fState gt) = stReady))

/-- Rename mode is entered only in START or SERVICE, on a core that has it, whose threads are all IDLE, while
the THREAD that stands there has no contract (R22): the thread written then runs. It is left with the thread IDLE and every general register of the core zero
(R22, R494 to R497). -/
def Obligations.RenameModeTakesTheCore : Prop :=
  ∀ (who : Agent) (n : Core) (i : Fin 64) (s : State),
    let c := n.val
    let gt := 64 * c + i.val
    let enter : Instr := .renameEnter who n i
    direct who → s.corePresent c = true →
    let may : Prop := s.renameFeat = true ∧ s.det (64 * c + s.renameThread c) = false ∧ ∀ j < 64, s.fld (fState (64 * c + j)) = stIdle
    (s.bit (fRenameEnable c) = false → s.thawed = true → may → s.after enter (fun t =>
      t.bit (fRenameEnable c) = true ∧ t.bit (fRenameActive c) = true ∧
      t.fld ⟨0x10100080 + c * 0x10000, 5, 0⟩ = BitVec.ofNat 32 i.val ∧ t.fld (fState gt) = stReady ∧
      (t.thread gt).pc = s.reg (tReg gt 0x08) &&& ~~~ 3 ∧ t.mem = s.mem)) ∧
    (s.bit (fRenameEnable c) = false → s.thawed = false ∨ ¬ may → s.after enter (fun t =>
      t.bit (fRenameEnable c) = false ∧ t.bit (cfgRefused (.core c) 0x80) = true ∧ t.threads = s.threads ∧
      t.fld (fState gt) = s.fld (fState gt) ∧ t.mem = s.mem)) ∧
    (s.bit (fRenameEnable c) = true → s.thawed = true → s.after (.renameExit who n) (fun t =>
      t.bit (fRenameEnable c) = false ∧ t.bit (fRenameActive c) = false ∧
      t.fld (fState (64 * c + s.renameThread c)) = stIdle ∧ (∀ j < 64, (t.thread (64 * c + j)).g = []) ∧
      t.mem = s.mem))

/-- A mode request comes from the manager or the debug unit with no transition under way, or is refused. DORMANT needs
every virtual complex FREE and no loft store; it begins with every thread and timer stopped and a global fence opened
(stated where no cache holds a line: a flush sends then nothing). RUN follows SERVICE by a warm start and LIMP where nothing is fenced or
unsafe, at its clock; LIMP follows RUN and stops what its masks leave out; SERVICE needs a lifecycle that has it,
leaves every thread IDLE and every lane at its safe state, and clears the banks but in DEVELOP (R515, R516, R519,
R520, R522). -/
def Obligations.ModesChangeOnRequest : Prop :=
  ∀ (who : Agent) (s : State),
    let m := s.fld fMode
    let no := s.refuse .power 0
    let all (p : Instr → Prop) : Prop := p (.modeReqDormant who) ∧ p (.modeReqRun who) ∧ p (.modeReqLimp (some who)) ∧
      p (.modeReqService who) ∧ p (.clockChange who)
    let lc := s.fld fLc
    let limpClk := s.fld ⟨0x10900010, 31, 16⟩
    let safe : Prop := s.bit fFaultSafe = false ∧ s.reg 0x10808008 = 0
    ((m = modeOff ∨ m = modeDormant) → all (fun c => exec c s = .next s)) ∧
    (m ≠ modeOff → m ≠ modeDormant → (isManager who = false ∨ s.bit fModeBusy = true) →
      all (fun c => exec c s = .next no)) ∧
    (m ≠ modeOff → m ≠ modeDormant → isManager who = true → s.bit fModeBusy = false →
      ((m ≠ modeStart ∧ (∀ v < 64, s.fld (vcState v) = vcFree) ∧ s.bit fLoftBusy = false →
        s.dir = [] → s.caches = [] → s.dwait = [] → s.flush = [] → s.after (.modeReqDormant who) (fun t =>
          t.fld fMode = m ∧ t.bit fModeBusy = true ∧ t.mode.goal = some 1 ∧ t.bit fFenceBusy = true ∧
          (∀ gt < 2048, t.fld (fState gt) = stIdle) ∧ (∀ k < 1024, t.bit (fRunning k) = false) ∧ t.mem = s.mem)) ∧
       (m = modeStart ∨ s.bit fLoftBusy = true ∨ (∃ v < 64, s.fld (vcState v) ≠ vcFree) →
        exec (.modeReqDormant who) s = .next no)) ∧
      (m = modeService → (∀ p < 4, s.linkIsUp p = false) → s.after (.modeReqRun who) (fun t =>
        t.fld fMode = modeStart ∧ t.fld ⟨0x10000800, 5, 4⟩ = 2 ∧ t.mem = s.mem)) ∧
      (m = modeLimp → safe →
        if s.fld fCclk = s.fld ⟨0x10900010, 15, 0⟩ then s.after (.modeReqRun who) (fun t => t.fld fMode = modeRun ∧
          t.shows 0x17AE false 0 ∧ t.threads = s.threads ∧ t.mem = s.mem)
        else s.after (.modeReqRun who) (fun t => t.fld fMode = modeLimp ∧ t.bit fModeBusy = true ∧
          t.mode.clocks = [(0, (s.fld ⟨0x10900010, 15, 0⟩).toNat)])) ∧
      ((m = modeLimp ∧ ¬ safe) ∨ m = modeStart ∨ m = modeRun → exec (.modeReqRun who) s = .next no) ∧
      (m = modeRun → s.fld fCclk = limpClk → s.after (.modeReqLimp (some who)) (fun t => t.fld fMode = modeLimp ∧
        t.shows 0x17AE false 0 ∧
        (∀ gt < 2048, s.bit (fLimpThread gt) = false → t.fld (fState gt) = stIdle) ∧
        ∀ l < 1024, s.bit (fLimpBay (l / 32)) = false → t.fld (fDriver l) = 9)) ∧
      (m ≠ modeRun → exec (.modeReqLimp (some who)) s = .next no) ∧
      (m ≠ modeService → fLcService lc = true → s.after (.modeReqService who) (fun t => t.fld fMode = modeService ∧
        t.bit fModeBusy = false ∧ (∀ gt < 2048, t.fld (fState gt) = stIdle) ∧
        (∀ v < 64, t.fld (vcState v) = vcFree) ∧ (∀ l < 1024, t.fld (fDriver l) = 9) ∧ t.loft = s.loft ∧
        (lc ≠ lcDevelop → ∀ g < 320, s.bankPresent g = true → ∀ a, bankOf a = some g → t.byte a = 0))) ∧
      (m = modeService ∨ fLcService lc = false → exec (.modeReqService who) s = .next no)) ∧
    (m ≠ modeRun ∨ s.bit fModeBusy = true ∨ safe → exec (.modeReqLimp none) s = .next s) ∧
    (m = modeRun → s.bit fModeBusy = false → ¬ safe → s.fld fCclk = limpClk →
      s.after (.modeReqLimp none) (fun t => t.fld fMode = modeLimp))

/-- A clock change in RUN or SERVICE commits the pending clocks and, where one differs, asks for it; a CCLK outside
400 to 1,600 MHz, or a request in START or LIMP, is refused. The last answer puts the clocks in force. The power
manager answers each domain's request: one that comes up has its reset values, a core goes once its flush is done. On
the way into DORMANT the domains go in reverse rank order once all is quiet, quadrants with their pads held, and the
last brings DORMANT. A request bit of a domain that is there may be set but for a fenced core, and cleared where R523
lets the domain go, each bit judged alone (R2, R160, R519, R521, R523 to R526, R533). -/
def Obligations.ClocksAndDomainsAnswer : Prop :=
  ∀ (who : Agent) (k : Fin 5) (i : Fin 50) (hi : Bool) (data : Word) (s : State),
    let m := s.fld fMode
    let clk := bitsOf (s.pendReg 0x10900010) 15 0
    let put := (s.commitReg 0x10900010).commitReg 0x10900014
    let good : Prop := (m = modeRun ∨ m = modeService) ∧ 400 ≤ clk.toNat ∧ clk.toNat ≤ 1600
    (isManager who = true → s.bit fModeBusy = false → m ≠ modeOff → m ≠ modeDormant →
      (∀ q < 4, bitsOf (s.pendReg 0x10900014) (8 * q + 7) (8 * q) = s.fld (fPclk q)) →
      (¬ good → exec (.clockChange who) s = .next (s.refuse .power 0)) ∧
      (good → clk = s.fld fCclk → exec (.clockChange who) s = .next put) ∧
      (good → clk ≠ s.fld fCclk → s.after (.clockChange who) (fun t => t.bit fModeBusy = true ∧
        t.mode.clocks = [(0, clk.toNat)] ∧ t.fld fCclk = s.fld fCclk ∧ t.fld fMode = m))) ∧
    ((∀ v, (k.val, v) ∉ s.mode.clocks) → exec (.clkAck k) s = .next s) ∧
    (∀ v, s.mode.clocks = [(k.val, v)] → s.mode.goal = some 0 → s.bit fFaultSafe = false → s.reg 0x10808008 = 0 →
      s.after (.clkAck k) (fun t => t.bit fModeBusy = false ∧ t.mode.clocks = [] ∧
        t.fld (if k.val = 0 then fCclk else fPclk (k.val - 1)) =
          BitVec.ofNat 32 (v % (if k.val = 0 then 65536 else 256)))) ∧
    (let f : Fld := ⟨0x10900020 + 4 * (i.val / 32), i.val % 32, i.val % 32⟩
     let want := (s.reg (0x10900018 + 4 * (i.val / 32))).getLsbD (i.val % 32)
     let waits : Prop := rankOf i.val = 0 ∨ s.powered i.val = false ∨ s.dormantQuiet = false ∨
       ∃ j < 50, rankOf i.val < rankOf j ∧ s.powered j = true
     (s.mode.goal = some 1 → waits → exec (.pdAck i) s = .next s) ∧
     (s.mode.goal = some 1 → ¬ waits → (∃ j < 50, rankOf j ≠ 0 ∧ s.powered j = true ∧ j ≠ i.val) →
       s.after (.pdAck i) (fun t => t.powered i.val = false ∧ t.fld fMode = m ∧ t.mem = s.mem ∧
         ∀ q < 4, i.val = 40 + q → q ∈ t.mode.hold)) ∧
     (s.mode.goal = some 1 → ¬ waits → (∀ j < 50, rankOf j ≠ 0 → s.powered j = true → j = i.val) →
       s.after (.pdAck i) (fun t => t.fld fMode = modeDormant ∧ t.mem = [] ∧ t.threads = [] ∧ t.loft = s.loft ∧
         ∀ j < 64, t.powered j = true ↔ j = 48 ∨ j = 49)) ∧
     (s.mode.goal ≠ some 1 → want = s.bit f → exec (.pdAck i) s = .next s) ∧
     (s.mode.goal ≠ some 1 → want = true → s.bit f = false → s.after (.pdAck i) (fun t => t.powered i.val = true ∧
       ((i.val < 32 → s.dir = []) → t.mem = s.mem) ∧
       (i.val < 32 → ∀ j < 64, t.fld (fState (64 * i.val + j)) = stIdle ∧
         ∃ w n, t.thread (64 * i.val + j) = { twin := w, nextOp := n }) ∧
       (∀ q, i.val = 40 + q → q < 4 → ∀ l < 1024, l / 256 = q → t.fld (fSafe l) = s.fld (fSafe l)))) ∧
     (s.mode.goal ≠ some 1 → want = false → s.bit f = true → i.val < 32 → s.bit (fFlushBusy i.val) = true → exec (.pdAck i) s = .next s) ∧
     (s.mode.goal ≠ some 1 → want = false → s.bit f = true → 32 ≤ i.val ∨ s.bit (fFlushBusy i.val) = false →
       s.after (.pdAck i) (fun t => t.powered i.val = false))) ∧
    (let first := if hi then 32 else 0
     let a := if hi then 0x1090001C else 0x10900018
     let accepts (j : Nat) : Bool :=
       if data.getLsbD j then !(decide (first + j < 32) && s.bit (fFenced (first + j))) else s.mayPowerDown (first + j)
     direct who → s.after (.pdReqWrite who hi data) (fun t =>
       ∀ j < (if hi then 18 else 32),
         (t.reg a).getLsbD j = (if s.dieHas (first + j) && accepts j then data.getLsbD j else (s.reg a).getLsbD j) ∧
         (s.dieHas (first + j) = true → data.getLsbD j ≠ (s.reg a).getLsbD j → accepts j = false → t.bit (cfgRefused .power 0x18) = true))) ∧
    (let waits : Prop := (s.mode.goal = some 1 ∧ s.dormantQuiet = true) ∨ s.reg 0x10900018 ≠ s.reg 0x10900020 ∨ s.reg 0x1090001C ≠ s.reg 0x10900024 ∨ s.mode.clocks ≠ []
     (waits → exec .pdLate s = .next (s.put [(⟨0x10900004, 8, 8⟩, 1)])) ∧ (¬ waits → exec .pdLate s = .next s))

/-- The wakes from DORMANT, each with its enable: a lane of the always-on domain that its register names, the crystal
count at AON_WAKE_AT, the SoC. Sources that show their event in the same cycle are all in WAKE_STATUS, of several lanes
the lowest (R535). -/
def Obligations.WakesBeginStart : Prop :=
  ∀ (i : Fin 64) (n : BitVec 48) (also : Wakes) (s : State),
    let can (k : Nat) : Bool := s.fld fMode == modeDormant && (s.reg 0x10900040).getLsbD k
    let lane (j : Fin 64) : Bool := can 0 && (s.reg (0x10900048 + 4 * (j.val / 32))).getLsbD (j.val % 32)
    let at' : Nat := (s.reg 0x10900068).toNat + 2 ^ 32 * (bitsOf (s.reg 0x1090006C) 15 0).toNat
    let count (t : State) : Nat := (t.reg 0x10900060).toNat + 2 ^ 32 * (t.reg 0x10900064).toNat
    let timer : Bool := can 1 && decide (count s ≤ at')
    let lives : Prop := s.lcSeen (s.fld fLc).toNat = s.mode.cleared ∧ s.mode.cleared < 5
    let lowest (js : List (Fin 64)) (x : Option Nat) : Prop := match x with
      | none => ∀ j ∈ js, lane j = false
      | some k => ∃ j ∈ js, lane j = true ∧ j.val = k ∧ ∀ j' ∈ js, lane j' = true → k ≤ j'.val
    let woke (x : Option Nat) (tm soc : Bool) (t : State) : Prop :=
      s.wakes t (BitVec.ofNat 32 ((if soc then 4 else 0) + (if tm then 2 else 0) +
        (match x with | some k => k * 2 ^ 16 + 1 | none => 0))) ∧ (tm = true → count t = at')
    (lane i = false → exec (.laneWake i also) s = .next s) ∧
    (lane i = true → lives → ∀ x, lowest (i :: also.lane.toList) x →
      s.after (.laneWake i also) (woke x (also.timer && timer) (also.soc && can 2))) ∧
    ((timer = true ∧ n.toNat = at' → lives → ∀ x, lowest also.lane.toList x →
      s.after (.aonTimerWake n also) (woke x true (also.soc && can 2))) ∧
     (¬ (timer = true ∧ n.toNat = at') → exec (.aonTimerWake n also) s = .next s)) ∧
    (can 2 = false → exec (.socWake also) s = .next s) ∧
    (can 2 = true → lives → ∀ x, lowest also.lane.toList x →
      s.after (.socWake also) (woke x (also.timer && timer) true))

/-- FAULT_SAFE is asserted with the first cause and takes RUN to LIMP; it is released only in LIMP or SERVICE, by the
manager, with the safety supply not lost. A kick with the key 0xA5 starts the watchdog's count again, any other key is
refused; its expiry in RUN or LIMP asserts FAULT_SAFE with cause 5, the loss of the safety supply with cause 6, which
is what fault collection shows when it comes back (R528 to R532, R586). -/
def Obligations.FaultSafeAndWatchdog : Prop :=
  ∀ (who : Agent) (key : BitVec 8) (s : State),
    let m := s.fld fMode
    let cause (u : State) (c : Word) : Word := if u.fld fSafeCause = 0 then c else u.fld fSafeCause
    let wdog : Prop := s.bit ⟨0x10808010, 16, 16⟩ = true ∧ (m = modeRun ∨ m = modeLimp) ∧ s.mode.expired = false
    let expired : State := { s with mode := { s.mode with expired := true } }
    (direct who → s.blkPresent .win = true →
      (m ≠ modeRun → exec (.fcSafe who) s = .next (s.put ((fFaultSafe, 1) ::
        (if s.fld fSafeCause = 0 then [(fSafeCause, 1)] else [])))) ∧
      (m = modeRun → s.bit fModeBusy = false → s.fld fCclk = s.fld ⟨0x10900010, 31, 16⟩ →
        s.after (.fcSafe who) (fun t => t.bit fFaultSafe = true ∧ t.fld fSafeCause = cause s 1 ∧ t.fld fMode = modeLimp)) ∧
      (let may : Prop := (m = modeLimp ∨ m = modeService) ∧ isManager who = true ∧ s.bit fPwrLost = false
       (may → exec (.fcRelease who) s = .next (s.put [(fFaultSafe, 0), (fSafeCause, 0)])) ∧
       (¬ may → exec (.fcRelease who) s = .next (s.refuse .win 0x8004))) ∧
      (key = 0xA5 → exec (.wdogKick who key) s = .next { s with mode := { s.mode with expired := false } }) ∧
      (key ≠ 0xA5 → exec (.wdogKick who key) s = .next (s.refuse .win 0x8014))) ∧
    ((m = modeOff ∨ m = modeDormant) → exec .safeReq s = .next s) ∧
    (m ≠ modeOff → m ≠ modeDormant → m ≠ modeRun → exec .safeReq s = .next (s.put ((fFaultSafe, 1) ::
        (if s.fld fSafeCause = 0 then [(fSafeCause, 1)] else [])))) ∧
    (¬ wdog → exec .wdogExpire s = .next s) ∧
    (wdog → m = modeLimp → exec .wdogExpire s = .next (expired.put ((⟨0x10808000, 3, 3⟩, 1) :: (fFaultSafe, 1) ::
        (if s.fld fSafeCause = 0 then [(fSafeCause, 5)] else [])))) ∧
    (wdog → m = modeRun → s.after .wdogExpire (fun t => t.bit ⟨0x10808000, 3, 3⟩ = true ∧ t.bit fFaultSafe = true ∧
      t.fld fSafeCause = cause s 5)) ∧
    ((m = modeOff ∨ m = modeDormant ∨ s.powered 47 = false) → exec .safetyPowerLost s = .next s) ∧
    (m ≠ modeOff → m ≠ modeDormant → s.powered 47 = true → s.after .safetyPowerLost (fun t => t.powered 47 = false ∧
      t.bit fPwrLost = true ∧ t.bit fFaultSafe = true ∧ t.fld fSafeCause = 6 ∧ t.pairs = [] ∧ (s.reg 0x10808008 = 0 → t.mem = s.mem))) ∧
    (s.bit fPwrLost = true → s.powered 47 = false → exec .safetyPowerReturn s =
      .next (s.put [(⟨0x10900024, 15, 15⟩, 1), (fSafeCause, 6), (fFaultSafe, 1)])) ∧
    (s.bit fPwrLost = false ∨ s.powered 47 = true → exec .safetyPowerReturn s = .next s)

/-! ## Debug, the bridge and the boundary -/

/-- A debug command halts, resumes or steps a thread of a core that is there; a debug access whose class is below what
the thread needs is counted and recorded instead. HALT with the thread's work done stops it with the debug cause; it
is refused of a FROZEN or FAULTED thread (R89, R536 to R540). -/
def Obligations.DebugCommandsActOnThreads : Prop :=
  ∀ (who : Agent) (g : GT) (cls : BitVec 2) (v : VC) (s : State),
    let gt := g.val
    let u := s.thread gt
    let st := s.fld (fState gt)
    let need : Word := if s.owner (ownThread gt) = some (s.fld fDbgVc).toNat then 2 else 3
    let all (p : Instr → Prop) : Prop := p (.dbgHalt who g) ∧ p (.dbgResume who g) ∧ p (.dbgStep who g)
    let resumed := s.put [(fState gt, stReady), (fHaltCause gt, 0), (fPriorWait gt, 0)]
    let no := s.refuse .power 0x74
    (who = .debug → s.dbgClass < need → all (fun c => s.after c (fun t =>
      t = { s with regs := t.regs } ∧ s.keeps t [⟨0x10900078, 15, 0⟩, ⟨0x1090007C, 31, 0⟩] ∧
      (t.fld ⟨0x10900078, 15, 0⟩).toNat = min 0xFFFF ((s.fld ⟨0x10900078, 15, 0⟩).toNat + 1) ∧
      t.fld ⟨0x1090007C, 18, 16⟩ = s.fld fMode ∧ t.fld ⟨0x1090007C, 14, 12⟩ = s.fld fLc ∧
      t.fld ⟨0x1090007C, 9, 8⟩ = need ∧ t.fld ⟨0x1090007C, 1, 0⟩ = s.dbgClass))) ∧
    (who ≠ .debug ∨ need ≤ s.dbgClass → s.corePresent (gt / 64) = false → all (fun c => exec c s = .next s)) ∧
    (who ≠ .debug ∨ need ≤ s.dbgClass → s.corePresent (gt / 64) = true →
      ((st = stFrozen ∨ st = stFaulted) → exec (.dbgHalt who g) s = .next no) ∧
      ((st = stIdle ∨ (st = stHalted ∧ u.twin = none)) → exec (.dbgHalt who g) s = .next s) ∧
      ((st = stReady ∨ st = stWait) → u.twin = none → u.boundary = true → u.longDone = true → u.stopReq = false →
        u.raised = none → u.twinStop = none → u.late = [] → u.broke = none → u.freezeReq = false → s.after (.dbgHalt who g) (fun t =>
          t = { s with regs := t.regs, threads := t.threads } ∧ s.sameThreadsBut t gt ∧
          s.keeps t [fState gt, fHaltCause gt, fPriorWait gt] ∧ t.fld (fState gt) = stHalted ∧
          t.fld (fHaltCause gt) = 2 ∧ (t.bit (fPriorWait gt) = true ↔ st = stWait) ∧ u.keptBut (t.thread gt) [])) ∧
      (st = stHalted → u.stopReq = false → u.twinStop = none → u.late = [] → u.broke = none → u.freezeReq = false →
        u.haltReq = none → exec (.dbgResume who g) s = .next resumed ∧
        exec (.dbgStep who g) s = .next (resumed.modThread gt (fun t => { t with stepping := true }))) ∧
      ((st = stReady ∨ st = stWait) → exec (.dbgResume who g) s = .next s) ∧
      ((st = stIdle ∨ st = stFrozen ∨ st = stFaulted) → exec (.dbgResume who g) s = .next no) ∧
      (st ≠ stHalted → exec (.dbgStep who g) s = .next no)) ∧
    (s.fld fMode = modeOff → exec (.dbgClassChange cls v) s = .next s) ∧
    (s.fld fMode ≠ modeOff → exec (.dbgClassChange cls v) s =
      .next (s.put [(fDbgClass, cls.setWidth 32), (fDbgVc, BitVec.ofNat 32 v.val)]))

/-- A host or debug request is answered by number. One that lies in no window is an error. The memory of the granary
behind the port, and with class FULL the whole memory to the debug unit, is read and written where CORES owns it; a
debug access below the class it needs is counted, recorded and answered with an error. The test port makes the debug
unit's 32-bit accesses. Without the fabric's power nothing is taken (R536 to R541, R570, R571, R596). -/
def Obligations.HostAndDebugRequests : Prop :=
  ∀ (off : BitVec 30) (acc : HostAccess) (beat : Beat) (write : Bool) (data : Word) (reg : BitVec 29) (s : State),
    let o := off.toNat
    let answer (t : State) (x : Option (List Byte)) : Prop :=
      t.answers = s.answers ++ [(s.reqCtr, x)] ∧ t.reqCtr = s.reqCtr + 1
    let fails : State := { s with answers := s.answers ++ [(s.reqCtr, none)], reqCtr := s.reqCtr + 1 }
    let debug : Prop := 0x20000000 ≤ o ∧ o < 0x34000000
    let counted (t : State) (need : Word) : Prop :=
      (t.fld ⟨0x10900078, 15, 0⟩).toNat = min 0xFFFF ((s.fld ⟨0x10900078, 15, 0⟩).toNat + 1) ∧
      t.fld ⟨0x1090007C, 9, 8⟩ = need ∧ answer t none ∧ t.mem = s.mem
    let reads (c : Instr) (a : Nat) : Prop := exec c s =
      .next { s with answers := s.answers ++ [(s.reqCtr, some (s.bytes a 4))], reqCtr := s.reqCtr + 1 }
    let writes (c : Instr) (a : Nat) : Prop := s.after c (fun t => answer t (some []) ∧
      t.bytes a 4 = toBytes 4 data.toNat ∧ s.sameMemBut t a 4)
    (s.powered 44 = false → ¬ debug → exec (.htpRequest off acc beat) s = .next s) ∧
    (debug → exec (.htpRequest off acc beat) s = exec (.debugAccess off acc) s) ∧
    (exec (.testAccessUpdate write reg data) s = exec (.debugAccess
      (BitVec.ofNat 30 (0x20000000 + reg.toNat / 4 * 4)) (if write then .write32 data else .read32)) s) ∧
    (s.powered 44 = true →
      ((0x10001000 ≤ o ∧ o < 0x11000000) ∨ (0x11400000 ≤ o ∧ o < 0x12000000) ∨ (0x13800000 ≤ o ∧ o < 0x20000000) ∨
        0x34000000 ≤ o → exec (.htpRequest off acc beat) s = .next fails) ∧
      (∀ g, 0x12000000 ≤ o → o < 0x13800000 → o % 4 = 0 → bankOf (o - 0x11000000) = some g → s.coresBank g = true →
        s.bit (fDraining g) = false → s.dir = [] → s.homeQ = [] →
        reads (.htpRequest off .read32 beat) (o - 0x11000000) ∧
        writes (.htpRequest off (.write32 data) beat) (o - 0x11000000)) ∧
      (∀ v : VC, o = 0x11000000 + 0x10000 * v.val → s.after (.htpRequest off .read32 beat) (fun t =>
        answer t (some (toBytes 4 ((s.fld (vcGen v.val)).toNat * 2 ^ 16 + v.val))) ∧ t.mem = s.mem))) ∧
    (s.fld fMode = modeOff → exec (.debugAccess off acc) s = .next s) ∧
    (s.fld fMode ≠ modeOff →
      (s.powered 44 = false → s.after (.debugAccess off acc) (fun t => counted t (s.dbgNeedAt o acc))) ∧
      (s.powered 44 = true →
        (o < 0x20000000 ∨ 0x34000000 ≤ o → s.after (.debugAccess off acc) (fun t => counted t 3)) ∧
        (∀ g, 0x30000000 ≤ o → o < 0x34000000 → bankOf (o - 0x30000000) = some g →
          (s.dbgClass < 2 → s.after (.debugAccess off acc) (fun t =>
            counted t (if s.owner (ownBank g) = some (s.fld fDbgVc).toNat then 2 else 3))) ∧
          (s.dbgClass = 3 → g < 128 → o % 4 = 0 → s.coresBank g = true → s.bit (fDraining g) = false →
            reads (.debugAccess off .read32) (o - 0x30000000) ∧
            writes (.debugAccess off (.write32 data)) (o - 0x30000000)))))

/-- Enabling a port at rest trains it, disabling it takes its link down with cause 1. In training, once the SerDes has
lock, the partner's training sets bring the link UP in the highest version both offer, or FAILED where the partner is
this die or no version is common; a timeout fails it. A link goes down with a cause of R552, and a port at rest trains
again where AUTO_RETRAIN says so (R549 to R552, R563, R564, R595). -/
def Obligations.LinksTrainAndFall : Prop :=
  ∀ (who : Agent) (port : Fin 4) (partner offer : BitVec 2) (id : BitVec 16) (cause : BitVec 4) (s : State),
    let p := port.val
    let st := s.fld (fLinkState p)
    let up := s.linkIsUp p
    let lk := s.link p
    let k := partner.toNat
    let common : Word := s.fld ⟨brReg p 8, 9, 8⟩ &&& offer.setWidth 32
    let train : Instr := .linkUp port partner offer id
    let all (p : Instr → Prop) : Prop := p (.linkDown port cause) ∧ p (.downNotice port) ∧ p (.retrain port) ∧
      p (.trainingTimeout port) ∧ p (.serdesLockGained port) ∧ p (.serdesLockLost port) ∧ p train ∧
      p (.brEnable who port) ∧ p (.brDisable who port)
    (s.portPresent p = false → all (fun c => exec c s = .next s)) ∧
    (s.portPresent p = true →
      (isManager who = true → s.bit (fBrEnable p) = false → s.after (.brEnable who port) (fun t =>
        t.bit (fBrEnable p) = true ∧ if st = linkDownSt ∨ st = linkFailed then
          t.fld (fLinkState p) = linkTraining ∧ t.link p = { req := lk.req } else t.fld (fLinkState p) = st ∧ t.link p = lk)) ∧
      (isManager who = false → s.bit (fBrEnable p) = false → s.after (.brEnable who port) (fun t =>
        t.bit (fBrEnable p) = false ∧ t.bit ⟨brReg p 4, 3, 3⟩ = true ∧ t.fld (fLinkState p) = st ∧ t.link p = lk)) ∧
      (isManager who = true → s.bit (fBrEnable p) = true → s.after (.brDisable who port) (fun t =>
        t.bit (fBrEnable p) = false ∧ t.fld (fLinkState p) = linkDownSt ∧ (up = true → s.linkWent t p 1))) ∧
      (exec (.serdesLockGained port) s =
        .next (if st = linkTraining then s.modLink p (fun l => { l with locked := true }) else s)) ∧
      (up = false → exec (.serdesLockLost port) s = .next (s.modLink p (fun l => { l with locked := false }))) ∧
      (up = true → s.after (.serdesLockLost port) (fun t => s.linkWent t p 2 ∧ (t.link p).locked = false)) ∧
      (st ≠ linkTraining ∨ lk.locked = false → exec train s = .next s) ∧
      (st = linkTraining → lk.locked = true →
        (k = s.selfDie → s.after train (fun t => t.fld (fLinkState p) = linkFailed ∧ t.fld (fCause p) = 7)) ∧
        (k ≠ s.selfDie → common = 0 → s.after train (fun t => t.fld (fLinkState p) = linkFailed ∧ t.fld (fCause p) = 8)) ∧
        (k ≠ s.selfDie → common ≠ 0 → s.after train (fun t => t.linkIsUp p = true ∧
          t.fld (fLinkVer p) = (if common.getLsbD 1 then 2 else 1) ∧ t.fld (fPartner p) = partner.setWidth 32 ∧
          t.bit (fPartnerValid p) = true ∧ t.shows (0x17B0 + p) false 0 ∧
          t.reg (brReg p 0xC) = BitVec.ofNat 32 (id.toNat * 2 ^ 16 + offer.toNat * 2 ^ 8) ∧
          (s.route k = none → t.route k = some p) ∧ (∀ q, s.route k = some q → t.route k = some q ∧ (t.link p).wait = [] ∧ (t.link p).out = [])))) ∧
      (exec (.trainingTimeout port) s =
        .next (if st = linkTraining then s.put [(fLinkState p, linkFailed), (fCause p, 6)] else s)) ∧
      ((st = linkDownSt ∨ st = linkFailed) → s.bit (fBrEnable p) = true → s.bit ⟨brReg p 0, 1, 1⟩ = true →
        s.after (.retrain port) (fun t => t.fld (fLinkState p) = linkTraining ∧ t.link p = { req := lk.req })) ∧
      (((st ≠ linkDownSt ∧ st ≠ linkFailed) ∨ s.bit (fBrEnable p) = false ∨ s.bit ⟨brReg p 0, 1, 1⟩ = false) →
        exec (.retrain port) s = .next s)) ∧
    (up = false ∨ cause = 0 ∨ 5 < cause.toNat → exec (.linkDown port cause) s = .next s) ∧
    (up = true → 1 ≤ cause.toNat → cause.toNat ≤ 5 →
      s.after (.linkDown port cause) (fun t => s.linkWent t p (cause.setWidth 32))) ∧
    (up = false → exec (.downNotice port) s = .next s) ∧
    (up = true → s.after (.downNotice port) (fun t => s.linkWent t p 5))

/-- A flit that passes its check is acknowledged, one that fails is answered with a negative acknowledgement, and an
acknowledgement that comes with a good one frees the flits it covers. A negative acknowledgement replays its flit and
every later one, counted; the eighth replay in succession, or 4,096 BCLK cycles without an answer, takes the link down
with cause 3 or 4 (R552, R555). The port with FOLLOW sends a sync flit with its time. The reply gives OFFSET, half the
sum of the two differences, and RTT, counted; an offset below N / 2 ns is slewed over N = 2^(K − 3) TCLK cycles
without touching the pending rate, a larger one sets TIME_FAR. An exchange during which a die stepped its timebase is
discarded (R565, R566). Times stand in units of 2^−8 ns, and an odd sum's half is rounded either way: the model's
choice (log 7). -/
def Obligations.FlitsAndTime : Prop :=
  (∀ (port : Fin 4) (good : Bool) (seq : Nat) (ack : Option Nat) (s : State),
    let p := port.val
    let l := s.link p
    let later : List (Nat × Nat × BrItem) := l.out.filter (fun x => decide (seq ≤ x.1))
    let replays : Word := s.fld ⟨brReg p 0x10, 31, 0⟩
    let left : List (Nat × Nat × BrItem) := match good, ack with
      | true, some a => l.out.filter (fun x => decide (a < x.1))
      | _, _ => l.out
    (s.linkIsUp p = false → exec (.flitReceive port good seq ack) s = .next s ∧ exec (.flitNak port seq) s = .next s ∧
      exec (.ackTimeout port) s = .next s) ∧
    (s.linkIsUp p = true →
      exec (.flitReceive port good seq ack) s =
        .next (s.modLink p (fun l => { l with ack := some (good, seq), out := left })) ∧
      ((∀ x ∈ later, x.2.1 < 7) → (∀ x ∈ l.out, x.2.1 < 8) → s.after (.flitNak port seq) (fun t =>
        t.linkIsUp p = true ∧ (t.fld ⟨brReg p 0x10, 31, 0⟩).toNat = min 0xFFFFFFFF (replays.toNat + later.length) ∧
        (t.link p).out = l.out.map (fun x => (x.1, if seq ≤ x.1 then x.2.1 + 1 else x.2.1, x.2.2)))) ∧
      ((∃ x ∈ later, 7 ≤ x.2.1) → s.after (.flitNak port seq) (fun t => s.linkWent t p 3)) ∧
      (l.out = [] → exec (.ackTimeout port) s = .next s) ∧
      (l.out ≠ [] → s.after (.ackTimeout port) (fun t => s.linkWent t p 4)))) ∧
  (∀ (port : Fin 4) (t1 t2 t3 t4 : BitVec 64) (stepped : Bool) (s : State),
    let p := port.val
    let reply : Instr := .timeExchangeReply port t2 t3 t4 stepped
    let cleared := s.modLink p (fun l => { l with exch := none })
    let at' (t : BitVec 64) : Int := Int.ofNat t.toNat
    let n : Nat := 2 ^ ((s.fld ⟨brReg p 0, 15, 12⟩).toNat - 3)
    let epoch := (s.fld fEpoch).toNat
    (s.linkIsUp p = false ∨ s.bit (fFollow p) = false → exec (.timeExchangeStart port t1) s = .next s) ∧
    (s.linkIsUp p = true → s.bit (fFollow p) = true → exec (.timeExchangeStart port t1) s =
      .next ((s.modLink p (fun l => { l with exch := some (t1, epoch) })).linkPush p (.sync t1))) ∧
    (s.linkIsUp p = false ∨ (s.link p).exch = none → exec reply s = .next s) ∧
    (s.linkIsUp p = true → ∀ t1' ep, (s.link p).exch = some (t1', ep) →
      (stepped = true ∨ ep ≠ epoch → exec reply s = .next cleared) ∧
      (stepped = false → ep = epoch →
        let sum := (at' t1' - at' t2) + (at' t4 - at' t3)
        s.after reply (fun t => ∃ ofs : Int, (2 * ofs = sum ∨ 2 * ofs = sum - 1 ∨ 2 * ofs = sum + 1) ∧
          t.reg (brReg p 0x30) = BitVec.ofInt 32 ofs ∧
          t.reg (brReg p 0x34) = BitVec.ofInt 32 ((at' t4 - at' t1') - (at' t3 - at' t2)) ∧
          (t.fld ⟨brReg p 0x38, 15, 0⟩).toNat = ((s.fld ⟨brReg p 0x38, 15, 0⟩).toNat + 1) % 65536 ∧
          (t.link p).exch = none ∧ t.pendReg (tbReg 0x28) = s.pendReg (tbReg 0x28) ∧
          (s.bit (fFollow p) = false → t.reg (tbReg 0x28) = s.reg (tbReg 0x28) ∧
            t.bit ⟨brReg p 4, 7, 7⟩ = s.bit ⟨brReg p 4, 7, 7⟩) ∧
          (s.bit (fFollow p) = true → ofs.natAbs < n / 2 * 256 → t.reg (tbReg 0x28) = BitVec.ofInt 32 (-ofs * 2 ^ 24 / n) ∧
            t.reg (tbReg 0x30) = BitVec.ofNat 32 n ∧ t.bit ⟨tbReg 4, 17, 17⟩ = true) ∧
          (s.bit (fFollow p) = true → n / 2 * 256 ≤ ofs.natAbs → t.bit ⟨brReg p 4, 7, 7⟩ = true ∧
            t.reg (tbReg 0x28) = s.reg (tbReg 0x28))))))

/-- A partner's request is performed where the receiving port's mask admits the bank and CORES owns it, and answered;
any other is answered with an error and counted; one whose bank is draining waits, even when the link has gone down
since, and no later one passes it. A partner's event is routed with its hop count one higher, or dropped at eight, a
level of version 2 is taken. A partner's message reaches only a thread with ANY_VC in the role it names, its mailbox
not full; in version 2 a refused one is reported back, and counted where it was sent from (R275, R280, R551, R557 to
R563). -/
def Obligations.PartnersRequestsAndMessages : Prop :=
  ∀ (port : Fin 4) (addr : BitVec 32) (acc : HostAccess) (data : Word) (i : Fin 64) (hop : Fin 9) (level : Option Bool)
    (dst : GT) (role : BitVec 12) (msg : BitVec 64) (full : Bool) (s : State),
    let p := port.val
    let a := addr.toNat
    let ch := 64 * (s.fld (fPartner p)).toNat + i.val
    let rest := s.modLink p (fun l => { l with req := none })
    let denied := (rest.countUp ⟨brReg p 0x20, 31, 0⟩).linkPush p (.response none)
    let h := min 8 (hop.val + 1)
    let send : Instr := .inboundMessage port dst role msg
    let reported (u : State) (full : Bool) : State := if s.fld (fLinkVer p) = 2 then u.linkPush p (.nack full) else u
    (s.linkIsUp p = false → ((s.link p).req = none → exec (.inboundRequest port addr acc) s = .next s) ∧
      exec (.inboundBridgeEvent port i hop level) s = .next s ∧ exec send s = .next s ∧
      exec (.msgNack port full) s = .next s) ∧
    ((s.link p).req ≠ none →
      exec (.inboundRequest port addr acc) s = exec (.inboundRequest port 0 .read32) s) ∧
    (s.linkIsUp p = true → (s.link p).req = none → s.homeQ = [] →
      (0xC000000 ≤ a ∨ s.inMask p a = false → exec (.inboundRequest port addr acc) s = .next denied) ∧
      (∀ g, bankOf a = some g → a < 0x4000000 → s.inMask p a = true → s.fld (fOwnerKind g) ≠ 1 →
        exec (.inboundRequest port addr acc) s = .next denied) ∧
      (∀ g, bankOf a = some g → g < 128 → s.inMask p a = true → s.coresBank g = true → s.bit (fDraining g) = false →
        a % 4 = 0 →
        exec (.inboundRequest port addr .read32) s = .next (rest.linkPush p (.response (some (s.bytes a 4)))) ∧
        s.after (.inboundRequest port addr (.write32 data)) (fun t => t.bytes a 4 = toBytes 4 data.toNat ∧
          s.sameMemBut t a 4 ∧ t.links = (rest.linkPush p (.response (some []))).links)) ∧
      (∀ g, bankOf a = some g → g < 128 → s.inMask p a = true → s.coresBank g = true → s.bit (fDraining g) = true →
        a % 4 = 0 → exec (.inboundRequest port addr .read32) s =
          .next (s.modLink p (fun l => { l with req := some (a, .read32) })))) ∧
    (s.linkIsUp p = true →
      (level = none →
        (h < 8 → s.after (.inboundBridgeEvent port i hop level) (fun t => t = { s with routed := t.routed } ∧
          ∃ ls, t.routed = s.routed ++ [.event (0x1600 + ch) false h ls])) ∧
        (h = 8 → exec (.inboundBridgeEvent port i hop level) s = .next (s.loopDrop (0x1600 + ch) false 0 0))) ∧
      (∀ v, level = some v → exec (.inboundBridgeEvent port i hop level) s = .next
        (if s.fld (fLinkVer p) = 2 then { s with inLevels := Map.set false s.inLevels ch v } else s)) ∧
      (s.corePresent (dst.val / 64) = true →
        let box := (s.thread dst.val).inbox
        let mine : Prop := s.bit (fAnyVc dst.val) = true ∧ s.fld (fRoleGen dst.val) = role.setWidth 32
        (mine → box.length < 8 → exec send s =
          .next (s.modThread dst.val (fun t => { t with inbox := box ++ [msg] }))) ∧
        (mine → 8 ≤ box.length → exec send s = .next (reported (s.countUp ⟨0x10518004 + 8 * dst.val, 23, 16⟩) true)) ∧
        (¬ mine → exec send s = .next (reported (s.countUp ⟨0x10518004 + 8 * dst.val, 15, 8⟩) false))) ∧
      (exec (.msgNack port full) s = .next (if s.fld (fLinkVer p) = 2 then
        s.countUp (if full then ⟨brReg p 0x1C, 31, 16⟩ else ⟨brReg p 0x1C, 15, 0⟩) else s)))

/-- A snoop of the SoC is counted, and answered at once where no core's copy need be asked for; otherwise the home of
its line forwards it, each holder's answer awaited. While the gateway's own request for the line waits for the SoC the
snoop is forwarded or answered at once all the same; behind any other transaction of the line it waits (R341, R342,
R349, R578). Scan is let in only in BLANK or in a cleared RETURNED part, else a refusal is counted; after it nothing is
known of the part: the model's choice of free values (R597, log 12). -/
def Obligations.SnoopsAndScan : Prop :=
  ∀ (line : BitVec 42) (inv : Bool) (s : State),
    let l := line.toNat
    let id := s.reqCtr
    let c : State := { s.countUp ⟨0x10700204, 31, 0⟩ with reqCtr := id + 1 }
    let snoop : Instr := .gwSnoop line inv
    let answered := exec snoop s = .next { c with answers := s.answers ++ [(id, some [])] }
    let may : Prop := s.fld fLc = 0 ∨ (s.fld fLc = lcReturned ∧ s.mode.cleared = 4)
    (s.powered 44 = false → exec snoop s = .next s) ∧
    (s.powered 44 = true →
      (isGwLine l = false → answered) ∧
      (isGwLine l = true → s.homeQ = [] → s.wayAwaited l = false →
        (s.dentry l = none → answered) ∧
        (∀ e, s.dentry l = some e →
          let asked := if inv = true ∨ e.excl = true then e.sharers else []
          let forwarded (t : State) (x : Txn) : Prop := t.answers = s.answers ∧ t.reqCtr = id + 1 ∧
            t.reg 0x10700204 = c.reg 0x10700204 ∧
            t.coh = s.coh ++ asked.map (fun n => ⟨if inv then .snpInv else .snpShared, n, l, 0⟩) ∧
            ∃ e', t.dentry l = some e' ∧ e'.txn = some x ∧ e'.sharers = e.sharers
          (e.txn = none → asked = [] → answered) ∧
          (e.txn = none → asked ≠ [] → s.after snoop (fun t => forwarded t
            { kind := .access, wait := asked, inv := inv, snoop := some id })) ∧
          (∀ x, e.txn = some x → x.ready = false →
            (x.fetch = true → x.data = none → x.snoop = none →
              (asked = [] → answered) ∧
              (asked ≠ [] → s.after snoop (fun t => forwarded t
                { x with
                  snoop := some id
                  inv := inv
                  wait := asked }))) ∧
            (x.fetch = false ∨ x.data ≠ none ∨ x.snoop ≠ none →
              exec snoop s = .next { c with homeQ := [.snoop l inv id] }))))) ∧
    (s.fld fMode = modeOff → exec .testScan s = .next s) ∧
    (s.fld fMode ≠ modeOff → ¬ may → exec .testScan s = .next (s.countUp ⟨0x10900078, 15, 0⟩)) ∧
    (s.fld fMode ≠ modeOff → may → s.after .testScan (fun t =>
      t.pending = s.pending ∧ t.answers = s.answers ∧ t.freeCtr = s.freeCtr + 1))
end

