-- ==== Sys2Proof/Laws/Map.lean ====
section
/-!
SUPPORT. The laws of sparse maps: a read after a write of the same key gives the value written, a
write leaves every other key alone, and a write keeps the canonical form.
-/
namespace Sys2Proof.Machine

variable {α : Type}

theorem Map.get_erase_same (d : α) (m : Map α) (k : Nat) : Map.get d (Map.erase m k) k = d := by
  induction m with
  | nil => rfl
  | cons p r ih =>
    by_cases h : p.1 = k
    · simpa [Map.erase, h] using ih
    · simpa [Map.erase, h, Map.get] using ih

theorem Map.get_erase_other (d : α) (m : Map α) {k j : Nat} (hj : j ≠ k) :
    Map.get d (Map.erase m k) j = Map.get d m j := by
  induction m with
  | nil => rfl
  | cons p r ih =>
    by_cases h : p.1 = k
    · have : p.1 ≠ j := fun e => hj (e.symm.trans h)
      simpa [Map.erase, h, Map.get, this, Ne.symm hj] using ih
    · by_cases hp : p.1 = j
      · have hf : (p.1 != k) = true := by simpa using h
        rw [Map.erase, List.filter_cons, if_pos hf]; simp only [Map.get, hp, if_true]
      · simpa [Map.erase, h, Map.get, hp] using ih

theorem Map.get_insert_other (d : α) (m : Map α) {k j : Nat} (v : α) (hj : j ≠ k) :
    Map.get d (Map.insert m k v) j = Map.get d m j := by
  induction m with
  | nil => simp [Map.insert, Map.get, Ne.symm hj]
  | cons p r ih =>
    simp only [Map.insert]
    split
    · simp [Map.get, Ne.symm hj]
    · simp only [Map.get, ih]

theorem Map.get_insert_same (d : α) (m : Map α) (k : Nat) (v : α)
    (h : ∀ p ∈ m, p.1 ≠ k) : Map.get d (Map.insert m k v) k = v := by
  induction m with
  | nil => simp [Map.insert, Map.get]
  | cons p r ih =>
    have hp : p.1 ≠ k := h p (by simp)
    have hr : ∀ q ∈ r, q.1 ≠ k := fun q hq => h q (by simp [hq])
    simp only [Map.insert]
    split
    · simp [Map.get]
    · simp only [Map.get, hp, if_false, ih hr]

theorem Map.erase_ne (m : Map α) (k : Nat) : ∀ p ∈ Map.erase m k, p.1 ≠ k := by
  intro p hp
  simpa using (List.mem_filter.1 hp).2

@[simp] theorem Map.get_set_same [DecidableEq α] (d : α) (m : Map α) (k : Nat) (v : α) :
    Map.get d (Map.set d m k v) k = v := by
  unfold Map.set
  split
  · rename_i h; rw [Map.get_erase_same, h]
  · exact Map.get_insert_same d _ k v (Map.erase_ne m k)

theorem Map.get_set_other [DecidableEq α] (d e : α) (m : Map α) {k j : Nat} (v : α) (hj : j ≠ k) :
    Map.get e (Map.set d m k v) j = Map.get e m j := by
  unfold Map.set
  split
  · exact Map.get_erase_other e m hj
  · rw [Map.get_insert_other e _ v hj, Map.get_erase_other e m hj]

theorem Map.rising_mono (m : Map α) {b c : Nat} (h : c ≤ b) (hm : Map.rising b m = true) :
    Map.rising c m = true := by
  cases m with
  | nil => rfl
  | cons p r =>
    simp only [Map.rising, Bool.and_eq_true, decide_eq_true_eq] at hm ⊢
    exact ⟨Nat.le_trans h hm.1, hm.2⟩

theorem Map.rising_erase (m : Map α) (k : Nat) {b : Nat} (hm : Map.rising b m = true) :
    Map.rising b (Map.erase m k) = true := by
  induction m generalizing b with
  | nil => rfl
  | cons p r ih =>
    simp only [Map.rising, Bool.and_eq_true, decide_eq_true_eq] at hm
    by_cases h : p.1 = k
    · have := ih hm.2
      simpa [Map.erase, h] using Map.rising_mono _ (Nat.le_succ_of_le (h ▸ hm.1)) (h ▸ this)
    · have := ih hm.2
      simp only [Map.erase] at this
      simp [Map.erase, h, Map.rising, hm.1, this]

theorem Map.rising_insert (m : Map α) (k : Nat) (v : α) {b : Nat} (hb : b ≤ k)
    (hk : ∀ p ∈ m, p.1 ≠ k) (hm : Map.rising b m = true) :
    Map.rising b (Map.insert m k v) = true := by
  induction m generalizing b with
  | nil => simp [Map.insert, Map.rising, hb]
  | cons p r ih =>
    simp only [Map.rising, Bool.and_eq_true, decide_eq_true_eq] at hm
    have hp : p.1 ≠ k := hk p (by simp)
    simp only [Map.insert]
    split
    · rename_i h
      simp only [Map.rising, Bool.and_eq_true, decide_eq_true_eq]
      exact ⟨hb, h, hm.2⟩
    · rename_i h
      simp only [Map.rising, Bool.and_eq_true, decide_eq_true_eq]
      exact ⟨hm.1, ih (by omega) (fun q hq => hk q (by simp [hq])) hm.2⟩

theorem Map.mem_insert (m : Map α) (k : Nat) (v : α) {p : Nat × α} (h : p ∈ Map.insert m k v) :
    p = (k, v) ∨ p ∈ m := by
  induction m with
  | nil => simpa [Map.insert] using h
  | cons q r ih =>
    simp only [Map.insert] at h
    split at h
    · simpa using h
    · rcases List.mem_cons.1 h with h | h
      · exact .inr (by simp [h])
      · rcases ih h with h | h
        · exact .inl h
        · exact .inr (by simp [h])

/-- A write keeps the canonical form. -/
theorem Map.wf_set [DecidableEq α] (d : Nat → α) (m : Map α) (k : Nat) (v : α)
    (h : Map.wf d m = true) : Map.wf d (Map.set (d k) m k v) = true := by
  simp only [Map.wf, Bool.and_eq_true, List.all_eq_true, decide_eq_true_eq] at h ⊢
  have he : ∀ p ∈ Map.erase m k, p.2 ≠ d p.1 := fun p hp => h.2 p (List.mem_filter.1 hp).1
  unfold Map.set
  split
  · exact ⟨Map.rising_erase m k h.1, he⟩
  · rename_i hv
    refine ⟨Map.rising_insert _ k v (Nat.zero_le _) (Map.erase_ne m k) (Map.rising_erase m k h.1), ?_⟩
    intro p hp
    rcases Map.mem_insert _ k v hp with rfl | hp
    · exact hv
    · exact he p hp

end Sys2Proof.Machine
end

