-- ==== Sys2Proof/Laws/State.lean ====
section
/-!
SUPPORT. The laws of the state record: what each of the basic updates leaves alone, one lemma per
field, so that no proof unfolds a record update.
-/
namespace Sys2Proof.Machine

/-! ## `State.setReg` changes `regs` alone -/

@[simp] theorem State.setReg_pend (s : State) (a : Nat) (v : Word) : (s.setReg a v).pend = s.pend := rfl
@[simp] theorem State.setReg_mem (s : State) (a : Nat) (v : Word) : (s.setReg a v).mem = s.mem := rfl
@[simp] theorem State.setReg_bankFill (s : State) (a : Nat) (v : Word) : (s.setReg a v).bankFill = s.bankFill := rfl
@[simp] theorem State.setReg_threads (s : State) (a : Nat) (v : Word) : (s.setReg a v).threads = s.threads := rfl
@[simp] theorem State.setReg_pairs (s : State) (a : Nat) (v : Word) : (s.setReg a v).pairs = s.pairs := rfl
@[simp] theorem State.setReg_selfTest (s : State) (a : Nat) (v : Word) : (s.setReg a v).selfTest = s.selfTest := rfl
@[simp] theorem State.setReg_inject (s : State) (a : Nat) (v : Word) : (s.setReg a v).inject = s.inject := rfl
@[simp] theorem State.setReg_capture (s : State) (a : Nat) (v : Word) : (s.setReg a v).capture = s.capture := rfl
@[simp] theorem State.setReg_icache (s : State) (a : Nat) (v : Word) : (s.setReg a v).icache = s.icache := rfl
@[simp] theorem State.setReg_toggles (s : State) (a : Nat) (v : Word) : (s.setReg a v).toggles = s.toggles := rfl
@[simp] theorem State.setReg_routed (s : State) (a : Nat) (v : Word) : (s.setReg a v).routed = s.routed := rfl
@[simp] theorem State.setReg_held (s : State) (a : Nat) (v : Word) : (s.setReg a v).held = s.held := rfl
@[simp] theorem State.setReg_latched (s : State) (a : Nat) (v : Word) : (s.setReg a v).latched = s.latched := rfl
@[simp] theorem State.setReg_inLevels (s : State) (a : Nat) (v : Word) : (s.setReg a v).inLevels = s.inLevels := rfl
@[simp] theorem State.setReg_xq (s : State) (a : Nat) (v : Word) : (s.setReg a v).xq = s.xq := rfl
@[simp] theorem State.setReg_lanes (s : State) (a : Nat) (v : Word) : (s.setReg a v).lanes = s.lanes := rfl
@[simp] theorem State.setReg_seqs (s : State) (a : Nat) (v : Word) : (s.setReg a v).seqs = s.seqs := rfl
@[simp] theorem State.setReg_progOld (s : State) (a : Nat) (v : Word) : (s.setReg a v).progOld = s.progOld := rfl
@[simp] theorem State.setReg_edges (s : State) (a : Nat) (v : Word) : (s.setReg a v).edges = s.edges := rfl
@[simp] theorem State.setReg_credits (s : State) (a : Nat) (v : Word) : (s.setReg a v).credits = s.credits := rfl
@[simp] theorem State.setReg_timers (s : State) (a : Nat) (v : Word) : (s.setReg a v).timers = s.timers := rfl
@[simp] theorem State.setReg_tcycle (s : State) (a : Nat) (v : Word) : (s.setReg a v).tcycle = s.tcycle := rfl
@[simp] theorem State.setReg_tbHist (s : State) (a : Nat) (v : Word) : (s.setReg a v).tbHist = s.tbHist := rfl
@[simp] theorem State.setReg_anchored (s : State) (a : Nat) (v : Word) : (s.setReg a v).anchored = s.anchored := rfl
@[simp] theorem State.setReg_ppsEdge (s : State) (a : Nat) (v : Word) : (s.setReg a v).ppsEdge = s.ppsEdge := rfl
@[simp] theorem State.setReg_goLate (s : State) (a : Nat) (v : Word) : (s.setReg a v).goLate = s.goLate := rfl
@[simp] theorem State.setReg_ledger (s : State) (a : Nat) (v : Word) : (s.setReg a v).ledger = s.ledger := rfl
@[simp] theorem State.setReg_ledgerQ (s : State) (a : Nat) (v : Word) : (s.setReg a v).ledgerQ = s.ledgerQ := rfl
@[simp] theorem State.setReg_caches (s : State) (a : Nat) (v : Word) : (s.setReg a v).caches = s.caches := rfl
@[simp] theorem State.setReg_dwait (s : State) (a : Nat) (v : Word) : (s.setReg a v).dwait = s.dwait := rfl
@[simp] theorem State.setReg_dir (s : State) (a : Nat) (v : Word) : (s.setReg a v).dir = s.dir := rfl
@[simp] theorem State.setReg_dirClock (s : State) (a : Nat) (v : Word) : (s.setReg a v).dirClock = s.dirClock := rfl
@[simp] theorem State.setReg_coh (s : State) (a : Nat) (v : Word) : (s.setReg a v).coh = s.coh := rfl
@[simp] theorem State.setReg_homeQ (s : State) (a : Nat) (v : Word) : (s.setReg a v).homeQ = s.homeQ := rfl
@[simp] theorem State.setReg_promises (s : State) (a : Nat) (v : Word) : (s.setReg a v).promises = s.promises := rfl
@[simp] theorem State.setReg_fence (s : State) (a : Nat) (v : Word) : (s.setReg a v).fence = s.fence := rfl
@[simp] theorem State.setReg_fenceAcc (s : State) (a : Nat) (v : Word) : (s.setReg a v).fenceAcc = s.fenceAcc := rfl
@[simp] theorem State.setReg_fenceReq (s : State) (a : Nat) (v : Word) : (s.setReg a v).fenceReq = s.fenceReq := rfl
@[simp] theorem State.setReg_fenceClock (s : State) (a : Nat) (v : Word) : (s.setReg a v).fenceClock = s.fenceClock := rfl
@[simp] theorem State.setReg_creq (s : State) (a : Nat) (v : Word) : (s.setReg a v).creq = s.creq := rfl
@[simp] theorem State.setReg_flush (s : State) (a : Nat) (v : Word) : (s.setReg a v).flush = s.flush := rfl
@[simp] theorem State.setReg_portB (s : State) (a : Nat) (v : Word) : (s.setReg a v).portB = s.portB := rfl
@[simp] theorem State.setReg_reqCtr (s : State) (a : Nat) (v : Word) : (s.setReg a v).reqCtr = s.reqCtr := rfl
@[simp] theorem State.setReg_chans (s : State) (a : Nat) (v : Word) : (s.setReg a v).chans = s.chans := rfl
@[simp] theorem State.setReg_pools (s : State) (a : Nat) (v : Word) : (s.setReg a v).pools = s.pools := rfl
@[simp] theorem State.setReg_silo (s : State) (a : Nat) (v : Word) : (s.setReg a v).silo = s.silo := rfl
@[simp] theorem State.setReg_bulks (s : State) (a : Nat) (v : Word) : (s.setReg a v).bulks = s.bulks := rfl
@[simp] theorem State.setReg_links (s : State) (a : Nat) (v : Word) : (s.setReg a v).links = s.links := rfl
@[simp] theorem State.setReg_routes (s : State) (a : Nat) (v : Word) : (s.setReg a v).routes = s.routes := rfl
@[simp] theorem State.setReg_outLevels (s : State) (a : Nat) (v : Word) : (s.setReg a v).outLevels = s.outLevels := rfl
@[simp] theorem State.setReg_vcs (s : State) (a : Nat) (v : Word) : (s.setReg a v).vcs = s.vcs := rfl
@[simp] theorem State.setReg_loft (s : State) (a : Nat) (v : Word) : (s.setReg a v).loft = s.loft := rfl
@[simp] theorem State.setReg_store (s : State) (a : Nat) (v : Word) : (s.setReg a v).store = s.store := rfl
@[simp] theorem State.setReg_start (s : State) (a : Nat) (v : Word) : (s.setReg a v).start = s.start := rfl
@[simp] theorem State.setReg_mode (s : State) (a : Nat) (v : Word) : (s.setReg a v).mode = s.mode := rfl
@[simp] theorem State.setReg_offBanks (s : State) (a : Nat) (v : Word) : (s.setReg a v).offBanks = s.offBanks := rfl
@[simp] theorem State.setReg_leaving (s : State) (a : Nat) (v : Word) : (s.setReg a v).leaving = s.leaving := rfl
@[simp] theorem State.setReg_march (s : State) (a : Nat) (v : Word) : (s.setReg a v).march = s.march := rfl
@[simp] theorem State.setReg_msgs (s : State) (a : Nat) (v : Word) : (s.setReg a v).msgs = s.msgs := rfl
@[simp] theorem State.setReg_msgTurn (s : State) (a : Nat) (v : Word) : (s.setReg a v).msgTurn = s.msgTurn := rfl
@[simp] theorem State.setReg_sip (s : State) (a : Nat) (v : Word) : (s.setReg a v).sip = s.sip := rfl
@[simp] theorem State.setReg_bulkWait (s : State) (a : Nat) (v : Word) : (s.setReg a v).bulkWait = s.bulkWait := rfl
@[simp] theorem State.setReg_answers (s : State) (a : Nat) (v : Word) : (s.setReg a v).answers = s.answers := rfl
@[simp] theorem State.setReg_freeCtr (s : State) (a : Nat) (v : Word) : (s.setReg a v).freeCtr = s.freeCtr := rfl
@[simp] theorem State.setReg_pending (s : State) (a : Nat) (v : Word) : (s.setReg a v).pending = s.pending := rfl

/-! ## `State.setPend` changes `pend` alone -/

@[simp] theorem State.setPend_regs (s : State) (a : Nat) (v : Word) : (s.setPend a v).regs = s.regs := rfl
@[simp] theorem State.setPend_mem (s : State) (a : Nat) (v : Word) : (s.setPend a v).mem = s.mem := rfl
@[simp] theorem State.setPend_bankFill (s : State) (a : Nat) (v : Word) : (s.setPend a v).bankFill = s.bankFill := rfl
@[simp] theorem State.setPend_threads (s : State) (a : Nat) (v : Word) : (s.setPend a v).threads = s.threads := rfl
@[simp] theorem State.setPend_pairs (s : State) (a : Nat) (v : Word) : (s.setPend a v).pairs = s.pairs := rfl
@[simp] theorem State.setPend_selfTest (s : State) (a : Nat) (v : Word) : (s.setPend a v).selfTest = s.selfTest := rfl
@[simp] theorem State.setPend_inject (s : State) (a : Nat) (v : Word) : (s.setPend a v).inject = s.inject := rfl
@[simp] theorem State.setPend_capture (s : State) (a : Nat) (v : Word) : (s.setPend a v).capture = s.capture := rfl
@[simp] theorem State.setPend_icache (s : State) (a : Nat) (v : Word) : (s.setPend a v).icache = s.icache := rfl
@[simp] theorem State.setPend_toggles (s : State) (a : Nat) (v : Word) : (s.setPend a v).toggles = s.toggles := rfl
@[simp] theorem State.setPend_routed (s : State) (a : Nat) (v : Word) : (s.setPend a v).routed = s.routed := rfl
@[simp] theorem State.setPend_held (s : State) (a : Nat) (v : Word) : (s.setPend a v).held = s.held := rfl
@[simp] theorem State.setPend_latched (s : State) (a : Nat) (v : Word) : (s.setPend a v).latched = s.latched := rfl
@[simp] theorem State.setPend_inLevels (s : State) (a : Nat) (v : Word) : (s.setPend a v).inLevels = s.inLevels := rfl
@[simp] theorem State.setPend_xq (s : State) (a : Nat) (v : Word) : (s.setPend a v).xq = s.xq := rfl
@[simp] theorem State.setPend_lanes (s : State) (a : Nat) (v : Word) : (s.setPend a v).lanes = s.lanes := rfl
@[simp] theorem State.setPend_seqs (s : State) (a : Nat) (v : Word) : (s.setPend a v).seqs = s.seqs := rfl
@[simp] theorem State.setPend_progOld (s : State) (a : Nat) (v : Word) : (s.setPend a v).progOld = s.progOld := rfl
@[simp] theorem State.setPend_edges (s : State) (a : Nat) (v : Word) : (s.setPend a v).edges = s.edges := rfl
@[simp] theorem State.setPend_credits (s : State) (a : Nat) (v : Word) : (s.setPend a v).credits = s.credits := rfl
@[simp] theorem State.setPend_timers (s : State) (a : Nat) (v : Word) : (s.setPend a v).timers = s.timers := rfl
@[simp] theorem State.setPend_tcycle (s : State) (a : Nat) (v : Word) : (s.setPend a v).tcycle = s.tcycle := rfl
@[simp] theorem State.setPend_tbHist (s : State) (a : Nat) (v : Word) : (s.setPend a v).tbHist = s.tbHist := rfl
@[simp] theorem State.setPend_anchored (s : State) (a : Nat) (v : Word) : (s.setPend a v).anchored = s.anchored := rfl
@[simp] theorem State.setPend_ppsEdge (s : State) (a : Nat) (v : Word) : (s.setPend a v).ppsEdge = s.ppsEdge := rfl
@[simp] theorem State.setPend_goLate (s : State) (a : Nat) (v : Word) : (s.setPend a v).goLate = s.goLate := rfl
@[simp] theorem State.setPend_ledger (s : State) (a : Nat) (v : Word) : (s.setPend a v).ledger = s.ledger := rfl
@[simp] theorem State.setPend_ledgerQ (s : State) (a : Nat) (v : Word) : (s.setPend a v).ledgerQ = s.ledgerQ := rfl
@[simp] theorem State.setPend_caches (s : State) (a : Nat) (v : Word) : (s.setPend a v).caches = s.caches := rfl
@[simp] theorem State.setPend_dwait (s : State) (a : Nat) (v : Word) : (s.setPend a v).dwait = s.dwait := rfl
@[simp] theorem State.setPend_dir (s : State) (a : Nat) (v : Word) : (s.setPend a v).dir = s.dir := rfl
@[simp] theorem State.setPend_dirClock (s : State) (a : Nat) (v : Word) : (s.setPend a v).dirClock = s.dirClock := rfl
@[simp] theorem State.setPend_coh (s : State) (a : Nat) (v : Word) : (s.setPend a v).coh = s.coh := rfl
@[simp] theorem State.setPend_homeQ (s : State) (a : Nat) (v : Word) : (s.setPend a v).homeQ = s.homeQ := rfl
@[simp] theorem State.setPend_promises (s : State) (a : Nat) (v : Word) : (s.setPend a v).promises = s.promises := rfl
@[simp] theorem State.setPend_fence (s : State) (a : Nat) (v : Word) : (s.setPend a v).fence = s.fence := rfl
@[simp] theorem State.setPend_fenceAcc (s : State) (a : Nat) (v : Word) : (s.setPend a v).fenceAcc = s.fenceAcc := rfl
@[simp] theorem State.setPend_fenceReq (s : State) (a : Nat) (v : Word) : (s.setPend a v).fenceReq = s.fenceReq := rfl
@[simp] theorem State.setPend_fenceClock (s : State) (a : Nat) (v : Word) : (s.setPend a v).fenceClock = s.fenceClock := rfl
@[simp] theorem State.setPend_creq (s : State) (a : Nat) (v : Word) : (s.setPend a v).creq = s.creq := rfl
@[simp] theorem State.setPend_flush (s : State) (a : Nat) (v : Word) : (s.setPend a v).flush = s.flush := rfl
@[simp] theorem State.setPend_portB (s : State) (a : Nat) (v : Word) : (s.setPend a v).portB = s.portB := rfl
@[simp] theorem State.setPend_reqCtr (s : State) (a : Nat) (v : Word) : (s.setPend a v).reqCtr = s.reqCtr := rfl
@[simp] theorem State.setPend_chans (s : State) (a : Nat) (v : Word) : (s.setPend a v).chans = s.chans := rfl
@[simp] theorem State.setPend_pools (s : State) (a : Nat) (v : Word) : (s.setPend a v).pools = s.pools := rfl
@[simp] theorem State.setPend_silo (s : State) (a : Nat) (v : Word) : (s.setPend a v).silo = s.silo := rfl
@[simp] theorem State.setPend_bulks (s : State) (a : Nat) (v : Word) : (s.setPend a v).bulks = s.bulks := rfl
@[simp] theorem State.setPend_links (s : State) (a : Nat) (v : Word) : (s.setPend a v).links = s.links := rfl
@[simp] theorem State.setPend_routes (s : State) (a : Nat) (v : Word) : (s.setPend a v).routes = s.routes := rfl
@[simp] theorem State.setPend_outLevels (s : State) (a : Nat) (v : Word) : (s.setPend a v).outLevels = s.outLevels := rfl
@[simp] theorem State.setPend_vcs (s : State) (a : Nat) (v : Word) : (s.setPend a v).vcs = s.vcs := rfl
@[simp] theorem State.setPend_loft (s : State) (a : Nat) (v : Word) : (s.setPend a v).loft = s.loft := rfl
@[simp] theorem State.setPend_store (s : State) (a : Nat) (v : Word) : (s.setPend a v).store = s.store := rfl
@[simp] theorem State.setPend_start (s : State) (a : Nat) (v : Word) : (s.setPend a v).start = s.start := rfl
@[simp] theorem State.setPend_mode (s : State) (a : Nat) (v : Word) : (s.setPend a v).mode = s.mode := rfl
@[simp] theorem State.setPend_offBanks (s : State) (a : Nat) (v : Word) : (s.setPend a v).offBanks = s.offBanks := rfl
@[simp] theorem State.setPend_leaving (s : State) (a : Nat) (v : Word) : (s.setPend a v).leaving = s.leaving := rfl
@[simp] theorem State.setPend_march (s : State) (a : Nat) (v : Word) : (s.setPend a v).march = s.march := rfl
@[simp] theorem State.setPend_msgs (s : State) (a : Nat) (v : Word) : (s.setPend a v).msgs = s.msgs := rfl
@[simp] theorem State.setPend_msgTurn (s : State) (a : Nat) (v : Word) : (s.setPend a v).msgTurn = s.msgTurn := rfl
@[simp] theorem State.setPend_sip (s : State) (a : Nat) (v : Word) : (s.setPend a v).sip = s.sip := rfl
@[simp] theorem State.setPend_bulkWait (s : State) (a : Nat) (v : Word) : (s.setPend a v).bulkWait = s.bulkWait := rfl
@[simp] theorem State.setPend_answers (s : State) (a : Nat) (v : Word) : (s.setPend a v).answers = s.answers := rfl
@[simp] theorem State.setPend_freeCtr (s : State) (a : Nat) (v : Word) : (s.setPend a v).freeCtr = s.freeCtr := rfl
@[simp] theorem State.setPend_pending (s : State) (a : Nat) (v : Word) : (s.setPend a v).pending = s.pending := rfl

/-! ## `State.setFld` changes `regs` alone -/

@[simp] theorem State.setFld_pend (s : State) (x : Fld) (v : Word) : (s.setFld x v).pend = s.pend := rfl
@[simp] theorem State.setFld_mem (s : State) (x : Fld) (v : Word) : (s.setFld x v).mem = s.mem := rfl
@[simp] theorem State.setFld_bankFill (s : State) (x : Fld) (v : Word) : (s.setFld x v).bankFill = s.bankFill := rfl
@[simp] theorem State.setFld_threads (s : State) (x : Fld) (v : Word) : (s.setFld x v).threads = s.threads := rfl
@[simp] theorem State.setFld_pairs (s : State) (x : Fld) (v : Word) : (s.setFld x v).pairs = s.pairs := rfl
@[simp] theorem State.setFld_selfTest (s : State) (x : Fld) (v : Word) : (s.setFld x v).selfTest = s.selfTest := rfl
@[simp] theorem State.setFld_inject (s : State) (x : Fld) (v : Word) : (s.setFld x v).inject = s.inject := rfl
@[simp] theorem State.setFld_capture (s : State) (x : Fld) (v : Word) : (s.setFld x v).capture = s.capture := rfl
@[simp] theorem State.setFld_icache (s : State) (x : Fld) (v : Word) : (s.setFld x v).icache = s.icache := rfl
@[simp] theorem State.setFld_toggles (s : State) (x : Fld) (v : Word) : (s.setFld x v).toggles = s.toggles := rfl
@[simp] theorem State.setFld_routed (s : State) (x : Fld) (v : Word) : (s.setFld x v).routed = s.routed := rfl
@[simp] theorem State.setFld_held (s : State) (x : Fld) (v : Word) : (s.setFld x v).held = s.held := rfl
@[simp] theorem State.setFld_latched (s : State) (x : Fld) (v : Word) : (s.setFld x v).latched = s.latched := rfl
@[simp] theorem State.setFld_inLevels (s : State) (x : Fld) (v : Word) : (s.setFld x v).inLevels = s.inLevels := rfl
@[simp] theorem State.setFld_xq (s : State) (x : Fld) (v : Word) : (s.setFld x v).xq = s.xq := rfl
@[simp] theorem State.setFld_lanes (s : State) (x : Fld) (v : Word) : (s.setFld x v).lanes = s.lanes := rfl
@[simp] theorem State.setFld_seqs (s : State) (x : Fld) (v : Word) : (s.setFld x v).seqs = s.seqs := rfl
@[simp] theorem State.setFld_progOld (s : State) (x : Fld) (v : Word) : (s.setFld x v).progOld = s.progOld := rfl
@[simp] theorem State.setFld_edges (s : State) (x : Fld) (v : Word) : (s.setFld x v).edges = s.edges := rfl
@[simp] theorem State.setFld_credits (s : State) (x : Fld) (v : Word) : (s.setFld x v).credits = s.credits := rfl
@[simp] theorem State.setFld_timers (s : State) (x : Fld) (v : Word) : (s.setFld x v).timers = s.timers := rfl
@[simp] theorem State.setFld_tcycle (s : State) (x : Fld) (v : Word) : (s.setFld x v).tcycle = s.tcycle := rfl
@[simp] theorem State.setFld_tbHist (s : State) (x : Fld) (v : Word) : (s.setFld x v).tbHist = s.tbHist := rfl
@[simp] theorem State.setFld_anchored (s : State) (x : Fld) (v : Word) : (s.setFld x v).anchored = s.anchored := rfl
@[simp] theorem State.setFld_ppsEdge (s : State) (x : Fld) (v : Word) : (s.setFld x v).ppsEdge = s.ppsEdge := rfl
@[simp] theorem State.setFld_goLate (s : State) (x : Fld) (v : Word) : (s.setFld x v).goLate = s.goLate := rfl
@[simp] theorem State.setFld_ledger (s : State) (x : Fld) (v : Word) : (s.setFld x v).ledger = s.ledger := rfl
@[simp] theorem State.setFld_ledgerQ (s : State) (x : Fld) (v : Word) : (s.setFld x v).ledgerQ = s.ledgerQ := rfl
@[simp] theorem State.setFld_caches (s : State) (x : Fld) (v : Word) : (s.setFld x v).caches = s.caches := rfl
@[simp] theorem State.setFld_dwait (s : State) (x : Fld) (v : Word) : (s.setFld x v).dwait = s.dwait := rfl
@[simp] theorem State.setFld_dir (s : State) (x : Fld) (v : Word) : (s.setFld x v).dir = s.dir := rfl
@[simp] theorem State.setFld_dirClock (s : State) (x : Fld) (v : Word) : (s.setFld x v).dirClock = s.dirClock := rfl
@[simp] theorem State.setFld_coh (s : State) (x : Fld) (v : Word) : (s.setFld x v).coh = s.coh := rfl
@[simp] theorem State.setFld_homeQ (s : State) (x : Fld) (v : Word) : (s.setFld x v).homeQ = s.homeQ := rfl
@[simp] theorem State.setFld_promises (s : State) (x : Fld) (v : Word) : (s.setFld x v).promises = s.promises := rfl
@[simp] theorem State.setFld_fence (s : State) (x : Fld) (v : Word) : (s.setFld x v).fence = s.fence := rfl
@[simp] theorem State.setFld_fenceAcc (s : State) (x : Fld) (v : Word) : (s.setFld x v).fenceAcc = s.fenceAcc := rfl
@[simp] theorem State.setFld_fenceReq (s : State) (x : Fld) (v : Word) : (s.setFld x v).fenceReq = s.fenceReq := rfl
@[simp] theorem State.setFld_fenceClock (s : State) (x : Fld) (v : Word) : (s.setFld x v).fenceClock = s.fenceClock := rfl
@[simp] theorem State.setFld_creq (s : State) (x : Fld) (v : Word) : (s.setFld x v).creq = s.creq := rfl
@[simp] theorem State.setFld_flush (s : State) (x : Fld) (v : Word) : (s.setFld x v).flush = s.flush := rfl
@[simp] theorem State.setFld_portB (s : State) (x : Fld) (v : Word) : (s.setFld x v).portB = s.portB := rfl
@[simp] theorem State.setFld_reqCtr (s : State) (x : Fld) (v : Word) : (s.setFld x v).reqCtr = s.reqCtr := rfl
@[simp] theorem State.setFld_chans (s : State) (x : Fld) (v : Word) : (s.setFld x v).chans = s.chans := rfl
@[simp] theorem State.setFld_pools (s : State) (x : Fld) (v : Word) : (s.setFld x v).pools = s.pools := rfl
@[simp] theorem State.setFld_silo (s : State) (x : Fld) (v : Word) : (s.setFld x v).silo = s.silo := rfl
@[simp] theorem State.setFld_bulks (s : State) (x : Fld) (v : Word) : (s.setFld x v).bulks = s.bulks := rfl
@[simp] theorem State.setFld_links (s : State) (x : Fld) (v : Word) : (s.setFld x v).links = s.links := rfl
@[simp] theorem State.setFld_routes (s : State) (x : Fld) (v : Word) : (s.setFld x v).routes = s.routes := rfl
@[simp] theorem State.setFld_outLevels (s : State) (x : Fld) (v : Word) : (s.setFld x v).outLevels = s.outLevels := rfl
@[simp] theorem State.setFld_vcs (s : State) (x : Fld) (v : Word) : (s.setFld x v).vcs = s.vcs := rfl
@[simp] theorem State.setFld_loft (s : State) (x : Fld) (v : Word) : (s.setFld x v).loft = s.loft := rfl
@[simp] theorem State.setFld_store (s : State) (x : Fld) (v : Word) : (s.setFld x v).store = s.store := rfl
@[simp] theorem State.setFld_start (s : State) (x : Fld) (v : Word) : (s.setFld x v).start = s.start := rfl
@[simp] theorem State.setFld_mode (s : State) (x : Fld) (v : Word) : (s.setFld x v).mode = s.mode := rfl
@[simp] theorem State.setFld_offBanks (s : State) (x : Fld) (v : Word) : (s.setFld x v).offBanks = s.offBanks := rfl
@[simp] theorem State.setFld_leaving (s : State) (x : Fld) (v : Word) : (s.setFld x v).leaving = s.leaving := rfl
@[simp] theorem State.setFld_march (s : State) (x : Fld) (v : Word) : (s.setFld x v).march = s.march := rfl
@[simp] theorem State.setFld_msgs (s : State) (x : Fld) (v : Word) : (s.setFld x v).msgs = s.msgs := rfl
@[simp] theorem State.setFld_msgTurn (s : State) (x : Fld) (v : Word) : (s.setFld x v).msgTurn = s.msgTurn := rfl
@[simp] theorem State.setFld_sip (s : State) (x : Fld) (v : Word) : (s.setFld x v).sip = s.sip := rfl
@[simp] theorem State.setFld_bulkWait (s : State) (x : Fld) (v : Word) : (s.setFld x v).bulkWait = s.bulkWait := rfl
@[simp] theorem State.setFld_answers (s : State) (x : Fld) (v : Word) : (s.setFld x v).answers = s.answers := rfl
@[simp] theorem State.setFld_freeCtr (s : State) (x : Fld) (v : Word) : (s.setFld x v).freeCtr = s.freeCtr := rfl
@[simp] theorem State.setFld_pending (s : State) (x : Fld) (v : Word) : (s.setFld x v).pending = s.pending := rfl

/-! ## `State.setBit` changes `regs` alone -/

@[simp] theorem State.setBit_pend (s : State) (x : Fld) (b : Bool) : (s.setBit x b).pend = s.pend := rfl
@[simp] theorem State.setBit_mem (s : State) (x : Fld) (b : Bool) : (s.setBit x b).mem = s.mem := rfl
@[simp] theorem State.setBit_bankFill (s : State) (x : Fld) (b : Bool) : (s.setBit x b).bankFill = s.bankFill := rfl
@[simp] theorem State.setBit_threads (s : State) (x : Fld) (b : Bool) : (s.setBit x b).threads = s.threads := rfl
@[simp] theorem State.setBit_pairs (s : State) (x : Fld) (b : Bool) : (s.setBit x b).pairs = s.pairs := rfl
@[simp] theorem State.setBit_selfTest (s : State) (x : Fld) (b : Bool) : (s.setBit x b).selfTest = s.selfTest := rfl
@[simp] theorem State.setBit_inject (s : State) (x : Fld) (b : Bool) : (s.setBit x b).inject = s.inject := rfl
@[simp] theorem State.setBit_capture (s : State) (x : Fld) (b : Bool) : (s.setBit x b).capture = s.capture := rfl
@[simp] theorem State.setBit_icache (s : State) (x : Fld) (b : Bool) : (s.setBit x b).icache = s.icache := rfl
@[simp] theorem State.setBit_toggles (s : State) (x : Fld) (b : Bool) : (s.setBit x b).toggles = s.toggles := rfl
@[simp] theorem State.setBit_routed (s : State) (x : Fld) (b : Bool) : (s.setBit x b).routed = s.routed := rfl
@[simp] theorem State.setBit_held (s : State) (x : Fld) (b : Bool) : (s.setBit x b).held = s.held := rfl
@[simp] theorem State.setBit_latched (s : State) (x : Fld) (b : Bool) : (s.setBit x b).latched = s.latched := rfl
@[simp] theorem State.setBit_inLevels (s : State) (x : Fld) (b : Bool) : (s.setBit x b).inLevels = s.inLevels := rfl
@[simp] theorem State.setBit_xq (s : State) (x : Fld) (b : Bool) : (s.setBit x b).xq = s.xq := rfl
@[simp] theorem State.setBit_lanes (s : State) (x : Fld) (b : Bool) : (s.setBit x b).lanes = s.lanes := rfl
@[simp] theorem State.setBit_seqs (s : State) (x : Fld) (b : Bool) : (s.setBit x b).seqs = s.seqs := rfl
@[simp] theorem State.setBit_progOld (s : State) (x : Fld) (b : Bool) : (s.setBit x b).progOld = s.progOld := rfl
@[simp] theorem State.setBit_edges (s : State) (x : Fld) (b : Bool) : (s.setBit x b).edges = s.edges := rfl
@[simp] theorem State.setBit_credits (s : State) (x : Fld) (b : Bool) : (s.setBit x b).credits = s.credits := rfl
@[simp] theorem State.setBit_timers (s : State) (x : Fld) (b : Bool) : (s.setBit x b).timers = s.timers := rfl
@[simp] theorem State.setBit_tcycle (s : State) (x : Fld) (b : Bool) : (s.setBit x b).tcycle = s.tcycle := rfl
@[simp] theorem State.setBit_tbHist (s : State) (x : Fld) (b : Bool) : (s.setBit x b).tbHist = s.tbHist := rfl
@[simp] theorem State.setBit_anchored (s : State) (x : Fld) (b : Bool) : (s.setBit x b).anchored = s.anchored := rfl
@[simp] theorem State.setBit_ppsEdge (s : State) (x : Fld) (b : Bool) : (s.setBit x b).ppsEdge = s.ppsEdge := rfl
@[simp] theorem State.setBit_goLate (s : State) (x : Fld) (b : Bool) : (s.setBit x b).goLate = s.goLate := rfl
@[simp] theorem State.setBit_ledger (s : State) (x : Fld) (b : Bool) : (s.setBit x b).ledger = s.ledger := rfl
@[simp] theorem State.setBit_ledgerQ (s : State) (x : Fld) (b : Bool) : (s.setBit x b).ledgerQ = s.ledgerQ := rfl
@[simp] theorem State.setBit_caches (s : State) (x : Fld) (b : Bool) : (s.setBit x b).caches = s.caches := rfl
@[simp] theorem State.setBit_dwait (s : State) (x : Fld) (b : Bool) : (s.setBit x b).dwait = s.dwait := rfl
@[simp] theorem State.setBit_dir (s : State) (x : Fld) (b : Bool) : (s.setBit x b).dir = s.dir := rfl
@[simp] theorem State.setBit_dirClock (s : State) (x : Fld) (b : Bool) : (s.setBit x b).dirClock = s.dirClock := rfl
@[simp] theorem State.setBit_coh (s : State) (x : Fld) (b : Bool) : (s.setBit x b).coh = s.coh := rfl
@[simp] theorem State.setBit_homeQ (s : State) (x : Fld) (b : Bool) : (s.setBit x b).homeQ = s.homeQ := rfl
@[simp] theorem State.setBit_promises (s : State) (x : Fld) (b : Bool) : (s.setBit x b).promises = s.promises := rfl
@[simp] theorem State.setBit_fence (s : State) (x : Fld) (b : Bool) : (s.setBit x b).fence = s.fence := rfl
@[simp] theorem State.setBit_fenceAcc (s : State) (x : Fld) (b : Bool) : (s.setBit x b).fenceAcc = s.fenceAcc := rfl
@[simp] theorem State.setBit_fenceReq (s : State) (x : Fld) (b : Bool) : (s.setBit x b).fenceReq = s.fenceReq := rfl
@[simp] theorem State.setBit_fenceClock (s : State) (x : Fld) (b : Bool) : (s.setBit x b).fenceClock = s.fenceClock := rfl
@[simp] theorem State.setBit_creq (s : State) (x : Fld) (b : Bool) : (s.setBit x b).creq = s.creq := rfl
@[simp] theorem State.setBit_flush (s : State) (x : Fld) (b : Bool) : (s.setBit x b).flush = s.flush := rfl
@[simp] theorem State.setBit_portB (s : State) (x : Fld) (b : Bool) : (s.setBit x b).portB = s.portB := rfl
@[simp] theorem State.setBit_reqCtr (s : State) (x : Fld) (b : Bool) : (s.setBit x b).reqCtr = s.reqCtr := rfl
@[simp] theorem State.setBit_chans (s : State) (x : Fld) (b : Bool) : (s.setBit x b).chans = s.chans := rfl
@[simp] theorem State.setBit_pools (s : State) (x : Fld) (b : Bool) : (s.setBit x b).pools = s.pools := rfl
@[simp] theorem State.setBit_silo (s : State) (x : Fld) (b : Bool) : (s.setBit x b).silo = s.silo := rfl
@[simp] theorem State.setBit_bulks (s : State) (x : Fld) (b : Bool) : (s.setBit x b).bulks = s.bulks := rfl
@[simp] theorem State.setBit_links (s : State) (x : Fld) (b : Bool) : (s.setBit x b).links = s.links := rfl
@[simp] theorem State.setBit_routes (s : State) (x : Fld) (b : Bool) : (s.setBit x b).routes = s.routes := rfl
@[simp] theorem State.setBit_outLevels (s : State) (x : Fld) (b : Bool) : (s.setBit x b).outLevels = s.outLevels := rfl
@[simp] theorem State.setBit_vcs (s : State) (x : Fld) (b : Bool) : (s.setBit x b).vcs = s.vcs := rfl
@[simp] theorem State.setBit_loft (s : State) (x : Fld) (b : Bool) : (s.setBit x b).loft = s.loft := rfl
@[simp] theorem State.setBit_store (s : State) (x : Fld) (b : Bool) : (s.setBit x b).store = s.store := rfl
@[simp] theorem State.setBit_start (s : State) (x : Fld) (b : Bool) : (s.setBit x b).start = s.start := rfl
@[simp] theorem State.setBit_mode (s : State) (x : Fld) (b : Bool) : (s.setBit x b).mode = s.mode := rfl
@[simp] theorem State.setBit_offBanks (s : State) (x : Fld) (b : Bool) : (s.setBit x b).offBanks = s.offBanks := rfl
@[simp] theorem State.setBit_leaving (s : State) (x : Fld) (b : Bool) : (s.setBit x b).leaving = s.leaving := rfl
@[simp] theorem State.setBit_march (s : State) (x : Fld) (b : Bool) : (s.setBit x b).march = s.march := rfl
@[simp] theorem State.setBit_msgs (s : State) (x : Fld) (b : Bool) : (s.setBit x b).msgs = s.msgs := rfl
@[simp] theorem State.setBit_msgTurn (s : State) (x : Fld) (b : Bool) : (s.setBit x b).msgTurn = s.msgTurn := rfl
@[simp] theorem State.setBit_sip (s : State) (x : Fld) (b : Bool) : (s.setBit x b).sip = s.sip := rfl
@[simp] theorem State.setBit_bulkWait (s : State) (x : Fld) (b : Bool) : (s.setBit x b).bulkWait = s.bulkWait := rfl
@[simp] theorem State.setBit_answers (s : State) (x : Fld) (b : Bool) : (s.setBit x b).answers = s.answers := rfl
@[simp] theorem State.setBit_freeCtr (s : State) (x : Fld) (b : Bool) : (s.setBit x b).freeCtr = s.freeCtr := rfl
@[simp] theorem State.setBit_pending (s : State) (x : Fld) (b : Bool) : (s.setBit x b).pending = s.pending := rfl

/-! ## `State.countUp` changes `regs` alone -/

@[simp] theorem State.countUp_pend (s : State) (x : Fld) (k : Nat) : (s.countUp x k).pend = s.pend := rfl
@[simp] theorem State.countUp_mem (s : State) (x : Fld) (k : Nat) : (s.countUp x k).mem = s.mem := rfl
@[simp] theorem State.countUp_bankFill (s : State) (x : Fld) (k : Nat) : (s.countUp x k).bankFill = s.bankFill := rfl
@[simp] theorem State.countUp_threads (s : State) (x : Fld) (k : Nat) : (s.countUp x k).threads = s.threads := rfl
@[simp] theorem State.countUp_pairs (s : State) (x : Fld) (k : Nat) : (s.countUp x k).pairs = s.pairs := rfl
@[simp] theorem State.countUp_selfTest (s : State) (x : Fld) (k : Nat) : (s.countUp x k).selfTest = s.selfTest := rfl
@[simp] theorem State.countUp_inject (s : State) (x : Fld) (k : Nat) : (s.countUp x k).inject = s.inject := rfl
@[simp] theorem State.countUp_capture (s : State) (x : Fld) (k : Nat) : (s.countUp x k).capture = s.capture := rfl
@[simp] theorem State.countUp_icache (s : State) (x : Fld) (k : Nat) : (s.countUp x k).icache = s.icache := rfl
@[simp] theorem State.countUp_toggles (s : State) (x : Fld) (k : Nat) : (s.countUp x k).toggles = s.toggles := rfl
@[simp] theorem State.countUp_routed (s : State) (x : Fld) (k : Nat) : (s.countUp x k).routed = s.routed := rfl
@[simp] theorem State.countUp_held (s : State) (x : Fld) (k : Nat) : (s.countUp x k).held = s.held := rfl
@[simp] theorem State.countUp_latched (s : State) (x : Fld) (k : Nat) : (s.countUp x k).latched = s.latched := rfl
@[simp] theorem State.countUp_inLevels (s : State) (x : Fld) (k : Nat) : (s.countUp x k).inLevels = s.inLevels := rfl
@[simp] theorem State.countUp_xq (s : State) (x : Fld) (k : Nat) : (s.countUp x k).xq = s.xq := rfl
@[simp] theorem State.countUp_lanes (s : State) (x : Fld) (k : Nat) : (s.countUp x k).lanes = s.lanes := rfl
@[simp] theorem State.countUp_seqs (s : State) (x : Fld) (k : Nat) : (s.countUp x k).seqs = s.seqs := rfl
@[simp] theorem State.countUp_progOld (s : State) (x : Fld) (k : Nat) : (s.countUp x k).progOld = s.progOld := rfl
@[simp] theorem State.countUp_edges (s : State) (x : Fld) (k : Nat) : (s.countUp x k).edges = s.edges := rfl
@[simp] theorem State.countUp_credits (s : State) (x : Fld) (k : Nat) : (s.countUp x k).credits = s.credits := rfl
@[simp] theorem State.countUp_timers (s : State) (x : Fld) (k : Nat) : (s.countUp x k).timers = s.timers := rfl
@[simp] theorem State.countUp_tcycle (s : State) (x : Fld) (k : Nat) : (s.countUp x k).tcycle = s.tcycle := rfl
@[simp] theorem State.countUp_tbHist (s : State) (x : Fld) (k : Nat) : (s.countUp x k).tbHist = s.tbHist := rfl
@[simp] theorem State.countUp_anchored (s : State) (x : Fld) (k : Nat) : (s.countUp x k).anchored = s.anchored := rfl
@[simp] theorem State.countUp_ppsEdge (s : State) (x : Fld) (k : Nat) : (s.countUp x k).ppsEdge = s.ppsEdge := rfl
@[simp] theorem State.countUp_goLate (s : State) (x : Fld) (k : Nat) : (s.countUp x k).goLate = s.goLate := rfl
@[simp] theorem State.countUp_ledger (s : State) (x : Fld) (k : Nat) : (s.countUp x k).ledger = s.ledger := rfl
@[simp] theorem State.countUp_ledgerQ (s : State) (x : Fld) (k : Nat) : (s.countUp x k).ledgerQ = s.ledgerQ := rfl
@[simp] theorem State.countUp_caches (s : State) (x : Fld) (k : Nat) : (s.countUp x k).caches = s.caches := rfl
@[simp] theorem State.countUp_dwait (s : State) (x : Fld) (k : Nat) : (s.countUp x k).dwait = s.dwait := rfl
@[simp] theorem State.countUp_dir (s : State) (x : Fld) (k : Nat) : (s.countUp x k).dir = s.dir := rfl
@[simp] theorem State.countUp_dirClock (s : State) (x : Fld) (k : Nat) : (s.countUp x k).dirClock = s.dirClock := rfl
@[simp] theorem State.countUp_coh (s : State) (x : Fld) (k : Nat) : (s.countUp x k).coh = s.coh := rfl
@[simp] theorem State.countUp_homeQ (s : State) (x : Fld) (k : Nat) : (s.countUp x k).homeQ = s.homeQ := rfl
@[simp] theorem State.countUp_promises (s : State) (x : Fld) (k : Nat) : (s.countUp x k).promises = s.promises := rfl
@[simp] theorem State.countUp_fence (s : State) (x : Fld) (k : Nat) : (s.countUp x k).fence = s.fence := rfl
@[simp] theorem State.countUp_fenceAcc (s : State) (x : Fld) (k : Nat) : (s.countUp x k).fenceAcc = s.fenceAcc := rfl
@[simp] theorem State.countUp_fenceReq (s : State) (x : Fld) (k : Nat) : (s.countUp x k).fenceReq = s.fenceReq := rfl
@[simp] theorem State.countUp_fenceClock (s : State) (x : Fld) (k : Nat) : (s.countUp x k).fenceClock = s.fenceClock := rfl
@[simp] theorem State.countUp_creq (s : State) (x : Fld) (k : Nat) : (s.countUp x k).creq = s.creq := rfl
@[simp] theorem State.countUp_flush (s : State) (x : Fld) (k : Nat) : (s.countUp x k).flush = s.flush := rfl
@[simp] theorem State.countUp_portB (s : State) (x : Fld) (k : Nat) : (s.countUp x k).portB = s.portB := rfl
@[simp] theorem State.countUp_reqCtr (s : State) (x : Fld) (k : Nat) : (s.countUp x k).reqCtr = s.reqCtr := rfl
@[simp] theorem State.countUp_chans (s : State) (x : Fld) (k : Nat) : (s.countUp x k).chans = s.chans := rfl
@[simp] theorem State.countUp_pools (s : State) (x : Fld) (k : Nat) : (s.countUp x k).pools = s.pools := rfl
@[simp] theorem State.countUp_silo (s : State) (x : Fld) (k : Nat) : (s.countUp x k).silo = s.silo := rfl
@[simp] theorem State.countUp_bulks (s : State) (x : Fld) (k : Nat) : (s.countUp x k).bulks = s.bulks := rfl
@[simp] theorem State.countUp_links (s : State) (x : Fld) (k : Nat) : (s.countUp x k).links = s.links := rfl
@[simp] theorem State.countUp_routes (s : State) (x : Fld) (k : Nat) : (s.countUp x k).routes = s.routes := rfl
@[simp] theorem State.countUp_outLevels (s : State) (x : Fld) (k : Nat) : (s.countUp x k).outLevels = s.outLevels := rfl
@[simp] theorem State.countUp_vcs (s : State) (x : Fld) (k : Nat) : (s.countUp x k).vcs = s.vcs := rfl
@[simp] theorem State.countUp_loft (s : State) (x : Fld) (k : Nat) : (s.countUp x k).loft = s.loft := rfl
@[simp] theorem State.countUp_store (s : State) (x : Fld) (k : Nat) : (s.countUp x k).store = s.store := rfl
@[simp] theorem State.countUp_start (s : State) (x : Fld) (k : Nat) : (s.countUp x k).start = s.start := rfl
@[simp] theorem State.countUp_mode (s : State) (x : Fld) (k : Nat) : (s.countUp x k).mode = s.mode := rfl
@[simp] theorem State.countUp_offBanks (s : State) (x : Fld) (k : Nat) : (s.countUp x k).offBanks = s.offBanks := rfl
@[simp] theorem State.countUp_leaving (s : State) (x : Fld) (k : Nat) : (s.countUp x k).leaving = s.leaving := rfl
@[simp] theorem State.countUp_march (s : State) (x : Fld) (k : Nat) : (s.countUp x k).march = s.march := rfl
@[simp] theorem State.countUp_msgs (s : State) (x : Fld) (k : Nat) : (s.countUp x k).msgs = s.msgs := rfl
@[simp] theorem State.countUp_msgTurn (s : State) (x : Fld) (k : Nat) : (s.countUp x k).msgTurn = s.msgTurn := rfl
@[simp] theorem State.countUp_sip (s : State) (x : Fld) (k : Nat) : (s.countUp x k).sip = s.sip := rfl
@[simp] theorem State.countUp_bulkWait (s : State) (x : Fld) (k : Nat) : (s.countUp x k).bulkWait = s.bulkWait := rfl
@[simp] theorem State.countUp_answers (s : State) (x : Fld) (k : Nat) : (s.countUp x k).answers = s.answers := rfl
@[simp] theorem State.countUp_freeCtr (s : State) (x : Fld) (k : Nat) : (s.countUp x k).freeCtr = s.freeCtr := rfl
@[simp] theorem State.countUp_pending (s : State) (x : Fld) (k : Nat) : (s.countUp x k).pending = s.pending := rfl

/-! ## `State.countWrap` changes `regs` alone -/

@[simp] theorem State.countWrap_pend (s : State) (x : Fld) (k : Nat) : (s.countWrap x k).pend = s.pend := rfl
@[simp] theorem State.countWrap_mem (s : State) (x : Fld) (k : Nat) : (s.countWrap x k).mem = s.mem := rfl
@[simp] theorem State.countWrap_bankFill (s : State) (x : Fld) (k : Nat) : (s.countWrap x k).bankFill = s.bankFill := rfl
@[simp] theorem State.countWrap_threads (s : State) (x : Fld) (k : Nat) : (s.countWrap x k).threads = s.threads := rfl
@[simp] theorem State.countWrap_pairs (s : State) (x : Fld) (k : Nat) : (s.countWrap x k).pairs = s.pairs := rfl
@[simp] theorem State.countWrap_selfTest (s : State) (x : Fld) (k : Nat) : (s.countWrap x k).selfTest = s.selfTest := rfl
@[simp] theorem State.countWrap_inject (s : State) (x : Fld) (k : Nat) : (s.countWrap x k).inject = s.inject := rfl
@[simp] theorem State.countWrap_capture (s : State) (x : Fld) (k : Nat) : (s.countWrap x k).capture = s.capture := rfl
@[simp] theorem State.countWrap_icache (s : State) (x : Fld) (k : Nat) : (s.countWrap x k).icache = s.icache := rfl
@[simp] theorem State.countWrap_toggles (s : State) (x : Fld) (k : Nat) : (s.countWrap x k).toggles = s.toggles := rfl
@[simp] theorem State.countWrap_routed (s : State) (x : Fld) (k : Nat) : (s.countWrap x k).routed = s.routed := rfl
@[simp] theorem State.countWrap_held (s : State) (x : Fld) (k : Nat) : (s.countWrap x k).held = s.held := rfl
@[simp] theorem State.countWrap_latched (s : State) (x : Fld) (k : Nat) : (s.countWrap x k).latched = s.latched := rfl
@[simp] theorem State.countWrap_inLevels (s : State) (x : Fld) (k : Nat) : (s.countWrap x k).inLevels = s.inLevels := rfl
@[simp] theorem State.countWrap_xq (s : State) (x : Fld) (k : Nat) : (s.countWrap x k).xq = s.xq := rfl
@[simp] theorem State.countWrap_lanes (s : State) (x : Fld) (k : Nat) : (s.countWrap x k).lanes = s.lanes := rfl
@[simp] theorem State.countWrap_seqs (s : State) (x : Fld) (k : Nat) : (s.countWrap x k).seqs = s.seqs := rfl
@[simp] theorem State.countWrap_progOld (s : State) (x : Fld) (k : Nat) : (s.countWrap x k).progOld = s.progOld := rfl
@[simp] theorem State.countWrap_edges (s : State) (x : Fld) (k : Nat) : (s.countWrap x k).edges = s.edges := rfl
@[simp] theorem State.countWrap_credits (s : State) (x : Fld) (k : Nat) : (s.countWrap x k).credits = s.credits := rfl
@[simp] theorem State.countWrap_timers (s : State) (x : Fld) (k : Nat) : (s.countWrap x k).timers = s.timers := rfl
@[simp] theorem State.countWrap_tcycle (s : State) (x : Fld) (k : Nat) : (s.countWrap x k).tcycle = s.tcycle := rfl
@[simp] theorem State.countWrap_tbHist (s : State) (x : Fld) (k : Nat) : (s.countWrap x k).tbHist = s.tbHist := rfl
@[simp] theorem State.countWrap_anchored (s : State) (x : Fld) (k : Nat) : (s.countWrap x k).anchored = s.anchored := rfl
@[simp] theorem State.countWrap_ppsEdge (s : State) (x : Fld) (k : Nat) : (s.countWrap x k).ppsEdge = s.ppsEdge := rfl
@[simp] theorem State.countWrap_goLate (s : State) (x : Fld) (k : Nat) : (s.countWrap x k).goLate = s.goLate := rfl
@[simp] theorem State.countWrap_ledger (s : State) (x : Fld) (k : Nat) : (s.countWrap x k).ledger = s.ledger := rfl
@[simp] theorem State.countWrap_ledgerQ (s : State) (x : Fld) (k : Nat) : (s.countWrap x k).ledgerQ = s.ledgerQ := rfl
@[simp] theorem State.countWrap_caches (s : State) (x : Fld) (k : Nat) : (s.countWrap x k).caches = s.caches := rfl
@[simp] theorem State.countWrap_dwait (s : State) (x : Fld) (k : Nat) : (s.countWrap x k).dwait = s.dwait := rfl
@[simp] theorem State.countWrap_dir (s : State) (x : Fld) (k : Nat) : (s.countWrap x k).dir = s.dir := rfl
@[simp] theorem State.countWrap_dirClock (s : State) (x : Fld) (k : Nat) : (s.countWrap x k).dirClock = s.dirClock := rfl
@[simp] theorem State.countWrap_coh (s : State) (x : Fld) (k : Nat) : (s.countWrap x k).coh = s.coh := rfl
@[simp] theorem State.countWrap_homeQ (s : State) (x : Fld) (k : Nat) : (s.countWrap x k).homeQ = s.homeQ := rfl
@[simp] theorem State.countWrap_promises (s : State) (x : Fld) (k : Nat) : (s.countWrap x k).promises = s.promises := rfl
@[simp] theorem State.countWrap_fence (s : State) (x : Fld) (k : Nat) : (s.countWrap x k).fence = s.fence := rfl
@[simp] theorem State.countWrap_fenceAcc (s : State) (x : Fld) (k : Nat) : (s.countWrap x k).fenceAcc = s.fenceAcc := rfl
@[simp] theorem State.countWrap_fenceReq (s : State) (x : Fld) (k : Nat) : (s.countWrap x k).fenceReq = s.fenceReq := rfl
@[simp] theorem State.countWrap_fenceClock (s : State) (x : Fld) (k : Nat) : (s.countWrap x k).fenceClock = s.fenceClock := rfl
@[simp] theorem State.countWrap_creq (s : State) (x : Fld) (k : Nat) : (s.countWrap x k).creq = s.creq := rfl
@[simp] theorem State.countWrap_flush (s : State) (x : Fld) (k : Nat) : (s.countWrap x k).flush = s.flush := rfl
@[simp] theorem State.countWrap_portB (s : State) (x : Fld) (k : Nat) : (s.countWrap x k).portB = s.portB := rfl
@[simp] theorem State.countWrap_reqCtr (s : State) (x : Fld) (k : Nat) : (s.countWrap x k).reqCtr = s.reqCtr := rfl
@[simp] theorem State.countWrap_chans (s : State) (x : Fld) (k : Nat) : (s.countWrap x k).chans = s.chans := rfl
@[simp] theorem State.countWrap_pools (s : State) (x : Fld) (k : Nat) : (s.countWrap x k).pools = s.pools := rfl
@[simp] theorem State.countWrap_silo (s : State) (x : Fld) (k : Nat) : (s.countWrap x k).silo = s.silo := rfl
@[simp] theorem State.countWrap_bulks (s : State) (x : Fld) (k : Nat) : (s.countWrap x k).bulks = s.bulks := rfl
@[simp] theorem State.countWrap_links (s : State) (x : Fld) (k : Nat) : (s.countWrap x k).links = s.links := rfl
@[simp] theorem State.countWrap_routes (s : State) (x : Fld) (k : Nat) : (s.countWrap x k).routes = s.routes := rfl
@[simp] theorem State.countWrap_outLevels (s : State) (x : Fld) (k : Nat) : (s.countWrap x k).outLevels = s.outLevels := rfl
@[simp] theorem State.countWrap_vcs (s : State) (x : Fld) (k : Nat) : (s.countWrap x k).vcs = s.vcs := rfl
@[simp] theorem State.countWrap_loft (s : State) (x : Fld) (k : Nat) : (s.countWrap x k).loft = s.loft := rfl
@[simp] theorem State.countWrap_store (s : State) (x : Fld) (k : Nat) : (s.countWrap x k).store = s.store := rfl
@[simp] theorem State.countWrap_start (s : State) (x : Fld) (k : Nat) : (s.countWrap x k).start = s.start := rfl
@[simp] theorem State.countWrap_mode (s : State) (x : Fld) (k : Nat) : (s.countWrap x k).mode = s.mode := rfl
@[simp] theorem State.countWrap_offBanks (s : State) (x : Fld) (k : Nat) : (s.countWrap x k).offBanks = s.offBanks := rfl
@[simp] theorem State.countWrap_leaving (s : State) (x : Fld) (k : Nat) : (s.countWrap x k).leaving = s.leaving := rfl
@[simp] theorem State.countWrap_march (s : State) (x : Fld) (k : Nat) : (s.countWrap x k).march = s.march := rfl
@[simp] theorem State.countWrap_msgs (s : State) (x : Fld) (k : Nat) : (s.countWrap x k).msgs = s.msgs := rfl
@[simp] theorem State.countWrap_msgTurn (s : State) (x : Fld) (k : Nat) : (s.countWrap x k).msgTurn = s.msgTurn := rfl
@[simp] theorem State.countWrap_sip (s : State) (x : Fld) (k : Nat) : (s.countWrap x k).sip = s.sip := rfl
@[simp] theorem State.countWrap_bulkWait (s : State) (x : Fld) (k : Nat) : (s.countWrap x k).bulkWait = s.bulkWait := rfl
@[simp] theorem State.countWrap_answers (s : State) (x : Fld) (k : Nat) : (s.countWrap x k).answers = s.answers := rfl
@[simp] theorem State.countWrap_freeCtr (s : State) (x : Fld) (k : Nat) : (s.countWrap x k).freeCtr = s.freeCtr := rfl
@[simp] theorem State.countWrap_pending (s : State) (x : Fld) (k : Nat) : (s.countWrap x k).pending = s.pending := rfl

/-! ## `State.setThread` changes `threads` alone -/

@[simp] theorem State.setThread_regs (s : State) (g : Nat) (t : Thread) : (s.setThread g t).regs = s.regs := rfl
@[simp] theorem State.setThread_pend (s : State) (g : Nat) (t : Thread) : (s.setThread g t).pend = s.pend := rfl
@[simp] theorem State.setThread_mem (s : State) (g : Nat) (t : Thread) : (s.setThread g t).mem = s.mem := rfl
@[simp] theorem State.setThread_bankFill (s : State) (g : Nat) (t : Thread) : (s.setThread g t).bankFill = s.bankFill := rfl
@[simp] theorem State.setThread_pairs (s : State) (g : Nat) (t : Thread) : (s.setThread g t).pairs = s.pairs := rfl
@[simp] theorem State.setThread_selfTest (s : State) (g : Nat) (t : Thread) : (s.setThread g t).selfTest = s.selfTest := rfl
@[simp] theorem State.setThread_inject (s : State) (g : Nat) (t : Thread) : (s.setThread g t).inject = s.inject := rfl
@[simp] theorem State.setThread_capture (s : State) (g : Nat) (t : Thread) : (s.setThread g t).capture = s.capture := rfl
@[simp] theorem State.setThread_icache (s : State) (g : Nat) (t : Thread) : (s.setThread g t).icache = s.icache := rfl
@[simp] theorem State.setThread_toggles (s : State) (g : Nat) (t : Thread) : (s.setThread g t).toggles = s.toggles := rfl
@[simp] theorem State.setThread_routed (s : State) (g : Nat) (t : Thread) : (s.setThread g t).routed = s.routed := rfl
@[simp] theorem State.setThread_held (s : State) (g : Nat) (t : Thread) : (s.setThread g t).held = s.held := rfl
@[simp] theorem State.setThread_latched (s : State) (g : Nat) (t : Thread) : (s.setThread g t).latched = s.latched := rfl
@[simp] theorem State.setThread_inLevels (s : State) (g : Nat) (t : Thread) : (s.setThread g t).inLevels = s.inLevels := rfl
@[simp] theorem State.setThread_xq (s : State) (g : Nat) (t : Thread) : (s.setThread g t).xq = s.xq := rfl
@[simp] theorem State.setThread_lanes (s : State) (g : Nat) (t : Thread) : (s.setThread g t).lanes = s.lanes := rfl
@[simp] theorem State.setThread_seqs (s : State) (g : Nat) (t : Thread) : (s.setThread g t).seqs = s.seqs := rfl
@[simp] theorem State.setThread_progOld (s : State) (g : Nat) (t : Thread) : (s.setThread g t).progOld = s.progOld := rfl
@[simp] theorem State.setThread_edges (s : State) (g : Nat) (t : Thread) : (s.setThread g t).edges = s.edges := rfl
@[simp] theorem State.setThread_credits (s : State) (g : Nat) (t : Thread) : (s.setThread g t).credits = s.credits := rfl
@[simp] theorem State.setThread_timers (s : State) (g : Nat) (t : Thread) : (s.setThread g t).timers = s.timers := rfl
@[simp] theorem State.setThread_tcycle (s : State) (g : Nat) (t : Thread) : (s.setThread g t).tcycle = s.tcycle := rfl
@[simp] theorem State.setThread_tbHist (s : State) (g : Nat) (t : Thread) : (s.setThread g t).tbHist = s.tbHist := rfl
@[simp] theorem State.setThread_anchored (s : State) (g : Nat) (t : Thread) : (s.setThread g t).anchored = s.anchored := rfl
@[simp] theorem State.setThread_ppsEdge (s : State) (g : Nat) (t : Thread) : (s.setThread g t).ppsEdge = s.ppsEdge := rfl
@[simp] theorem State.setThread_goLate (s : State) (g : Nat) (t : Thread) : (s.setThread g t).goLate = s.goLate := rfl
@[simp] theorem State.setThread_ledger (s : State) (g : Nat) (t : Thread) : (s.setThread g t).ledger = s.ledger := rfl
@[simp] theorem State.setThread_ledgerQ (s : State) (g : Nat) (t : Thread) : (s.setThread g t).ledgerQ = s.ledgerQ := rfl
@[simp] theorem State.setThread_caches (s : State) (g : Nat) (t : Thread) : (s.setThread g t).caches = s.caches := rfl
@[simp] theorem State.setThread_dwait (s : State) (g : Nat) (t : Thread) : (s.setThread g t).dwait = s.dwait := rfl
@[simp] theorem State.setThread_dir (s : State) (g : Nat) (t : Thread) : (s.setThread g t).dir = s.dir := rfl
@[simp] theorem State.setThread_dirClock (s : State) (g : Nat) (t : Thread) : (s.setThread g t).dirClock = s.dirClock := rfl
@[simp] theorem State.setThread_coh (s : State) (g : Nat) (t : Thread) : (s.setThread g t).coh = s.coh := rfl
@[simp] theorem State.setThread_homeQ (s : State) (g : Nat) (t : Thread) : (s.setThread g t).homeQ = s.homeQ := rfl
@[simp] theorem State.setThread_promises (s : State) (g : Nat) (t : Thread) : (s.setThread g t).promises = s.promises := rfl
@[simp] theorem State.setThread_fence (s : State) (g : Nat) (t : Thread) : (s.setThread g t).fence = s.fence := rfl
@[simp] theorem State.setThread_fenceAcc (s : State) (g : Nat) (t : Thread) : (s.setThread g t).fenceAcc = s.fenceAcc := rfl
@[simp] theorem State.setThread_fenceReq (s : State) (g : Nat) (t : Thread) : (s.setThread g t).fenceReq = s.fenceReq := rfl
@[simp] theorem State.setThread_fenceClock (s : State) (g : Nat) (t : Thread) : (s.setThread g t).fenceClock = s.fenceClock := rfl
@[simp] theorem State.setThread_creq (s : State) (g : Nat) (t : Thread) : (s.setThread g t).creq = s.creq := rfl
@[simp] theorem State.setThread_flush (s : State) (g : Nat) (t : Thread) : (s.setThread g t).flush = s.flush := rfl
@[simp] theorem State.setThread_portB (s : State) (g : Nat) (t : Thread) : (s.setThread g t).portB = s.portB := rfl
@[simp] theorem State.setThread_reqCtr (s : State) (g : Nat) (t : Thread) : (s.setThread g t).reqCtr = s.reqCtr := rfl
@[simp] theorem State.setThread_chans (s : State) (g : Nat) (t : Thread) : (s.setThread g t).chans = s.chans := rfl
@[simp] theorem State.setThread_pools (s : State) (g : Nat) (t : Thread) : (s.setThread g t).pools = s.pools := rfl
@[simp] theorem State.setThread_silo (s : State) (g : Nat) (t : Thread) : (s.setThread g t).silo = s.silo := rfl
@[simp] theorem State.setThread_bulks (s : State) (g : Nat) (t : Thread) : (s.setThread g t).bulks = s.bulks := rfl
@[simp] theorem State.setThread_links (s : State) (g : Nat) (t : Thread) : (s.setThread g t).links = s.links := rfl
@[simp] theorem State.setThread_routes (s : State) (g : Nat) (t : Thread) : (s.setThread g t).routes = s.routes := rfl
@[simp] theorem State.setThread_outLevels (s : State) (g : Nat) (t : Thread) : (s.setThread g t).outLevels = s.outLevels := rfl
@[simp] theorem State.setThread_vcs (s : State) (g : Nat) (t : Thread) : (s.setThread g t).vcs = s.vcs := rfl
@[simp] theorem State.setThread_loft (s : State) (g : Nat) (t : Thread) : (s.setThread g t).loft = s.loft := rfl
@[simp] theorem State.setThread_store (s : State) (g : Nat) (t : Thread) : (s.setThread g t).store = s.store := rfl
@[simp] theorem State.setThread_start (s : State) (g : Nat) (t : Thread) : (s.setThread g t).start = s.start := rfl
@[simp] theorem State.setThread_mode (s : State) (g : Nat) (t : Thread) : (s.setThread g t).mode = s.mode := rfl
@[simp] theorem State.setThread_offBanks (s : State) (g : Nat) (t : Thread) : (s.setThread g t).offBanks = s.offBanks := rfl
@[simp] theorem State.setThread_leaving (s : State) (g : Nat) (t : Thread) : (s.setThread g t).leaving = s.leaving := rfl
@[simp] theorem State.setThread_march (s : State) (g : Nat) (t : Thread) : (s.setThread g t).march = s.march := rfl
@[simp] theorem State.setThread_msgs (s : State) (g : Nat) (t : Thread) : (s.setThread g t).msgs = s.msgs := rfl
@[simp] theorem State.setThread_msgTurn (s : State) (g : Nat) (t : Thread) : (s.setThread g t).msgTurn = s.msgTurn := rfl
@[simp] theorem State.setThread_sip (s : State) (g : Nat) (t : Thread) : (s.setThread g t).sip = s.sip := rfl
@[simp] theorem State.setThread_bulkWait (s : State) (g : Nat) (t : Thread) : (s.setThread g t).bulkWait = s.bulkWait := rfl
@[simp] theorem State.setThread_answers (s : State) (g : Nat) (t : Thread) : (s.setThread g t).answers = s.answers := rfl
@[simp] theorem State.setThread_freeCtr (s : State) (g : Nat) (t : Thread) : (s.setThread g t).freeCtr = s.freeCtr := rfl
@[simp] theorem State.setThread_pending (s : State) (g : Nat) (t : Thread) : (s.setThread g t).pending = s.pending := rfl

/-! ## `State.modThread` changes `threads` alone -/

@[simp] theorem State.modThread_regs (s : State) (g : Nat) (f : Thread → Thread) : (s.modThread g f).regs = s.regs := rfl
@[simp] theorem State.modThread_pend (s : State) (g : Nat) (f : Thread → Thread) : (s.modThread g f).pend = s.pend := rfl
@[simp] theorem State.modThread_mem (s : State) (g : Nat) (f : Thread → Thread) : (s.modThread g f).mem = s.mem := rfl
@[simp] theorem State.modThread_bankFill (s : State) (g : Nat) (f : Thread → Thread) : (s.modThread g f).bankFill = s.bankFill := rfl
@[simp] theorem State.modThread_pairs (s : State) (g : Nat) (f : Thread → Thread) : (s.modThread g f).pairs = s.pairs := rfl
@[simp] theorem State.modThread_selfTest (s : State) (g : Nat) (f : Thread → Thread) : (s.modThread g f).selfTest = s.selfTest := rfl
@[simp] theorem State.modThread_inject (s : State) (g : Nat) (f : Thread → Thread) : (s.modThread g f).inject = s.inject := rfl
@[simp] theorem State.modThread_capture (s : State) (g : Nat) (f : Thread → Thread) : (s.modThread g f).capture = s.capture := rfl
@[simp] theorem State.modThread_icache (s : State) (g : Nat) (f : Thread → Thread) : (s.modThread g f).icache = s.icache := rfl
@[simp] theorem State.modThread_toggles (s : State) (g : Nat) (f : Thread → Thread) : (s.modThread g f).toggles = s.toggles := rfl
@[simp] theorem State.modThread_routed (s : State) (g : Nat) (f : Thread → Thread) : (s.modThread g f).routed = s.routed := rfl
@[simp] theorem State.modThread_held (s : State) (g : Nat) (f : Thread → Thread) : (s.modThread g f).held = s.held := rfl
@[simp] theorem State.modThread_latched (s : State) (g : Nat) (f : Thread → Thread) : (s.modThread g f).latched = s.latched := rfl
@[simp] theorem State.modThread_inLevels (s : State) (g : Nat) (f : Thread → Thread) : (s.modThread g f).inLevels = s.inLevels := rfl
@[simp] theorem State.modThread_xq (s : State) (g : Nat) (f : Thread → Thread) : (s.modThread g f).xq = s.xq := rfl
@[simp] theorem State.modThread_lanes (s : State) (g : Nat) (f : Thread → Thread) : (s.modThread g f).lanes = s.lanes := rfl
@[simp] theorem State.modThread_seqs (s : State) (g : Nat) (f : Thread → Thread) : (s.modThread g f).seqs = s.seqs := rfl
@[simp] theorem State.modThread_progOld (s : State) (g : Nat) (f : Thread → Thread) : (s.modThread g f).progOld = s.progOld := rfl
@[simp] theorem State.modThread_edges (s : State) (g : Nat) (f : Thread → Thread) : (s.modThread g f).edges = s.edges := rfl
@[simp] theorem State.modThread_credits (s : State) (g : Nat) (f : Thread → Thread) : (s.modThread g f).credits = s.credits := rfl
@[simp] theorem State.modThread_timers (s : State) (g : Nat) (f : Thread → Thread) : (s.modThread g f).timers = s.timers := rfl
@[simp] theorem State.modThread_tcycle (s : State) (g : Nat) (f : Thread → Thread) : (s.modThread g f).tcycle = s.tcycle := rfl
@[simp] theorem State.modThread_tbHist (s : State) (g : Nat) (f : Thread → Thread) : (s.modThread g f).tbHist = s.tbHist := rfl
@[simp] theorem State.modThread_anchored (s : State) (g : Nat) (f : Thread → Thread) : (s.modThread g f).anchored = s.anchored := rfl
@[simp] theorem State.modThread_ppsEdge (s : State) (g : Nat) (f : Thread → Thread) : (s.modThread g f).ppsEdge = s.ppsEdge := rfl
@[simp] theorem State.modThread_goLate (s : State) (g : Nat) (f : Thread → Thread) : (s.modThread g f).goLate = s.goLate := rfl
@[simp] theorem State.modThread_ledger (s : State) (g : Nat) (f : Thread → Thread) : (s.modThread g f).ledger = s.ledger := rfl
@[simp] theorem State.modThread_ledgerQ (s : State) (g : Nat) (f : Thread → Thread) : (s.modThread g f).ledgerQ = s.ledgerQ := rfl
@[simp] theorem State.modThread_caches (s : State) (g : Nat) (f : Thread → Thread) : (s.modThread g f).caches = s.caches := rfl
@[simp] theorem State.modThread_dwait (s : State) (g : Nat) (f : Thread → Thread) : (s.modThread g f).dwait = s.dwait := rfl
@[simp] theorem State.modThread_dir (s : State) (g : Nat) (f : Thread → Thread) : (s.modThread g f).dir = s.dir := rfl
@[simp] theorem State.modThread_dirClock (s : State) (g : Nat) (f : Thread → Thread) : (s.modThread g f).dirClock = s.dirClock := rfl
@[simp] theorem State.modThread_coh (s : State) (g : Nat) (f : Thread → Thread) : (s.modThread g f).coh = s.coh := rfl
@[simp] theorem State.modThread_homeQ (s : State) (g : Nat) (f : Thread → Thread) : (s.modThread g f).homeQ = s.homeQ := rfl
@[simp] theorem State.modThread_promises (s : State) (g : Nat) (f : Thread → Thread) : (s.modThread g f).promises = s.promises := rfl
@[simp] theorem State.modThread_fence (s : State) (g : Nat) (f : Thread → Thread) : (s.modThread g f).fence = s.fence := rfl
@[simp] theorem State.modThread_fenceAcc (s : State) (g : Nat) (f : Thread → Thread) : (s.modThread g f).fenceAcc = s.fenceAcc := rfl
@[simp] theorem State.modThread_fenceReq (s : State) (g : Nat) (f : Thread → Thread) : (s.modThread g f).fenceReq = s.fenceReq := rfl
@[simp] theorem State.modThread_fenceClock (s : State) (g : Nat) (f : Thread → Thread) : (s.modThread g f).fenceClock = s.fenceClock := rfl
@[simp] theorem State.modThread_creq (s : State) (g : Nat) (f : Thread → Thread) : (s.modThread g f).creq = s.creq := rfl
@[simp] theorem State.modThread_flush (s : State) (g : Nat) (f : Thread → Thread) : (s.modThread g f).flush = s.flush := rfl
@[simp] theorem State.modThread_portB (s : State) (g : Nat) (f : Thread → Thread) : (s.modThread g f).portB = s.portB := rfl
@[simp] theorem State.modThread_reqCtr (s : State) (g : Nat) (f : Thread → Thread) : (s.modThread g f).reqCtr = s.reqCtr := rfl
@[simp] theorem State.modThread_chans (s : State) (g : Nat) (f : Thread → Thread) : (s.modThread g f).chans = s.chans := rfl
@[simp] theorem State.modThread_pools (s : State) (g : Nat) (f : Thread → Thread) : (s.modThread g f).pools = s.pools := rfl
@[simp] theorem State.modThread_silo (s : State) (g : Nat) (f : Thread → Thread) : (s.modThread g f).silo = s.silo := rfl
@[simp] theorem State.modThread_bulks (s : State) (g : Nat) (f : Thread → Thread) : (s.modThread g f).bulks = s.bulks := rfl
@[simp] theorem State.modThread_links (s : State) (g : Nat) (f : Thread → Thread) : (s.modThread g f).links = s.links := rfl
@[simp] theorem State.modThread_routes (s : State) (g : Nat) (f : Thread → Thread) : (s.modThread g f).routes = s.routes := rfl
@[simp] theorem State.modThread_outLevels (s : State) (g : Nat) (f : Thread → Thread) : (s.modThread g f).outLevels = s.outLevels := rfl
@[simp] theorem State.modThread_vcs (s : State) (g : Nat) (f : Thread → Thread) : (s.modThread g f).vcs = s.vcs := rfl
@[simp] theorem State.modThread_loft (s : State) (g : Nat) (f : Thread → Thread) : (s.modThread g f).loft = s.loft := rfl
@[simp] theorem State.modThread_store (s : State) (g : Nat) (f : Thread → Thread) : (s.modThread g f).store = s.store := rfl
@[simp] theorem State.modThread_start (s : State) (g : Nat) (f : Thread → Thread) : (s.modThread g f).start = s.start := rfl
@[simp] theorem State.modThread_mode (s : State) (g : Nat) (f : Thread → Thread) : (s.modThread g f).mode = s.mode := rfl
@[simp] theorem State.modThread_offBanks (s : State) (g : Nat) (f : Thread → Thread) : (s.modThread g f).offBanks = s.offBanks := rfl
@[simp] theorem State.modThread_leaving (s : State) (g : Nat) (f : Thread → Thread) : (s.modThread g f).leaving = s.leaving := rfl
@[simp] theorem State.modThread_march (s : State) (g : Nat) (f : Thread → Thread) : (s.modThread g f).march = s.march := rfl
@[simp] theorem State.modThread_msgs (s : State) (g : Nat) (f : Thread → Thread) : (s.modThread g f).msgs = s.msgs := rfl
@[simp] theorem State.modThread_msgTurn (s : State) (g : Nat) (f : Thread → Thread) : (s.modThread g f).msgTurn = s.msgTurn := rfl
@[simp] theorem State.modThread_sip (s : State) (g : Nat) (f : Thread → Thread) : (s.modThread g f).sip = s.sip := rfl
@[simp] theorem State.modThread_bulkWait (s : State) (g : Nat) (f : Thread → Thread) : (s.modThread g f).bulkWait = s.bulkWait := rfl
@[simp] theorem State.modThread_answers (s : State) (g : Nat) (f : Thread → Thread) : (s.modThread g f).answers = s.answers := rfl
@[simp] theorem State.modThread_freeCtr (s : State) (g : Nat) (f : Thread → Thread) : (s.modThread g f).freeCtr = s.freeCtr := rfl
@[simp] theorem State.modThread_pending (s : State) (g : Nat) (f : Thread → Thread) : (s.modThread g f).pending = s.pending := rfl

end Sys2Proof.Machine
end

