-- ==== Sys2Proof/Laws/Regs.lean ====
section
/-!
SUPPORT. The laws of control registers and their fields: a read after a write of the same register
or field gives what was written, and a write leaves every other register, and every bit outside the
field, alone.
-/
namespace Sys2Proof.Machine

/-! ## Registers -/

@[simp] theorem State.reg_setReg_same (s : State) (a : Nat) (v : Word) : (s.setReg a v).reg a = v := by
  simp [State.reg, State.setReg]

theorem State.reg_setReg_canon (s : State) {a b : Nat} (v : Word) (h : canon a = canon b) :
    (s.setReg a v).reg b = v := by
  simp [State.reg, State.setReg, ← h]

theorem State.reg_setReg_other (s : State) {a b : Nat} (v : Word) (h : canon b ≠ canon a) :
    (s.setReg a v).reg b = s.reg b := by
  simp only [State.reg, State.setReg]
  exact Map.get_set_other _ _ _ _ h

/-- Two registers written in turn. -/
theorem State.reg_setReg (s : State) (a b : Nat) (v : Word) :
    (s.setReg a v).reg b = if canon b = canon a then v else s.reg b := by
  split
  · exact State.reg_setReg_canon s v (Eq.symm ‹_›)
  · exact State.reg_setReg_other s v ‹_›

@[simp] theorem State.reg_setThread (s : State) (g : Nat) (t : Thread) (a : Nat) :
    (s.setThread g t).reg a = s.reg a := rfl
@[simp] theorem State.reg_modThread (s : State) (g : Nat) (f : Thread → Thread) (a : Nat) :
    (s.modThread g f).reg a = s.reg a := rfl
@[simp] theorem State.fld_setThread (s : State) (g : Nat) (t : Thread) (x : Fld) :
    (s.setThread g t).fld x = s.fld x := rfl
@[simp] theorem State.fld_modThread (s : State) (g : Nat) (f : Thread → Thread) (x : Fld) :
    (s.modThread g f).fld x = s.fld x := rfl
@[simp] theorem State.bit_setThread (s : State) (g : Nat) (t : Thread) (x : Fld) :
    (s.setThread g t).bit x = s.bit x := rfl
@[simp] theorem State.bit_modThread (s : State) (g : Nat) (f : Thread → Thread) (x : Fld) :
    (s.modThread g f).bit x = s.bit x := rfl

/-- Only the registers count for a register's value. -/
theorem State.reg_congr {s t : State} (h : t.regs = s.regs) (a : Nat) : t.reg a = s.reg a := by
  simp only [State.reg, h]
theorem State.fld_congr {s t : State} (h : t.regs = s.regs) (x : Fld) : t.fld x = s.fld x := by
  simp only [State.fld, State.reg_congr h]
theorem State.bit_congr {s t : State} (h : t.regs = s.regs) (x : Fld) : t.bit x = s.bit x := by
  simp only [State.bit, State.fld_congr h]

/-! ## Bits of fields -/

/-- The field lies in the word. -/
abbrev Fld.ok (x : Fld) : Prop := x.lo ≤ x.hi ∧ x.hi < 32

theorem getLsbD_bitMask (hi lo i : Nat) :
    (bitMask hi lo).getLsbD i = (decide (i < 32) && decide (lo ≤ i) && decide (i < lo + (hi + 1 - lo))) := by
  unfold bitMask
  rw [BitVec.getLsbD_ofNat, Nat.testBit_shiftLeft, Nat.testBit_two_pow_sub_one]
  by_cases hl : lo ≤ i
  · have e : i - lo < hi + 1 - lo ↔ i < lo + (hi + 1 - lo) := by omega
    simp [hl, e]
  · simp [hl]

theorem getLsbD_bitsOf (w : Word) (hi lo i : Nat) :
    (bitsOf w hi lo).getLsbD i = (decide (lo + i ≤ hi) && w.getLsbD (lo + i)) := by
  simp only [bitsOf, BitVec.getLsbD_ushiftRight, BitVec.getLsbD_and, getLsbD_bitMask]
  by_cases h : lo + i < 32
  · by_cases h2 : lo + i ≤ hi
    · have : lo + i < lo + (hi + 1 - lo) := by omega
      simp [h, h2, this]
    · have : ¬ (lo + i < lo + (hi + 1 - lo)) := by omega
      simp [h2, this]
  · simp [h, BitVec.getLsbD_of_ge w (lo + i) (by omega)]

theorem getLsbD_putBits (w : Word) (hi lo : Nat) (v : Word) (i : Nat) :
    (putBits w hi lo v).getLsbD i =
      if lo ≤ i ∧ i ≤ hi ∧ i < 32 then v.getLsbD (i - lo) else w.getLsbD i := by
  simp only [putBits, BitVec.getLsbD_or, BitVec.getLsbD_and, BitVec.getLsbD_not, BitVec.getLsbD_shiftLeft,
    getLsbD_bitMask]
  by_cases h : i < 32
  · by_cases h1 : lo ≤ i <;> by_cases h2 : i ≤ hi
    · have : i < lo + (hi + 1 - lo) := by omega
      simp [h, h1, h2, this, Nat.not_lt.2 h1]
    · have : ¬ (i < lo + (hi + 1 - lo)) := by omega
      simp [h, h2, this]
    · simp [h, h1]
    · simp [h, h1]
  · simp [h, BitVec.getLsbD_of_ge w i (by omega)]

/-- A field read after it was written: the value, cut to the field's width. -/
theorem bitsOf_putBits (w : Word) (hi lo : Nat) (v : Word) (h : hi < 32) :
    bitsOf (putBits w hi lo v) hi lo = bitsOf v (hi - lo) 0 ∨ hi < lo := by
  by_cases hl : hi < lo
  · exact .inr hl
  · left
    apply BitVec.eq_of_getLsbD_eq
    intro i hi'
    simp only [getLsbD_bitsOf, getLsbD_putBits]
    by_cases h1 : lo + i ≤ hi
    · have a : lo ≤ lo + i ∧ lo + i ≤ hi ∧ lo + i < 32 := by omega
      have b : 0 + i ≤ hi - lo := by omega
      have c : lo + i - lo = i := by omega
      simp [a, c, show i ≤ hi - lo by omega]
    · have b : ¬ (i ≤ hi - lo) := by omega
      simp [h1, b]

/-- A value that fits in k bits is its own low k bits. -/
theorem bitsOf_zero_of_lt (v : Word) (k : Nat) (h : v.toNat < 2 ^ (k + 1)) : bitsOf v k 0 = v := by
  apply BitVec.eq_of_getLsbD_eq
  intro i hi
  simp only [getLsbD_bitsOf, Nat.zero_add]
  by_cases h1 : i ≤ k
  · simp [h1]
  · have : v.toNat < 2 ^ i := Nat.lt_of_lt_of_le h (Nat.pow_le_pow_right (by decide) (by omega))
    simp [h1, BitVec.getLsbD, Nat.testBit_lt_two_pow this]

/-- The bits of a field hold at most its width. -/
theorem bitsOf_lt (w : Word) (hi lo : Nat) : (bitsOf w hi lo).toNat < 2 ^ (hi + 1 - lo) := by
  apply Nat.lt_pow_two_of_testBit
  intro i hi'
  have := getLsbD_bitsOf w hi lo i
  simp only [BitVec.getLsbD] at this
  rw [this]
  simp only [Bool.and_eq_false_imp, decide_eq_true_eq]
  omega

theorem bitsOf_putBits_other (w : Word) (hi lo hi' lo' : Nat) (v : Word)
    (h : hi' < lo ∨ hi < lo') : bitsOf (putBits w hi lo v) hi' lo' = bitsOf w hi' lo' := by
  apply BitVec.eq_of_getLsbD_eq
  intro i _
  simp only [getLsbD_bitsOf, getLsbD_putBits]
  by_cases h1 : lo' + i ≤ hi'
  · have : ¬ (lo ≤ lo' + i ∧ lo' + i ≤ hi ∧ lo' + i < 32) := by omega
    simp [this]
  · simp [h1]

/-! ## Fields -/

theorem State.fld_setReg_same (s : State) (a hi lo : Nat) (v : Word) :
    (s.setReg a v).fld ⟨a, hi, lo⟩ = bitsOf v hi lo := by
  simp [State.fld]

theorem State.fld_setReg_other (s : State) {a : Nat} {y : Fld} (v : Word) (h : canon y.addr ≠ canon a) :
    (s.setReg a v).fld y = s.fld y := by
  simp [State.fld, State.reg_setReg_other s v h]

theorem State.reg_setFld_other (s : State) {x : Fld} {b : Nat} (v : Word) (h : canon b ≠ canon x.addr) :
    (s.setFld x v).reg b = s.reg b := State.reg_setReg_other s _ h

theorem State.reg_setBit_other (s : State) {x : Fld} {b : Nat} (v : Bool) (h : canon b ≠ canon x.addr) :
    (s.setBit x v).reg b = s.reg b := State.reg_setReg_other s _ h

theorem State.reg_countUp_other (s : State) {x : Fld} {b : Nat} (k : Nat) (h : canon b ≠ canon x.addr) :
    (s.countUp x k).reg b = s.reg b := State.reg_setReg_other s _ h

theorem State.reg_countWrap_other (s : State) {x : Fld} {b : Nat} (k : Nat) (h : canon b ≠ canon x.addr) :
    (s.countWrap x k).reg b = s.reg b := State.reg_setReg_other s _ h

/-- The value written to a field is read back, cut to the field's width. -/
theorem State.fld_setFld (s : State) (x : Fld) (v : Word) (h : x.ok) :
    (s.setFld x v).fld x = bitsOf v (x.hi - x.lo) 0 := by
  simp only [State.fld, State.setFld, State.reg_setReg_same]
  exact (bitsOf_putBits _ _ _ _ h.2).resolve_right (by omega)

/-- A value that fits in the field is read back. -/
theorem State.fld_setFld_same (s : State) (x : Fld) (v : Word) (h : x.ok)
    (hv : v.toNat < 2 ^ (x.hi - x.lo + 1)) : (s.setFld x v).fld x = v := by
  rw [State.fld_setFld s x v h, bitsOf_zero_of_lt _ _ hv]

theorem State.fld_setFld_addr (s : State) {x y : Fld} (v : Word) (h : canon y.addr ≠ canon x.addr) :
    (s.setFld x v).fld y = s.fld y := by
  simp only [State.fld, State.reg_setFld_other s v h]

theorem State.fld_setFld_bits (s : State) {x y : Fld} (v : Word) (ha : y.addr = x.addr)
    (h : y.hi < x.lo ∨ x.hi < y.lo) : (s.setFld x v).fld y = s.fld y := by
  simp only [State.fld, State.setFld, ha, State.reg_setReg_same]
  exact bitsOf_putBits_other _ _ _ _ _ _ h

@[simp] theorem boolWord_true : boolWord true = 1 := rfl
@[simp] theorem boolWord_false : boolWord false = 0 := rfl
theorem boolWord_toNat (b : Bool) : (boolWord b).toNat < 2 := by cases b <;> decide
@[simp] theorem boolWord_ne_zero (b : Bool) : (boolWord b != 0) = b := by cases b <;> rfl

theorem State.bit_setBit_same (s : State) (x : Fld) (b : Bool) (h : x.ok) : (s.setBit x b).bit x = b := by
  simp only [State.bit, State.setBit, State.fld_setFld s x _ h]
  rw [bitsOf_zero_of_lt _ _ (Nat.lt_of_lt_of_le (boolWord_toNat b) (by
    rw [Nat.pow_succ]; exact Nat.le_mul_of_pos_left 2 (Nat.two_pow_pos _)))]
  exact boolWord_ne_zero b

theorem State.fld_setBit_addr (s : State) {x y : Fld} (v : Bool) (h : canon y.addr ≠ canon x.addr) :
    (s.setBit x v).fld y = s.fld y := State.fld_setFld_addr s _ h
theorem State.fld_setBit_bits (s : State) {x y : Fld} (v : Bool) (ha : y.addr = x.addr)
    (h : y.hi < x.lo ∨ x.hi < y.lo) : (s.setBit x v).fld y = s.fld y := State.fld_setFld_bits s _ ha h
theorem State.bit_setFld_addr (s : State) {x y : Fld} (v : Word) (h : canon y.addr ≠ canon x.addr) :
    (s.setFld x v).bit y = s.bit y := by simp only [State.bit, State.fld_setFld_addr s v h]
theorem State.bit_setFld_bits (s : State) {x y : Fld} (v : Word) (ha : y.addr = x.addr)
    (h : y.hi < x.lo ∨ x.hi < y.lo) : (s.setFld x v).bit y = s.bit y := by
  simp only [State.bit, State.fld_setFld_bits s v ha h]
theorem State.bit_setBit_addr (s : State) {x y : Fld} (v : Bool) (h : canon y.addr ≠ canon x.addr) :
    (s.setBit x v).bit y = s.bit y := State.bit_setFld_addr s _ h
theorem State.bit_setBit_bits (s : State) {x y : Fld} (v : Bool) (ha : y.addr = x.addr)
    (h : y.hi < x.lo ∨ x.hi < y.lo) : (s.setBit x v).bit y = s.bit y := State.bit_setFld_bits s _ ha h

/-- A counting field that wraps. -/
theorem State.fld_countWrap (s : State) (x : Fld) (k : Nat) (h : x.ok) :
    ((s.countWrap x k).fld x).toNat = ((s.fld x).toNat + k) % 2 ^ (x.hi + 1 - x.lo) := by
  unfold State.countWrap
  rw [State.fld_setFld s x _ h]
  apply Nat.eq_of_testBit_eq
  intro i
  have := getLsbD_bitsOf (BitVec.ofNat 32 ((s.fld x).toNat + k)) (x.hi - x.lo) 0 i
  simp only [BitVec.getLsbD] at this
  rw [this, Nat.testBit_mod_two_pow]
  by_cases hi : i ≤ x.hi - x.lo
  · have h1 : i < 32 := by omega
    have h2 : i < x.hi + 1 - x.lo := by omega
    rw [Nat.zero_add, BitVec.toNat_ofNat, Nat.testBit_mod_two_pow]
    simp [hi, h1, h2]
  · have h2 : ¬ i < x.hi + 1 - x.lo := by omega
    simp [hi, h2]

/-- A counting field that saturates. -/
theorem State.fld_countUp (s : State) (x : Fld) (k : Nat) (h : x.ok) :
    ((s.countUp x k).fld x).toNat = min (2 ^ (x.hi + 1 - x.lo) - 1) ((s.fld x).toNat + k) := by
  have hm : 2 ^ (x.hi + 1 - x.lo) ≤ 2 ^ 32 := Nat.pow_le_pow_right (by decide) (by omega)
  have hp : 0 < 2 ^ (x.hi + 1 - x.lo) := Nat.two_pow_pos _
  simp only [State.countUp]
  rw [State.fld_setFld_same _ _ _ h]
  · rw [BitVec.toNat_ofNat, Nat.mod_eq_of_lt (by omega)]
  · rw [BitVec.toNat_ofNat, Nat.mod_eq_of_lt (by omega), show x.hi - x.lo + 1 = x.hi + 1 - x.lo by omega]
    omega

/-! ## Threads -/

@[simp] theorem State.thread_setThread_same (s : State) (g : Nat) (t : Thread) :
    (s.setThread g t).thread g = t := by simp [State.thread, State.setThread]
theorem State.thread_setThread_other (s : State) {g h : Nat} (t : Thread) (hg : h ≠ g) :
    (s.setThread g t).thread h = s.thread h := Map.get_set_other _ _ _ _ hg
@[simp] theorem State.thread_modThread_same (s : State) (g : Nat) (f : Thread → Thread) :
    (s.modThread g f).thread g = f (s.thread g) := by simp [State.modThread]
theorem State.thread_modThread_other (s : State) {g h : Nat} (f : Thread → Thread) (hg : h ≠ g) :
    (s.modThread g f).thread h = s.thread h := State.thread_setThread_other s _ hg
@[simp] theorem State.thread_setReg (s : State) (a : Nat) (v : Word) (g : Nat) :
    (s.setReg a v).thread g = s.thread g := rfl
@[simp] theorem State.thread_setFld (s : State) (x : Fld) (v : Word) (g : Nat) :
    (s.setFld x v).thread g = s.thread g := rfl
@[simp] theorem State.thread_setBit (s : State) (x : Fld) (v : Bool) (g : Nat) :
    (s.setBit x v).thread g = s.thread g := rfl
@[simp] theorem State.thread_countUp (s : State) (x : Fld) (k g : Nat) :
    (s.countUp x k).thread g = s.thread g := rfl
@[simp] theorem State.thread_countWrap (s : State) (x : Fld) (k g : Nat) :
    (s.countWrap x k).thread g = s.thread g := rfl
theorem State.thread_congr {s t : State} (h : t.threads = s.threads) (g : Nat) : t.thread g = s.thread g := by
  simp only [State.thread, h]

/-! ## General registers and flags (R111, R170, R423) -/

@[simp] theorem Thread.rd_zero (t : Thread) : t.rd 0 = 0 := by simp [Thread.rd]
@[simp] theorem Thread.wr_zero (t : Thread) (v : Word) : t.wr 0 v = t := by simp [Thread.wr]
@[simp] theorem Thread.isShadow_wr (t : Thread) (r : Reg) (v : Word) : (t.wr r v).isShadow = t.isShadow := by
  unfold Thread.wr; split <;> rfl

theorem Thread.rd_wr_same (t : Thread) (r : Reg) (v : Word) (h : r ≠ 0) : (t.wr r v).rd r = v := by
  unfold Thread.rd
  rw [if_neg h, Thread.isShadow_wr]
  unfold Thread.wr
  rw [if_neg h]
  split <;> simp_all

theorem Thread.rd_wr_other (t : Thread) {r q : Reg} (v : Word) (h : q ≠ r) : (t.wr r v).rd q = t.rd q := by
  by_cases hr : r = 0
  · rw [hr, Thread.wr_zero]
  · have hn : q.toNat ≠ r.toNat := fun e => h (BitVec.eq_of_toNat_eq e)
    have hs : (t.wr r v).isShadow = t.isShadow := Thread.isShadow_wr t r v
    simp only [Thread.rd, hs]
    simp only [Thread.wr, hr, if_false]
    simp only [Map.get_set_other _ _ _ _ hn]

/-- A register write, all registers at once: g0 reads zero (R111). -/
theorem Thread.rd_wr (t : Thread) (r q : Reg) (v : Word) :
    (t.wr r v).rd q = if q = r ∧ r ≠ 0 then v else t.rd q := by
  split
  · rename_i h; rw [h.1]; exact Thread.rd_wr_same t r v h.2
  · rename_i h
    by_cases e : q = r
    · have h0 : r = 0 := by
        by_contra hc
        exact h ⟨e, hc⟩
      rw [h0, Thread.wr_zero]
    · exact Thread.rd_wr_other t v e

@[simp] theorem Thread.flags_wr (t : Thread) (r : Reg) (v : Word) : (t.wr r v).flags = t.flags := by
  unfold Thread.wr; split <;> rfl
@[simp] theorem Thread.isShadow_setFlags (t : Thread) (f : Flags) : (t.setFlags f).isShadow = t.isShadow := rfl
@[simp] theorem Thread.flags_setFlags (t : Thread) (f : Flags) : (t.setFlags f).flags = f := by
  rcases f with ⟨n, z, c, v⟩
  have hs : (t.setFlags ⟨n, z, c, v⟩).isShadow = t.isShadow := rfl
  simp only [Thread.flags, hs]
  simp only [Thread.setFlags]
  cases t.isShadow <;> simp
@[simp] theorem Thread.rd_setFlags (t : Thread) (f : Flags) (r : Reg) : (t.setFlags f).rd r = t.rd r := rfl

end Sys2Proof.Machine
end

