-- ==== Sys2Proof/Laws/Kept.lean ====
section
/-!
SUPPORT. What the shared operations leave alone: bank memory, the fills of the banks, and the queue of
commands. One lemma for each operation that touches none of them: `(f s).kept = s.kept`.
-/
set_option Elab.async false
namespace Sys2Proof.Machine

/-- What most operations leave alone: bank memory, the fills, and the queue of commands. -/
def State.kept (s : State) : List Host.Cell × Map Nat × List Instr := (s.mem, s.bankFill, s.pending)

@[simp ↓] theorem State.kept_mk (x0 : Map Word) (x1 : Map Word) (x2 : List Host.Cell) (x3 : Map Nat) (x4 : Map Thread) (x5 : Map Pair) (x6 : List Nat) (x7 : Option Nat) (x8 : Map (List Word)) (x9 : Map (List (Nat × Nat))) (x10 : Map Nat) (x11 : List Routed) (x12 : Map Nat) (x13 : Map Nat) (x14 : Map Bool) (x15 : List (Crossing × XItem)) (x16 : Map LaneS) (x17 : Map SeqS) (x18 : List (Nat × Nat × Word)) (x19 : Map (List EdgeE)) (x20 : Map (Nat × Nat)) (x21 : Map TimerS) (x22 : Nat) (x23 : List (Nat × Nat)) (x24 : Map Nat) (x25 : Bool) (x26 : Bool) (x27 : Map (Option LEntry)) (x28 : List LEntry) (x29 : Map (Option CLine)) (x30 : List (Nat × MemAcc)) (x31 : Map (Option DEntry)) (x32 : Nat) (x33 : List CohMsg) (x34 : List HomeReq) (x35 : List (Nat × Nat × Nat × Bool)) (x36 : List Nat) (x37 : List MemAcc) (x38 : List HomeReq) (x39 : Nat) (x40 : List (Nat × Nat × CohKind)) (x41 : Map FlushS) (x42 : List MemAcc) (x43 : Nat) (x44 : Map ChanS) (x45 : Map PoolS) (x46 : SiloS) (x47 : Map BulkS) (x48 : Map LinkS) (x49 : Map Nat) (x50 : Map Bool) (x51 : Map VcS) (x52 : Map LoftRec) (x53 : Option (Nat × Bool × BitVec 2048)) (x54 : StartS) (x55 : ModeS) (x56 : List Nat) (x57 : List Nat) (x58 : Option (Nat × Bool × Bool)) (x59 : List (Nat × Nat × Word × BitVec 64)) (x60 : Map Nat) (x61 : List SipReq) (x62 : List Nat) (x63 : List (Nat × Option (List Byte))) (x64 : Nat) (x65 : List Instr) :
    (State.mk x0 x1 x2 x3 x4 x5 x6 x7 x8 x9 x10 x11 x12 x13 x14 x15 x16 x17 x18 x19 x20 x21 x22 x23 x24 x25 x26 x27 x28 x29 x30 x31 x32 x33 x34 x35 x36 x37 x38 x39 x40 x41 x42 x43 x44 x45 x46 x47 x48 x49 x50 x51 x52 x53 x54 x55 x56 x57 x58 x59 x60 x61 x62 x63 x64 x65).kept = (x2, x3, x65) := rfl
@[simp ↓] theorem State.kept_fold (s : State) : (s.mem, s.bankFill, s.pending) = s.kept := rfl
@[simp ↓] theorem State.kept_ite (c : Prop) [Decidable c] (s t : State) :
    (if c then s else t).kept = if c then s.kept else t.kept := by split <;> rfl

@[simp ↓] theorem State.foldl_kept {α : Type} (l : List α) (f : State → α → State) (s : State)
    (h : ∀ s x, (f s x).kept = s.kept) : (l.foldl f s).kept = s.kept := by
  induction l generalizing s with
  | nil => rfl
  | cons a r ih => exact (ih _).trans (h s a)

@[simp ↓] theorem State.setReg_kept (s : State) (a : Nat) (v : Word) :
    (State.setReg s a v).kept = s.kept := by
  simp [State.setReg]
@[simp ↓] theorem State.setPend_kept (s : State) (a : Nat) (v : Word) :
    (State.setPend s a v).kept = s.kept := by
  simp [State.setPend]
@[simp ↓] theorem State.setFld_kept (s : State) (x : Fld) (v : Word) :
    (State.setFld s x v).kept = s.kept := by
  simp [State.setFld]
@[simp ↓] theorem State.setBit_kept (s : State) (x : Fld) (b : Bool) :
    (State.setBit s x b).kept = s.kept := by
  simp [State.setBit]
@[simp ↓] theorem State.countUp_kept (s : State) (x : Fld) (k : Nat) :
    (State.countUp s x k).kept = s.kept := by
  simp [State.countUp]
@[simp ↓] theorem State.countWrap_kept (s : State) (x : Fld) (k : Nat) :
    (State.countWrap s x k).kept = s.kept := by
  simp [State.countWrap]
@[simp ↓] theorem State.commitReg_kept (s : State) (a : Nat) :
    (State.commitReg s a).kept = s.kept := by
  simp [State.commitReg]
@[simp ↓] theorem State.drawn_kept (s : State) :
    (State.drawn s).kept = s.kept := by
  simp [State.drawn]
@[simp ↓] theorem State.routeEvent_kept (s : State) (port : Nat) (b : Bool) (hop : Nat) :
    (State.routeEvent s port b hop).kept = s.kept := by
  simp [State.routeEvent]
@[simp ↓] theorem State.loopDrop_kept (s : State) (port : Nat) (odd : Bool) (sig : Nat) (input : Nat) :
    (State.loopDrop s port odd sig input).kept = s.kept := by
  simp [State.loopDrop]
@[simp ↓] theorem State.routeIn_kept (s : State) (port : Nat) (b : Bool) (hop : Nat) :
    (State.routeIn s port b hop).kept = s.kept := by
  simp [State.routeIn]
@[simp ↓] theorem State.present_kept (s : State) (port : Nat) (b : Bool) (hop : Nat) :
    (State.present s port b hop).kept = s.kept := by
  simp [State.present]
@[simp ↓] theorem State.forceInput_kept (s : State) (x : Nat) (hop : Nat) (port : Nat) (odd : Bool) :
    (State.forceInput s x hop port odd).kept = s.kept := by
  simp [State.forceInput]
@[simp ↓] theorem State.overrun_kept (s : State) (x : Nat) :
    (State.overrun s x).kept = s.kept := by
  simp [State.overrun]
@[simp ↓] theorem State.refuse_kept (s : State) (b : Blk) (off : Nat) :
    (State.refuse s b off).kept = s.kept := by
  unfold State.refuse
  split <;> simp
@[simp ↓] theorem State.faultMinor_kept (s : State) :
    (State.faultMinor s).kept = s.kept := by
  simp [State.faultMinor]
@[simp ↓] theorem State.freeBytes_kept (s : State) (n : Nat) :
    (State.freeBytes s n).2.kept = s.kept := by
  simp [State.freeBytes]
@[simp ↓] theorem State.writeField_kept (s : State) (s0 : State) (a : Nat) (x : FieldSpec) (data : Word) (ok : FieldSpec → Word → Bool) :
    (State.writeField s s0 a x data ok).1.kept = s.kept := by
  unfold State.writeField
  simp only []
  (repeat' split) <;> simp [*]

@[simp ↓] theorem State.writeFieldList_kept (s : State) (s0 : State) (a : Nat) (fs : List FieldSpec) (data : Word)
    (ok : FieldSpec → Word → Bool) : (State.writeFieldList s s0 a fs data ok).1.kept = s.kept := by
  induction fs generalizing s with
  | nil => rfl
  | cons x r ih => simp [State.writeFieldList, ih]
@[simp ↓] theorem State.writeRow_kept (s : State) (b : Blk) (off : Nat) (r : Row) (data : Word) (ok : FieldSpec → Word → Bool) :
    (State.writeRow s b off r data ok).kept = s.kept := by
  simp [State.writeRow]
@[simp ↓] theorem State.resetRange_kept (s : State) (lo : Nat) (hi : Nat) :
    (State.resetRange s lo hi).kept = s.kept := by
  simp [State.resetRange]
@[simp ↓] theorem State.commitAll_kept (s : State) (as : List Nat) :
    (State.commitAll s as).kept = s.kept := by
  simp [State.commitAll]
@[simp ↓] theorem State.clearRC_kept (s : State) (a : Nat) (fs : List FieldSpec) :
    (State.clearRC s a fs).kept = s.kept := by
  simp [State.clearRC]
@[simp ↓] theorem State.refuseWin_kept (s : State) (v : Nat) (off : Nat) :
    (State.refuseWin s v off).kept = s.kept := by
  simp [State.refuseWin]
@[simp ↓] theorem State.watched_kept (s : State) (b : Blk) (off : Nat) (f : State → State) (hf : ∀ s, (f s).kept = s.kept) :
    (State.watched s b off f).1.kept = s.kept := by
  unfold State.watched
  simp only []
  (repeat' split) <;> simp [*]
@[simp ↓] theorem State.atBlock_kept (s : State) (who : Agent) (b : Blk) (off : Nat) (f : State → State) (hf : ∀ s, (f s).kept = s.kept) :
    (State.atBlock s who b off f).kept = s.kept := by
  unfold State.atBlock
  simp only []
  (repeat' split) <;> simp [*]
@[simp ↓] theorem State.modLink_kept (s : State) (p : Nat) (f : LinkS → LinkS) :
    (State.modLink s p f).kept = s.kept := by
  simp [State.modLink]
@[simp ↓] theorem State.linkPush_kept (s : State) (p : Nat) (it : BrItem) :
    (State.linkPush s p it).kept = s.kept := by
  simp [State.linkPush]
@[simp ↓] theorem State.linkSend_kept (s : State) (p : Nat) :
    (State.linkSend s p).kept = s.kept := by
  unfold State.linkSend
  simp only []
  (repeat' split) <;> simp [*]
@[simp ↓] theorem State.modLane_kept (s : State) (l : Nat) (f : LaneS → LaneS) :
    (State.modLane s l f).kept = s.kept := by
  simp [State.modLane]
@[simp ↓] theorem State.modSeq_kept (s : State) (n : Nat) (k : Nat) (f : SeqS → SeqS) :
    (State.modSeq s n k f).kept = s.kept := by
  simp [State.modSeq]
@[simp ↓] theorem State.setThread_kept (s : State) (gt : Nat) (t : Thread) :
    (State.setThread s gt t).kept = s.kept := by
  simp [State.setThread]
@[simp ↓] theorem State.modThread_kept (s : State) (gt : Nat) (f : Thread → Thread) :
    (State.modThread s gt f).kept = s.kept := by
  simp [State.modThread]
@[simp ↓] theorem State.countBreak_kept (s : State) (gt : Nat) :
    (State.countBreak s gt).kept = s.kept := by
  simp [State.countBreak]
@[simp ↓] theorem State.contractBreak_kept (s : State) (gt : Nat) (at' : Option Word) :
    (State.contractBreak s gt at').kept = s.kept := by
  simp [State.contractBreak]
@[simp ↓] theorem State.holdBreak_kept (s : State) (gt : Nat) :
    (State.holdBreak s gt).kept = s.kept := by
  simp [State.holdBreak]
@[simp ↓] theorem State.heldBreak_kept (s : State) (gt : Nat) :
    (State.heldBreak s gt).kept = s.kept := by
  simp [State.heldBreak]

theorem State.push_kept {s s' : State} {gt : Nat} {v : Word} (h : s.push gt v = some s') :
    s'.kept = s.kept := by
  unfold State.push at h
  simp only [] at h
  split at h
  · split at h
    · cases h
    · cases h; simp
  · cases h; simp

theorem State.pop_kept {s s' : State} {gt : Nat} {v : Word} (h : s.pop gt = some (v, s')) :
    s'.kept = s.kept := by
  unfold State.pop at h
  simp only [] at h
  split at h
  · cases h
  · cases h; simp
@[simp ↓] theorem State.raise_kept (s : State) (gt : Nat) (r : FaultRec) :
    (State.raise s gt r).kept = s.kept := by
  unfold State.raise
  (repeat' split) <;> simp
@[simp ↓] theorem State.writeRecord_kept (s : State) (gt : Nat) (r : FaultRec) :
    (State.writeRecord s gt r).kept = s.kept := by
  simp [State.writeRecord]
@[simp ↓] theorem State.enterFaulted_kept (s : State) (gt : Nat) :
    (State.enterFaulted s gt).kept = s.kept := by
  simp [State.enterFaulted]
@[simp ↓] theorem State.takeTwin_kept (s : State) (gt : Nat) (r : FaultRec) :
    (State.takeTwin s gt r).kept = s.kept := by
  simp [State.takeTwin]
@[simp ↓] theorem State.takeFault_kept (s : State) (gt : Nat) (r : FaultRec) :
    (State.takeFault s gt r).kept = s.kept := by
  simp [State.takeFault]
@[simp ↓] theorem State.writeThreadRow_kept (s : State) (who : Agent) (gt : Nat) (off : Nat) (data : Word) :
    (State.writeThreadRow s who gt off data).kept = s.kept := by
  unfold State.writeThreadRow
  (repeat' split) <;> simp
@[simp ↓] theorem State.setSeg7_kept (s : State) (gt : Nat) (base : BitVec 48) (limit : Word) (rights : Word) :
    (State.setSeg7 s gt base limit rights).kept = s.kept := by
  simp [State.setSeg7]
@[simp ↓] theorem State.settleDelayed_kept (s : State) (gt : Nat) (d : Delayed) :
    (State.settleDelayed s gt d).kept = s.kept := by
  unfold State.settleDelayed
  split <;> simp

@[simp ↓] theorem State.flushDelayed_kept (s : State) (gt : Nat) : (State.flushDelayed s gt).kept = s.kept := by
  unfold State.flushDelayed
  simp only []
  refine (State.foldl_kept _ _ _ ?_).trans (State.modThread_kept _ _ _)
  intro s x
  simp
@[simp ↓] theorem State.stopThread_kept (s : State) (gt : Nat) :
    (State.stopThread s gt).kept = s.kept := by
  simp [State.stopThread]
@[simp ↓] theorem State.stopNow_kept (s : State) (gt : Nat) :
    (State.stopNow s gt).kept = s.kept := by
  simp [State.stopNow]
@[simp ↓] theorem State.haltNow_kept (s : State) (gt : Nat) (debug : Bool) :
    (State.haltNow s gt debug).kept = s.kept := by
  simp [State.haltNow]
@[simp ↓] theorem State.freezeNow_kept (s : State) (gt : Nat) :
    (State.freezeNow s gt).kept = s.kept := by
  simp [State.freezeNow]
@[simp ↓] theorem State.atBoundary_kept (s : State) (gt : Nat) :
    (State.atBoundary s gt).kept = s.kept := by
  unfold State.atBoundary
  simp only []
  (repeat' split) <;> simp [*]
@[simp ↓] theorem State.consume_kept (s : State) (gt : Nat) (i : Nat) :
    (State.consume s gt i).kept = s.kept := by
  simp [State.consume]
@[simp ↓] theorem State.newRole_kept (s : State) (gt : Nat) :
    (State.newRole s gt).kept = s.kept := by
  simp [State.newRole]
@[simp ↓] theorem State.startThread_kept (s : State) (gt : Nat) :
    (State.startThread s gt).kept = s.kept := by
  simp [State.startThread]
@[simp ↓] theorem State.cmdStart_kept (s : State) (gt : Nat) (off : Nat) :
    (State.cmdStart s gt off).kept = s.kept := by
  simp [State.cmdStart]
@[simp ↓] theorem State.cmdHalt_kept (s : State) (gt : Nat) (off : Nat) (debug : Bool) :
    (State.cmdHalt s gt off debug).kept = s.kept := by
  simp [State.cmdHalt]
@[simp ↓] theorem State.cmdResume_kept (s : State) (gt : Nat) (off : Nat) :
    (State.cmdResume s gt off).kept = s.kept := by
  simp [State.cmdResume]
@[simp ↓] theorem State.cmdStop_kept (s : State) (gt : Nat) (off : Nat) :
    (State.cmdStop s gt off).kept = s.kept := by
  simp [State.cmdStop]
@[simp ↓] theorem State.writeThreadCtl_kept (s : State) (gt : Nat) (data : Word) :
    (State.writeThreadCtl s gt data).kept = s.kept := by
  simp [State.writeThreadCtl]
@[simp ↓] theorem State.writeThreadSet_kept (s : State) (who : Agent) (gt : Nat) (off : Nat) (data : Word) :
    (State.writeThreadSet s who gt off data).kept = s.kept := by
  unfold State.writeThreadSet
  (repeat' split) <;> simp
@[simp ↓] theorem State.delayWrite_kept (s : State) (gt : Nat) (a : Nat) (data : Word) :
    (State.delayWrite s gt a data).kept = s.kept := by
  simp [State.delayWrite]
@[simp ↓] theorem State.setWrite_kept (s : State) (who : Agent) (gt : Nat) (off : Nat) (data : Word) :
    (State.setWrite s who gt off data).kept = s.kept := by
  simp [State.setWrite]
@[simp ↓] theorem State.ownOr_kept (s : State) (who : Agent) (gt : Nat) (data : Word) (f : State → State) (hf : ∀ s, (f s).kept = s.kept) :
    (State.ownOr s who gt data f).kept = s.kept := by
  unfold State.ownOr
  (repeat' split) <;> simp [*]
@[simp ↓] theorem State.descWritten_kept (s : State) (gt : Nat) (i : Nat) (w : Nat) :
    (State.descWritten s gt i w).kept = s.kept := by
  simp [State.descWritten]
@[simp ↓] theorem State.writeDesc_kept (s : State) (who : Agent) (gt : Nat) (i : Nat) (w : Nat) (data : Word) (hi : Option Word) :
    (State.writeDesc s who gt i w data hi).kept = s.kept := by
  unfold State.writeDesc
  split <;> simp
@[simp ↓] theorem State.applyDelayed_kept (s : State) (gt : Nat) (d : Delayed) :
    (State.applyDelayed s gt d).kept = s.kept := by
  unfold State.applyDelayed
  (repeat' split) <;> simp
@[simp ↓] theorem State.tickDelayed_kept (s : State) (gt : Nat) :
    (State.tickDelayed s gt).kept = s.kept := by
  simp [State.tickDelayed]
@[simp ↓] theorem State.fetchAhead_kept (s : State) (gt : Nat) :
    (State.fetchAhead s gt).kept = s.kept := by
  unfold State.fetchAhead
  split <;> simp

end Sys2Proof.Machine
end

