-- ==== Sys2Proof/Laws/KeptThreads.lean ====
section
/-!
SUPPORT. What the operations of threads leave alone: issuing an instruction, and the operations of the
instructions and of core control.
-/
set_option Elab.async false
namespace Sys2Proof.Machine

@[simp ↓] theorem State.modPair_kept (s : State) (p : Nat) (f : Pair → Pair) :
    (State.modPair s p f).kept = s.kept := by
  simp [State.modPair]
@[simp ↓] theorem State.beat_kept (s : State) (gt : Nat) (after : Option PairInfo) :
    (State.beat s gt after).kept = s.kept := by
  unfold State.beat
  (repeat' split) <;> simp [*]
@[simp ↓] theorem State.agreeAdd_kept (s : State) (gt : Nat) (e : Agreed) :
    (State.agreeAdd s gt e).kept = s.kept := by
  unfold State.agreeAdd
  split <;> simp
@[simp ↓] theorem State.agreeDone_kept (s : State) (gt : Nat) (ws : List Reg) (z : Option Bool) :
    (State.agreeDone s gt ws z).kept = s.kept := by
  simp [State.agreeDone]
@[simp ↓] theorem State.agreeFault_kept (s : State) (gt : Nat) (r : FaultRec) :
    (State.agreeFault s gt r).kept = s.kept := by
  simp [State.agreeFault]
@[simp ↓] theorem State.agreeLate_kept (s : State) (gt : Nat) (late : Map FaultRec) :
    (State.agreeLate s gt late).kept = s.kept := by
  unfold State.agreeLate
  split <;> simp

/-- The state an operation's outcome holds. -/
def Exec.state (e : Exec) : State :=
  match e with
  | .done s _ => s
  | .fault s _ => s
  | .hold s => s
  | .wait s _ => s

@[simp] theorem Exec.state_done (s : State) (nx : Next) : (Exec.done s nx).state = s := rfl
@[simp] theorem Exec.state_fault (s : State) (r : FaultRec) : (Exec.fault s r).state = s := rfl
@[simp] theorem Exec.state_hold (s : State) : (Exec.hold s).state = s := rfl
@[simp] theorem Exec.state_wait (s : State) (w : Waiting) : (Exec.wait s w).state = s := rfl

@[simp ↓] theorem State.agreeTake_kept (s : State) (gt p : Nat) (ws : List Reg) :
    (s.agreeTake gt p ws).state.kept = s.kept := by
  unfold State.agreeTake
  split
  · split
    · split <;> simp
    · simp
  · simp

@[simp ↓] theorem State.viaBody_kept (s : State) (gt : Nat) (ws : List Reg) (z : Bool) (body : State → Exec)
    (h : ∀ s, (body s).state.kept = s.kept) : (s.viaBody gt ws z body).state.kept = s.kept := by
  unfold State.viaBody
  split
  · exact h s
  · exact State.agreeTake_kept _ _ _ _
  · split
    · simp
    · have hb := h s
      split
      · rename_i e; rw [e] at hb; split <;> simpa using hb
      · rename_i e; rw [e] at hb; simpa using hb
      · exact hb
@[simp ↓] theorem State.countWindow_kept (s : State) (gt : Nat) :
    (State.countWindow s gt).kept = s.kept := by
  unfold State.countWindow
  split <;> simp
@[simp ↓] theorem State.stepDue_kept (s : State) (gt : Nat) :
    (State.stepDue s gt).kept = s.kept := by
  simp [State.stepDue]
@[simp ↓] theorem State.complete_kept (s : State) (gt : Nat) (nx : Next) (after : Option PairInfo) :
    (State.complete s gt nx after).kept = s.kept := by
  simp [State.complete]
@[simp ↓] theorem State.raiseOwn_kept (s : State) (gt : Nat) (r : FaultRec) :
    (State.raiseOwn s gt r).kept = s.kept := by
  unfold State.raiseOwn
  simp only []
  (repeat' split) <;> simp [*]

@[simp ↓] theorem State.issue_kept (s : State) (x : Issue) (i : Ins) (body : State → Exec)
    (h : ∀ s, (body s).state.kept = s.kept) : (s.issue x i body).kept = s.kept := by
  unfold State.issue
  extract_lets gt i' after s'
  split
  · rfl
  · split
    · simp
    · split
      · simp
      · have e' : s'.kept = s.kept := State.fetchAhead_kept s gt
        have hb : (if i'.via then s'.viaBody gt i'.writes i'.wrFlags body else body s').state.kept = s.kept := by
          rw [← e']
          split
          · exact State.viaBody_kept _ _ _ _ _ h
          · exact h s'
        split <;> (rename_i e; rw [e] at hb; simpa using hb)
@[simp ↓] theorem State.completeWait_kept (s : State) (gt : Nat) (ws : List Reg) (z : Bool) (via : Bool) :
    (State.completeWait s gt ws z via).kept = s.kept := by
  simp [State.completeWait]

@[simp ↓] theorem State.aluDone_kept (s : State) (gt : Nat) (d : Reg) (f : Bool) (r : Word) (fl : Flags) :
    (s.aluDone gt d f r fl).state.kept = s.kept := by
  simp [State.aluDone]

theorem State.waitTake_kept {s s' : State} {gt : Nat} {d : Reg} {mask : BitVec 4}
    (h : s.waitTake gt d mask = some s') : s'.kept = s.kept := by
  unfold State.waitTake at h
  simp only [] at h
  split at h
  · cases h
  · cases h; simp

theorem State.recvTake_kept {s s' : State} {gt : Nat} {d : Reg}
    (h : s.recvTake gt d = some s') : s'.kept = s.kept := by
  unfold State.recvTake at h
  simp only [] at h
  split at h
  · cases h; simp
  · cases h
@[simp ↓] theorem State.dropLate_kept (s : State) (gt : Nat) :
    (State.dropLate s gt).kept = s.kept := by
  simp [State.dropLate]
@[simp ↓] theorem State.dropLines_kept (s : State) (gt : Nat) :
    (State.dropLines s gt).kept = s.kept := by
  simp [State.dropLines]
@[simp ↓] theorem State.slotCommit_kept (s : State) (n : Nat) :
    (State.slotCommit s n).kept = s.kept := by
  simp [State.slotCommit]
@[simp ↓] theorem State.slotCommitBy_kept (s : State) (who : Agent) (n : Nat) :
    (State.slotCommitBy s who n).kept = s.kept := by
  simp [State.slotCommitBy]
@[simp ↓] theorem State.slotApply_kept (s : State) (n : Nat) :
    (State.slotApply s n).kept = s.kept := by
  simp [State.slotApply]
@[simp ↓] theorem State.threadCommand_kept (s : State) (who : Agent) (gt : Nat) (cmd : Word) (f : State → State) (hf : ∀ s, (f s).kept = s.kept) :
    (State.threadCommand s who gt cmd f).kept = s.kept := by
  unfold State.threadCommand
  (repeat' split) <;> simp [*]
@[simp ↓] theorem State.icacheInv_kept (s : State) (n : Nat) :
    (State.icacheInv s n).kept = s.kept := by
  simp [State.icacheInv]
@[simp ↓] theorem State.modOp_kept (s : State) (gt : Nat) (id : Nat) (f : LongOp → LongOp) :
    (State.modOp s gt id f).kept = s.kept := by
  simp [State.modOp]
@[simp ↓] theorem State.agreeFill_kept (s : State) (gt : Nat) (o : LongOp) :
    (State.agreeFill s gt o).kept = s.kept := by
  unfold State.agreeFill
  split <;> simp
@[simp ↓] theorem State.padBreak_kept (s : State) (gt : Nat) (padded : Bool) (late : Bool) (pc : Word) :
    (State.padBreak s gt padded late pc).kept = s.kept := by
  simp [State.padBreak]
@[simp ↓] theorem State.retireOp_kept (s : State) (gt : Nat) (o : LongOp) :
    (State.retireOp s gt o).kept = s.kept := by
  simp [State.retireOp]

end Sys2Proof.Machine
end

