-- ==== Sys2Proof/Laws/Issue.lean ====
section
/-!
SUPPORT. What issuing an instruction does around its operation: the beat, the next address, the boundary.
-/
set_option Elab.async false
namespace Sys2Proof.Machine

/-! ## Addresses of thread registers -/

/-- No block but a bay's names one register at two addresses. -/
theorem canon_id {a : Nat} (h : a < 0x10300000 ∨ 0x10320000 ≤ a) : canon a = a := by
  unfold canon
  split
  · omega
  · rfl

theorem canon_tReg (g : Fin 2048) {off : Nat} (h : off < 0x40) : canon (tReg g.val off) = tReg g.val off :=
  canon_id (by have := g.isLt; unfold tReg coreBase; omega)
theorem canon_tCfg (g : Fin 2048) {off : Nat} (h : off < 0x20) : canon (tCfg g.val off) = tCfg g.val off :=
  canon_id (by have := g.isLt; unfold tCfg coreBase; omega)
theorem canon_tSeg (g : Fin 2048) {i off : Nat} (hi : i < 16) (h : off < 0x10) :
    canon (tSeg g.val i off) = tSeg g.val i off :=
  canon_id (by have := g.isLt; unfold tSeg coreBase; omega)

/-! ## Frames compose -/

theorem State.sameRegsBut_refl (s : State) (as : List Nat) : s.sameRegsBut s as := fun _ _ => rfl
theorem State.sameRegsBut_trans {s t u : State} {as : List Nat} (h : s.sameRegsBut t as)
    (k : t.sameRegsBut u as) : s.sameRegsBut u as := fun a ha => (k a ha).trans (h a ha)
theorem State.sameRegsBut_mono {s t : State} {as bs : List Nat} (h : s.sameRegsBut t as)
    (k : ∀ a ∈ as, a ∈ bs) : s.sameRegsBut t bs := fun a ha => h a (fun b hb => ha b (k b hb))
theorem State.sameRegsBut_setReg (s : State) (a : Nat) (v : Word) : s.sameRegsBut (s.setReg a v) [a] :=
  fun _ hb => State.reg_setReg_other s v (hb a (by simp))
theorem State.sameRegsBut_setFld (s : State) (x : Fld) (v : Word) : s.sameRegsBut (s.setFld x v) [x.addr] :=
  State.sameRegsBut_setReg s _ _
theorem State.sameRegsBut_setBit (s : State) (x : Fld) (v : Bool) : s.sameRegsBut (s.setBit x v) [x.addr] :=
  State.sameRegsBut_setReg s _ _
theorem State.sameRegsBut_countWrap (s : State) (x : Fld) (k : Nat) :
    s.sameRegsBut (s.countWrap x k) [x.addr] := State.sameRegsBut_setReg s _ _
theorem State.sameRegsBut_countUp (s : State) (x : Fld) (k : Nat) :
    s.sameRegsBut (s.countUp x k) [x.addr] := State.sameRegsBut_setReg s _ _

/-- Only registers and threads differ. -/
def State.near (s t : State) : Prop := t = { s with regs := t.regs, threads := t.threads }

theorem State.near_refl (s : State) : s.near s := rfl
theorem State.near_trans {s t u : State} (h : s.near t) (k : t.near u) : s.near u := by
  unfold State.near at *; rw [k, h]
theorem State.near_setReg (s : State) (a : Nat) (v : Word) : s.near (s.setReg a v) := rfl
theorem State.near_setFld (s : State) (x : Fld) (v : Word) : s.near (s.setFld x v) := rfl
theorem State.near_setBit (s : State) (x : Fld) (v : Bool) : s.near (s.setBit x v) := rfl
theorem State.near_setThread (s : State) (g : Nat) (t : Thread) : s.near (s.setThread g t) := rfl

theorem State.stepped_refl (s : State) (gt : Nat) : s.stepped s gt :=
  ⟨rfl, fun _ _ => rfl, fun _ _ => rfl⟩
theorem State.stepped_trans {s t u : State} {gt : Nat} (h : s.stepped t gt) (k : t.stepped u gt) :
    s.stepped u gt :=
  ⟨State.near_trans h.1 k.1, fun g hg => (k.2.1 g hg).trans (h.2.1 g hg), State.sameRegsBut_trans h.2.2 k.2.2⟩
theorem State.stepped_setThread (s : State) (gt : Nat) (t : Thread) : s.stepped (s.setThread gt t) gt :=
  ⟨rfl, fun _ hg => State.thread_setThread_other s t hg, fun _ _ => rfl⟩
theorem State.stepped_modThread (s : State) (gt : Nat) (f : Thread → Thread) : s.stepped (s.modThread gt f) gt :=
  State.stepped_setThread s gt _
theorem State.stepped_setFld (s : State) (gt : Nat) (x : Fld) (v : Word)
    (hx : x.addr ∈ [tReg gt 0x04, tReg gt 0x24, tReg gt 0x2C]) : s.stepped (s.setFld x v) gt :=
  ⟨rfl, fun _ _ => rfl, State.sameRegsBut_mono (State.sameRegsBut_setFld s x v) (by simpa using hx)⟩
theorem State.stepped_setBit (s : State) (gt : Nat) (x : Fld) (v : Bool)
    (hx : x.addr ∈ [tReg gt 0x04, tReg gt 0x24, tReg gt 0x2C]) : s.stepped (s.setBit x v) gt :=
  State.stepped_setFld s gt x _ hx
theorem State.stepped_countWrap (s : State) (gt : Nat) (x : Fld) (k : Nat)
    (hx : x.addr ∈ [tReg gt 0x04, tReg gt 0x24, tReg gt 0x2C]) : s.stepped (s.countWrap x k) gt :=
  State.stepped_setFld s gt x _ hx
theorem State.stepped_countUp (s : State) (gt : Nat) (x : Fld) (k : Nat)
    (hx : x.addr ∈ [tReg gt 0x04, tReg gt 0x24, tReg gt 0x2C]) : s.stepped (s.countUp x k) gt :=
  State.stepped_setFld s gt x _ hx

/-- The contents of bank memory depend on the cells and the fills alone. -/
theorem State.byte_congr {s t : State} (h : t.kept = s.kept) (a : Nat) : t.byte a = s.byte a := by
  have h1 : t.mem = s.mem := congrArg (fun k => k.1) h
  have h2 : t.bankFill = s.bankFill := congrArg (fun k => k.2.1) h
  simp only [State.byte, h1, h2]
theorem State.sameMem_of_near {s t : State} (h : s.near t) : s.sameMem t := by
  intro a; unfold State.near at h; rw [h]; rfl

/-! ## What the boundary changes of a thread -/

/-- What an instruction leaves of its thread beside its own effect and the next addresses: everything a
program sees. -/
structure Thread.Same (u v : Thread) : Prop where
  g : v.g = u.g
  fn : v.fn = u.fn
  fz : v.fz = u.fz
  fc : v.fc = u.fc
  fv : v.fv = u.fv
  line : v.lineBuf = u.lineBuf
  stop : v.stopReq = u.stopReq
  rest : u.sameRest v

theorem Thread.Same.refl (u : Thread) : Thread.Same u u :=
  ⟨rfl, rfl, rfl, rfl, rfl, rfl, rfl, rfl, rfl, rfl, rfl, rfl, rfl, rfl, rfl, rfl⟩
theorem Thread.sameRest_trans {u v w : Thread} (h : u.sameRest v) (k : v.sameRest w) : u.sameRest w := by
  obtain ⟨a1, a2, a3, a4, a5, a6, a7, a8, a9⟩ := h
  obtain ⟨b1, b2, b3, b4, b5, b6, b7, b8, b9⟩ := k
  exact ⟨b1.trans a1, b2.trans a2, b3.trans a3, b4.trans a4, b5.trans a5, b6.trans a6, b7.trans a7,
    b8.trans a8, b9.trans a9⟩
theorem Thread.Same.trans {u v w : Thread} (h : Thread.Same u v) (k : Thread.Same v w) : Thread.Same u w :=
  ⟨k.g.trans h.g, k.fn.trans h.fn, k.fz.trans h.fz, k.fc.trans h.fc, k.fv.trans h.fv,
    k.line.trans h.line, k.stop.trans h.stop, Thread.sameRest_trans h.rest k.rest⟩
theorem Thread.Same.isShadow {u v : Thread} (h : Thread.Same u v) : v.isShadow = u.isShadow := by
  have := h.rest.2.2.2.2.2.2.2.2
  simp only [Thread.isShadow, this]
theorem Thread.Same.rd {u v : Thread} (h : Thread.Same u v) (r : Reg) : v.rd r = u.rd r := by
  simp only [Thread.rd, h.isShadow, h.g]
theorem Thread.Same.flags {u v : Thread} (h : Thread.Same u v) : v.flags = u.flags := by
  simp only [Thread.flags, h.isShadow, h.fn, h.fz, h.fc, h.fv]

/-- The thread keeps what a program sees, and its next addresses. -/
structure Thread.Still (u v : Thread) : Prop extends Thread.Same u v where
  pc : v.pc = u.pc
  npc : v.npc = u.npc
  inDelay : v.inDelay = u.inDelay
  loops : v.lp0 = u.lp0 ∧ v.lp1 = u.lp1 ∧ v.lp2 = u.lp2

theorem Thread.Still.refl (u : Thread) : Thread.Still u u := ⟨Thread.Same.refl u, rfl, rfl, rfl, rfl, rfl, rfl⟩
theorem Thread.Still.trans {u v w : Thread} (h : Thread.Still u v) (k : Thread.Still v w) : Thread.Still u w :=
  ⟨h.toSame.trans k.toSame, k.pc.trans h.pc, k.npc.trans h.npc, k.inDelay.trans h.inDelay,
    k.loops.1.trans h.loops.1, k.loops.2.1.trans h.loops.2.1, k.loops.2.2.trans h.loops.2.2⟩

/-- An operation steps a thread in place: it changes no more than `stepped` allows, and of the thread
nothing a program sees. -/
def State.Quiet (s t : State) (gt : Nat) : Prop :=
  s.stepped t gt ∧ Thread.Still (s.thread gt) (t.thread gt) ∧
  (gt < 2048 → t.bit (fInHandler gt) = s.bit (fInHandler gt))

theorem State.Quiet.refl (s : State) (gt : Nat) : s.Quiet s gt :=
  ⟨State.stepped_refl s gt, Thread.Still.refl _, fun _ => rfl⟩
theorem State.Quiet.trans {s t u : State} {gt : Nat} (h : s.Quiet t gt) (k : t.Quiet u gt) : s.Quiet u gt :=
  ⟨State.stepped_trans h.1 k.1, h.2.1.trans k.2.1, fun b => (k.2.2 b).trans (h.2.2 b)⟩
theorem State.Quiet.setFld (s : State) (gt : Nat) (x : Fld) (v : Word)
    (hx : x.addr ∈ [tReg gt 0x04, tReg gt 0x24, tReg gt 0x2C])
    (hb : x.hi < 3 ∨ 3 < x.lo ∨ x.addr ≠ tReg gt 0x04 := by simp [fState, fPriorWait, fHaltCause, fBeats, fPairSplit, tReg]) :
    s.Quiet (s.setFld x v) gt := by
  refine ⟨State.stepped_setFld s gt x v hx, Thread.Still.refl _, fun hg => ?_⟩
  by_cases ha : x.addr = tReg gt 0x04
  · exact State.bit_setFld_bits s v (x := x) (y := fInHandler gt) ha.symm (by
      have : x.hi < 3 ∨ 3 < x.lo := by tauto
      exact this.symm)
  · refine State.bit_setFld_addr s v (x := x) (y := fInHandler gt) ?_
    have hc (off : Nat) (ho : off < 0x40) : canon (tReg gt off) = tReg gt off := canon_tReg ⟨gt, hg⟩ ho
    have hx' : x.addr = tReg gt 0x24 ∨ x.addr = tReg gt 0x2C := by simpa [ha] using hx
    show canon (tReg gt 0x04) ≠ _
    rw [hc 4 (by omega)]
    rcases hx' with h | h <;> rw [h, hc _ (by omega)] <;> (unfold tReg; omega)
theorem State.Quiet.setThread (s : State) (gt : Nat) (t : Thread) (h : Thread.Still (s.thread gt) t) :
    s.Quiet (s.setThread gt t) gt := ⟨State.stepped_setThread s gt t, by simpa using h, fun _ => rfl⟩

theorem State.raise_quiet (s : State) (gt : Nat) (r : FaultRec) : s.Quiet (s.raise gt r) gt := by
  unfold State.raise
  simp only []
  have h1 : s.Quiet (s.setThread gt { s.thread gt with
      raised := some { r with pc := (s.thread gt).pc, npc := (s.thread gt).successor, inDelay := (s.thread gt).inDelay },
      waiting := none, pairOpen := none, held := false, noEntry := false }) gt :=
    State.Quiet.setThread _ _ _ ⟨⟨rfl, rfl, rfl, rfl, rfl, rfl, rfl, rfl, rfl, rfl, rfl, rfl, rfl, rfl, rfl, rfl⟩, rfl, rfl, rfl, rfl, rfl, rfl⟩
  split
  · exact h1.trans (State.Quiet.setFld _ _ _ _ (by simp [fState]))
  · exact h1

theorem State.freezeNow_quiet (s : State) (gt : Nat) : s.Quiet (s.freezeNow gt) gt := by
  unfold State.freezeNow
  simp only []
  refine State.Quiet.trans ?_ (State.Quiet.setFld _ _ _ _ (by simp [fState]))
  refine State.Quiet.trans ?_ (State.Quiet.setFld _ _ _ _ (by simp [fPriorWait]))
  refine State.Quiet.trans ?_ (State.Quiet.setFld _ _ _ _ (by simp [fHaltCause]))
  exact State.Quiet.setThread _ _ _ ⟨⟨rfl, rfl, rfl, rfl, rfl, rfl, rfl, rfl, rfl, rfl, rfl, rfl, rfl, rfl, rfl, rfl⟩, rfl, rfl, rfl, rfl, rfl, rfl⟩

theorem State.haltNow_quiet (s : State) (gt : Nat) (d : Bool) : s.Quiet (s.haltNow gt d) gt := by
  unfold State.haltNow
  simp only []
  refine State.Quiet.trans ?_ (State.Quiet.setFld _ _ _ _ (by simp [fPriorWait]))
  refine State.Quiet.trans ?_ (State.Quiet.setFld _ _ _ _ (by simp [fHaltCause]))
  refine State.Quiet.trans ?_ (State.Quiet.setFld _ _ _ _ (by simp [fState]))
  exact State.Quiet.setThread _ _ _ ⟨⟨rfl, rfl, rfl, rfl, rfl, rfl, rfl, rfl, rfl, rfl, rfl, rfl, rfl, rfl, rfl, rfl⟩, rfl, rfl, rfl, rfl, rfl, rfl⟩

/-- What falls due at a boundary with no STOP awaited. -/
theorem State.atBoundary_quiet (s : State) (gt : Nat) (hstop : (s.thread gt).stopReq = false) :
    s.Quiet (s.atBoundary gt) gt := by
  unfold State.atBoundary
  simp only []
  have hs (u : Thread) (h : Thread.Still (s.thread gt) u) (r : FaultRec) :
      s.Quiet ((s.setThread gt u).raise gt r) gt :=
    (State.Quiet.setThread s gt u h).trans (State.raise_quiet _ _ _)
  split
  · split
    · exact State.freezeNow_quiet _ _
    · exact State.Quiet.refl _ _
  · split
    · exact State.Quiet.refl _ _
    · rw [if_neg (by simp [hstop])]
      split
      · exact State.Quiet.refl _ _
      · split
        · exact State.raise_quiet _ _ _
        · split
          · exact hs { s.thread gt with late := [] } ⟨⟨rfl, rfl, rfl, rfl, rfl, rfl, rfl, rfl, rfl, rfl, rfl, rfl, rfl, rfl, rfl, rfl⟩, rfl, rfl, rfl, rfl, rfl, rfl⟩ _
          · split
            · exact hs { s.thread gt with broke := none } ⟨⟨rfl, rfl, rfl, rfl, rfl, rfl, rfl, rfl, rfl, rfl, rfl, rfl, rfl, rfl, rfl, rfl⟩, rfl, rfl, rfl, rfl, rfl, rfl⟩ _
            · split
              · exact State.freezeNow_quiet _ _
              · split
                · split
                  · exact State.haltNow_quiet _ _ _
                  · exact State.Quiet.refl _ _
                · exact State.Quiet.refl _ _

theorem State.stepDue_quiet (s : State) (gt : Nat) : s.Quiet (s.stepDue gt) gt := by
  unfold State.stepDue
  simp only []
  split
  · exact State.Quiet.setThread _ _ _ ⟨⟨rfl, rfl, rfl, rfl, rfl, rfl, rfl, rfl, rfl, rfl, rfl, rfl, rfl, rfl, rfl, rfl⟩, rfl, rfl, rfl, rfl, rfl, rfl⟩
  · exact State.Quiet.refl _ _

theorem State.countWindow_quiet (s : State) (gt : Nat) : s.Quiet (s.countWindow gt) gt := by
  unfold State.countWindow
  split
  · exact State.Quiet.setThread _ _ _ ⟨⟨rfl, rfl, rfl, rfl, rfl, rfl, rfl, rfl, rfl, rfl, rfl, rfl, rfl, rfl, rfl, rfl⟩, rfl, rfl, rfl, rfl, rfl, rfl⟩
  · exact State.Quiet.refl _ _

/-- No write of the thread's own falls due. -/
def Thread.noneDue (t : Thread) : Prop := ∀ p ∈ t.delayed, p.1 ≠ 0

theorem State.tickDelayed_quiet (s : State) (gt : Nat) (h : (s.thread gt).noneDue) :
    s.Quiet (s.tickDelayed gt) gt := by
  unfold State.tickDelayed
  have hd : (s.thread gt).delayed.filter (fun p => p.1 = 0) = [] := by
    rw [List.filter_eq_nil_iff]
    intro p hp
    simpa using h p hp
  simp only [hd, List.foldl_nil]
  exact State.Quiet.setThread _ _ _ ⟨⟨rfl, rfl, rfl, rfl, rfl, rfl, rfl, rfl, rfl, rfl, rfl, rfl, rfl, rfl, rfl, rfl⟩, rfl, rfl, rfl, rfl, rfl, rfl⟩

theorem State.beat_quiet (s : State) (gt : Nat) (after : Option PairInfo) : s.Quiet (s.beat gt after) gt := by
  have h1 (t : State) : t.Quiet (t.countWrap (fBeats gt)) gt := State.Quiet.setFld _ _ _ _ (by simp [fBeats])
  have h2 : s.Quiet (s.countUp (fPairSplit gt)) gt := State.Quiet.setFld _ _ _ _ (by simp [fPairSplit])
  unfold State.beat
  split
  · exact State.Quiet.refl _ _
  · exact h1 s
  · split
    · exact h2.trans (h1 _)
    · exact h1 s

theorem State.countWindow_delayed (s : State) (gt : Nat) :
    ((s.countWindow gt).thread gt).delayed = (s.thread gt).delayed := by
  unfold State.countWindow
  split <;> simp

theorem State.beat_thread (s : State) (gt g : Nat) (after : Option PairInfo) :
    (s.beat gt after).thread g = s.thread g := by
  unfold State.beat
  (repeat' split) <;> simp

theorem State.heldBreak_quiet (s : State) (gt : Nat) : s.Quiet (s.heldBreak gt) gt ∧
    ((s.heldBreak gt).thread gt).delayed = (s.thread gt).delayed := by
  unfold State.heldBreak
  simp only []
  split
  · exact ⟨State.Quiet.setThread _ _ _ ⟨⟨rfl, rfl, rfl, rfl, rfl, rfl, rfl, rfl, rfl, rfl, rfl, rfl, rfl, rfl, rfl, rfl⟩, rfl, rfl, rfl, rfl, rfl, rfl⟩, by simp⟩
  · exact ⟨State.Quiet.refl _ _, rfl⟩

/-- A record of a twin member changes the signature alone. -/
theorem Thread.sigByte_still (t : Thread) (b : Byte) : Thread.Still t (t.sigByte b) :=
  ⟨⟨rfl, rfl, rfl, rfl, rfl, rfl, rfl, rfl, rfl, rfl, rfl, rfl, rfl, rfl, rfl, rfl⟩, rfl, rfl, rfl, rfl, rfl, rfl⟩
theorem Thread.record_still (t : Thread) (bs : List Byte) : Thread.Still t (t.record bs) := by
  unfold Thread.record
  split
  · induction bs generalizing t with
    | nil => exact Thread.Still.refl _
    | cons b r ih =>
      rename_i h
      exact (Thread.sigByte_still t b).trans (ih (t.sigByte b) h)
  · exact Thread.Still.refl _
theorem Thread.sigByte_delayed (t : Thread) (b : Byte) : (t.sigByte b).delayed = t.delayed := rfl
theorem Thread.record_delayed (t : Thread) (bs : List Byte) : (t.record bs).delayed = t.delayed := by
  unfold Thread.record
  split
  · induction bs generalizing t with
    | nil => rfl
    | cons b r ih =>
      rename_i h
      exact ih (t.sigByte b) h
  · rfl

/-! ## The next addresses -/

theorem Thread.setLoop_same (t : Thread) (k : Nat) (l : Loop) : Thread.Same t (t.setLoop k l) := by
  unfold Thread.setLoop
  (repeat' split) <;> exact ⟨rfl, rfl, rfl, rfl, rfl, rfl, rfl, rfl, rfl, rfl, rfl, rfl, rfl, rfl, rfl, rfl⟩
theorem Thread.setLoop_delayed (t : Thread) (k : Nat) (l : Loop) : (t.setLoop k l).delayed = t.delayed := by
  unfold Thread.setLoop
  (repeat' split) <;> rfl

theorem Thread.loopBack_same (t : Thread) (pc : Word) (ks : List Nat) :
    Thread.Same t (t.loopBack pc ks).1 ∧ (t.loopBack pc ks).1.delayed = t.delayed := by
  induction ks generalizing t with
  | nil => exact ⟨Thread.Same.refl _, rfl⟩
  | cons k r ih =>
    unfold Thread.loopBack
    simp only []
    split
    · split
      · exact ⟨Thread.setLoop_same _ _ _, Thread.setLoop_delayed _ _ _⟩
      · have h := ih (t.setLoop k { t.loop k with count := 0, active := false })
        have h2 : Thread.Same t _ := (Thread.setLoop_same t k { t.loop k with count := 0, active := false }).trans h.1
        have h3 := h.2.trans (Thread.setLoop_delayed t k { t.loop k with count := 0, active := false })
        split <;> (rename_i e; rw [e] at h2 h3; exact ⟨h2, h3⟩)
    · exact ih t

theorem Thread.Same.ofAddr (t : Thread) (p n : Word) (d : Bool) :
    Thread.Same t { t with pc := p, npc := n, inDelay := d } :=
  ⟨rfl, rfl, rfl, rfl, rfl, rfl, rfl, rfl, rfl, rfl, rfl, rfl, rfl, rfl, rfl, rfl⟩

theorem Thread.advance_same (t : Thread) (nx : Next) : Thread.Same t (t.advance nx) := by
  cases nx with
  | seq =>
    unfold Thread.advance
    simp only []
    split
    · exact Thread.Same.ofAddr _ _ _ _
    · have h := Thread.loopBack_same t t.pc [2, 1, 0]
      split
      · rename_i e
        rw [e] at h
        have h1 := h.1
        split
        · exact h1.trans ⟨rfl, rfl, rfl, rfl, rfl, rfl, rfl, rfl, rfl, rfl, rfl, rfl, rfl, rfl, rfl, rfl⟩
        · exact (h1.trans (Thread.record_still _ _).toSame).trans ⟨rfl, rfl, rfl, rfl, rfl, rfl, rfl, rfl, rfl, rfl, rfl, rfl, rfl, rfl, rfl, rfl⟩
      · exact ⟨rfl, rfl, rfl, rfl, rfl, rfl, rfl, rfl, rfl, rfl, rfl, rfl, rfl, rfl, rfl, rfl⟩
  | delay target taken =>
    unfold Thread.advance
    simp only []
    refine Thread.Same.trans ?_ (Thread.Same.ofAddr _ _ _ _)
    split
    · exact (Thread.record_still _ _).toSame
    · exact Thread.Same.refl _
  | goto p n d taken =>
    unfold Thread.advance
    simp only []
    refine Thread.Same.trans ?_ (Thread.Same.ofAddr _ _ _ _)
    split
    · exact (Thread.record_still _ _).toSame
    · exact Thread.Same.refl _

theorem Thread.advance_delayed (t : Thread) (nx : Next) : (t.advance nx).delayed = t.delayed := by
  cases nx with
  | seq =>
    unfold Thread.advance
    simp only []
    split
    · rfl
    · have h := (Thread.loopBack_same t t.pc [2, 1, 0]).2
      split
      · rename_i e
        rw [e] at h
        split
        · exact h
        · exact (Thread.record_delayed _ _).trans h
      · rfl
  | delay target taken =>
    unfold Thread.advance
    simp only []
    split
    · exact Thread.record_delayed _ _
    · rfl
  | goto p n d taken =>
    unfold Thread.advance
    simp only []
    split
    · exact Thread.record_delayed _ _
    · rfl

theorem Thread.sameLoops_loop {u v : Thread} (h : u.sameLoops v) (k : Nat) : v.loop k = u.loop k := by
  obtain ⟨a, b, c⟩ := h
  unfold Thread.loop
  (repeat' split) <;> assumption
theorem Thread.sameLoops_setLoop {u v : Thread} (h : u.sameLoops v) (k : Nat) (l : Loop) :
    (u.setLoop k l).sameLoops (v.setLoop k l) := by
  obtain ⟨a, b, c⟩ := h
  unfold Thread.setLoop
  (repeat' split)
  · exact ⟨rfl, b, c⟩
  · exact ⟨a, rfl, c⟩
  · exact ⟨a, b, rfl⟩

/-- A loop-back's next address depends on the loops and the address alone. -/
theorem Thread.loopBack_congr {u v : Thread} (h : u.sameLoops v) (pc : Word) (ks : List Nat) :
    (v.loopBack pc ks).2 = (u.loopBack pc ks).2 := by
  induction ks generalizing u v with
  | nil => rfl
  | cons k r ih =>
    unfold Thread.loopBack
    simp only [Thread.sameLoops_loop h k]
    split
    · split
      · rfl
      · have := ih (Thread.sameLoops_setLoop h k { u.loop k with count := 0, active := false })
        cases e : (u.setLoop k { u.loop k with count := 0, active := false }).loopBack pc r with
        | mk u' o =>
          cases e2 : (v.setLoop k { u.loop k with count := 0, active := false }).loopBack pc r with
          | mk v' o2 =>
            rw [e, e2] at this
            cases o <;> cases o2 <;> simp_all
    · exact ih h

theorem Thread.successor_congr {u v : Thread} (h : v.pc = u.pc ∧ v.npc = u.npc ∧ v.inDelay = u.inDelay)
    (l0 : v.lp0 = u.lp0) (l1 : v.lp1 = u.lp1) (l2 : v.lp2 = u.lp2) : v.successor = u.successor := by
  unfold Thread.successor
  rw [h.1, h.2.1, h.2.2, Thread.loopBack_congr (u := u) ⟨l0, l1, l2⟩]

theorem Thread.setLoop_inDelay (t : Thread) (k : Nat) (l : Loop) : (t.setLoop k l).inDelay = t.inDelay := by
  unfold Thread.setLoop
  (repeat' split) <;> rfl
theorem Thread.loopBack_inDelay (t : Thread) (pc : Word) (ks : List Nat) :
    (t.loopBack pc ks).1.inDelay = t.inDelay := by
  induction ks generalizing t with
  | nil => rfl
  | cons k r ih =>
    unfold Thread.loopBack
    simp only []
    split
    · split
      · exact Thread.setLoop_inDelay _ _ _
      · have h := (ih (t.setLoop k { t.loop k with count := 0, active := false })).trans (Thread.setLoop_inDelay _ _ _)
        split <;> (rename_i e; rw [e] at h; exact h)
    · exact ih t

/-- With no loop ending at the instruction, none changes. -/
theorem Thread.loopBack_none (t : Thread) (pc : Word) (ks : List Nat) (h : (t.loopBack pc ks).2 = none) :
    (t.loopBack pc ks).1 = t := by
  induction ks generalizing t with
  | nil => rfl
  | cons k r ih =>
    unfold Thread.loopBack at h ⊢
    simp only [] at h ⊢
    split
    · rename_i c
      rw [if_pos c] at h
      split
      · rename_i c2
        rw [if_pos c2] at h
        cases h
      · rename_i c2
        rw [if_neg c2] at h
        split at h <;> simp at h
    · rename_i c
      rw [if_neg c] at h
      exact ih t h

/-- An instruction that is no transfer goes on at the successor. -/
theorem Thread.advance_seq (t : Thread) : t.wentOn (t.advance .seq) := by
  unfold Thread.advance Thread.wentOn Thread.successor Thread.loopsAfter
  simp only []
  by_cases h : t.inDelay = true
  · simp [h, Thread.sameLoops]
  · have hd := Thread.loopBack_inDelay t t.pc [2, 1, 0]
    have hn := Thread.loopBack_none t t.pc [2, 1, 0]
    simp only [h]
    cases e : t.loopBack t.pc [2, 1, 0] with
    | mk t' o =>
      rw [e] at hd hn
      have hf : t.inDelay = false := by simpa using h
      cases o with
      | none => have := hn rfl; simp at this; simp [Thread.sameLoops, this]
      | some a =>
        simp only [Bool.false_eq_true, if_false, true_and]
        split
        · exact ⟨hd.trans hf, rfl, rfl, rfl⟩
        · have hs := Thread.record_still t' (recTransfer a)
          exact ⟨hs.inDelay.trans (hd.trans hf), hs.loops⟩

theorem Thread.setLoop_sameLoops_loopBack {u v : Thread} (h : u.sameLoops v) (pc : Word) (ks : List Nat) :
    (u.loopBack pc ks).1.sameLoops (v.loopBack pc ks).1 := by
  induction ks generalizing u v with
  | nil => exact h
  | cons k r ih =>
    unfold Thread.loopBack
    simp only [Thread.sameLoops_loop h k]
    split
    · split
      · exact Thread.sameLoops_setLoop h _ _
      · have h1 := ih (Thread.sameLoops_setLoop h k { u.loop k with count := 0, active := false })
        revert h1
        cases (u.setLoop k { u.loop k with count := 0, active := false }).loopBack pc r with
        | mk u' o =>
          cases (v.setLoop k { u.loop k with count := 0, active := false }).loopBack pc r with
          | mk v' o2 => intro h1; cases o <;> cases o2 <;> exact h1
    · exact ih h

theorem Thread.loopsAfter_congr {u v : Thread} (h : u.sameLoops v) (hp : v.pc = u.pc)
    (hd : v.inDelay = u.inDelay) : u.loopsAfter.sameLoops v.loopsAfter := by
  unfold Thread.loopsAfter
  rw [hp, hd]
  split
  · exact h
  · exact Thread.setLoop_sameLoops_loopBack h _ _

theorem Thread.sameLoops_trans {u v w : Thread} (h : u.sameLoops v) (k : v.sameLoops w) : u.sameLoops w :=
  ⟨k.1.trans h.1, k.2.1.trans h.2.1, k.2.2.trans h.2.2⟩

theorem Thread.advance_delay (t : Thread) (a : Word) (k : Bool) :
    (t.advance (.delay a k)).pc = t.npc ∧ (t.advance (.delay a k)).npc = a ∧
    (t.advance (.delay a k)).inDelay = true := by
  unfold Thread.advance
  simp only []
  split
  · have := (Thread.record_still t (recTransfer a)).npc
    exact ⟨this, trivial, trivial⟩
  · exact ⟨rfl, trivial, trivial⟩

theorem Thread.advance_goto (t : Thread) (a b : Word) (d k : Bool) :
    (t.advance (.goto a b d k)).pc = a ∧ (t.advance (.goto a b d k)).npc = b ∧
    (t.advance (.goto a b d k)).inDelay = d := by
  unfold Thread.advance
  exact ⟨rfl, rfl, rfl⟩

/-- The loops after a transfer are those before. -/
theorem Thread.advance_delay_loops (t : Thread) (a : Word) (k : Bool) :
    (t.advance (.delay a k)).lp0 = t.lp0 ∧ (t.advance (.delay a k)).lp1 = t.lp1 ∧
    (t.advance (.delay a k)).lp2 = t.lp2 := by
  unfold Thread.advance
  simp only []
  split
  · exact (Thread.record_still t (recTransfer a)).loops
  · exact ⟨rfl, rfl, rfl⟩
theorem Thread.advance_goto_loops (t : Thread) (a b : Word) (d k : Bool) :
    (t.advance (.goto a b d k)).lp0 = t.lp0 ∧ (t.advance (.goto a b d k)).lp1 = t.lp1 ∧
    (t.advance (.goto a b d k)).lp2 = t.lp2 := by
  unfold Thread.advance
  simp only []
  split
  · exact (Thread.record_still t (recTransfer a)).loops
  · exact ⟨rfl, rfl, rfl⟩

/-! ## The line buffer -/

/-- Issuing changes a thread's line buffer, and the line that is to come into it, and nothing else (R80). -/
theorem State.fetchAhead_thread (s : State) (gt : Nat) : ∃ ls ah,
    (s.fetchAhead gt).thread gt = { s.thread gt with lineBuf := ls, ahead := ah } := by
  unfold State.fetchAhead
  split
  · exact ⟨_, _, rfl⟩
  · split
    · exact ⟨_, _, rfl⟩
    · simp only [State.thread_modThread_same]
      unfold Thread.useLine
      (repeat' split) <;> exact ⟨_, _, rfl⟩

/-- Of the state it changes that thread alone. -/
theorem State.fetchAhead_stepped (s : State) (gt : Nat) : s.stepped (s.fetchAhead gt) gt := by
  unfold State.fetchAhead
  (repeat' split) <;> first | exact State.stepped_refl _ _ | exact State.stepped_modThread _ _ _

@[simp] theorem State.fetchAhead_regs (s : State) (gt : Nat) : (s.fetchAhead gt).regs = s.regs := by
  unfold State.fetchAhead
  (repeat' split) <;> simp
@[simp] theorem State.fetchAhead_reg (s : State) (gt a : Nat) : (s.fetchAhead gt).reg a = s.reg a := by
  simp [State.reg]
@[simp] theorem State.fetchAhead_fld (s : State) (gt : Nat) (x : Fld) : (s.fetchAhead gt).fld x = s.fld x := by
  simp [State.fld]
@[simp] theorem State.fetchAhead_bit (s : State) (gt : Nat) (x : Fld) : (s.fetchAhead gt).bit x = s.bit x := by
  simp [State.bit]

section
variable (s : State) (gt : Nat)
@[simp] theorem State.fetchAhead_rd (r : Reg) : ((s.fetchAhead gt).thread gt).rd r = (s.thread gt).rd r := by
  obtain ⟨_, _, h⟩ := State.fetchAhead_thread s gt; rw [h]; rfl
@[simp] theorem State.fetchAhead_rdPair (r : Reg) :
    ((s.fetchAhead gt).thread gt).rdPair r = (s.thread gt).rdPair r := by simp [Thread.rdPair]
@[simp] theorem State.fetchAhead_flags : ((s.fetchAhead gt).thread gt).flags = (s.thread gt).flags := by
  obtain ⟨_, _, h⟩ := State.fetchAhead_thread s gt; rw [h]; rfl
@[simp] theorem State.fetchAhead_isShadow : ((s.fetchAhead gt).thread gt).isShadow = (s.thread gt).isShadow := by
  obtain ⟨_, _, h⟩ := State.fetchAhead_thread s gt; rw [h]; rfl
@[simp] theorem State.fetchAhead_pc : ((s.fetchAhead gt).thread gt).pc = (s.thread gt).pc := by
  obtain ⟨_, _, h⟩ := State.fetchAhead_thread s gt; rw [h]
@[simp] theorem State.fetchAhead_npc : ((s.fetchAhead gt).thread gt).npc = (s.thread gt).npc := by
  obtain ⟨_, _, h⟩ := State.fetchAhead_thread s gt; rw [h]
@[simp] theorem State.fetchAhead_inDelay : ((s.fetchAhead gt).thread gt).inDelay = (s.thread gt).inDelay := by
  obtain ⟨_, _, h⟩ := State.fetchAhead_thread s gt; rw [h]
@[simp] theorem State.fetchAhead_rs : ((s.fetchAhead gt).thread gt).rs = (s.thread gt).rs := by
  obtain ⟨_, _, h⟩ := State.fetchAhead_thread s gt; rw [h]
@[simp] theorem State.fetchAhead_loop (k : Nat) : ((s.fetchAhead gt).thread gt).loop k = (s.thread gt).loop k := by
  obtain ⟨_, _, h⟩ := State.fetchAhead_thread s gt; rw [h]; rfl
@[simp] theorem State.fetchAhead_successor :
    ((s.fetchAhead gt).thread gt).successor = (s.thread gt).successor := by
  obtain ⟨_, _, h⟩ := State.fetchAhead_thread s gt
  exact Thread.successor_congr ⟨by rw [h], by rw [h], by rw [h]⟩ (by rw [h]) (by rw [h]) (by rw [h])
@[simp] theorem State.fetchAhead_ops : ((s.fetchAhead gt).thread gt).ops = (s.thread gt).ops := by
  obtain ⟨_, _, h⟩ := State.fetchAhead_thread s gt; rw [h]
@[simp] theorem State.fetchAhead_stores : ((s.fetchAhead gt).thread gt).stores = (s.thread gt).stores := by
  obtain ⟨_, _, h⟩ := State.fetchAhead_thread s gt; rw [h]
@[simp] theorem State.fetchAhead_late : ((s.fetchAhead gt).thread gt).late = (s.thread gt).late := by
  obtain ⟨_, _, h⟩ := State.fetchAhead_thread s gt; rw [h]
@[simp] theorem State.fetchAhead_inbox : ((s.fetchAhead gt).thread gt).inbox = (s.thread gt).inbox := by
  obtain ⟨_, _, h⟩ := State.fetchAhead_thread s gt; rw [h]
@[simp] theorem State.fetchAhead_delayed : ((s.fetchAhead gt).thread gt).delayed = (s.thread gt).delayed := by
  obtain ⟨_, _, h⟩ := State.fetchAhead_thread s gt; rw [h]
@[simp] theorem State.fetchAhead_stopReq : ((s.fetchAhead gt).thread gt).stopReq = (s.thread gt).stopReq := by
  obtain ⟨_, _, h⟩ := State.fetchAhead_thread s gt; rw [h]
@[simp] theorem State.fetchAhead_twin : ((s.fetchAhead gt).thread gt).twin = (s.thread gt).twin := by
  obtain ⟨_, _, h⟩ := State.fetchAhead_thread s gt; rw [h]
theorem State.fetchAhead_sameRest : (s.thread gt).sameRest ((s.fetchAhead gt).thread gt) := by
  obtain ⟨_, _, h⟩ := State.fetchAhead_thread s gt; rw [h]
  exact ⟨rfl, rfl, rfl, rfl, rfl, rfl, rfl, rfl, rfl⟩
theorem State.fetchAhead_sameLoops : (s.thread gt).sameLoops ((s.fetchAhead gt).thread gt) := by
  obtain ⟨_, _, h⟩ := State.fetchAhead_thread s gt; rw [h]
  exact ⟨rfl, rfl, rfl⟩
end

/-! ## Completion -/

/-- The next addresses depend on what a program sees of the thread alone. -/
theorem Thread.advance_still {u v : Thread} (h : Thread.Still u v) (nx : Next) :
    Thread.Still (u.advance nx) (v.advance nx) := by
  have hu := Thread.advance_same u nx
  have hv := h.toSame.trans (Thread.advance_same v nx)
  have hs : Thread.Same (u.advance nx) (v.advance nx) := by
    obtain ⟨a1, a2, a3, a4, a5, a6, a7, b1, b2, b3, b4, b5, b6, b7, b8, b9⟩ := hu
    obtain ⟨c1, c2, c3, c4, c5, c6, c7, d1, d2, d3, d4, d5, d6, d7, d8, d9⟩ := hv
    exact ⟨c1.trans a1.symm, c2.trans a2.symm, c3.trans a3.symm, c4.trans a4.symm, c5.trans a5.symm,
      c6.trans a6.symm, c7.trans a7.symm, d1.trans b1.symm, d2.trans b2.symm, d3.trans b3.symm, d4.trans b4.symm,
      d5.trans b5.symm, d6.trans b6.symm, d7.trans b7.symm, d8.trans b8.symm, d9.trans b9.symm⟩
  have hl := h.loops
  cases nx with
  | seq =>
    have eu := Thread.advance_seq u
    have ev := Thread.advance_seq v
    have es := Thread.successor_congr ⟨h.pc, h.npc, h.inDelay⟩ hl.1 hl.2.1 hl.2.2
    have el := Thread.loopsAfter_congr hl h.pc h.inDelay
    refine ⟨hs, ?_, ?_, ev.2.2.1.trans eu.2.2.1.symm, ?_⟩
    · rw [ev.1, eu.1, es]
    · rw [ev.2.1, eu.2.1, es]
    · have k := Thread.sameLoops_trans el ev.2.2.2
      exact ⟨k.1.trans eu.2.2.2.1.symm, k.2.1.trans eu.2.2.2.2.1.symm, k.2.2.trans eu.2.2.2.2.2.symm⟩
  | delay a k =>
    have eu := Thread.advance_delay u a k
    have ev := Thread.advance_delay v a k
    have lu := Thread.advance_delay_loops u a k
    have lv := Thread.sameLoops_trans hl (Thread.advance_delay_loops v a k)
    refine ⟨hs, ?_, ?_, ev.2.2.trans eu.2.2.symm, ?_⟩
    · rw [ev.1, eu.1, h.npc]
    · rw [ev.2.1, eu.2.1]
    · exact ⟨lv.1.trans lu.1.symm, lv.2.1.trans lu.2.1.symm, lv.2.2.trans lu.2.2.symm⟩
  | goto a b d k =>
    have eu := Thread.advance_goto u a b d k
    have ev := Thread.advance_goto v a b d k
    have lu := Thread.advance_goto_loops u a b d k
    have lv := Thread.sameLoops_trans hl (Thread.advance_goto_loops v a b d k)
    refine ⟨hs, ?_, ?_, ev.2.2.trans eu.2.2.symm, ?_⟩
    · rw [ev.1, eu.1]
    · rw [ev.2.1, eu.2.1]
    · exact ⟨lv.1.trans lu.1.symm, lv.2.1.trans lu.2.1.symm, lv.2.2.trans lu.2.2.symm⟩

/-- What completing does after the next addresses are set. -/
theorem State.finish_quiet (s : State) (gt : Nat) (h : (s.thread gt).noneDue)
    (hs : (s.thread gt).stopReq = false) :
    s.Quiet ((((s.countWindow gt).tickDelayed gt).stepDue gt).atBoundary gt) gt := by
  have q2 := State.countWindow_quiet s gt
  have q3 := State.tickDelayed_quiet (s.countWindow gt) gt
    (by unfold Thread.noneDue; rw [State.countWindow_delayed]; exact h)
  have q4 := q2.trans (q3.trans (State.stepDue_quiet _ gt))
  exact q4.trans (State.atBoundary_quiet _ gt (q4.2.1.stop.trans hs))

theorem State.modThread_quiet (s : State) (gt : Nat) (f : Thread → Thread) (u : Thread)
    (h : f (s.thread gt) = u) : s.stepped (s.modThread gt f) gt ∧ (s.modThread gt f).thread gt = u ∧
    (s.modThread gt f).bit (fInHandler gt) = s.bit (fInHandler gt) :=
  ⟨State.stepped_modThread s gt f, by rw [State.thread_modThread_same, h], rfl⟩

/-- Completing an instruction whose thread has no write due and awaits no STOP: the thread goes on at its
next address and keeps what a program sees. -/
theorem State.complete_quiet (s : State) (gt : Nat) (nx : Next) (after : Option PairInfo)
    (h : (s.thread gt).noneDue) (hs : (s.thread gt).stopReq = false) : s.stepped (s.complete gt nx after) gt ∧
    Thread.Still ((s.thread gt).advance nx) ((s.complete gt nx after).thread gt) ∧
    (gt < 2048 → (s.complete gt nx after).bit (fInHandler gt) = s.bit (fInHandler gt)) := by
  unfold State.complete
  simp only []
  obtain ⟨hb, hbd⟩ := State.heldBreak_quiet s gt
  have had := Thread.advance_still hb.2.1 nx
  have hdl := (Thread.advance_delayed ((s.heldBreak gt).thread gt) nx).trans hbd
  have hst := had.stop.trans ((Thread.advance_same (s.thread gt) nx).stop.trans hs)
  obtain ⟨q1, t1, b1⟩ := State.modThread_quiet (s.heldBreak gt) gt
    (fun t => { t.advance nx with pairOpen := after, held := false, noEntry := false }) _ rfl
  have hu := Thread.Still.mk (u := ((s.heldBreak gt).thread gt).advance nx)
    (v := { ((s.heldBreak gt).thread gt).advance nx with pairOpen := after, held := false, noEntry := false })
    ⟨rfl, rfl, rfl, rfl, rfl, rfl, rfl, rfl, rfl, rfl, rfl, rfl, rfl, rfl, rfl, rfl⟩ rfl rfl rfl ⟨rfl, rfl, rfl⟩
  generalize (s.heldBreak gt).modThread gt
    (fun t => { t.advance nx with pairOpen := after, held := false, noEntry := false }) = s1 at *
  have q5 := State.finish_quiet s1 gt (by unfold Thread.noneDue; rw [t1]; simp only []; rw [hdl]; exact h)
    (by rw [t1]; exact hst)
  refine ⟨State.stepped_trans hb.1 (State.stepped_trans q1 q5.1), ?_, fun g => (q5.2.2 g).trans (b1.trans (hb.2.2 g))⟩
  exact had.trans (hu.trans (t1 ▸ q5.2.1))

/-- An instruction that issues and acts: its operation, one beat, and completion. -/
theorem State.issue_done {s s' : State} {x : Issue} {i : Ins} {body : State → Exec} {nx : Next}
    (h : s.issues x i) (hv : i.via = false ∨ (s.thread x.gt.val).twin = none)
    (hb : body (s.fetchAhead x.gt.val) = .done s' nx) :
    s.issue x i body = (s'.beat x.gt.val (s.pairAfter x.gt.val x i)).complete x.gt.val nx
      (s.pairAfter x.gt.val x i) := by
  obtain ⟨h0, h1, h2, h3, -⟩ := h
  unfold State.issue
  simp only [h0, h1, h2, h3, Bool.false_eq_true, if_false]
  rcases hv with hv | hv
  · simp [hv, hb]
  · by_cases hi : i.via = true
    · simp [hi, State.viaBody, hv, hb]
    · simp [hi, hb]

/-- What the instruction leaves after its operation. -/
theorem State.issue_quiet {s s' : State} {x : Issue} {i : Ins} {body : State → Exec} {nx : Next}
    (h : s.issues x i) (hv : i.via = false ∨ (s.thread x.gt.val).twin = none)
    (hb : body (s.fetchAhead x.gt.val) = .done s' nx) (hd : (s'.thread x.gt.val).noneDue)
    (hs : (s'.thread x.gt.val).stopReq = false) :
    s'.stepped (s.issue x i body) x.gt.val ∧
    Thread.Still ((s'.thread x.gt.val).advance nx) ((s.issue x i body).thread x.gt.val) ∧
    (s.issue x i body).bit (fInHandler x.gt.val) = s'.bit (fInHandler x.gt.val) := by
  rw [State.issue_done h hv hb]
  generalize s.pairAfter x.gt.val x i = after
  have hq := State.beat_quiet s' x.gt.val after
  have ht := State.beat_thread s' x.gt.val x.gt.val after
  have hc := State.complete_quiet (s'.beat x.gt.val after) x.gt.val nx after (by rw [ht]; exact hd) (by rw [ht]; exact hs)
  rw [ht] at hc
  exact ⟨State.stepped_trans hq.1 hc.1, hc.2.1, (hc.2.2 x.gt.isLt).trans (hq.2.2 x.gt.isLt)⟩

/-- A thread keeps its addresses and loops, its own writes under way, and a STOP awaited. -/
def Thread.Placed (u v : Thread) : Prop :=
  v.pc = u.pc ∧ v.npc = u.npc ∧ v.inDelay = u.inDelay ∧ u.sameLoops v ∧ v.delayed = u.delayed ∧
  v.stopReq = u.stopReq

theorem Thread.Placed.wentOn {u v : Thread} (h : u.Placed v) : u.wentOn (v.advance .seq) := by
  obtain ⟨a, b, c, d, -⟩ := h
  have := Thread.advance_seq v
  unfold Thread.wentOn at this ⊢
  rw [Thread.successor_congr (u := u) ⟨a, b, c⟩ d.1 d.2.1 d.2.2] at this
  exact ⟨this.1, this.2.1, this.2.2.1, Thread.sameLoops_trans (Thread.loopsAfter_congr d a c) this.2.2.2⟩

theorem Thread.wentOn_still {u v w : Thread} (h : u.wentOn v) (k : Thread.Still v w) : u.wentOn w :=
  ⟨k.pc.trans h.1, k.npc.trans h.2.1, k.inDelay.trans h.2.2.1, Thread.sameLoops_trans h.2.2.2 k.loops⟩

theorem Thread.Placed.none {u v : Thread} (h : u.Placed v) (hd : u.noneDue) : v.noneDue := by
  unfold Thread.noneDue; rw [h.2.2.2.2.1]; exact hd
theorem State.fetchAhead_placed (s : State) (gt : Nat) : (s.thread gt).Placed ((s.fetchAhead gt).thread gt) := by
  obtain ⟨_, _, h⟩ := State.fetchAhead_thread s gt; rw [h]
  exact ⟨rfl, rfl, rfl, ⟨rfl, rfl, rfl⟩, rfl, rfl⟩

/-- The same where the operation left its thread in its place. -/
theorem State.issue_ran {s s' : State} {x : Issue} {i : Ins} {body : State → Exec}
    (h : s.issues x i) (hv : i.via = false ∨ (s.thread x.gt.val).twin = none)
    (hb : body (s.fetchAhead x.gt.val) = .done s' .seq)
    (hp : (s.thread x.gt.val).Placed (s'.thread x.gt.val)) :
    s'.stepped (s.issue x i body) x.gt.val ∧
    Thread.Same (s'.thread x.gt.val) ((s.issue x i body).thread x.gt.val) ∧
    (s.thread x.gt.val).wentOn ((s.issue x i body).thread x.gt.val) := by
  have q := State.issue_quiet h hv hb (hp.none h.2.2.2.2.1) (hp.2.2.2.2.2.trans h.2.2.2.2.2)
  exact ⟨q.1, (Thread.advance_same _ .seq).trans q.2.1.toSame, Thread.wentOn_still hp.wentOn q.2.1⟩

/-- The same where the operation wrote nothing but its thread. -/
theorem State.issue_thread {s : State} {x : Issue} {i : Ins} {body : State → Exec} {u : Thread}
    (h : s.issues x i) (hv : i.via = false ∨ (s.thread x.gt.val).twin = none)
    (hb : body (s.fetchAhead x.gt.val) = .done ((s.fetchAhead x.gt.val).setThread x.gt.val u) .seq)
    (hp : (s.thread x.gt.val).Placed u) :
    s.stepped (s.issue x i body) x.gt.val ∧
    Thread.Same u ((s.issue x i body).thread x.gt.val) ∧
    (s.thread x.gt.val).wentOn ((s.issue x i body).thread x.gt.val) := by
  have q := State.issue_ran h hv hb (by rw [State.thread_setThread_same]; exact hp)
  rw [State.thread_setThread_same] at q
  exact ⟨State.stepped_trans (State.fetchAhead_stepped s _)
    (State.stepped_trans (State.stepped_setThread _ _ u) q.1), q.2⟩

/-- An operation that takes a delay slot. -/
theorem State.issue_delay {s s' : State} {x : Issue} {i : Ins} {body : State → Exec} {a : Word} {k : Bool}
    (h : s.issues x i) (hv : i.via = false ∨ (s.thread x.gt.val).twin = none)
    (hb : body (s.fetchAhead x.gt.val) = .done s' (.delay a k))
    (hp : (s.thread x.gt.val).Placed (s'.thread x.gt.val)) :
    s'.stepped (s.issue x i body) x.gt.val ∧
    Thread.Same (s'.thread x.gt.val) ((s.issue x i body).thread x.gt.val) ∧
    (s.thread x.gt.val).tookDelay ((s.issue x i body).thread x.gt.val) a := by
  have q := State.issue_quiet h hv hb (hp.none h.2.2.2.2.1) (hp.2.2.2.2.2.trans h.2.2.2.2.2)
  have e := Thread.advance_delay (s'.thread x.gt.val) a k
  exact ⟨q.1, (Thread.advance_same _ _).trans q.2.1.toSame, q.2.1.pc.trans (e.1.trans hp.2.1), q.2.1.npc.trans e.2.1,
    q.2.1.inDelay.trans e.2.2, Thread.sameLoops_trans hp.2.2.2.1
      (Thread.sameLoops_trans (Thread.advance_delay_loops _ _ _) q.2.1.loops)⟩

/-- An operation that goes to an address at once. -/
theorem State.issue_goto {s s' : State} {x : Issue} {i : Ins} {body : State → Exec} {a b : Word} {d k : Bool}
    (h : s.issues x i) (hv : i.via = false ∨ (s.thread x.gt.val).twin = none)
    (hb : body (s.fetchAhead x.gt.val) = .done s' (.goto a b d k))
    (hp : (s'.thread x.gt.val).delayed = (s.thread x.gt.val).delayed)
    (hs : (s'.thread x.gt.val).stopReq = (s.thread x.gt.val).stopReq) :
    s'.stepped (s.issue x i body) x.gt.val ∧
    Thread.Same (s'.thread x.gt.val) ((s.issue x i body).thread x.gt.val) ∧
    ((s.issue x i body).thread x.gt.val).pc = a ∧ ((s.issue x i body).thread x.gt.val).npc = b ∧
    ((s.issue x i body).thread x.gt.val).inDelay = d ∧
    (s'.thread x.gt.val).sameLoops ((s.issue x i body).thread x.gt.val) := by
  have q := State.issue_quiet h hv hb (by unfold Thread.noneDue; rw [hp]; exact h.2.2.2.2.1) (hs.trans h.2.2.2.2.2)
  have e := Thread.advance_goto (s'.thread x.gt.val) a b d k
  exact ⟨q.1, (Thread.advance_same _ _).trans q.2.1.toSame, q.2.1.pc.trans e.1, q.2.1.npc.trans e.2.1,
    q.2.1.inDelay.trans e.2.2, Thread.sameLoops_trans (Thread.advance_goto_loops _ _ _ _ _) q.2.1.loops⟩

/-- An instruction that faults in its operation raises the fault in its beat. -/
theorem State.issue_fault {s s' : State} {x : Issue} {i : Ins} {body : State → Exec} {r : FaultRec}
    (h : s.issues x i) (hv : i.via = false ∨ (s.thread x.gt.val).twin = none)
    (hb : body (s.fetchAhead x.gt.val) = .fault s' r) : s.issue x i body =
      ((s'.beat x.gt.val (s.pairAfter x.gt.val x i)).countWindow x.gt.val).raiseOwn x.gt.val r := by
  obtain ⟨h0, h1, h2, h3, -⟩ := h
  unfold State.issue
  simp only [h0, h1, h2, h3, Bool.false_eq_true, if_false]
  rcases hv with hv | hv
  · simp [hv, hb]
  · by_cases hi : i.via = true
    · simp [hi, State.viaBody, hv, hb]
    · simp [hi, hb]

/-- An instruction that waits. -/
theorem State.issue_wait {s s' : State} {x : Issue} {i : Ins} {body : State → Exec} {w : Waiting}
    (h : s.issues x i) (hv : i.via = false ∨ (s.thread x.gt.val).twin = none)
    (hb : body (s.fetchAhead x.gt.val) = .wait s' w) : s.issue x i body =
      ((s'.beat x.gt.val (s.pairAfter x.gt.val x i)).modThread x.gt.val (fun t =>
        { t with waiting := some w, pairOpen := s.pairAfter x.gt.val x i, noEntry := false })).setFld
        (fState x.gt.val) stWait := by
  obtain ⟨h0, h1, h2, h3, -⟩ := h
  unfold State.issue
  simp only [h0, h1, h2, h3, Bool.false_eq_true, if_false]
  rcases hv with hv | hv
  · simp [hv, hb]
  · by_cases hi : i.via = true
    · simp [hi, State.viaBody, hv, hb]
    · simp [hi, hb]

/-! ## Writing registers keeps the rest -/

theorem Thread.Placed.refl (t : Thread) : t.Placed t := ⟨rfl, rfl, rfl, ⟨rfl, rfl, rfl⟩, rfl, rfl⟩
theorem Thread.Placed.trans {u v w : Thread} (h : u.Placed v) (k : v.Placed w) : u.Placed w := by
  obtain ⟨a, b, c, d, e, f⟩ := h
  obtain ⟨a', b', c', d', e', f'⟩ := k
  exact ⟨a'.trans a, b'.trans b, c'.trans c, Thread.sameLoops_trans d d', e'.trans e, f'.trans f⟩
theorem Thread.wr_placed (t : Thread) (d : Reg) (v : Word) : t.Placed (t.wr d v) := by
  unfold Thread.wr; (repeat' split) <;> exact ⟨rfl, rfl, rfl, ⟨rfl, rfl, rfl⟩, rfl, rfl⟩
theorem Thread.setFlags_placed (t : Thread) (fl : Flags) : t.Placed (t.setFlags fl) :=
  ⟨rfl, rfl, rfl, ⟨rfl, rfl, rfl⟩, rfl, rfl⟩
@[simp] theorem Thread.lineBuf_wr (t : Thread) (d : Reg) (v : Word) : (t.wr d v).lineBuf = t.lineBuf := by
  unfold Thread.wr; (repeat' split) <;> rfl
@[simp] theorem Thread.lineBuf_setFlags (t : Thread) (fl : Flags) : (t.setFlags fl).lineBuf = t.lineBuf := rfl
@[simp] theorem Thread.lineBuf_wrPair (t : Thread) (d : Reg) (v : BitVec 64) : (t.wrPair d v).lineBuf = t.lineBuf := by
  simp [Thread.wrPair]
theorem Thread.wrPair_placed (t : Thread) (d : Reg) (v : BitVec 64) : t.Placed (t.wrPair d v) :=
  (Thread.wr_placed t d _).trans (Thread.wr_placed _ _ _)
theorem Thread.wr_sameRest (t : Thread) (d : Reg) (v : Word) : t.sameRest (t.wr d v) := by
  unfold Thread.wr; (repeat' split) <;> exact ⟨rfl, rfl, rfl, rfl, rfl, rfl, rfl, rfl, rfl⟩
theorem Thread.setFlags_sameRest (t : Thread) (fl : Flags) : t.sameRest (t.setFlags fl) :=
  ⟨rfl, rfl, rfl, rfl, rfl, rfl, rfl, rfl, rfl⟩
theorem Thread.wrPair_sameRest (t : Thread) (d : Reg) (v : BitVec 64) : t.sameRest (t.wrPair d v) :=
  Thread.sameRest_trans (Thread.wr_sameRest t d _) (Thread.wr_sameRest _ _ _)
@[simp] theorem Thread.flags_wrPair (t : Thread) (d : Reg) (v : BitVec 64) : (t.wrPair d v).flags = t.flags := by
  simp [Thread.wrPair]

/-- A pair's registers after it is written. -/
theorem Thread.rd_wrPair (t : Thread) (d q : Reg) (v : BitVec 64) (h : oddReg d = false) : (t.wrPair d v).rd q =
    if q = d + 1 then Word.hi v else if q = d ∧ d ≠ 0 then Word.lo v else t.rd q := by
  have h1 : d + 1 ≠ 0 := by
    intro e
    have : d = 31#5 := by bv_omega
    subst this
    simp [oddReg] at h
  unfold Thread.wrPair
  rw [Thread.rd_wr, Thread.rd_wr]
  by_cases hq : q = d + 1
  · rw [if_pos ⟨hq, h1⟩, if_pos hq]
  · rw [if_neg (fun k => hq k.1), if_neg hq]

/-- The frame of an operation that writes one register and the flags. -/
theorem State.yields_of {s t : State} {o : Host.Outcome State Fault Refusal} {gt : Nat} {d : Reg} {r : Word}
    {u : Thread} (ho : o = .next t) (h1 : s.stepped t gt) (h2 : Thread.Same u (t.thread gt))
    (h3 : (s.thread gt).wentOn (t.thread gt)) (hr : (s.thread gt).sameRest u)
    (hl : u.lineBuf = ((s.fetchAhead gt).thread gt).lineBuf)
    (hg : ∀ q, u.rd q = if q = d ∧ d ≠ 0 then r else (s.thread gt).rd q) : s.yields o gt d r u.flags := by
  refine ⟨t, ho, ⟨h1, h3, Thread.sameRest_trans hr h2.rest, ?_, h2.line.trans hl⟩, ?_, h2.flags⟩
  · intro q hq
    have : q ≠ d := by simpa using hq
    rw [h2.rd, hg, if_neg (by simp [this])]
  · rw [h2.rd, hg]
    by_cases h : d = 0
    · rw [if_neg (fun k => k.2 h), if_pos h, h, Thread.rd_zero]
    · rw [if_pos ⟨rfl, h⟩, if_neg h]

/-- The same for a pair. -/
theorem State.yieldsPair_of {s t : State} {o : Host.Outcome State Fault Refusal} {gt : Nat} {d : Reg}
    {r : BitVec 64} {u : Thread} (ho : o = .next t) (h1 : s.stepped t gt) (h2 : Thread.Same u (t.thread gt))
    (h3 : (s.thread gt).wentOn (t.thread gt)) (hr : (s.thread gt).sameRest u)
    (hl : u.lineBuf = ((s.fetchAhead gt).thread gt).lineBuf)
    (hg : ∀ q, u.rd q = if q = d + 1 then Word.hi r else if q = d ∧ d ≠ 0 then Word.lo r else (s.thread gt).rd q) :
    s.yieldsPair o gt d r u.flags := by
  refine ⟨t, ho, ⟨h1, h3, Thread.sameRest_trans hr h2.rest, ?_, h2.line.trans hl⟩, ?_, ?_, h2.flags⟩
  · intro q hq
    have h1 : q ≠ d := fun e => hq (by simp [e])
    have h2' : q ≠ d + 1 := fun e => hq (by simp [e])
    rw [h2.rd, hg, if_neg h2', if_neg (fun k => h1 k.1)]
  · have hn : d ≠ d + 1 := by bv_omega
    rw [h2.rd, hg, if_neg hn]
    by_cases h : d = 0
    · rw [if_neg (fun k => k.2 h), if_pos h, h, Thread.rd_zero]
    · rw [if_pos ⟨rfl, h⟩, if_neg h]; rfl
  · rw [h2.rd, hg, if_pos rfl]; rfl

end Sys2Proof.Machine
end

