-- ==== Sys2Proof/Laws/Results.lean ====
section
/-!
SUPPORT. What the shared operations of the instruction set leave: results of the register forms, the
flags of an addition, and faults raised by an instruction's operation.
-/
namespace Sys2Proof.Machine

theorem State.issues_even {s : State} {x : Issue} {i : Ins} (h : s.issues x i) : i.odd = false := by
  have := h.2.2.2.1
  unfold State.earlyFault at this
  simp only [] at this
  by_cases o : i.odd = true
  · split at this
    · cases this
    · split at this <;> simp_all
  · simpa using o

theorem State.alu_yields {s : State} {x : Issue} {i : Ins} {body : State → Exec} {d : Reg} {f : Bool} {r : Word} {fl : Flags}
    (h : s.issues x i) (hv : i.via = false) 
    (hb : body (s.fetchAhead x.gt.val) = (s.fetchAhead x.gt.val).aluDone x.gt.val d f r fl) :
    s.yields (.next (s.issue x i body)) x.gt.val d r (if f then fl else (s.thread x.gt.val).flags) := by
  let t := (s.fetchAhead x.gt.val).thread x.gt.val
  let u := if f then (t.wr d r).setFlags fl else t.wr d r
  have hp : (s.thread x.gt.val).Placed u := by
    refine (State.fetchAhead_placed s x.gt.val).trans ?_
    show t.Placed (if f then _ else _)
    split
    · exact (Thread.wr_placed _ _ _).trans (Thread.setFlags_placed _ _)
    · exact Thread.wr_placed _ _ _
  have q := State.issue_thread (u := u) h (.inl hv) hb hp
  have hf : u.flags = if f then fl else (s.thread x.gt.val).flags := by
    show (if f then _ else _ : Thread).flags = _
    split <;> simp [t]
  rw [← hf]
  refine State.yields_of rfl q.1 q.2.1 q.2.2 ?_ ?_ ?_
  · refine Thread.sameRest_trans (State.fetchAhead_sameRest s x.gt.val) ?_
    show t.sameRest (if f then _ else _)
    split
    · exact Thread.sameRest_trans (Thread.wr_sameRest _ _ _) (Thread.setFlags_sameRest _ _)
    · exact Thread.wr_sameRest _ _ _
  · show (if f then _ else _ : Thread).lineBuf = _
    split <;> simp [t]
  · intro q
    show (if f then _ else _ : Thread).rd q = _
    split
    · rw [Thread.rd_setFlags, Thread.rd_wr, State.fetchAhead_rd]
    · rw [Thread.rd_wr, State.fetchAhead_rd]

theorem State.pair_yields {s : State} {x : Issue} {i : Ins} {body : State → Exec} {d : Reg} {f : Bool} {r : BitVec 64} {fl : Flags}
    (h : s.issues x i) (hv : i.via = false) (ho : oddReg d = false) 
    (hb : body (s.fetchAhead x.gt.val) = .done ((s.fetchAhead x.gt.val).setThread x.gt.val
      (if f then (((s.fetchAhead x.gt.val).thread x.gt.val).wrPair d r).setFlags fl
        else ((s.fetchAhead x.gt.val).thread x.gt.val).wrPair d r)) .seq) :
    s.yieldsPair (.next (s.issue x i body)) x.gt.val d r (if f then fl else (s.thread x.gt.val).flags) := by
  let t := (s.fetchAhead x.gt.val).thread x.gt.val
  let u := if f then (t.wrPair d r).setFlags fl else t.wrPair d r
  have hp : (s.thread x.gt.val).Placed u := by
    refine (State.fetchAhead_placed s x.gt.val).trans ?_
    show t.Placed (if f then _ else _)
    split
    · exact (Thread.wrPair_placed _ _ _).trans (Thread.setFlags_placed _ _)
    · exact Thread.wrPair_placed _ _ _
  have q := State.issue_thread (u := u) h (.inl hv) hb hp
  have hf : u.flags = if f then fl else (s.thread x.gt.val).flags := by
    show (if f then _ else _ : Thread).flags = _
    split <;> simp [t]
  rw [← hf]
  refine State.yieldsPair_of rfl q.1 q.2.1 q.2.2 ?_ ?_ ?_
  · refine Thread.sameRest_trans (State.fetchAhead_sameRest s x.gt.val) ?_
    show t.sameRest (if f then _ else _)
    split
    · exact Thread.sameRest_trans (Thread.wrPair_sameRest _ _ _) (Thread.setFlags_sameRest _ _)
    · exact Thread.wrPair_sameRest _ _ _
  · show (if f then _ else _ : Thread).lineBuf = _
    split <;> simp [t]
  · intro q
    show (if f then _ else _ : Thread).rd q = _
    split
    · rw [Thread.rd_setFlags, Thread.rd_wrPair _ _ _ _ ho, State.fetchAhead_rd]
    · rw [Thread.rd_wrPair _ _ _ _ ho, State.fetchAhead_rd]

theorem addFlags_eq (p q : Word) (c : Bool) : addFlags p q c =
    (p + q + BitVec.ofNat 32 (if c then 1 else 0), ⟨(p + q + BitVec.ofNat 32 (if c then 1 else 0)).getLsbD 31,
      (p + q + BitVec.ofNat 32 (if c then 1 else 0)) == 0,
      decide (2 ^ 32 ≤ p.toNat + q.toNat + (if c then 1 else 0)),
      overflows32 (p.toInt + q.toInt + (if c then 1 else 0 : Nat))⟩) := by
  have e : BitVec.ofNat 32 (p.toNat + q.toNat + (if c then 1 else 0)) = p + q + BitVec.ofNat 32 (if c then 1 else 0) := by
    apply BitVec.eq_of_toNat_eq
    simp [BitVec.toNat_add]
  unfold addFlags
  simp only [e]
  congr 2
  unfold overflows32
  rw [decide_eq_decide]
  have h1 := p.toInt_lt (w := 32); have h2 := p.le_toInt (w := 32)
  have h3 := q.toInt_lt (w := 32); have h4 := q.le_toInt (w := 32)
  cases c
  · simp only [Bool.false_eq_true, if_false]
    rw [BitVec.toInt_add, BitVec.toInt_add]
    simp [Int.bmod]
    omega
  · simp only [if_true]
    rw [BitVec.toInt_add, BitVec.toInt_add]
    simp [Int.bmod]
    omega

theorem sub_carry (p q : Word) : decide (2 ^ 32 ≤ p.toNat + (~~~ q).toNat + 1) = decide (q.toNat ≤ p.toNat) := by
  rw [decide_eq_decide, BitVec.toNat_not]; omega
theorem sub_result (p q : Word) : p + ~~~ q + 1 = p - q := by
  bv_omega
theorem Word.toInt_not (q : Word) : (~~~ q).toInt = - q.toInt - 1 := by
  rw [BitVec.toInt_eq_toNat_cond, BitVec.toInt_eq_toNat_cond, BitVec.toNat_not]
  have := q.isLt
  split <;> split <;> omega
theorem addFlags_sub (p q : Word) : addFlags p (~~~ q) true = (p - q, ⟨(p - q).getLsbD 31, p - q == 0, decide (q.toNat ≤ p.toNat),
    overflows32 (p.toInt - q.toInt)⟩) := by
  rw [addFlags_eq]
  have : p + ~~~ q + BitVec.ofNat 32 1 = p - q := sub_result p q
  simp only [if_true, this, sub_carry, Word.toInt_not]
  congr 3; push_cast; ring

theorem addFlags_add (p q : Word) : addFlags p q false = (p + q, ⟨(p + q).getLsbD 31, p + q == 0,
    decide (2 ^ 32 ≤ p.toNat + q.toNat), overflows32 (p.toInt + q.toInt)⟩) := by
  rw [addFlags_eq]; simp

theorem State.add4_yields {x : Issue} {f rdC : Bool} {d a b : Reg} {g : Word → Word} {cin : Flags → Bool} {s : State}
    {r : Word} {fl : Flags} (h : s.issues x (insAlu d a b rdC f))
    (e : addFlags ((s.thread x.gt.val).rd a) (g ((s.thread x.gt.val).rd b)) (cin (s.thread x.gt.val).flags) = (r, fl)) :
    s.yields (.next (execAdd4 x f rdC d a b g cin s)) x.gt.val d r (if f then fl else (s.thread x.gt.val).flags) := by
  refine State.alu_yields (f := f) (d := d) h rfl ?_
  simp only [State.fetchAhead_rd, State.fetchAhead_flags, e]


theorem canon_tCfg_ne_tReg (g : Fin 2048) {o p : Nat} (ho : o < 0x20) (hp : p < 0x40) : canon (tCfg g.val o) ≠ canon (tReg g.val p) := by
  rw [canon_tReg g hp, canon_tCfg g ho]; unfold tReg tCfg; omega

theorem State.stepped_touched {s t : State} {gt : Nat} {as : List Nat} (h : s.stepped t gt) : s.touched t gt as :=
  ⟨h.1, h.2.1, State.sameRegsBut_mono h.2.2 (by intro a ha; simp at ha ⊢; tauto)⟩
theorem State.touched_trans {s t u : State} {gt : Nat} {as : List Nat} (h : s.touched t gt as) (k : t.stepped u gt) : s.touched u gt as :=
  ⟨State.near_trans h.1 k.1, fun g hg => (k.2.1 g hg).trans (h.2.1 g hg),
    State.sameRegsBut_trans h.2.2 (State.sameRegsBut_mono k.2.2 (by intro a ha; simp at ha ⊢; tauto))⟩

theorem Thread.keptBut_same {u v w : Thread} {ds} (h : u.keptBut v ds) (k : Thread.Same v w) : u.keptBut w ds :=
  ⟨fun r hr => (k.rd r).trans (h.1 r hr), k.flags.trans h.2.1, Thread.sameRest_trans h.2.2 k.rest⟩
theorem Thread.keptBut_refl (u : Thread) (ds) : u.keptBut u ds := ⟨fun _ _ => rfl, rfl, (Thread.Same.refl u).rest⟩

/-- The configuration set survives completion. -/
theorem State.stepped_tCfg {s t : State} (g : Fin 2048) (h : s.stepped t g.val) {o : Nat} (ho : o < 0x20) : t.reg (tCfg g.val o) = s.reg (tCfg g.val o) := by
  apply h.2.2
  intro b hb
  simp at hb
  rcases hb with rfl | rfl | rfl <;> exact canon_tCfg_ne_tReg g ho (by omega)

/-- Of the thread everything that a fault's record and the program see is as before. -/
def State.Unmoved (s u : State) (gt : Nat) : Prop :=
  s.stepped u gt ∧ (s.thread gt).keptBut (u.thread gt) [] ∧ (s.thread gt).sameLoops (u.thread gt) ∧
  (u.thread gt).pc = (s.thread gt).pc ∧ (u.thread gt).npc = (s.thread gt).npc ∧
  (u.thread gt).inDelay = (s.thread gt).inDelay

theorem State.Unmoved.quiet {s u v : State} {gt : Nat} (h : s.Unmoved u gt) (q : u.Quiet v gt) : s.Unmoved v gt :=
  ⟨State.stepped_trans h.1 q.1, Thread.keptBut_same h.2.1 q.2.1.toSame, Thread.sameLoops_trans h.2.2.1 q.2.1.loops,
    q.2.1.pc.trans h.2.2.2.1, q.2.1.npc.trans h.2.2.2.2.1, q.2.1.inDelay.trans h.2.2.2.2.2⟩
theorem State.Unmoved.successor {s u : State} {gt : Nat} (h : s.Unmoved u gt) :
    (u.thread gt).successor = (s.thread gt).successor :=
  Thread.successor_congr ⟨h.2.2.2.1, h.2.2.2.2.1, h.2.2.2.2.2⟩ h.2.2.1.1 h.2.2.1.2.1 h.2.2.1.2.2
theorem State.fetchAhead_unmoved (s : State) (gt : Nat) : s.Unmoved (s.fetchAhead gt) gt :=
  ⟨State.fetchAhead_stepped s gt, ⟨fun r _ => State.fetchAhead_rd s gt r, State.fetchAhead_flags s gt,
    State.fetchAhead_sameRest s gt⟩, State.fetchAhead_sameLoops s gt, State.fetchAhead_pc s gt,
    State.fetchAhead_npc s gt, State.fetchAhead_inDelay s gt⟩

/-- Raising a fault records where the thread stands. -/
theorem State.raise_unmoved {s v : State} {gt : Nat} (r : FaultRec) (h : s.Unmoved v gt) :
    s.Unmoved (v.raise gt r) gt ∧ ((v.raise gt r).thread gt).raised = some { r with
      pc := (s.thread gt).pc, npc := (s.thread gt).successor, inDelay := (s.thread gt).inDelay } := by
  refine ⟨h.quiet (State.raise_quiet v gt r), ?_⟩
  rw [← h.2.2.2.1, ← h.2.2.2.2.2, ← h.successor]
  unfold State.raise
  simp only []
  split <;> simp

/-- An instruction that raises a fault of its own, with nothing else of it done. -/
theorem State.raiseOwn_at {s u : State} {gt : Nat} {c : BitVec 4} {d : Byte} (h : s.Unmoved u gt)
    (hl : (u.thread gt).late = (s.thread gt).late) : s.raisedAt (u.raiseOwn gt (precise c d)) gt c d := by
  have ht : (u.thread gt).twin = (s.thread gt).twin := h.2.1.2.2.2.2.2.2.2.2.2.2
  have key (v : State) (r : FaultRec) (hv : s.Unmoved v gt)
      (hr : match (s.thread gt).late, (s.thread gt).twin with
        | q :: rest, none => r.imprecise = true ∧ r.cls = q.2.cls ∧ r.detail = q.2.detail ∧
            r.oppc = q.2.oppc ∧ r.extra = !rest.isEmpty
        | _, _ => r.imprecise = false ∧ r.cls = c ∧ r.detail = d) : s.raisedAt (v.raise gt r) gt c d := by
    obtain ⟨q, hq⟩ := State.raise_unmoved r hv
    exact ⟨q.1, q.2.1, q.2.2.1, q.2.2.2.1, q.2.2.2.2.1, _, hq, rfl, rfl, rfl, hr⟩
  unfold State.raiseOwn
  simp only [hl, ht]
  cases e : (s.thread gt).late with
  | nil => exact key u _ h (by simp only [e]; exact ⟨rfl, rfl, rfl⟩)
  | cons q rest =>
    cases e2 : (s.thread gt).twin with
    | some p => exact key u _ h (by simp only [e, e2]; exact ⟨rfl, rfl, rfl⟩)
    | none =>
      refine key _ _ (h.quiet (State.Quiet.setThread _ _ _
        ⟨⟨rfl, rfl, rfl, rfl, rfl, rfl, rfl, rfl, rfl, rfl, rfl, rfl, rfl, rfl, rfl, ht ▸ e2 ▸ rfl⟩, rfl, rfl, rfl, rfl, rfl, rfl⟩)) ?_
      simp only [e, e2, lateFault]
      exact ⟨trivial, trivial, trivial, trivial, trivial⟩

theorem State.countWindow_late (s : State) (gt : Nat) :
    ((s.countWindow gt).thread gt).late = (s.thread gt).late := by
  unfold State.countWindow
  split <;> simp

/-- The same in the beat of an instruction whose operation changed nothing. -/
theorem State.raisedAt_of (s : State) (gt : Nat) (after : Option PairInfo) (c : BitVec 4) (d : Byte) :
    s.raisedAt ((((s.fetchAhead gt).beat gt after).countWindow gt).raiseOwn gt (precise c d)) gt c d :=
  State.raiseOwn_at (((State.fetchAhead_unmoved s gt).quiet (State.beat_quiet _ gt after)).quiet
    (State.countWindow_quiet _ gt)) (by rw [State.countWindow_late, State.beat_thread, State.fetchAhead_late])

end Sys2Proof.Machine
end

