-- ==== Sys2Proof/Laws/AtBlock.lean ====
section
/-!
SUPPORT. Commands that act at a block: a direct command acts where the block is, and changes nothing where it
is not.
-/
namespace Sys2Proof.Machine

theorem State.atBlock_direct {s : State} {who : Agent} {b : Blk} (off : Nat) (f : State → State)
    (hw : direct who) (h : s.blkPresent b = true) : s.atBlock who b off f = f s := by
  simp only [State.atBlock, h]
  cases who <;> simp
  exact absurd rfl (hw _)

theorem State.atBlock_absent {s : State} (who : Agent) {b : Blk} (off : Nat) (f : State → State)
    (h : s.blkPresent b = false) : s.atBlock who b off f = s := by
  simp [State.atBlock, h]

/-- A window's command that the block refuses: the block is as it was, the window reports it. -/
theorem State.atBlock_window {s : State} (v : VC) {b : Blk} (off : Nat) (f : State → State)
    (h : s.blkPresent b = true) : s.atBlock (.window v) b off f =
      (if (s.watched b off f).2 then (s.watched b off f).1.refuseWin v.val 0x2008 else (s.watched b off f).1) := by
  simp [State.atBlock, h]

end Sys2Proof.Machine
end

