-- ==== Sys2Proof/Laws/KeptUnits.lean ====
section
/-!
SUPPORT. What the operations of the ledger, coherence, bays, timers and the router leave alone.
-/
set_option Elab.async false
namespace Sys2Proof.Machine

@[simp ↓] theorem State.setChan_kept (s : State) (c : Nat) (x : ChanS) :
    (State.setChan s c x).kept = s.kept := by
  simp [State.setChan]
@[simp ↓] theorem State.modChan_kept (s : State) (c : Nat) (f : ChanS → ChanS) :
    (State.modChan s c f).kept = s.kept := by
  simp [State.modChan]
@[simp ↓] theorem State.modVc_kept (s : State) (v : Nat) (f : VcS → VcS) :
    (State.modVc s v f).kept = s.kept := by
  simp [State.modVc]
@[simp ↓] theorem State.answerStore_kept (s : State) (gt : Nat) (id : Nat) (ok : Bool) :
    (State.answerStore s gt id ok).kept = s.kept := by
  simp [State.answerStore]
@[simp ↓] theorem State.deliver_kept (s : State) (ref : ReqRef) (bs : List Byte) :
    (State.deliver s ref bs).kept = s.kept := by
  unfold State.deliver
  split <;> simp
@[simp ↓] theorem State.fetchError_kept (s : State) (gt : Nat) (id : Nat) (line : Nat) :
    (State.fetchError s gt id line).kept = s.kept := by
  unfold State.fetchError
  simp only []
  (repeat' split) <;> simp [*]
@[simp ↓] theorem State.deliverError_kept (s : State) (ref : ReqRef) (a : Nat) :
    (State.deliverError s ref a).kept = s.kept := by
  unfold State.deliverError
  split <;> simp
@[simp ↓] theorem State.shareUp_kept (s : State) (e : LEntry) :
    (State.shareUp s e).kept = s.kept := by
  unfold State.shareUp
  split <;> simp
@[simp ↓] theorem State.countDown_kept (s : State) (x : Fld) :
    (State.countDown s x).kept = s.kept := by
  simp [State.countDown]
@[simp ↓] theorem State.shareDown_kept (s : State) (e : LEntry) :
    (State.shareDown s e).kept = s.kept := by
  unfold State.shareDown
  split <;> simp
@[simp ↓] theorem State.xqPush_kept (s : State) (q : Crossing) (it : XItem) :
    (State.xqPush s q it).kept = s.kept := by
  simp [State.xqPush]
@[simp ↓] theorem State.allocate_kept (s : State) (e : LEntry) :
    (State.allocate s e).kept = s.kept := by
  unfold State.allocate
  simp only []
  (repeat' split) <;> simp [*]
@[simp ↓] theorem State.entryError_kept (s : State) (e : LEntry) :
    (State.entryError s e).kept = s.kept := by
  unfold State.entryError
  split <;> simp
@[simp ↓] theorem State.ledgerSend_kept (s : State) (e : LEntry) :
    (State.ledgerSend s e).kept = s.kept := by
  simp [State.ledgerSend]
@[simp ↓] theorem State.sipPresent_kept (s : State) (tag : Nat) :
    (State.sipPresent s tag).kept = s.kept := by
  unfold State.sipPresent
  split <;> simp
@[simp ↓] theorem State.icacheDrop_kept (s : State) (line : Nat) :
    (State.icacheDrop s line).kept = s.kept := by
  simp [State.icacheDrop]
@[simp ↓] theorem State.sendMsg_kept (s : State) (k : CohKind) (c : Nat) (line : Nat) (data : Line) :
    (State.sendMsg s k c line data).kept = s.kept := by
  simp [State.sendMsg]

theorem State.takeMsg_kept {s s' : State} {k : CohKind} {c line : Nat} {m : CohMsg}
    (h : s.takeMsg k c line = some (m, s')) : s'.kept = s.kept := by
  unfold State.takeMsg at h
  simp only [] at h
  split at h
  · split at h
    · cases h; rfl
    · cases h
  · cases h
@[simp ↓] theorem State.setCline_kept (s : State) (c : Nat) (line : Nat) (x : Option CLine) :
    (State.setCline s c line x).kept = s.kept := by
  simp [State.setCline]
@[simp ↓] theorem State.evict_kept (s : State) (c : Nat) (line : Nat) :
    (State.evict s c line).kept = s.kept := by
  unfold State.evict
  split <;> simp
@[simp ↓] theorem State.reqDone_kept (s : State) (c : Nat) (line : Nat) :
    (State.reqDone s c line).kept = s.kept := by
  simp [State.reqDone]
@[simp ↓] theorem State.sendReq_kept (s : State) (c : Nat) (line : Nat) (k : CohKind) :
    (State.sendReq s c line k).kept = s.kept := by
  simp [State.sendReq]
@[simp ↓] theorem State.trySend_kept (s : State) (c : Nat) (line : Nat) (write : Bool) :
    (State.trySend s c line write).kept = s.kept := by
  unfold State.trySend
  (repeat' split) <;> simp
@[simp ↓] theorem State.performCached_kept (s : State) (c : Nat) (x : CLine) (acc : MemAcc) :
    (State.performCached s c x acc).kept = s.kept := by
  simp [State.performCached]

@[simp ↓] theorem State.serveWait_kept (s : State) (fuel c line : Nat) : (s.serveWait fuel c line).kept = s.kept := by
  induction fuel generalizing s with
  | zero => rfl
  | succ k ih =>
    unfold State.serveWait
    (repeat' split) <;> simp [ih]
@[simp ↓] theorem State.modFlush_kept (s : State) (c : Nat) (f : FlushS → FlushS) :
    (State.modFlush s c f).kept = s.kept := by
  simp [State.modFlush]

@[simp ↓] theorem State.flushPump_kept (s : State) (fuel c : Nat) : (s.flushPump fuel c).kept = s.kept := by
  induction fuel generalizing s with
  | zero => rfl
  | succ k ih =>
    unfold State.flushPump
    (repeat' split) <;> simp [ih]
@[simp ↓] theorem State.flushEnd_kept (s : State) (c : Nat) :
    (State.flushEnd s c).kept = s.kept := by
  simp [State.flushEnd]
@[simp ↓] theorem State.cachePump_kept (s : State) (c : Nat) :
    (State.cachePump s c).kept = s.kept := by
  simp [State.cachePump]
@[simp ↓] theorem State.startFlush_kept (s : State) (c : Nat) (f : FlushS → FlushS) :
    (State.startFlush s c f).kept = s.kept := by
  simp [State.startFlush]
@[simp ↓] theorem State.cacheAccess_kept (s : State) (c : Nat) (acc : MemAcc) :
    (State.cacheAccess s c acc).kept = s.kept := by
  simp [State.cacheAccess]
@[simp ↓] theorem State.flushAll_kept (s : State) (n : Nat) :
    (State.flushAll s n).kept = s.kept := by
  simp [State.flushAll]
@[simp ↓] theorem State.dcacheOff_kept (s : State) (n : Nat) :
    (State.dcacheOff s n).kept = s.kept := by
  simp [State.dcacheOff]
@[simp ↓] theorem State.sysCacheOff_kept (s : State) (n : Nat) :
    (State.sysCacheOff s n).kept = s.kept := by
  simp [State.sysCacheOff]
@[simp ↓] theorem State.setDentry_kept (s : State) (line : Nat) (e : Option DEntry) :
    (State.setDentry s line e).kept = s.kept := by
  simp [State.setDentry]
@[simp ↓] theorem State.sendSnoops_kept (s : State) (hs : List Nat) (inv : Bool) (line : Nat) :
    (State.sendSnoops s hs inv line).kept = s.kept := by
  simp [State.sendSnoops]
@[simp ↓] theorem State.openTxn_kept (s : State) (line : Nat) (e : DEntry) (t : Txn) :
    (State.openTxn s line e t).kept = s.kept := by
  simp [State.openTxn]
@[simp ↓] theorem State.openRecall_kept (s : State) (line : Nat) (e : DEntry) (next : Option (Nat × CohKind × Nat)) :
    (State.openRecall s line e next).kept = s.kept := by
  simp [State.openRecall]
@[simp ↓] theorem State.servePromise_kept (s : State) (set : Nat) :
    (State.servePromise s set).kept = s.kept := by
  unfold State.servePromise
  (repeat' split) <;> simp
@[simp ↓] theorem State.dropPromise_kept (s : State) (c : Nat) (line : Nat) :
    (State.dropPromise s c line).kept = s.kept := by
  simp [State.dropPromise]
@[simp ↓] theorem State.homeTake_kept (s : State) (c : Nat) (k : CohKind) (line : Nat) (e : DEntry) :
    (State.homeTake s c k line e).kept = s.kept := by
  simp [State.homeTake]
@[simp ↓] theorem State.homeRetry_kept (s : State) (c : Nat) (line : Nat) :
    (State.homeRetry s c line).kept = s.kept := by
  simp [State.homeRetry]
@[simp ↓] theorem State.homeReq_kept (s : State) (c : Nat) (k : CohKind) (line : Nat) :
    (State.homeReq s c k line).kept = s.kept := by
  unfold State.homeReq
  simp only []
  (repeat' split) <;> simp [*]
@[simp ↓] theorem State.openForwards_kept (s : State) (line : Nat) (write : Bool) (acc : Option MemAcc) (snoop : Option Nat) :
    (State.openForwards s line write acc snoop).kept = s.kept := by
  unfold State.openForwards
  split <;> simp
@[simp ↓] theorem State.answerWith_kept (s : State) (id : Nat) (x : Option (List Byte)) :
    (State.answerWith s id x).kept = s.kept := by
  simp [State.answerWith]
@[simp ↓] theorem State.modTxn_kept (s : State) (line : Nat) (f : Txn → Txn) :
    (State.modTxn s line f).kept = s.kept := by
  unfold State.modTxn
  split <;> simp
@[simp ↓] theorem State.closeEntry_kept (s : State) (line : Nat) (e : DEntry) :
    (State.closeEntry s line e).kept = s.kept := by
  simp [State.closeEntry]
@[simp ↓] theorem State.homeFill_kept (s : State) (line : Nat) (e : DEntry) (t : Txn) :
    (State.homeFill s line e t).kept = s.kept := by
  unfold State.homeFill
  split <;> simp
@[simp ↓] theorem State.snoopFetching_kept (s : State) (line : Nat) (e : DEntry) (t : Txn) (inv : Bool) (id : Nat) :
    (State.snoopFetching s line e t inv id).kept = s.kept := by
  simp [State.snoopFetching]
@[simp ↓] theorem State.lineRefused_kept (s : State) (c : Nat) (line : Nat) :
    (State.lineRefused s c line).kept = s.kept := by
  simp [State.lineRefused]

@[simp ↓] theorem State.snoopRow_kept (s : State) (inv : Bool) (c line : Nat) : (s.snoopRow inv c line).kept = s.kept := by
  unfold State.snoopRow
  split
  · rfl
  · rename_i h
    have hk := State.takeMsg_kept h
    simp only []
    (repeat' split) <;> simp [hk]

@[simp ↓] theorem State.fillRow_kept (s : State) (k : CohKind) (c line : Nat) : (s.fillRow k c line).kept = s.kept := by
  unfold State.fillRow
  split
  · rfl
  · rename_i h
    have hk := State.takeMsg_kept h
    simp [hk]
@[simp ↓] theorem State.fenceOpen_kept (s : State) :
    (State.fenceOpen s).kept = s.kept := by
  simp [State.fenceOpen]
@[simp ↓] theorem State.fenceGo_kept (s : State) :
    (State.fenceGo s).kept = s.kept := by
  simp [State.fenceGo]
@[simp ↓] theorem State.freeTag_kept (s : State) (tag : Nat) :
    (State.freeTag s tag).kept = s.kept := by
  simp [State.freeTag]
@[simp ↓] theorem State.quietHalf_kept (s : State) (e : LEntry) :
    (State.quietHalf s e).kept = s.kept := by
  unfold State.quietHalf
  split <;> simp
@[simp ↓] theorem State.ledgerAdvance_kept (s : State) (v : Nat) :
    (State.ledgerAdvance s v).kept = s.kept := by
  simp [State.ledgerAdvance]
@[simp ↓] theorem State.passPT_kept (s : State) (n : Nat) (dt : Nat) :
    (State.passPT s n dt).kept = s.kept := by
  simp [State.passPT]
@[simp ↓] theorem State.laneShow_kept (s : State) (l : Nat) (q : Nat) :
    (State.laneShow s l q).kept = s.kept := by
  simp [State.laneShow]
@[simp ↓] theorem State.laneAct_kept (s : State) (l : Nat) (src : Nat) (q : Nat) (f : Bool × Bool → Bool × Bool) :
    (State.laneAct s l src q f).kept = s.kept := by
  simp [State.laneAct]
@[simp ↓] theorem State.laneToTclk_kept (s : State) (l : Nat) (rise : Bool) :
    (State.laneToTclk s l rise).kept = s.kept := by
  simp [State.laneToTclk]

@[simp ↓] theorem State.laneRecord_kept (s : State) (l time : Nat) : (s.laneRecord l time).kept = s.kept := by
  have h (t : State) (q : Map SeqS) : ({ t with seqs := q } : State).kept = t.kept := rfl
  unfold State.laneRecord
  extract_lets
  rw [State.present_kept, State.laneToTclk_kept, h, State.setReg_kept, State.kept_ite, State.setBit_kept, ite_self]
@[simp ↓] theorem State.answer_kept (s : State) (bs : List Byte) :
    (State.answer s bs).kept = s.kept := by
  simp [State.answer]
@[simp ↓] theorem State.bayCommit_kept (s : State) (n : Nat) :
    (State.bayCommit s n).kept = s.kept := by
  simp [State.bayCommit]
@[simp ↓] theorem State.progWrite_kept (s : State) (n : Nat) (i : Nat) (data : Word) :
    (State.progWrite s n i data).kept = s.kept := by
  simp [State.progWrite]
@[simp ↓] theorem State.setCredit_kept (s : State) (key : Nat) (used : Nat) (back : Nat) :
    (State.setCredit s key used back).kept = s.kept := by
  simp [State.setCredit]
@[simp ↓] theorem State.useCredit_kept (s : State) (key : Nat) :
    (State.useCredit s key).kept = s.kept := by
  simp [State.useCredit]
@[simp ↓] theorem State.sendCredit_kept (s : State) (key : Nat) (n : Nat) :
    (State.sendCredit s key n).kept = s.kept := by
  simp [State.sendCredit]
@[simp ↓] theorem State.takeCredit_kept (s : State) (key : Nat) :
    (State.takeCredit s key).kept = s.kept := by
  simp [State.takeCredit]
@[simp ↓] theorem State.txwArrive_kept (s : State) (who : Agent) (n : Nat) (k : Nat) (data : Word) :
    (State.txwArrive s who n k data).kept = s.kept := by
  simp [State.txwArrive]
@[simp ↓] theorem State.txwStore_kept (s : State) (gt : Nat) (n : Nat) (k : Nat) (data : Word) :
    (State.txwStore s gt n k data).kept = s.kept := by
  simp [State.txwStore]
@[simp ↓] theorem State.txwWrite_kept (s : State) (who : Agent) (n : Nat) (k : Nat) (data : Word) :
    (State.txwWrite s who n k data).kept = s.kept := by
  unfold State.txwWrite
  split <;> simp
@[simp ↓] theorem State.rxwTake_kept (s : State) (who : Agent) (n : Nat) (k : Nat) :
    (State.rxwTake s who n k).2.kept = s.kept := by
  unfold State.rxwTake
  (repeat' split) <;> simp
@[simp ↓] theorem State.seqCmdStart_kept (s : State) (n : Nat) (k : Nat) (off : Nat) :
    (State.seqCmdStart s n k off).kept = s.kept := by
  simp [State.seqCmdStart]
@[simp ↓] theorem State.seqCmdStop_kept (s : State) (n : Nat) (k : Nat) :
    (State.seqCmdStop s n k).kept = s.kept := by
  simp [State.seqCmdStop]
@[simp ↓] theorem State.seqCmdContinue_kept (s : State) (n : Nat) (k : Nat) (off : Nat) :
    (State.seqCmdContinue s n k off).kept = s.kept := by
  simp [State.seqCmdContinue]
@[simp ↓] theorem State.seqCmdFlush_kept (s : State) (n : Nat) (k : Nat) (off : Nat) :
    (State.seqCmdFlush s n k off).kept = s.kept := by
  simp [State.seqCmdFlush]
@[simp ↓] theorem State.writeSeqCtl_kept (s : State) (n : Nat) (k : Nat) (data : Word) :
    (State.writeSeqCtl s n k data).kept = s.kept := by
  simp [State.writeSeqCtl]
@[simp ↓] theorem State.writeBayGo_kept (s : State) (n : Nat) (data : Word) :
    (State.writeBayGo s n data).kept = s.kept := by
  simp [State.writeBayGo]
@[simp ↓] theorem State.driveLanes_kept (s : State) (n : Nat) (k : Nat) (base : Nat) (cnt : Nat) (q : Nat) (oe : Bool) (v : Word) :
    (State.driveLanes s n k base cnt q oe v).kept = s.kept := by
  simp [State.driveLanes]
@[simp ↓] theorem State.takeTx_kept (s : State) (n : Nat) (k : Nat) :
    (State.takeTx s n k).kept = s.kept := by
  simp [State.takeTx]
@[simp ↓] theorem State.pushRx_kept (s : State) (n : Nat) (k : Nat) (w : Word) :
    (State.pushRx s n k w).kept = s.kept := by
  simp [State.pushRx]
@[simp ↓] theorem State.setX_kept (s : State) (n : Nat) (k : Nat) (v : Word) :
    (State.setX s n k v).kept = s.kept := by
  simp [State.setX]
@[simp ↓] theorem State.setY_kept (s : State) (n : Nat) (k : Nat) (v : Word) :
    (State.setY s n k v).kept = s.kept := by
  simp [State.setY]

/-- The state one cycle of a sequencer leaves; a fault leaves the one it began with. -/
def SeqOut.state (o : SeqOut) (s : State) : State :=
  match o with
  | .done t _ => t
  | .wait t => t
  | .stall t => t
  | .fault _ => s

@[simp] theorem SeqOut.state_done (s t : State) (x : Option Nat) : (SeqOut.done t x).state s = t := rfl
@[simp] theorem SeqOut.state_wait (s t : State) : (SeqOut.wait t).state s = t := rfl
@[simp] theorem SeqOut.state_stall (s t : State) : (SeqOut.stall t).state s = t := rfl
@[simp] theorem SeqOut.state_fault (s : State) (c : Word) : (SeqOut.fault c).state s = s := rfl
@[simp ↓] theorem SeqOut.state_ite (c : Prop) [Decidable c] (a b : SeqOut) (s : State) :
    (if c then a else b).state s = if c then a.state s else b.state s := by split <;> rfl

theorem State.isrDone_kept (s s1 : State) (n k : Nat) (isr : Word) (cnt : Nat) (h : s1.kept = s.kept) :
    ((s.isrDone s1 n k isr cnt).state s).kept = s.kept := by
  simp [State.isrDone, h]

theorem State.timed_kept (s : State) (n k : Nat) (ok : Nat → State → State) (late : State → State)
    (h1 : ∀ q s, (ok q s).kept = s.kept) (h2 : ∀ s, (late s).kept = s.kept) :
    ((s.timed n k ok late).state s).kept = s.kept := by
  simp [State.timed, h1, h2]

theorem State.jmpTest_kept {s t : State} {n k : Nat} {w : Word} {b : Bool}
    (h : s.jmpTest n k w = some (b, t)) : t.kept = s.kept := by
  unfold State.jmpTest at h
  simp only [] at h
  split at h <;> first | (cases h; simp; done) | cases h

theorem State.seqJmp_kept (s : State) (n k : Nat) (w : Word) :
    ((s.seqJmp n k w).state s).kept = s.kept := by
  unfold State.seqJmp
  simp only []
  split
  · rfl
  · split
    · rfl
    · rename_i h; have := State.jmpTest_kept h
      simp [this]
    · rename_i h; exact State.jmpTest_kept h

theorem State.seqWaitI_kept (s : State) (n k : Nat) (w : Word) :
    ((s.seqWaitI n k w).state s).kept = s.kept := by
  unfold State.seqWaitI
  simp only []
  split
  · simp
  · simp
  · split
    · rfl
    · have h := State.timed_kept s n k (fun _ s => s) id (fun _ _ => rfl) (fun _ => rfl)
      split
      · rename_i e; rw [e] at h; exact h
      · exact h
  · (repeat' split) <;> simp
  · simp
  · rfl

theorem State.seqInI_kept (s : State) (n k : Nat) (w : Word) :
    ((s.seqInI n k w).state s).kept = s.kept := by
  unfold State.seqInI
  simp only []
  split
  · rfl
  · split
    · rfl
    · exact State.isrDone_kept _ _ _ _ _ _ rfl

theorem State.seqOutI_kept (s : State) (n k : Nat) (w : Word) :
    ((s.seqOutI n k w).state s).kept = s.kept := by
  unfold State.seqOutI
  simp only []
  split
  · rfl
  · split
    · rfl
    · split
      · refine State.timed_kept _ _ _ _ _ ?_ ?_
        · intro q t
          split <;> simp
        · intro t
          simp
      · simp only [SeqOut.state_done]
        split <;> simp

theorem State.seqPushI_kept (s : State) (n k : Nat) (w : Word) :
    ((s.seqPushI n k w).state s).kept = s.kept := by
  simp [State.seqPushI]

theorem State.seqPullI_kept (s : State) (n k : Nat) (w : Word) :
    ((s.seqPullI n k w).state s).kept = s.kept := by
  unfold State.seqPullI
  split
  · rfl
  · split <;> simp

theorem State.seqMovI_kept (s : State) (n k : Nat) (w : Word) :
    ((s.seqMovI n k w).state s).kept = s.kept := by
  unfold State.seqMovI
  simp only []
  split
  · rfl
  · split
    · rfl
    · split <;> simp

theorem State.seqSetI_kept (s : State) (n k : Nat) (w : Word) :
    ((s.seqSetI n k w).state s).kept = s.kept := by
  unfold State.seqSetI
  simp only []
  split
  · rfl
  · split
    · exact State.timed_kept _ _ _ _ _ (fun q t => by simp) (fun _ => rfl)
    · simp

theorem State.seqEvtI_kept (s : State) (n k : Nat) (w : Word) :
    ((s.seqEvtI n k w).state s).kept = s.kept := by
  simp [State.seqEvtI]

theorem State.seqStampI_kept (s : State) (n k : Nat) (w : Word) :
    ((s.seqStampI n k w).state s).kept = s.kept := by
  unfold State.seqStampI
  simp only []
  split
  · rfl
  · split
    · split
      · rfl
      · exact State.isrDone_kept _ _ _ _ _ _ rfl
    · exact State.isrDone_kept _ _ _ _ _ _ (by simp)
    · split
      · exact State.isrDone_kept _ _ _ _ _ _ (by simp)
      · rfl
      · simp
    · rfl

theorem State.seqRun_kept (s : State) (n k : Nat) (w : Word) :
    ((s.seqRun n k w).state s).kept = s.kept := by
  unfold State.seqRun
  split
  · exact State.seqJmp_kept ..
  · exact State.seqWaitI_kept ..
  · exact State.seqInI_kept ..
  · exact State.seqOutI_kept ..
  · exact State.seqPushI_kept ..
  · exact State.seqPullI_kept ..
  · exact State.seqMovI_kept ..
  · exact State.seqSetI_kept ..
  · exact State.seqEvtI_kept ..
  · exact State.seqStampI_kept ..
  · rfl

@[simp ↓] theorem State.seqCycle_kept (s : State) (n k : Nat) : (s.seqCycle n k).kept = s.kept := by
  unfold State.seqCycle
  have h := State.seqRun_kept s n k (s.seqWord n k)
  split <;> rename_i e <;> rw [e] at h <;> simp at h ⊢ <;> exact h
@[simp ↓] theorem State.seqRow_kept (s : State) (ty : Nat) (n : Nat) (k : Nat) (dt : Nat) :
    (State.seqRow s ty n k dt).kept = s.kept := by
  simp [State.seqRow]
@[simp ↓] theorem State.setEdgeQ_kept (s : State) (n : Nat) (q : List EdgeE) :
    (State.setEdgeQ s n q).kept = s.kept := by
  simp [State.setEdgeQ]
@[simp ↓] theorem State.edgeAct_kept (s : State) (n : Nat) (e : EdgeE) (q : Nat) :
    (State.edgeAct s n e q).kept = s.kept := by
  simp [State.edgeAct]
@[simp ↓] theorem State.setTb_kept (s : State) (v : Nat) :
    (State.setTb s v).kept = s.kept := by
  simp [State.setTb]
@[simp ↓] theorem State.setAdjLeft_kept (s : State) (n : Nat) :
    (State.setAdjLeft s n).kept = s.kept := by
  simp [State.setAdjLeft]
@[simp ↓] theorem State.tclk_kept (s : State) (n : Nat) :
    (State.tclk s n).kept = s.kept := by
  simp [State.tclk]
@[simp ↓] theorem State.tbRate_kept (s : State) :
    (State.tbRate s).kept = s.kept := by
  simp [State.tbRate]

@[simp ↓] theorem State.tbStep_kept (s : State) : (s.tbStep).kept = s.kept := by
  have h (t : State) (q : List (Crossing × XItem)) : ({ t with xq := q } : State).kept = t.kept := rfl
  have h2 (t : State) (q : List (Nat × Nat)) : ({ t with tbHist := q } : State).kept = t.kept := rfl
  unfold State.tbStep
  extract_lets
  rw [State.present_kept, h, State.kept_ite, State.present_kept, State.setBit_kept, State.setBit_kept, ite_self, h2,
    State.setAdjLeft_kept, State.countWrap_kept, State.setTb_kept, State.commitAll_kept]
@[simp ↓] theorem State.tbSnap_kept (s : State) :
    (State.tbSnap s).kept = s.kept := by
  simp [State.tbSnap]
@[simp ↓] theorem State.writeTbCmd_kept (s : State) (data : Word) :
    (State.writeTbCmd s data).kept = s.kept := by
  simp [State.writeTbCmd]
@[simp ↓] theorem State.modTmr_kept (s : State) (m : Nat) (f : TimerS → TimerS) :
    (State.modTmr s m f).kept = s.kept := by
  simp [State.modTmr]
@[simp ↓] theorem State.setCount_kept (s : State) (m : Nat) (v : Nat) :
    (State.setCount s m v).kept = s.kept := by
  simp [State.setCount]
@[simp ↓] theorem State.tmrMatch_kept (s : State) (m : Nat) (c : Nat) (hop : Nat) :
    (State.tmrMatch s m c hop).kept = s.kept := by
  simp [State.tmrMatch]
@[simp ↓] theorem State.tmrMatches_kept (s : State) (m : Nat) (v : Nat) (hop : Nat) :
    (State.tmrMatches s m v hop).kept = s.kept := by
  simp [State.tmrMatches]
@[simp ↓] theorem State.tmrLoad_kept (s : State) (m : Nat) (hop : Nat) :
    (State.tmrLoad s m hop).kept = s.kept := by
  simp [State.tmrLoad]
@[simp ↓] theorem State.prescClear_kept (s : State) (m : Nat) :
    (State.prescClear s m).kept = s.kept := by
  simp [State.prescClear]
@[simp ↓] theorem State.tmrZero_kept (s : State) (m : Nat) (hop : Nat) :
    (State.tmrZero s m hop).kept = s.kept := by
  simp [State.tmrZero]
@[simp ↓] theorem State.tmrCycle_kept (s : State) (m : Nat) (hop : Nat) :
    (State.tmrCycle s m hop).kept = s.kept := by
  simp [State.tmrCycle]
@[simp ↓] theorem State.tmrTick_kept (s : State) (m : Nat) (hop : Nat) :
    (State.tmrTick s m hop).kept = s.kept := by
  simp [State.tmrTick]
@[simp ↓] theorem State.tmrCapture_kept (s : State) (m : Nat) (hop : Nat) (rise : Bool) :
    (State.tmrCapture s m hop rise).kept = s.kept := by
  simp [State.tmrCapture]
@[simp ↓] theorem State.tmrDropTick_kept (s : State) (m : Nat) :
    (State.tmrDropTick s m).kept = s.kept := by
  simp [State.tmrDropTick]
@[simp ↓] theorem State.tmrForce_kept (s : State) (m : Nat) (hop : Nat) :
    (State.tmrForce s m hop).kept = s.kept := by
  simp [State.tmrForce]
@[simp ↓] theorem State.tmrInput1_kept (s : State) (m : Nat) (hop : Nat) :
    (State.tmrInput1 s m hop).kept = s.kept := by
  simp [State.tmrInput1]
@[simp ↓] theorem State.takeHeld_kept (s : State) (x : Nat) :
    (State.takeHeld s x).kept = s.kept := by
  simp [State.takeHeld]
@[simp ↓] theorem State.tmrLaneCapture_kept (s : State) (m : Nat) :
    (State.tmrLaneCapture s m).kept = s.kept := by
  unfold State.tmrLaneCapture
  split <;> simp

@[simp ↓] theorem State.tmrCapTake_kept (s : State) (m : Nat) : (s.tmrCapTake m).2.2.kept = s.kept := by
  unfold State.tmrCapTake
  split <;> simp
@[simp ↓] theorem State.disarm_kept (s : State) (m : Nat) :
    (State.disarm s m).kept = s.kept := by
  simp [State.disarm]
@[simp ↓] theorem State.tmrBegin_kept (s : State) (m : Nat) :
    (State.tmrBegin s m).kept = s.kept := by
  simp [State.tmrBegin]
@[simp ↓] theorem State.tmrCmdStart_kept (s : State) (m : Nat) :
    (State.tmrCmdStart s m).kept = s.kept := by
  simp [State.tmrCmdStart]
@[simp ↓] theorem State.tmrCmdStop_kept (s : State) (m : Nat) :
    (State.tmrCmdStop s m).kept = s.kept := by
  simp [State.tmrCmdStop]
@[simp ↓] theorem State.tmrGroup_kept (s : State) (m : Nat) :
    (State.tmrGroup s m).kept = s.kept := by
  simp [State.tmrGroup]
@[simp ↓] theorem State.tmrCmdCommit_kept (s : State) (m : Nat) :
    (State.tmrCmdCommit s m).kept = s.kept := by
  simp [State.tmrCmdCommit]
@[simp ↓] theorem State.tmrCmdForce_kept (s : State) (m : Nat) :
    (State.tmrCmdForce s m).kept = s.kept := by
  simp [State.tmrCmdForce]
@[simp ↓] theorem State.tmrCmdSnap_kept (s : State) (m : Nat) :
    (State.tmrCmdSnap s m).kept = s.kept := by
  simp [State.tmrCmdSnap]
@[simp ↓] theorem State.writeTmrCmd_kept (s : State) (m : Nat) (data : Word) :
    (State.writeTmrCmd s m data).kept = s.kept := by
  simp [State.writeTmrCmd]
@[simp ↓] theorem State.gsGo_kept (s : State) :
    (State.gsGo s).kept = s.kept := by
  simp [State.gsGo]
@[simp ↓] theorem State.writeGsGo_kept (s : State) :
    (State.writeGsGo s).kept = s.kept := by
  simp [State.writeGsGo]
@[simp ↓] theorem State.goAtEnable_kept (s : State) :
    (State.goAtEnable s).kept = s.kept := by
  simp [State.goAtEnable]
@[simp ↓] theorem State.latchRead_kept (s : State) (gt : Nat) (r : Latch) :
    (State.latchRead s gt r).2.kept = s.kept := by
  simp [State.latchRead]
@[simp ↓] theorem State.heldMax_kept (s : State) (x : Nat) (h : Nat) :
    (State.heldMax s x h).kept = s.kept := by
  simp [State.heldMax]
@[simp ↓] theorem State.holdEvent_kept (s : State) (x : Nat) (h : Nat) :
    (State.holdEvent s x h).kept = s.kept := by
  simp [State.holdEvent]
@[simp ↓] theorem State.deliverInput_kept (s : State) (x : Nat) (h : Nat) (tag : Option (Nat × Nat)) :
    (State.deliverInput s x h tag).kept = s.kept := by
  unfold State.deliverInput
  simp only []
  (repeat' split) <;> simp [*]

@[simp ↓] theorem State.deliverAll_kept (s : State) (h : Nat) (targets : List (Nat × Option (Nat × Nat)))
    (forces : List (Nat × Nat)) : (s.deliverAll h targets forces).kept = s.kept := by
  refine State.foldl_kept _ _ _ ?_
  intro s x
  split <;> simp
@[simp ↓] theorem State.deliverRouted_kept (s : State) (e : Routed) (coincide : Bool) :
    (State.deliverRouted s e coincide).kept = s.kept := by
  unfold State.deliverRouted
  split <;> simp
@[simp ↓] theorem State.outLevel_kept (s : State) (i : Nat) (v : Bool) :
    (State.outLevel s i v).kept = s.kept := by
  unfold State.outLevel
  simp only []
  (repeat' split) <;> simp [*]
@[simp ↓] theorem State.writeSelect_kept (s : State) (who : Agent) (x : Nat) (data : Word) :
    (State.writeSelect s who x data).kept = s.kept := by
  simp [State.writeSelect]
@[simp ↓] theorem State.judgeMessage_kept (s : State) (dst : Nat) (role : Nat) (pass : Bool) (data : BitVec 64) :
    (State.judgeMessage s dst role pass data).2.kept = s.kept := by
  unfold State.judgeMessage
  (repeat' split) <;> simp
@[simp ↓] theorem State.acceptMessage_kept (s : State) (sender : Nat) (w : Word) (data : BitVec 64) :
    (State.acceptMessage s sender w data).2.kept = s.kept := by
  simp [State.acceptMessage]
@[simp ↓] theorem State.sendToDie_kept (s : State) (k : Nat) (w : Word) (data : BitVec 64) :
    (State.sendToDie s k w data).2.kept = s.kept := by
  unfold State.sendToDie
  (repeat' split) <;> simp

end Sys2Proof.Machine
end

