-- ==== Sys2Proof/Laws/KeptSystem.lean ====
section
/-!
SUPPORT. What the operations of banks, bridge links, the gleaner, twins, virtual complexes, images,
start-up, modes and the boundary leave alone.
-/
set_option Elab.async false
namespace Sys2Proof.Machine

@[simp ↓] theorem State.bankPower_kept (s : State) (s0 : State) (g : Nat) (p : Word) :
    (State.bankPower s s0 g p).kept = s.kept := by
  simp [State.bankPower]
@[simp ↓] theorem State.marchGo_kept (s : State) :
    (State.marchGo s).kept = s.kept := by
  simp [State.marchGo]
@[simp ↓] theorem State.setLoftRec_kept (s : State) (r : Nat) (x : LoftRec) :
    (State.setLoftRec s r x).kept = s.kept := by
  simp [State.setLoftRec]
@[simp ↓] theorem State.loftStart_kept (s : State) (r : Nat) (secret : Bool) (d : BitVec 2048) :
    (State.loftStart s r secret d).kept = s.kept := by
  simp [State.loftStart]
@[simp ↓] theorem State.loftGo_kept (s : State) (r : Nat) (secret : Bool) :
    (State.loftGo s r secret).kept = s.kept := by
  simp [State.loftGo]
@[simp ↓] theorem State.loftPut_kept (s : State) (r : Nat) (secret : Bool) (d : BitVec 2048) :
    (State.loftPut s r secret d).kept = s.kept := by
  simp [State.loftPut]
@[simp ↓] theorem State.loftEnd_kept (s : State) (ok : Bool) :
    (State.loftEnd s ok).kept = s.kept := by
  unfold State.loftEnd
  split <;> simp
@[simp ↓] theorem State.storeDigest_kept (s : State) :
    (State.storeDigest s).kept = s.kept := by
  simp [State.storeDigest]
@[simp ↓] theorem State.setRoute_kept (s : State) (k : Nat) (p : Option Nat) :
    (State.setRoute s k p).kept = s.kept := by
  simp [State.setRoute]

@[simp ↓] theorem State.drainOut_kept (s : State) (k p : Nat) : (s.drainOut k p).kept = s.kept := by
  refine State.foldl_kept _ _ _ ?_
  intro t j
  simp only []
  split <;> simp
@[simp ↓] theorem State.train_kept (s : State) (p : Nat) :
    (State.train s p).kept = s.kept := by
  simp [State.train]
@[simp ↓] theorem State.brEnable_kept (s : State) (p : Nat) :
    (State.brEnable s p).kept = s.kept := by
  simp [State.brEnable]
@[simp ↓] theorem State.respond_kept (s : State) (p : Nat) (data : Option (List Byte)) :
    (State.respond s p data).kept = s.kept := by
  simp [State.respond]
@[simp ↓] theorem State.slew_kept (s : State) (p : Nat) (ofs : Int) :
    (State.slew s p ofs).kept = s.kept := by
  simp [State.slew]
@[simp ↓] theorem State.chanTake_kept (s : State) (c : Nat) (job : Nat) :
    (State.chanTake s c job).kept = s.kept := by
  simp [State.chanTake]
@[simp ↓] theorem State.chanNote_kept (s : State) (c : Nat) (job : Nat) (a : Nat) (n : Nat) :
    (State.chanNote s c job a n).1.kept = s.kept := by
  simp [State.chanNote]
@[simp ↓] theorem State.chanSend_kept (s : State) (c : Nat) (job : Nat) (a : Nat) (n : Nat) (wr : Option (List Byte)) :
    (State.chanSend s c job a n wr).kept = s.kept := by
  simp [State.chanSend]
@[simp ↓] theorem State.setPool_kept (s : State) (p : Nat) (x : PoolS) :
    (State.setPool s p x).kept = s.kept := by
  simp [State.setPool]
@[simp ↓] theorem State.poolPend_kept (s : State) (lo : Nat) (p : Nat) :
    (State.poolPend s lo p).kept = s.kept := by
  simp [State.poolPend]
@[simp ↓] theorem State.poolFail_kept (s : State) (p : Nat) :
    (State.poolFail s p).kept = s.kept := by
  simp [State.poolFail]

theorem State.poolTake_kept {s : State} {p : Nat} {q : Word × State} (h : s.poolTake p = some q) :
    q.2.kept = s.kept := by
  unfold State.poolTake at h
  split at h
  · cases h
  · cases h; simp
@[simp ↓] theorem State.freeRejected_kept (s : State) (h : Word) :
    (State.freeRejected s h).kept = s.kept := by
  simp [State.freeRejected]

theorem State.poolDo_kept {s t : State} {p : Nat} {op : PoolOp} (h : s.poolDo p op = some t) : t.kept = s.kept := by
  unfold State.poolDo at h
  split at h
  · split at h
    · cases h; simp
    · rw [Option.map_eq_some_iff] at h
      obtain ⟨q, hq, rfl⟩ := h
      simpa using State.poolTake_kept hq
  · extract_lets x at h
    split at h
    · cases h; simp
    · split at h
      · cases h
      · cases h; simp

@[simp ↓] theorem State.poolRun_kept (s : State) (p : Nat) (ops : List PoolOp) : (s.poolRun p ops).kept = s.kept := by
  induction ops generalizing s with
  | nil => simp [State.poolRun]
  | cons op r ih =>
    unfold State.poolRun
    split
    · rename_i h
      rw [ih]
      exact State.poolDo_kept h
    · simp
@[simp ↓] theorem State.poolPump_kept (s : State) (p : Nat) :
    (State.poolPump s p).kept = s.kept := by
  simp [State.poolPump]
@[simp ↓] theorem State.poolOp_kept (s : State) (p : Nat) (op : PoolOp) :
    (State.poolOp s p op).kept = s.kept := by
  simp [State.poolOp]

@[simp ↓] theorem State.poolServe_kept (s : State) (p : Nat) (ref : ReqRef) : (s.poolServe p ref).kept = s.kept := by
  simp [State.poolServe]
@[simp ↓] theorem State.poolFree_kept (s : State) (h : Word) :
    (State.poolFree s h).kept = s.kept := by
  simp [State.poolFree]
@[simp ↓] theorem State.poolEnable_kept (s : State) (s0 : State) (p : Nat) :
    (State.poolEnable s s0 p).kept = s.kept := by
  simp [State.poolEnable]
@[simp ↓] theorem State.poolCmd_kept (s : State) (who : Agent) (p : Nat) (on : Bool) (f : State → State) (hf : ∀ s, (f s).kept = s.kept) :
    (State.poolCmd s who p on f).kept = s.kept := by
  unfold State.poolCmd
  (repeat' split) <;> simp [*]
@[simp ↓] theorem State.freeWords_kept (s : State) (n : Nat) :
    (State.freeWords s n).2.kept = s.kept := by
  simp [State.freeWords]
@[simp ↓] theorem State.poolCached_kept (s : State) (p : Nat) (hs : List Word) (f : PoolS → PoolS) :
    (State.poolCached s p hs f).kept = s.kept := by
  simp [State.poolCached]
@[simp ↓] theorem State.poolFresh_kept (s : State) (p : Nat) :
    (State.poolFresh s p).kept = s.kept := by
  simp [State.poolFresh]
@[simp ↓] theorem State.reserve_kept (s : State) (c : Nat) :
    (State.reserve s c).kept = s.kept := by
  simp [State.reserve]
@[simp ↓] theorem State.unreserve_kept (s : State) (c : Nat) :
    (State.unreserve s c).kept = s.kept := by
  simp [State.unreserve]
@[simp ↓] theorem State.writeBmCtl_kept (s : State) (who : Agent) (data : Word) :
    (State.writeBmCtl s who data).kept = s.kept := by
  simp [State.writeBmCtl]
@[simp ↓] theorem State.chAbort_kept (s : State) (c : Nat) :
    (State.chAbort s c).kept = s.kept := by
  simp [State.chAbort]
@[simp ↓] theorem State.chCommit_kept (s : State) (c : Nat) :
    (State.chCommit s c).kept = s.kept := by
  simp [State.chCommit]

@[simp ↓] theorem State.chanAlloc_kept (s : State) (p : Nat) : (s.chanAlloc p).2.kept = s.kept := by
  unfold State.chanAlloc
  extract_lets x s'
  split
  · simp
  · have hs : s'.kept = s.kept := by show (ite _ _ _ : State).kept = _; simp
    split
    · rename_i h
      exact (State.poolTake_kept h).trans hs
    · exact hs
@[simp ↓] theorem State.setSilo_kept (s : State) (x : SiloS) :
    (State.setSilo s x).kept = s.kept := by
  simp [State.setSilo]
@[simp ↓] theorem State.siloEnable_kept (s : State) (s0 : State) :
    (State.siloEnable s s0).kept = s.kept := by
  unfold State.siloEnable
  split <;> simp
@[simp ↓] theorem State.putDropped_kept (s : State) :
    (State.putDropped s).kept = s.kept := by
  simp [State.putDropped]
@[simp ↓] theorem State.siloPut_kept (s : State) (who : Agent) (lo : Word) (hi : Word) :
    (State.siloPut s who lo hi).kept = s.kept := by
  simp [State.siloPut]
@[simp ↓] theorem State.siloStopIf_kept (s : State) (p : Put) :
    (State.siloStopIf s p).kept = s.kept := by
  simp [State.siloStopIf]
@[simp ↓] theorem State.siloTaken_kept (s : State) (p : Put) (rest : List Put) (lag : Nat) (payload : List Byte) :
    (State.siloTaken s p rest lag payload).kept = s.kept := by
  simp [State.siloTaken]
@[simp ↓] theorem State.siloTrigger_kept (s : State) :
    (State.siloTrigger s).kept = s.kept := by
  simp [State.siloTrigger]
@[simp ↓] theorem State.siloRearm_kept (s : State) :
    (State.siloRearm s).kept = s.kept := by
  simp [State.siloRearm]
@[simp ↓] theorem State.writeSiloCmd_kept (s : State) (data : Word) :
    (State.writeSiloCmd s data).kept = s.kept := by
  simp [State.writeSiloCmd]
@[simp ↓] theorem State.setBulk_kept (s : State) (k : Nat) (x : BulkS) :
    (State.setBulk s k x).kept = s.kept := by
  simp [State.setBulk]
@[simp ↓] theorem State.bulkDrop_kept (s : State) (k : Nat) :
    (State.bulkDrop s k).kept = s.kept := by
  simp [State.bulkDrop]
@[simp ↓] theorem State.bulkBusyHits_kept (s : State) (k : Nat) (n : Nat) :
    (State.bulkBusyHits s k n).kept = s.kept := by
  simp [State.bulkBusyHits]

theorem State.bulkBuffer_kept {s t : State} {k : Nat} (h : s.bulkBuffer k = some t) : t.kept = s.kept := by
  unfold State.bulkBuffer at h
  extract_lets others s' at h
  split at h
  · cases h; rfl
  · split at h
    · cases h
    · split at h
      · obtain rfl : s' = t := Option.some.inj h
        rfl
      · split at h
        · obtain rfl : s'.bulkDrop _ = t := Option.some.inj h
          exact State.bulkDrop_kept _ _
        · cases h
@[simp ↓] theorem State.bulkHold_kept (s : State) (k : Nat) :
    (State.bulkHold s k).kept = s.kept := by
  simp [State.bulkHold]
@[simp ↓] theorem State.bulkNext_kept (s : State) (k : Nat) (a : Nat) (n : Nat) :
    (State.bulkNext s k a n).kept = s.kept := by
  simp [State.bulkNext]

@[simp ↓] theorem State.bulkWriteBeat_kept (s : State) (k : Nat) (a : Nat) (bs : List Byte) :
    (State.bulkWriteBeat s k a bs).kept = s.kept := by
  unfold State.bulkWriteBeat
  split
  · simp
  · rename_i h
    have := State.bulkBuffer_kept h
    extract_lets
    split <;> simp [this]
@[simp ↓] theorem State.bulkError_kept (s : State) :
    (State.bulkError s).kept = s.kept := by
  simp [State.bulkError]
@[simp ↓] theorem State.bulkFail_kept (s : State) (k : Nat) (b : Nat) :
    (State.bulkFail s k b).kept = s.kept := by
  simp [State.bulkFail]
@[simp ↓] theorem State.bulkSettle_kept (s : State) (k : Nat) :
    (State.bulkSettle s k).kept = s.kept := by
  simp [State.bulkSettle]
@[simp ↓] theorem State.writeBulkAddr_kept (s : State) (k : Nat) (data : Word) :
    (State.writeBulkAddr s k data).kept = s.kept := by
  simp [State.writeBulkAddr]
@[simp ↓] theorem State.bulkReads_kept (s : State) (k : Nat) :
    (State.bulkReads s k).kept = s.kept := by
  simp [State.bulkReads]
@[simp ↓] theorem State.bulkRegRead_kept (s : State) (k : Nat) (off : Nat) (ref : ReqRef) :
    (State.bulkRegRead s k off ref).kept = s.kept := by
  simp [State.bulkRegRead]
@[simp ↓] theorem State.stopFully_kept (s : State) (gt : Nat) :
    (State.stopFully s gt).kept = s.kept := by
  simp [State.stopFully]
@[simp ↓] theorem State.clearContext_kept (s : State) (gt : Nat) (n : Nat) :
    (State.clearContext s gt n).kept = s.kept := by
  simp [State.clearContext]
@[simp ↓] theorem State.bayStop_kept (s : State) (n : Nat) :
    (State.bayStop s n).kept = s.kept := by
  simp [State.bayStop]
@[simp ↓] theorem State.bayEmpty_kept (s : State) (n : Nat) :
    (State.bayEmpty s n).kept = s.kept := by
  simp [State.bayEmpty]
@[simp ↓] theorem State.laneStatic_kept (s : State) (l : Nat) :
    (State.laneStatic s l).kept = s.kept := by
  simp [State.laneStatic]
@[simp ↓] theorem State.renameLeave_kept (s : State) (n : Nat) :
    (State.renameLeave s n).kept = s.kept := by
  simp [State.renameLeave]
@[simp ↓] theorem State.setMode_kept (s : State) (m : Word) :
    (State.setMode s m).kept = s.kept := by
  simp [State.setMode]
@[simp ↓] theorem State.askClocks_kept (s : State) (cs : List (Nat × Nat)) (goal : Nat) :
    (State.askClocks s cs goal).kept = s.kept := by
  simp [State.askClocks]
@[simp ↓] theorem State.modeAtCclk_kept (s : State) (m : Word) (mhz : Word) :
    (State.modeAtCclk s m mhz).kept = s.kept := by
  simp [State.modeAtCclk]
@[simp ↓] theorem State.bayLimp_kept (s : State) (n : Nat) :
    (State.bayLimp s n).kept = s.kept := by
  simp [State.bayLimp]
@[simp ↓] theorem State.setClock_kept (s : State) (i : Nat) (v : Nat) :
    (State.setClock s i v).kept = s.kept := by
  simp [State.setClock]
@[simp ↓] theorem State.seedMember_kept (s : State) (p : Nat) (gt : Nat) (shadow : Bool) :
    (State.seedMember s p gt shadow).kept = s.kept := by
  simp [State.seedMember]
@[simp ↓] theorem State.seed_kept (s : State) (p : Nat) (rerun : Bool) :
    (State.seed s p rerun).kept = s.kept := by
  simp [State.seed]
@[simp ↓] theorem State.twinSeed_kept (s : State) (p : Nat) :
    (State.twinSeed s p).kept = s.kept := by
  simp [State.twinSeed]
@[simp ↓] theorem State.unmember_kept (s : State) (p : Nat) :
    (State.unmember s p).kept = s.kept := by
  simp [State.unmember]
@[simp ↓] theorem State.joinPair_kept (s : State) (p : Nat) (gt : Nat) (shadow : Bool) :
    (State.joinPair s p gt shadow).kept = s.kept := by
  simp [State.joinPair]
@[simp ↓] theorem State.memberChange_kept (s : State) (p : Nat) :
    (State.memberChange s p).kept = s.kept := by
  simp [State.memberChange]
@[simp ↓] theorem State.unitResult_kept (s : State) (u : Nat) (pass : Bool) :
    (State.unitResult s u pass).kept = s.kept := by
  simp [State.unitResult]
@[simp ↓] theorem State.winInject_kept (s : State) :
    (State.winInject s).kept = s.kept := by
  simp [State.winInject]
@[simp ↓] theorem State.stopMember_kept (s : State) (gt : Nat) (detail : Byte) :
    (State.stopMember s gt detail).kept = s.kept := by
  simp [State.stopMember]
@[simp ↓] theorem State.startSelftest_kept (s : State) (n : Nat) :
    (State.startSelftest s n).kept = s.kept := by
  simp [State.startSelftest]
@[simp ↓] theorem State.askSelftest_kept (s : State) (p : Nat) (n : Nat) :
    (State.askSelftest s p n).kept = s.kept := by
  unfold State.askSelftest
  split <;> simp
@[simp ↓] theorem State.lastReport_kept (s : State) (p : Nat) (b : Bool) (r : Option Report) (sig : Word) :
    (State.lastReport s p b r sig).kept = s.kept := by
  unfold State.lastReport
  split <;> simp
@[simp ↓] theorem State.setOwnByte_kept (s : State) (off : Nat) (b : Word) :
    (State.setOwnByte s off b).kept = s.kept := by
  simp [State.setOwnByte]
@[simp ↓] theorem State.writeOwnByte_kept (s : State) (mgr : Bool) (off : Nat) (data : Word) :
    (State.writeOwnByte s mgr off data).1.kept = s.kept := by
  unfold State.writeOwnByte
  simp only []
  (repeat' split) <;> simp [*]

/-- A fold over a state beside a value. -/
theorem State.foldl_fst_kept {α β : Type} (l : List α) (f : State × β → α → State × β) (p : State × β)
    (h : ∀ p x, (f p x).1.kept = p.1.kept) : (l.foldl f p).1.kept = p.1.kept := by
  induction l generalizing p with
  | nil => rfl
  | cons a r ih => exact (ih _).trans (h p a)

@[simp ↓] theorem State.writeOwners_kept (s : State) (who : Agent) (off : Nat) (data : Word) :
    (s.writeOwners who off data).kept = s.kept := by
  unfold State.writeOwners
  extract_lets p
  have h : p.1.kept = s.kept := State.foldl_fst_kept _ _ _ (fun q x => by simp)
  split <;> simp [h]
@[simp ↓] theorem State.threadReset_kept (s : State) (gt : Nat) :
    (State.threadReset s gt).kept = s.kept := by
  simp [State.threadReset]
@[simp ↓] theorem State.dropHeld_kept (s : State) (x : Nat) (y : Nat) :
    (State.dropHeld s x y).kept = s.kept := by
  simp [State.dropHeld]
@[simp ↓] theorem State.timerReset_kept (s : State) (m : Nat) :
    (State.timerReset s m).kept = s.kept := by
  simp [State.timerReset]
@[simp ↓] theorem State.laneReset_kept (s : State) (l : Nat) :
    (State.laneReset s l).kept = s.kept := by
  unfold State.laneReset
  simp only []
  (repeat' split) <;> simp [*]
@[simp ↓] theorem State.bulkReset_kept (s : State) (k : Nat) :
    (State.bulkReset s k).kept = s.kept := by
  simp [State.bulkReset]
@[simp ↓] theorem State.vcNo_kept (s : State) (v : Nat) :
    (State.vcNo s v).kept = s.kept := by
  simp [State.vcNo]
@[simp ↓] theorem State.vcCreate_kept (s : State) (v : Nat) :
    (State.vcCreate s v).kept = s.kept := by
  simp [State.vcCreate]
@[simp ↓] theorem State.dropOwners_kept (s : State) (v : Nat) :
    (State.dropOwners s v).kept = s.kept := by
  simp [State.dropOwners]
@[simp ↓] theorem State.threadFreeze_kept (s : State) (gt : Nat) :
    (State.threadFreeze s gt).kept = s.kept := by
  simp [State.threadFreeze]
@[simp ↓] theorem State.bayFreeze_kept (s : State) (n : Nat) :
    (State.bayFreeze s n).kept = s.kept := by
  simp [State.bayFreeze]
@[simp ↓] theorem State.timerFreeze_kept (s : State) (m : Nat) :
    (State.timerFreeze s m).kept = s.kept := by
  simp [State.timerFreeze]
@[simp ↓] theorem State.vcFreeze_kept (s : State) (v : Nat) :
    (State.vcFreeze s v).kept = s.kept := by
  simp [State.vcFreeze]
@[simp ↓] theorem State.threadThaw_kept (s : State) (gt : Nat) :
    (State.threadThaw s gt).kept = s.kept := by
  simp [State.threadThaw]
@[simp ↓] theorem State.bayThaw_kept (s : State) (n : Nat) :
    (State.bayThaw s n).kept = s.kept := by
  simp [State.bayThaw]
@[simp ↓] theorem State.timerThaw_kept (s : State) (m : Nat) :
    (State.timerThaw s m).kept = s.kept := by
  simp [State.timerThaw]
@[simp ↓] theorem State.vcThaw_kept (s : State) (v : Nat) :
    (State.vcThaw s v).kept = s.kept := by
  simp [State.vcThaw]
@[simp ↓] theorem State.mbxTx_kept (s : State) (v : Nat) (lo : Word) (hi : Word) :
    (State.mbxTx s v lo hi).kept = s.kept := by
  simp [State.mbxTx]
@[simp ↓] theorem State.mbxPost_kept (s : State) (who : Agent) (v : Nat) (lo : Word) (hi : Word) :
    (State.mbxPost s who v lo hi).kept = s.kept := by
  simp [State.mbxPost]
@[simp ↓] theorem State.mbxTake_kept (s : State) (v : Nat) :
    (State.mbxTake s v).2.kept = s.kept := by
  unfold State.mbxTake
  split <;> simp
@[simp ↓] theorem State.ifaceSelect_kept (s : State) (v : Nat) (data : Word) :
    (State.ifaceSelect s v data).kept = s.kept := by
  simp [State.ifaceSelect]
@[simp ↓] theorem State.vcCmd_kept (s : State) (who : Agent) (v : Nat) (f : State → State) (hf : ∀ s, (f s).kept = s.kept) :
    (State.vcCmd s who v f).kept = s.kept := by
  unfold State.vcCmd
  (repeat' split) <;> simp [*]
@[simp ↓] theorem State.modJob_kept (s : State) (v : Nat) (f : ImageJob → ImageJob) :
    (State.modJob s v f).kept = s.kept := by
  simp [State.modJob]
@[simp ↓] theorem State.imageMove_kept (s : State) (v : Nat) (o : Nat) (n : Nat) (img : Option (List Byte)) :
    (State.imageMove s v o n img).kept = s.kept := by
  simp [State.imageMove]
@[simp ↓] theorem State.vcImage_kept (s0 : State) (v : Nat) (restore : Bool) :
    (State.vcImage s0 v restore).kept = s0.kept := by
  simp [State.vcImage]
@[simp ↓] theorem State.putRegs_kept (s : State) (bs : List Byte) (a : Nat) (l : List (Nat × Word)) :
    (State.putRegs s bs a l).kept = s.kept := by
  simp [State.putRegs]
@[simp ↓] theorem State.checkDescs_kept (s : State) (v : Nat) (gt : Nat) :
    (State.checkDescs s v gt).kept = s.kept := by
  simp [State.checkDescs]
@[simp ↓] theorem State.threadRestore_kept (s : State) (v : Nat) (f3 : Bool) (gt : Nat) (bs : List Byte) :
    (State.threadRestore s v f3 gt bs).kept = s.kept := by
  simp [State.threadRestore]
@[simp ↓] theorem State.seqRestore_kept (s : State) (n : Nat) (k : Nat) (bs : List Byte) :
    (State.seqRestore s n k bs).kept = s.kept := by
  simp [State.seqRestore]
@[simp ↓] theorem State.bayRestore_kept (s : State) (f3 : Bool) (n : Nat) (bs : List Byte) :
    (State.bayRestore s f3 n bs).kept = s.kept := by
  simp [State.bayRestore]
@[simp ↓] theorem State.laneRestore_kept (s : State) (l : Nat) (bs : List Byte) :
    (State.laneRestore s l bs).kept = s.kept := by
  simp [State.laneRestore]
@[simp ↓] theorem State.timerRestore_kept (s : State) (f3 : Bool) (ep : Nat) (m : Nat) (bs : List Byte) :
    (State.timerRestore s f3 ep m bs).kept = s.kept := by
  simp [State.timerRestore]
@[simp ↓] theorem State.chanRestore_kept (s : State) (c : Nat) (bs : List Byte) :
    (State.chanRestore s c bs).kept = s.kept := by
  simp [State.chanRestore]
@[simp ↓] theorem State.vecRestore_kept (s : State) (v : Nat) (w : Word) :
    (State.vecRestore s v w).kept = s.kept := by
  simp [State.vecRestore]
@[simp ↓] theorem State.mailRestore_kept (s : State) (v : Nat) (bs : List Byte) :
    (State.mailRestore s v bs).kept = s.kept := by
  simp [State.mailRestore]
@[simp ↓] theorem State.timerHeld_kept (s : State) (m : Nat) :
    (State.timerHeld s m).kept = s.kept := by
  simp [State.timerHeld]

/-- Restoring a section leaves alone what restoring each of its units does. -/
theorem State.section_kept (p : State × List Byte) (us : List Nat) (n : Nat) (f : State → Nat → List Byte → State)
    (h : ∀ s u bs, (f s u bs).kept = s.kept) : (State.section p us n f).1.kept = p.1.kept := by
  unfold State.section
  induction us generalizing p with
  | nil => rfl
  | cons u r ih =>
    rw [List.foldl_cons, ih]
    simp only []
    split
    · rfl
    · exact h _ _ _

@[simp ↓] theorem State.imageApply_kept (s : State) (v : Nat) (f3 : Bool) (ep : Nat) (body : List Byte) :
    (s.imageApply v f3 ep body).kept = s.kept := by
  unfold State.imageApply
  extract_lets vecs p1 p2 p3 p4 p5 p6 p7 p8
  have e1 : p1.1.kept = s.kept := State.section_kept _ _ _ _ (fun _ _ _ => by simp)
  have e2 : p2.1.kept = s.kept := (State.section_kept _ _ _ _ (fun _ _ _ => by simp)).trans e1
  have e3 : p3.1.kept = s.kept := (State.section_kept _ _ _ _ (fun _ _ _ => by simp)).trans e2
  have e4 : p4.1.kept = s.kept := (State.section_kept _ _ _ _ (fun _ _ _ => by simp)).trans e3
  have e5 : p5.1.kept = s.kept := (State.foldl_kept _ _ _ (fun _ _ => by simp)).trans e4
  have e6 : p6.1.kept = s.kept := (State.section_kept _ _ _ _ (fun _ _ _ => by simp)).trans e5
  have e7 : p7.1.kept = s.kept := (State.section_kept _ _ _ _ (fun _ _ _ => by simp)).trans e6
  have e8 : p8.1.kept = s.kept := (State.section_kept _ _ _ _ (fun _ _ _ => by simp)).trans e7
  (repeat' split) <;> simp [e8]
@[simp ↓] theorem State.imageEnds_kept (s : State) (v : Nat) (result : Word) :
    (State.imageEnds s v result).kept = s.kept := by
  simp [State.imageEnds]
@[simp ↓] theorem State.imageOn_kept (s : State) (v : Nat) (j : ImageJob) :
    (State.imageOn s v j).kept = s.kept := by
  simp [State.imageOn]

theorem State.overlay_kept (s base : State) (rs : List (Nat × Nat)) :
    (s.overlay base rs).kept = (base.mem, base.bankFill, s.pending) := rfl
@[simp ↓] theorem State.modMode_kept (s : State) (f : ModeS → ModeS) :
    (State.modMode s f).kept = s.kept := by
  simp [State.modMode]
@[simp ↓] theorem State.clearRecord_kept (s : State) (r : Nat) :
    (State.clearRecord s r).kept = s.kept := by
  simp [State.clearRecord]

@[simp ↓] theorem State.padHold_kept (s : State) (q : Nat) : (s.padHold q).kept = s.kept := by
  unfold State.padHold
  split
  · rfl
  · have h (t : State) (m : ModeS) : ({ t with mode := m } : State).kept = t.kept := rfl
    extract_lets t
    rw [h]
    exact State.foldl_kept _ _ _ (fun _ _ => by simp)

theorem State.toDormant_kept (s : State) : (s.toDormant).kept = ([], [], s.pending) := by
  have h (t : State) (x : Option (Nat × Bool × BitVec 2048)) (l : Map LaneS) :
      ({ t with store := x, lanes := l } : State).kept = t.kept := rfl
  unfold State.toDormant
  extract_lets s' t1 t2 t3
  have hs : s'.kept = s.kept := State.foldl_kept _ _ _ (fun _ _ => by simp)
  have hp : s'.pending = s.pending := congrArg (fun k => k.2.2) hs
  rw [h, ← hp]
  show (State.setReg _ _ _).kept = _
  rw [State.setReg_kept, State.setReg_kept, State.setReg_kept, State.setReg_kept, State.setFld_kept,
    State.overlay_kept]
  rfl

theorem State.toVoid_kept (s : State) : (s.toVoid).kept = ([], [], s.pending) := by
  exact (State.setFld_kept _ _ _).trans (State.toDormant_kept s)

theorem State.toOff_kept (s : State) : (s.toOff).kept = ([], [], s.pending) := by
  have h (t : State) (m : ModeS) : ({ t with mode := m } : State).kept = t.kept := rfl
  unfold State.toOff
  extract_lets
  rw [h, State.setReg_kept, State.setReg_kept, State.setReg_kept, State.setFld_kept, State.overlay_kept]
  rfl
@[simp ↓] theorem State.setBoardDie_kept (s : State) (k : Word) :
    (State.setBoardDie s k).kept = s.kept := by
  simp [State.setBoardDie]

@[simp ↓] theorem State.warmLedger_kept (s t : State) : (s.warmLedger t).kept = t.kept := by
  unfold State.warmLedger
  simp
@[simp ↓] theorem State.rowWrite_kept (s : State) (b : Blk) (off : Nat) (data : Word) (ok : FieldSpec → Word → Bool) :
    (State.rowWrite s b off data ok).kept = s.kept := by
  unfold State.rowWrite
  split <;> simp
@[simp ↓] theorem State.rowWriteBut_kept (s : State) (b : Blk) (off : Nat) (lo : Nat) (data : Word) (ok : FieldSpec → Word → Bool) :
    (State.rowWriteBut s b off lo data ok).kept = s.kept := by
  unfold State.rowWriteBut
  split <;> simp
@[simp ↓] theorem State.renameStart_kept (s : State) (n : Nat) (t : Nat) :
    (State.renameStart s n t).kept = s.kept := by
  simp [State.renameStart]
@[simp ↓] theorem State.writeRenameCtl_kept (s : State) (n : Nat) (data : Word) :
    (State.writeRenameCtl s n data).kept = s.kept := by
  simp [State.writeRenameCtl]
@[simp ↓] theorem State.writeDcacheCtl_kept (s : State) (n : Nat) (data : Word) :
    (State.writeDcacheCtl s n data).kept = s.kept := by
  simp [State.writeDcacheCtl]
@[simp ↓] theorem State.writeCore_kept (s : State) (who : Agent) (n : Nat) (off : Nat) (data : Word) (hi : Option Word) :
    (State.writeCore s who n off data hi).kept = s.kept := by
  unfold State.writeCore
  (repeat' split) <;> simp
@[simp ↓] theorem State.writeBay_kept (s : State) (who : Agent) (n : Nat) (off : Nat) (data : Word) :
    (State.writeBay s who n off data).kept = s.kept := by
  simp [State.writeBay]
@[simp ↓] theorem State.writeLane_kept (s : State) (l : Nat) (off : Nat) (data : Word) :
    (State.writeLane s l off data).kept = s.kept := by
  simp [State.writeLane]
@[simp ↓] theorem State.writeTimer_kept (s : State) (m : Nat) (off : Nat) (data : Word) :
    (State.writeTimer s m off data).kept = s.kept := by
  simp [State.writeTimer]
@[simp ↓] theorem State.writeTimebase_kept (s : State) (off : Nat) (data : Word) :
    (State.writeTimebase s off data).kept = s.kept := by
  simp [State.writeTimebase]
@[simp ↓] theorem State.writeRouter_kept (s : State) (who : Agent) (off : Nat) (data : Word) :
    (State.writeRouter s who off data).kept = s.kept := by
  simp [State.writeRouter]
@[simp ↓] theorem State.writeLedger_kept (s : State) (who : Agent) (off : Nat) (data : Word) :
    (State.writeLedger s who off data).kept = s.kept := by
  simp [State.writeLedger]
@[simp ↓] theorem State.writeDir_kept (s : State) (off : Nat) (data : Word) :
    (State.writeDir s off data).kept = s.kept := by
  simp [State.writeDir]
@[simp ↓] theorem State.writeLoft_kept (s : State) (off : Nat) (data : Word) :
    (State.writeLoft s off data).kept = s.kept := by
  simp [State.writeLoft]
@[simp ↓] theorem State.foreignWrite_kept (s : State) (b : Blk) (off : Nat) (data : Word) :
    (State.foreignWrite s b off data).kept = s.kept := by
  unfold State.foreignWrite
  split <;> simp
@[simp ↓] theorem State.writeHv_kept (s : State) (who : Agent) (off : Nat) (data : Word) :
    (State.writeHv s who off data).kept = s.kept := by
  simp [State.writeHv]
@[simp ↓] theorem State.modStart_kept (s : State) (f : StartS → StartS) :
    (State.modStart s f).kept = s.kept := by
  simp [State.modStart]
@[simp ↓] theorem State.stepEnds_kept (s : State) (k : Nat) :
    (State.stepEnds s k).kept = s.kept := by
  simp [State.stepEnds]
@[simp ↓] theorem State.loadFuses_kept (s : State) (w : Nat → Word) (warm : Bool) :
    (State.loadFuses s w warm).kept = s.kept := by
  simp [State.loadFuses]
@[simp ↓] theorem State.repairBank_kept (s : State) (soft : Bool) (g : Nat) :
    (State.repairBank s soft g).kept = s.kept := by
  simp [State.repairBank]
@[simp ↓] theorem State.icacheBank_kept (s : State) (g : Nat) :
    (State.icacheBank s g).kept = s.kept := by
  simp [State.icacheBank]
@[simp ↓] theorem State.bootThread_kept (s : State) (n : Nat) :
    (State.bootThread s n).kept = s.kept := by
  simp [State.bootThread]
@[simp ↓] theorem State.accepted_kept (s : State) :
    (State.accepted s).kept = s.kept := by
  simp [State.accepted]
@[simp ↓] theorem State.doorbell_kept (s : State) (who : Agent) (data : Word) :
    (State.doorbell s who data).kept = s.kept := by
  simp [State.doorbell]
@[simp ↓] theorem State.laneConfig_kept (s : State) (ok : Bool) (bs : List Byte) (l : Nat) :
    (State.laneConfig s ok bs l).kept = s.kept := by
  simp [State.laneConfig]
@[simp ↓] theorem State.configLanes_kept (s : State) :
    (State.configLanes s).kept = s.kept := by
  simp [State.configLanes]
@[simp ↓] theorem State.configOff_kept (s : State) (g : Nat) :
    (State.configOff s g).kept = s.kept := by
  simp [State.configOff]
@[simp ↓] theorem State.vcFreed_kept (s : State) (v : Nat) :
    (State.vcFreed s v).kept = s.kept := by
  simp [State.vcFreed]
@[simp ↓] theorem State.bayReset_kept (s : State) (n : Nat) :
    (State.bayReset s n).kept = s.kept := by
  simp [State.bayReset]
@[simp ↓] theorem State.modeNo_kept (s : State) :
    (State.modeNo s).kept = s.kept := by
  simp [State.modeNo]
@[simp ↓] theorem State.modeReq_kept (s : State) (who : Agent) (f : State → State) (hf : ∀ s, (f s).kept = s.kept) :
    (State.modeReq s who f).kept = s.kept := by
  unfold State.modeReq
  (repeat' split) <;> simp [*]
@[simp ↓] theorem State.clockGo_kept (s : State) :
    (State.clockGo s).kept = s.kept := by
  simp [State.clockGo]

@[simp ↓] theorem State.pdRequest_kept (s : State) (i : Nat) (on : Bool) : (s.pdRequest i on).kept = s.kept := by
  unfold State.pdRequest
  extract_lets t
  have ht : t.kept = s.kept := State.setBit_kept _ _ _
  (repeat' split) <;> first | exact ht | simp [ht]

@[simp ↓] theorem State.writePdReq_kept (s : State) (hi : Bool) (data : Word) :
    (s.writePdReq hi data).kept = s.kept := by
  unfold State.writePdReq
  extract_lets first p
  have h : p.1.kept = s.kept := State.foldl_fst_kept _ _ _ (fun q x => by
    rw [apply_ite Prod.fst, apply_ite Prod.fst, State.kept_ite, State.kept_ite, State.pdRequest_kept, ite_self, ite_self])
  split <;> simp [h]
@[simp ↓] theorem State.quadUp_kept (s : State) (q : Nat) :
    (State.quadUp s q).kept = s.kept := by
  simp [State.quadUp]
@[simp ↓] theorem State.bridgeUp_kept (s : State) :
    (State.bridgeUp s).kept = s.kept := by
  simp [State.bridgeUp]
@[simp ↓] theorem State.nextRank_kept (s : State) :
    (State.nextRank s).kept = s.kept := by
  simp [State.nextRank]
@[simp ↓] theorem State.fcRelease_kept (s : State) (who : Agent) :
    (State.fcRelease s who).kept = s.kept := by
  simp [State.fcRelease]
@[simp ↓] theorem State.wdogRestart_kept (s : State) :
    (State.wdogRestart s).kept = s.kept := by
  simp [State.wdogRestart]
@[simp ↓] theorem State.wdogKick_kept (s : State) (key : Word) :
    (State.wdogKick s key).kept = s.kept := by
  simp [State.wdogKick]
@[simp ↓] theorem State.writeWdog_kept (s : State) (data : Word) :
    (State.writeWdog s data).kept = s.kept := by
  simp [State.writeWdog]
@[simp ↓] theorem State.safetyGone_kept (s : State) :
    (State.safetyGone s).kept = s.kept := by
  simp [State.safetyGone]
@[simp ↓] theorem State.setAon_kept (s : State) (n : Nat) :
    (State.setAon s n).kept = s.kept := by
  simp [State.setAon]
@[simp ↓] theorem State.debugRefuse_kept (s : State) (need : Word) :
    (State.debugRefuse s need).kept = s.kept := by
  simp [State.debugRefuse]
@[simp ↓] theorem State.dbgCmd_kept (s : State) (who : Agent) (gt : Nat) (f : State → State) (hf : ∀ s, (f s).kept = s.kept) :
    (State.dbgCmd s who gt f).kept = s.kept := by
  unfold State.dbgCmd
  (repeat' split) <;> simp [*]
@[simp ↓] theorem State.dbgResume_kept (s : State) (gt : Nat) :
    (State.dbgResume s gt).kept = s.kept := by
  simp [State.dbgResume]
@[simp ↓] theorem State.dbgStep_kept (s : State) (gt : Nat) :
    (State.dbgStep s gt).kept = s.kept := by
  simp [State.dbgStep]
@[simp ↓] theorem State.plainRead_kept (s : State) (b : Blk) (off : Nat) (peek : Bool) :
    (State.plainRead s b off peek).2.kept = s.kept := by
  unfold State.plainRead
  (repeat' split) <;> simp
@[simp ↓] theorem State.latched32_kept (s : State) (who : Agent) (b : Blk) (off : Nat) (r : Latch) (peek : Bool) :
    (State.latched32 s who b off r peek).2.kept = s.kept := by
  unfold State.latched32
  (repeat' split) <;> simp

@[simp ↓] theorem State.handleRead_kept (s : State) (p : Nat) (peek : Bool) : (s.handleRead p peek).2.kept = s.kept := by
  unfold State.handleRead
  split
  · rfl
  · split
    · simp
    · split
      · rename_i h; exact State.poolTake_kept h
      · rfl
@[simp ↓] theorem State.readReg_kept (s : State) (who : Agent) (b : Blk) (off : Nat) (peek : Bool) :
    (State.readReg s who b off peek).2.kept = s.kept := by
  unfold State.readReg
  (repeat' split) <;> simp
@[simp ↓] theorem State.readWords_kept (s : State) (who : Agent) (b : Blk) (off : Nat) (wide : Bool) (peek : Bool) :
    (State.readWords s who b off wide peek).2.kept = s.kept := by
  unfold State.readWords
  (repeat' split) <;> simp

theorem State.judgedRead_kept {s : State} {who : Agent} {b : Blk} {off : Nat} {wide : Bool} {p : List Byte × State}
    (h : s.judgedRead who b off wide = .ok p) : p.2.kept = s.kept := by
  unfold State.judgedRead at h
  split at h
  · cases h
  · cases h; simp

@[simp ↓] theorem State.readAt_kept (s : State) (who : Agent) (b : Blk) (off : Nat) (wide : Bool) (ref : ReqRef) :
    (s.readAt who b off wide ref).kept = s.kept := by
  unfold State.readAt
  split
  · simp
  · rename_i h; have := State.judgedRead_kept h
    split
    · simp
    · split <;> simp [this]

theorem State.xqTake_kept {s t : State} {q : Crossing} {x : XItem} (h : s.xqTake q = some (x, t)) :
    t.kept = s.kept := by
  unfold State.xqTake at h
  split at h
  · cases h; rfl
  · cases h
@[simp ↓] theorem State.xqTime_kept (s : State) (q : Crossing) (t : Nat) :
    (State.xqTime s q t).kept = s.kept := by
  unfold State.xqTime
  split <;> simp
@[simp ↓] theorem State.xqAnswer_kept (s : State) (q : Crossing) (ref : ReqRef) (bs : List Byte) :
    (State.xqAnswer s q ref bs).kept = s.kept := by
  simp [State.xqAnswer]
@[simp ↓] theorem State.ctlRead_kept (s : State) (who : Agent) (a : Nat) (wide : Bool) (ref : ReqRef) :
    (State.ctlRead s who a wide ref).kept = s.kept := by
  unfold State.ctlRead
  simp only []
  (repeat' split) <;> simp [*]
@[simp ↓] theorem State.hostAnswer_kept (s : State) (x : Option (List Byte)) :
    (State.hostAnswer s x).kept = s.kept := by
  simp [State.hostAnswer]

theorem State.numbered_kept (s : State) (f : State → ReqRef → State) (h : ∀ t r, (f t r).kept = t.kept) :
    (s.numbered f).kept = s.kept := h _ _
@[simp ↓] theorem State.winWide_kept (s : State) (v : Nat) (o : Nat) (wr : Option (List Byte)) :
    (State.winWide s v o wr).kept = s.kept := by
  unfold State.winWide
  split <;> simp
@[simp ↓] theorem State.dmaFail_kept (s : State) (c : Nat) (k : Nat) (a : Nat) :
    (State.dmaFail s c k a).kept = s.kept := by
  simp [State.dmaFail]
@[simp ↓] theorem State.dmaTake_kept (s : State) (c : Nat) (r : ChanReq) :
    (State.dmaTake s c r).kept = s.kept := by
  unfold State.dmaTake
  (repeat' split) <;> simp
@[simp ↓] theorem State.dmaCollect_kept (s : State) (c : Nat) :
    (State.dmaCollect s c).kept = s.kept := by
  simp [State.dmaCollect]
@[simp ↓] theorem State.openBytes_kept (s : State) (x : ChanS) (p : Nat) (bs : List Byte) :
    (State.openBytes s x p bs).2.kept = s.kept := by
  unfold State.openBytes
  split <;> simp
@[simp ↓] theorem State.dmaResidue_kept (s : State) (c : Nat) :
    (State.dmaResidue s c).kept = s.kept := by
  simp [State.dmaResidue]
@[simp ↓] theorem State.accessBreak_kept (s : State) (gt : Nat) (as : List Nat) :
    (State.accessBreak s gt as).kept = s.kept := by
  simp [State.accessBreak]

@[simp ↓] theorem State.holdFor_kept (s : State) (gt : Nat) (brk : Bool) : (s.holdFor gt brk).state.kept = s.kept := by
  simp [State.holdFor]
@[simp ↓] theorem State.farPart_kept (s : State) (gt : Nat) (acc : MemAcc) :
    (State.farPart s gt acc).kept = s.kept := by
  simp [State.farPart]
@[simp ↓] theorem State.nearRead_kept (s : State) (gt : Nat) (a : Nat) (n : Nat) (clash : Bool) :
    (State.nearRead s gt a n clash).2.kept = s.kept := by
  unfold State.nearRead
  (repeat' split) <;> simp

@[simp ↓] theorem State.nearLoad_kept (s : State) (gt : Nat) (ps : List Part) (clash : List Bool) :
    (s.nearLoad gt ps clash).2.kept = s.kept := by
  induction ps generalizing s clash with
  | nil => rfl
  | cons p r ih => simp [State.nearLoad, ih]

@[simp ↓] theorem State.recorded_kept (s : State) (gt : Nat) (via : Bool) (ws : List Reg) (rec : List Byte)
    (body : State → Exec) (h : ∀ s, (body s).state.kept = s.kept) :
    (s.recorded gt via ws rec body).state.kept = s.kept := by
  unfold State.recorded
  have hb : (if via then s.viaBody gt ws false body else body s).state.kept = s.kept := by
    split
    · exact State.viaBody_kept _ _ _ _ _ h
    · exact h s
  split
  · rename_i e; rw [e] at hb; simpa using hb
  · exact hb

@[simp ↓] theorem State.sendBody_kept (s : State) (gt : Nat) (d : Reg) (w : Word) (data : BitVec 64) :
    (s.sendBody gt d w data).state.kept = s.kept := by
  unfold State.sendBody
  simp only []
  split
  · split <;> simp
  · simp

@[simp ↓] theorem State.edgeBody_kept (s : State) (gt : Nat) (req : Word) (seg : Fin 8) (lane : BitVec 5)
    (act : BitVec 2) : (s.edgeBody gt req seg lane act).state.kept = s.kept := by
  unfold State.edgeBody
  split
  · rfl
  · extract_lets n
    split
    · rfl
    · split
      · exact State.holdFor_kept _ _ _
      · exact (State.xqPush_kept _ _ _).trans (State.useCredit_kept _ _)
@[simp ↓] theorem State.storeDone_kept (s : State) (gt : Nat) (o : StoreOp) (ok : Bool) :
    (State.storeDone s gt o ok).kept = s.kept := by
  unfold State.storeDone
  split <;> simp
@[simp ↓] theorem State.lineFill_kept (s : State) (gt : Nat) (line : Nat) (way : Nat) :
    (State.lineFill s gt line way).kept = s.kept := by
  simp [State.lineFill]
@[simp ↓] theorem State.lostBeats_kept (s : State) (gt : Nat) (lost : Word) :
    (State.lostBeats s gt lost).kept = s.kept := by
  simp [State.lostBeats]
@[simp ↓] theorem State.lineAsk_kept (s : State) (gt : Nat) (line : Nat) :
    (State.lineAsk s gt line).kept = s.kept := by
  simp [State.lineAsk]

end Sys2Proof.Machine
end

