-- ==== Sys2Proof/Laws/Inv.lean ====
section
/-!
SUPPORT. What the operations that touch bank memory keep: its canonical form, and the queue of commands.
One lemma for each such operation: from `Good s.kept p` follows `Good (f s).kept p`.
-/
set_option Elab.async false
namespace Sys2Proof.Machine

/-- The memory of a state is in its canonical form, and its queue is p. -/
def Good (k : List Host.Cell × Map Nat × List Instr) (p : List Instr) : Prop :=
  Memory.wf k.2.1 k.1 = true ∧ k.2.2 = p

theorem good_of_inv {s : State} (h : s.Inv) : Good s.kept s.pending := ⟨h, rfl⟩
theorem Good.inv {s : State} {p : List Instr} (h : Good s.kept p) : s.Inv := h.1
theorem Good.pending {s : State} {p : List Instr} (h : Good s.kept p) : s.pending = p := h.2

@[simp] theorem good_ite (c : Prop) [Decidable c] (a b : List Host.Cell × Map Nat × List Instr) (p : List Instr) :
    Good (if c then a else b) p ↔ if c then Good a p else Good b p := by split <;> rfl
/-- Zeroed banks that list nothing. -/
theorem good_empty (p : List Instr) : Good ([], [], p) p := ⟨rfl, rfl⟩

theorem State.foldl_good {α : Type} (l : List α) (f : State → α → State) (s : State) {p : List Instr}
    (hf : ∀ s x, Good s.kept p → Good (f s x).kept p) (h : Good s.kept p) : Good (l.foldl f s).kept p := by
  induction l generalizing s with
  | nil => exact h
  | cons a r ih => exact ih _ (hf s a h)

/-- A filter keeps the canonical form, as long as what is kept lists the same unlisted values. -/
theorem Memory.wf_filter (fill fill' : Map Nat) (m : List Host.Cell) (g : Host.Cell → Bool)
    (hm : Memory.wf fill m = true) (hu : ∀ c, g c = true → unlisted fill' c.1 = unlisted fill c.1) :
    Memory.wf fill' (m.filter g) = true := by
  simp only [Memory.wf, Map.wf, Bool.and_eq_true, List.all_eq_true, decide_eq_true_eq] at hm ⊢
  refine ⟨?_, ?_⟩
  · have key : ∀ (b : Nat) (l : List Host.Cell), Map.rising b l = true → Map.rising b (l.filter g) = true := by
      intro b l
      induction l generalizing b with
      | nil => intro _; rfl
      | cons c r ih =>
        intro h
        simp only [Map.rising, Bool.and_eq_true, decide_eq_true_eq] at h
        by_cases hg : g c = true
        · simp [hg, Map.rising, h.1, ih _ h.2]
        · simpa [hg] using Map.rising_mono _ (Nat.le_succ_of_le h.1) (ih _ h.2)
    exact key 0 m hm.1
  · intro c hc
    have := List.mem_filter.1 hc
    rw [hu c this.2]
    exact hm.2 c this.1

theorem unlisted_set_other (fill : Map Nat) (g v : Nat) (a : Nat) (h : bankOf a ≠ some g) :
    unlisted (Map.set 0 fill g v) a = unlisted fill a := by
  unfold unlisted
  split
  · rename_i j hj
    have : j ≠ g := fun e => h (e ▸ hj)
    rw [Map.get_set_other _ _ _ _ this]
  · rfl


@[simp] theorem State.setByte_good (s : State) (a : Nat) (v : Byte) {p : List Instr}
    (h : Good s.kept p) : Good (State.setByte s a v).kept p :=
  ⟨Map.wf_set (unlisted s.bankFill) s.mem a v h.1, h.2⟩

@[simp] theorem State.setBytes_good (s : State) (a : Nat) (bs : List Byte) {p : List Instr}
    (h : Good s.kept p) : Good (State.setBytes s a bs).kept p := by
  induction bs generalizing s a with
  | nil => exact h
  | cons b r ih => exact ih _ _ (State.setByte_good s a b h)

@[simp] theorem State.zeroBank_good (s : State) (g : Nat) {p : List Instr}
    (h : Good s.kept p) : Good (State.zeroBank s g).kept p := by
  refine ⟨Memory.wf_filter s.bankFill _ s.mem _ h.1 ?_, h.2⟩
  intro c hc
  exact unlisted_set_other s.bankFill g 0 c.1 (by simpa using hc)

@[simp] theorem State.loseBank_good (s : State) (g : Nat) {p : List Instr}
    (h : Good s.kept p) : Good (State.loseBank s g).kept p := by
  refine ⟨Memory.wf_filter s.bankFill _ s.mem _ h.1 ?_, h.2⟩
  intro c hc
  exact unlisted_set_other s.bankFill g (s.freeCtr + 1) c.1 (by simpa using hc)
@[simp] theorem State.bankWrite_good (s : State) (a : Nat) (bs : List Byte) {p : List Instr}
    (hg : Good s.kept p) : Good (State.bankWrite s a bs).kept p := by
  simp (maxDischargeDepth := 30) [State.bankWrite, hg]
@[simp] theorem State.performAt_good (s : State) (acc : MemAcc) {p : List Instr}
    (hg : Good s.kept p) : Good (State.performAt s acc).kept p := by
  simp (maxDischargeDepth := 30) [State.performAt, hg]
@[simp] theorem State.homeServe_good (s : State) (q : HomeReq) {p : List Instr}
    (hg : Good s.kept p) : Good (State.homeServe s q).kept p := by
  unfold State.homeServe
  split <;> simp (maxDischargeDepth := 30) [hg]
@[simp] theorem State.homeWrite_good (s : State) (line : Nat) (d : Line) {p : List Instr}
    (hg : Good s.kept p) : Good (State.homeWrite s line d).kept p := by
  simp (maxDischargeDepth := 30) [State.homeWrite, hg]
@[simp] theorem State.homeAdvance_good (s : State) (line : Nat) (e : DEntry) (t : Txn) {p : List Instr}
    (hg : Good s.kept p) : Good (State.homeAdvance s line e t).kept p := by
  unfold State.homeAdvance
  simp only []
  (repeat' split) <;> simp (maxDischargeDepth := 30) [*]

theorem State.homeStep_good {s t : State} {line : Nat} {ls : List Nat} {p : List Instr}
    (hg : Good s.kept p) (h : s.homeStep line = some (t, ls)) : Good t.kept p := by
  unfold State.homeStep at h
  extract_lets first at h
  (repeat' split at h) <;> first
    | (cases h; done)
    | (cases h; exact State.homeServe_good _ _ hg)
    | (cases h; simp (maxDischargeDepth := 30) [hg]; done)

@[simp] theorem State.homeRun_good (s : State) (fuel : Nat) (lines : List Nat) {p : List Instr}
    (hg : Good s.kept p) : Good (State.homeRun s fuel lines).kept p := by
  induction fuel generalizing s lines with
  | zero => unfold State.homeRun; exact hg
  | succ k ih =>
    cases lines with
    | nil => unfold State.homeRun; exact hg
    | cons l r =>
      unfold State.homeRun
      split
      · rename_i h
        exact ih _ _ (State.homeStep_good hg h)
      · exact ih _ _ hg

@[simp] theorem State.home_good (s : State) (lines : List Nat) {p : List Instr}
    (hg : Good s.kept p) : Good (State.home s lines).kept p := State.homeRun_good _ _ _ hg

@[simp] theorem State.homeArrive_good (s : State) (q : HomeReq) {p : List Instr}
    (hg : Good s.kept p) : Good (State.homeArrive s q).kept p := State.home_good _ _ hg
@[simp] theorem State.homeAccess_good (s : State) (acc : MemAcc) {p : List Instr}
    (hg : Good s.kept p) : Good (State.homeAccess s acc).kept p := by
  unfold State.homeAccess
  (repeat' split) <;> simp (maxDischargeDepth := 30) [*]

@[simp] theorem State.agentQuits_good (s : State) (w : Nat) (f : Nat → Bool) {p : List Instr}
    (hg : Good s.kept p) : Good (State.agentQuits s w f).kept p := by
  unfold State.agentQuits
  extract_lets mine
  split
  · exact hg
  · exact State.home_good _ _ hg
@[simp] theorem State.agentLeaves_good (s : State) (w : Nat) {p : List Instr}
    (hg : Good s.kept p) : Good (State.agentLeaves s w).kept p := by
  simp (maxDischargeDepth := 30) [State.agentLeaves, hg]
@[simp] theorem State.agentTurn_good (s : State) (w : Nat) (line : Nat) (write : Bool) {p : List Instr}
    (hg : Good s.kept p) : Good (State.agentTurn s w line write).2.kept p := by
  unfold State.agentTurn
  simp only []
  (repeat' split) <;> simp (maxDischargeDepth := 30) [*]

@[simp] theorem State.reqRow_good (s : State) (k : CohKind) (c line : Nat) {p : List Instr}
    (hg : Good s.kept p) : Good (State.reqRow s k c line).kept p := by
  unfold State.reqRow
  split
  · rename_i h
    have := State.takeMsg_kept h
    (repeat' split) <;> simp (maxDischargeDepth := 30) [this, hg]
  · (repeat' split) <;> simp (maxDischargeDepth := 30) [hg]
@[simp] theorem State.answered_good (s : State) (c : Nat) (line : Nat) {p : List Instr}
    (hg : Good s.kept p) : Good (State.answered s c line).kept p := by
  unfold State.answered
  (repeat' split) <;> simp (maxDischargeDepth := 30) [hg]
@[simp] theorem State.takeData_good (s : State) (line : Nat) (d : Line) {p : List Instr}
    (hg : Good s.kept p) : Good (State.takeData s line d).kept p := by
  unfold State.takeData
  split <;> simp (maxDischargeDepth := 30) [hg]
@[simp] theorem State.crossed_good (s : State) (c : Nat) (line : Nat) {p : List Instr}
    (hg : Good s.kept p) : Good (State.crossed s c line).kept p := by
  unfold State.crossed
  (repeat' split) <;> simp (maxDischargeDepth := 30) [hg]
@[simp] theorem State.invWbFrom_good (s : State) (c : Nat) (line : Nat) {p : List Instr}
    (hg : Good s.kept p) : Good (State.invWbFrom s c line).kept p := by
  simp (maxDischargeDepth := 30) [State.invWbFrom, hg]

@[simp] theorem State.ackRow_good (s : State) (k : CohKind) (c line : Nat) {p : List Instr}
    (h : Good s.kept p) : Good (State.ackRow s k c line).kept p := by
  unfold State.ackRow
  split
  · rename_i e
    have hk := State.takeMsg_kept e
    simp (maxDischargeDepth := 30) [hk, h]
  · simp (maxDischargeDepth := 30) [h]
@[simp] theorem State.evictTake_good (s : State) (c : Nat) (line : Nat) (d : Option Line) {p : List Instr}
    (hg : Good s.kept p) : Good (State.evictTake s c line d).kept p := by
  unfold State.evictTake
  simp only []
  (repeat' split) <;> simp (maxDischargeDepth := 30) [*]

@[simp] theorem State.evictRow_good (s : State) (k : CohKind) (c line : Nat) (d : Option Line) {p : List Instr}
    (h : Good s.kept p) : Good (State.evictRow s k c line d).kept p := by
  unfold State.evictRow
  split
  · rename_i e
    have hk := State.takeMsg_kept e
    simp (maxDischargeDepth := 30) [hk, h]
  · (repeat' split) <;> simp (maxDischargeDepth := 30) [h]
@[simp] theorem State.gwFail_good (s : State) (line : Nat) {p : List Instr}
    (hg : Good s.kept p) : Good (State.gwFail s line).kept p := by
  unfold State.gwFail
  (repeat' split) <;> simp (maxDischargeDepth := 30) [hg]
@[simp] theorem State.gwData_good (s : State) (line : Nat) (d : Line) {p : List Instr}
    (hg : Good s.kept p) : Good (State.gwData s line d).kept p := by
  simp (maxDischargeDepth := 30) [State.gwData, hg]
@[simp] theorem State.finishEntry_good (s : State) (e : LEntry) (err : Bool) (data : Line) {p : List Instr}
    (hg : Good s.kept p) : Good (State.finishEntry s e err data).kept p := by
  unfold State.finishEntry
  split <;> simp (maxDischargeDepth := 30) [hg]
@[simp] theorem State.completeEntry_good (s : State) (e : LEntry) (err : Bool) (data : Line) {p : List Instr}
    (hg : Good s.kept p) : Good (State.completeEntry s e err data).kept p := by
  simp (maxDischargeDepth := 30) [State.completeEntry, hg]

theorem State.leaving_good {u : State} {ls : List Nat} (h : List Nat) {p : List Instr} (hg : Good u.kept p) :
    Good (({ u with leaving := ls } : State).home h).kept p :=
  State.home_good _ _ (by rw [State.kept_mk]; exact hg)
@[simp] theorem State.handover_good (s s0 : State) (g : Nat) (kind engine : Word) {p : List Instr}
    (hg : Good s.kept p) : Good (State.handover s s0 g kind engine).kept p := by
  have h2 : Good (((s.setFld (fOwnerKind g) kind).setFld (fOwnerEngine g) engine).setBit (fDraining g) true).kept p := by
    rw [State.setBit_kept, State.setFld_kept, State.setFld_kept]
    exact hg
  unfold State.handover
  simp only []
  split
  · exact hg
  · split
    · rw [State.refuse_kept]; exact hg
    · split
      · exact State.leaving_good _ h2
      · exact h2
@[simp] theorem State.writeBankCtl_good (s : State) (g : Nat) (data : Word) {p : List Instr}
    (hg : Good s.kept p) : Good (State.writeBankCtl s g data).kept p := by
  unfold State.writeBankCtl
  (repeat' split) <;> simp (maxDischargeDepth := 30) [hg]
@[simp] theorem State.bankWoken_good (s : State) (g : Nat) {p : List Instr}
    (hg : Good s.kept p) : Good (State.bankWoken s g).kept p := by
  simp (maxDischargeDepth := 30) [State.bankWoken, hg]
@[simp] theorem State.bankCleared_good (s : State) (g : Nat) {p : List Instr}
    (hg : Good s.kept p) : Good (State.bankCleared s g).kept p := by
  simp (maxDischargeDepth := 30) [State.bankCleared, hg]

/-- The state an access to bank memory leaves; a denied one leaves the one it began with. -/
def MemResult.state (r : MemResult) (s : State) : State :=
  match r with
  | .denied => s
  | .held t => t
  | .done t _ => t

@[simp] theorem MemResult.state_denied (s : State) : MemResult.denied.state s = s := rfl
@[simp] theorem MemResult.state_held (s t : State) : (MemResult.held t).state s = t := rfl
@[simp] theorem MemResult.state_done (s t : State) (b : List Byte) : (MemResult.done t b).state s = t := rfl
@[simp ↓] theorem MemResult.state_ite (c : Prop) [Decidable c] (a b : MemResult) (s : State) :
    (if c then a else b).state s = if c then a.state s else b.state s := by split <;> rfl

@[simp] theorem State.bankAccess_good (s : State) (u : BankUser) (w g a : Nat) (act : MemAct) {p : List Instr}
    (h : Good s.kept p) : Good ((State.bankAccess s u w g a act).state s).kept p := by
  unfold State.bankAccess
  extract_lets n old line gl q
  have hq : Good q.2.kept p := State.agentTurn_good _ _ _ _ h
  clear_value q
  (repeat' split) <;> simp (maxDischargeDepth := 30) [h, hq]

@[simp] theorem State.memAccess_good (s : State) (u : BankUser) (w a n : Nat) (wr : Option (List Byte))
    {p : List Instr} (h : Good s.kept p) : Good ((State.memAccess s u w a n wr).state s).kept p := by
  unfold State.memAccess
  (repeat' split) <;> first | exact State.bankAccess_good _ _ _ _ _ _ h | exact h
theorem good_of_done {s t : State} {r : MemResult} {bs : List Byte} {p : List Instr}
    (h : Good (r.state s).kept p) (e : r = .done t bs) : Good t.kept p := by rw [e] at h; exact h
theorem good_of_held {s t : State} {r : MemResult} {p : List Instr}
    (h : Good (r.state s).kept p) (e : r = .held t) : Good t.kept p := by rw [e] at h; exact h
theorem State.good_of_memAccess {s t : State} {u : BankUser} {w a n : Nat} {wr : Option (List Byte)}
    {bs : List Byte} {p : List Instr} (h : Good s.kept p) (e : s.memAccess u w a n wr = .done t bs) :
    Good t.kept p := by
  have := State.memAccess_good s u w a n wr h
  rw [e] at this; exact this
theorem State.good_of_memHeld {s t : State} {u : BankUser} {w a n : Nat} {wr : Option (List Byte)}
    {p : List Instr} (h : Good s.kept p) (e : s.memAccess u w a n wr = .held t) : Good t.kept p := by
  have := State.memAccess_good s u w a n wr h
  rw [e] at this; exact this
@[simp] theorem State.withdraw_good (s : State) (g : Nat) {p : List Instr}
    (hg : Good s.kept p) : Good (State.withdraw s g).kept p := by
  simp (maxDischargeDepth := 30) [State.withdraw, hg]
@[simp] theorem State.scrambleLine_good (s : State) (a : Nat) {p : List Instr}
    (hg : Good s.kept p) : Good (State.scrambleLine s a).kept p := by
  simp (maxDischargeDepth := 30) [State.scrambleLine, hg]

@[simp] theorem State.marchLeave_good (s : State) (g : Nat) (preserving : Bool)
    (fs : List (BitVec 11 × BitVec 9)) {p : List Instr}
    (h : Good s.kept p) : Good (State.marchLeave s g preserving fs).kept p := by
  unfold State.marchLeave
  split
  · exact State.foldl_good _ _ _ (fun u x hu => by simp (maxDischargeDepth := 30) [hu]) h
  · simp (maxDischargeDepth := 30) [h]

@[simp] theorem State.marchFail_good (s : State) (g : Nat) (soft : Bool) (cols : List Nat)
    (f : BitVec 11 × BitVec 9) (again : Bool) {p : List Instr}
    (h : Good s.kept p) : Good (State.marchFail s g soft cols f again).2.kept p := by
  unfold State.marchFail
  simp only []
  split
  · split <;> simp (maxDischargeDepth := 30) [h]
  · simp (maxDischargeDepth := 30) [h]

@[simp] theorem State.marchJudge_good (s : State) (g : Nat) (preserving soft : Bool)
    (fails : List (BitVec 11 × BitVec 9)) (again : Bool) {p : List Instr}
    (h : Good s.kept p) : Good (State.marchJudge s g preserving soft fails again).2.kept p := by
  unfold State.marchJudge
  simp only []
  split <;> simp (maxDischargeDepth := 30) [h]

end Sys2Proof.Machine
end

