-- ==== Sys2Proof/Laws/InvSystem.lean ====
section
/-!
SUPPORT. What the operations of the bridge, the gleaner, virtual complexes, start-up, modes, the boundary
and the loads and stores of threads keep: the canonical form of memory, and the queue of commands.
-/
set_option Elab.async false
namespace Sys2Proof.Machine


@[simp] theorem State.failEntries_good (s : State) (k : Nat) {p : List Instr}
    (h : Good s.kept p) : Good (State.failEntries s k).kept p := by
  refine State.foldl_good _ _ _ ?_ h
  intro u x hu
  split
  · simp (maxDischargeDepth := 30) [hu]
  · exact hu
@[simp] theorem State.linkFall_good (s : State) (p : Nat) (cause : Word) {q₀ : List Instr}
    (hg : Good s.kept q₀) : Good (State.linkFall s p cause).kept q₀ := by
  simp (maxDischargeDepth := 30) [State.linkFall, hg]
@[simp] theorem State.linkLost_good (s : State) (p : Nat) (cause : Word) {q₀ : List Instr}
    (hg : Good s.kept q₀) : Good (State.linkLost s p cause).kept q₀ := by
  simp (maxDischargeDepth := 30) [State.linkLost, hg]
@[simp] theorem State.brDisable_good (s : State) (p : Nat) {q₀ : List Instr}
    (hg : Good s.kept q₀) : Good (State.brDisable s p).kept q₀ := by
  simp (maxDischargeDepth := 30) [State.brDisable, hg]
@[simp] theorem State.writeBrCtl_good (s : State) (who : Agent) (p : Nat) (data : Word) {q₀ : List Instr}
    (hg : Good s.kept q₀) : Good (State.writeBrCtl s who p data).kept q₀ := by
  unfold State.writeBrCtl
  (repeat' split) <;> simp (maxDischargeDepth := 30) [hg]

@[simp] theorem State.inbound_good (s : State) (p a : Nat) (acc : HostAccess) {q₀ : List Instr}
    (hg : Good s.kept q₀) : Good (State.inbound s p a acc).kept q₀ := by
  unfold State.inbound
  extract_lets f deny
  have hd : Good deny.kept q₀ := by simp (maxDischargeDepth := 30) [deny, hg]
  clear_value deny
  split
  · split
    · exact hd
    · rename_i e
      have := State.good_of_memHeld hg e
      simp (maxDischargeDepth := 30) [this]
    · rename_i e
      have := State.good_of_memAccess hg e
      simp (maxDischargeDepth := 30) [this]
  · exact hd

@[simp] theorem State.spanAccess_good (s : State) (c job w a n : Nat) (wr : Option (List Byte)) {p : List Instr}
    (hg : Good s.kept p) : Good ((State.spanAccess s c job w a n wr).state s).kept p := by
  unfold State.spanAccess
  split
  · split <;> simp (maxDischargeDepth := 30) [hg]
  · split
    · exact State.memAccess_good _ _ _ _ _ _ hg
    · simp (maxDischargeDepth := 30) [hg]
    · exact hg
theorem State.good_of_span {s t : State} {c job w a n : Nat} {wr : Option (List Byte)} {bs : List Byte}
    {p : List Instr} (h : Good s.kept p) (e : s.spanAccess c job w a n wr = .done t bs) : Good t.kept p :=
  good_of_done (State.spanAccess_good s c job w a n wr h) e
theorem State.good_of_spanHeld {s t : State} {c job w a n : Nat} {wr : Option (List Byte)}
    {p : List Instr} (h : Good s.kept p) (e : s.spanAccess c job w a n wr = .held t) : Good t.kept p :=
  good_of_held (State.spanAccess_good s c job w a n wr h) e
@[simp] theorem State.poolQuits_good (s : State) (p : Nat) {q₀ : List Instr}
    (hg : Good s.kept q₀) : Good (State.poolQuits s p).kept q₀ := by
  simp (maxDischargeDepth := 30) [State.poolQuits, hg]
@[simp] theorem State.poolDisable_good (s : State) (p : Nat) {q₀ : List Instr}
    (hg : Good s.kept q₀) : Good (State.poolDisable s p).kept q₀ := by
  simp (maxDischargeDepth := 30) [State.poolDisable, hg]

@[simp] theorem State.poolPop_good (s : State) (p : Nat) {q₀ : List Instr}
    (hg : Good s.kept q₀) : Good (State.poolPop s p).kept q₀ := by
  unfold State.poolPop
  extract_lets c a put q
  have hp : ∀ t hs, Good t.kept q₀ → Good (put t hs).kept q₀ := by
    intro t hs ht
    unfold put
    simp (maxDischargeDepth := 30) [ht]
  have hq : Good q.2.kept q₀ := by simp (maxDischargeDepth := 30) [q, hg]
  clear_value put q
  split
  · rename_i e
    exact hp _ _ (State.good_of_span hg e)
  · rename_i e
    exact State.good_of_spanHeld hg e
  · exact hp _ _ hq
@[simp] theorem State.poolRefill_good (s : State) (p : Nat) {q₀ : List Instr}
    (hg : Good s.kept q₀) : Good (State.poolRefill s p).kept q₀ := by
  unfold State.poolRefill
  split <;> simp (maxDischargeDepth := 30) [hg]

@[simp] theorem State.poolPush_good (s : State) (p : Nat) {q₀ : List Instr}
    (hg : Good s.kept q₀) : Good (State.poolPush s p).kept q₀ := by
  unfold State.poolPush
  extract_lets x c a put
  have hp : ∀ t, Good t.kept q₀ → Good (put t).kept q₀ := by
    intro t ht
    unfold put
    simp (maxDischargeDepth := 30) [ht]
  clear_value put
  split
  · rename_i e
    exact hp _ (State.good_of_span hg e)
  · rename_i e
    exact State.good_of_spanHeld hg e
  · refine hp _ ?_
    simp (maxDischargeDepth := 30) [hg]
@[simp] theorem State.poolSpill_good (s : State) (p : Nat) {q₀ : List Instr}
    (hg : Good s.kept q₀) : Good (State.poolSpill s p).kept q₀ := by
  unfold State.poolSpill
  split <;> simp (maxDischargeDepth := 30) [hg]
@[simp] theorem State.chanClear_good (s : State) (c : Nat) {p : List Instr}
    (hg : Good s.kept p) : Good (State.chanClear s c).kept p := by
  simp (maxDischargeDepth := 30) [State.chanClear, hg]
@[simp] theorem State.chanStop_good (s : State) (c : Nat) (ev : Option Bool) {p : List Instr}
    (hg : Good s.kept p) : Good (State.chanStop s c ev).kept p := by
  unfold State.chanStop
  split <;> simp (maxDischargeDepth := 30) [hg]
@[simp] theorem State.chanFinish_good (s : State) (c : Nat) (result : Word) (residue : Nat) {p : List Instr}
    (hg : Good s.kept p) : Good (State.chanFinish s c result residue).kept p := by
  unfold State.chanFinish
  simp only []
  (repeat' split) <;> simp (maxDischargeDepth := 30) [*]
@[simp] theorem State.chanBegin_good (s : State) (c : Nat) (x : ChanS) {p : List Instr}
    (hg : Good s.kept p) : Good (State.chanBegin s c x).kept p := by
  unfold State.chanBegin
  (repeat' split) <;> simp (maxDischargeDepth := 30) [hg]
@[simp] theorem State.chGo_good (s : State) (c : Nat) (hop : Nat) {p : List Instr}
    (hg : Good s.kept p) : Good (State.chGo s c hop).kept p := by
  simp (maxDischargeDepth := 30) [State.chGo, hg]
@[simp] theorem State.writeChCmd_good (s : State) (c : Nat) (data : Word) {p : List Instr}
    (hg : Good s.kept p) : Good (State.writeChCmd s c data).kept p := by
  unfold State.writeChCmd
  (repeat' split) <;> simp (maxDischargeDepth := 30) [hg]
@[simp] theorem State.descRun_good (s : State) (c : Nat) (w : List Word) {p : List Instr}
    (hg : Good s.kept p) : Good (State.descRun s c w).kept p := by
  unfold State.descRun
  simp only []
  (repeat' split) <;> simp (maxDischargeDepth := 30) [*]
@[simp] theorem State.descDone_good (s : State) (c : Nat) {p : List Instr}
    (hg : Good s.kept p) : Good (State.descDone s c).kept p := by
  unfold State.descDone
  simp only []
  (repeat' split) <;> simp (maxDischargeDepth := 30) [*]
@[simp] theorem State.descBad_good (s : State) (c : Nat) {p : List Instr}
    (hg : Good s.kept p) : Good (State.descBad s c).kept p := by
  simp (maxDischargeDepth := 30) [State.descBad, hg]

@[simp] theorem State.descSecond_good (s : State) (c : Nat) {p : List Instr}
    (hg : Good s.kept p) : Good (State.descSecond s c).kept p := by
  unfold State.descSecond
  split
  · rename_i e
    exact State.good_of_spanHeld hg e
  · exact State.descBad_good _ _ hg
  · rename_i e
    exact State.descDone_good _ _ (State.good_of_span hg e)
@[simp] theorem State.siloDisable_good (s : State) {p : List Instr}
    (hg : Good s.kept p) : Good (State.siloDisable s).kept p := by
  simp (maxDischargeDepth := 30) [State.siloDisable, hg]

@[simp] theorem State.memList_good (s : State) (u : BankUser) (w : Nat) (xs : List (Nat × Nat)) {p : List Instr}
    (hg : Good s.kept p) : Good ((State.memList s u w xs).state s).kept p := by
  have key : ∀ (xs : List (Nat × Nat)) (s : State), Good s.kept p →
      (∀ t bs, State.memList s u w xs = .done t bs → Good t.kept p) ∧
      (∀ t, State.memList s u w xs = .held t → Good t.kept p) := by
    intro xs
    induction xs with
    | nil =>
      intro s hs
      unfold State.memList
      exact ⟨fun t bs e => by cases e; exact hs, fun t e => by cases e⟩
    | cons x r ih =>
      intro s hs
      unfold State.memList
      split
      · rename_i t bs e
        have := ih t (State.good_of_memAccess hs e)
        split
        · rename_i e2
          exact ⟨fun t bs e => by cases e; exact this.1 _ _ e2, fun t e => by cases e⟩
        · exact ⟨fun t bs e => this.1 _ _ e, fun t e => this.2 _ e⟩
      · exact ⟨fun t bs e => State.good_of_memAccess hs e, fun t e => State.good_of_memHeld hs e⟩
  have := key xs s hg
  cases e : State.memList s u w xs with
  | denied => exact hg
  | held t => exact this.2 t e
  | done t bs => exact this.1 t bs e

@[simp] theorem State.siloPayload_good (s : State) (x : Put) {p : List Instr}
    (hg : Good s.kept p) : Good ((State.siloPayload s x).state s).kept p := by
  unfold State.siloPayload
  extract_lets n u q
  have hq : Good q.2.kept p := by simp (maxDischargeDepth := 30) [q, hg]
  split
  · exact hq
  · exact State.memList_good _ _ _ _ hg

@[simp] theorem State.siloLines_good (s : State) (r : SiloRec) (ls : List Nat) {p : List Instr}
    (hg : Good s.kept p) : Good (State.siloLines s r ls).2.kept p := by
  induction ls generalizing s with
  | nil => exact hg
  | cons i rest ih =>
    unfold State.siloLines
    extract_lets c job
    split
    · rename_i e
      exact ih _ (State.good_of_span hg e)
    · exact ih _ (by simp (maxDischargeDepth := 30) [hg])
    · rename_i e
      have := State.good_of_spanHeld hg e
      split
      · exact ih _ this
      · exact this

@[simp] theorem State.siloGo_good (s : State) (rs : List SiloRec) {p : List Instr}
    (hg : Good s.kept p) : Good (State.siloGo s rs).2.kept p := by
  induction rs generalizing s with
  | nil => exact hg
  | cons r rest ih =>
    unfold State.siloGo
    extract_lets q wait x
    have hq : Good q.2.kept p := State.siloLines_good _ _ _ hg
    split
    · exact hq
    · exact ih _ hq
@[simp] theorem State.siloPump_good (s : State) {p : List Instr}
    (hg : Good s.kept p) : Good (State.siloPump s).kept p := by
  simp (maxDischargeDepth := 30) [State.siloPump, hg]

@[simp] theorem State.siloWrite_good (s : State) (lag : Nat) {p : List Instr}
    (hg : Good s.kept p) : Good (State.siloWrite s lag).kept p := by
  unfold State.siloWrite
  split
  · simp (maxDischargeDepth := 30) [hg]
  · rename_i x rest _
    extract_lets wr
    split
    · simp (maxDischargeDepth := 30) [hg]
    · split
      · rename_i e
        exact good_of_held (State.siloPayload_good s x hg) e
      · exact hg
      · rename_i e
        have := good_of_done (State.siloPayload_good s x hg) e
        simp (maxDischargeDepth := 30) [this]

@[simp] theorem State.bulkRead_good (s : State) (k a n : Nat) {p : List Instr}
    (hg : Good s.kept p) : Good ((State.bulkRead s k a n).state s).kept p := State.memList_good _ _ _ _ hg

@[simp] theorem State.readSome_good (s : State) (w : Nat) (ps : List (Nat × Nat × Nat)) {p : List Instr}
    (hg : Good s.kept p) : Good (State.readSome s w ps).1.kept p := by
  induction ps generalizing s with
  | nil => exact hg
  | cons x r ih =>
    unfold State.readSome
    split
    · rename_i e
      exact ih _ (State.good_of_memAccess hg e)
    · exact hg
@[simp] theorem State.bulkAhead_good (s : State) (k : Nat) (a : Nat) (busy : BitVec 8) {p : List Instr}
    (hg : Good s.kept p) : Good (State.bulkAhead s k a busy).kept p := by
  simp (maxDischargeDepth := 30) [State.bulkAhead, hg]

theorem State.bulkFetch_good (s : State) (k a n : Nat) (beat : Beat) (after : State → State) {p : List Instr}
    (ha : ∀ t, Good t.kept p → Good (after t).kept p) (hg : Good s.kept p) :
    Good (State.bulkFetch s k a n beat after).kept p := by
  unfold State.bulkFetch
  split
  · rename_i e
    exact good_of_held (State.bulkRead_good s k a n hg) e
  · exact hg
  · rename_i e
    have := good_of_done (State.bulkRead_good s k a n hg) e
    exact ha _ (by simp (maxDischargeDepth := 30) [this])

@[simp] theorem State.bulkReadBeat_good (s : State) (k a n : Nat) (beat : Beat) {p : List Instr}
    (hg : Good s.kept p) : Good (State.bulkReadBeat s k a n beat).kept p := by
  unfold State.bulkReadBeat
  extract_lets x
  split
  · exact State.bulkFetch_good _ _ _ _ _ _ (fun _ h => h) hg
  · split
    · simp (maxDischargeDepth := 30) [hg]
    · split
      · rename_i e
        have := State.bulkBuffer_kept e
        refine State.bulkFetch_good _ _ _ _ _ _ (fun t h => ?_) (by rw [this]; exact hg)
        simp (maxDischargeDepth := 30) [h]
      · simp (maxDischargeDepth := 30) [hg]
@[simp] theorem State.bulkAccess_good (s : State) (k : Nat) (acc : HostAccess) (beat : Beat) {p : List Instr}
    (hg : Good s.kept p) : Good (State.bulkAccess s k acc beat).kept p := by
  unfold State.bulkAccess
  simp only []
  (repeat' split) <;> simp (maxDischargeDepth := 30) [*]
@[simp] theorem State.postedLine_good (s : State) (k : Nat) (a : Nat) (bs : List Byte) {p : List Instr}
    (hg : Good s.kept p) : Good (State.postedLine s k a bs).2.kept p := by
  unfold State.postedLine
  simp only []
  (repeat' split) <;> simp (maxDischargeDepth := 30) [*]

@[simp] theorem State.postedPerform_good (s : State) (k a : Nat) (bs : List Byte) (r : List (Nat × List Byte))
    (ps : List (Nat × Nat × Nat)) {p : List Instr}
    (hg : Good s.kept p) : Good (State.postedPerform s k a bs r ps).kept p := by
  induction ps generalizing s with
  | nil => unfold State.postedPerform; simp (maxDischargeDepth := 30) [hg]
  | cons x more ih =>
    unfold State.postedPerform
    extract_lets q
    have hq : Good q.2.kept p := State.postedLine_good _ _ _ _ hg
    split
    · exact ih _ (by rw [State.setBulk_kept]; exact hq)
    · exact hq
@[simp] theorem State.dropHolder_good (s : State) (c : Nat) (line : Nat) {p : List Instr}
    (hg : Good s.kept p) : Good (State.dropHolder s c line).kept p := by
  unfold State.dropHolder
  (repeat' split) <;> simp (maxDischargeDepth := 30) [hg]

@[simp] theorem State.dropCaches_good (s : State) (c : Nat) {p : List Instr}
    (h : Good s.kept p) : Good (State.dropCaches s c).kept p := by
  refine State.foldl_good _ _ _ ?_ h
  intro u x hu
  simp (maxDischargeDepth := 30) [hu]

@[simp] theorem State.dropCore_good (s : State) (n : Nat) {p : List Instr}
    (h : Good s.kept p) : Good (State.dropCore s n).kept p := by
  have hk (t : State) (q : List Nat) : ({ t with offBanks := q } : State).kept = t.kept := rfl
  unfold State.dropCore
  extract_lets a b c
  have hb : Good b.kept p := by simp (maxDischargeDepth := 30) [b, a, h]
  have hc : Good c.kept p := by
    refine State.foldl_good _ _ _ ?_ hb
    intro u x hu
    extract_lets g d
    rw [hk]
    refine State.loseBank_good _ _ ?_
    unfold d
    rw [State.setFld_kept, State.setFld_kept, State.setFld_kept]
    exact hu
  rw [State.setBit_kept]
  exact State.dropCaches_good _ _ hc

@[simp] theorem State.dropFenced_good (s : State) {p : List Instr}
    (h : Good s.kept p) : Good (State.dropFenced s).kept p := by
  refine State.foldl_good _ _ _ ?_ h
  intro u x hu
  simp (maxDischargeDepth := 30) [hu]
@[simp] theorem State.enterLimp_good (s : State) {p : List Instr}
    (hg : Good s.kept p) : Good (State.enterLimp s).kept p := by
  simp (maxDischargeDepth := 30) [State.enterLimp, hg]
@[simp] theorem State.limpIfDue_good (s : State) {p : List Instr}
    (hg : Good s.kept p) : Good (State.limpIfDue s).kept p := by
  simp (maxDischargeDepth := 30) [State.limpIfDue, hg]
@[simp] theorem State.faultSafe_good (s : State) (cause : Word) {p : List Instr}
    (hg : Good s.kept p) : Good (State.faultSafe s cause).kept p := by
  simp (maxDischargeDepth := 30) [State.faultSafe, hg]
@[simp] theorem State.fence1_good (s : State) (ns : List Nat) {p : List Instr}
    (hg : Good s.kept p) : Good (State.fence1 s ns).kept p := by
  simp (maxDischargeDepth := 30) [State.fence1, hg]
@[simp] theorem State.clocksDone_good (s : State) {p : List Instr}
    (hg : Good s.kept p) : Good (State.clocksDone s).kept p := by
  unfold State.clocksDone
  split <;> simp (maxDischargeDepth := 30) [hg]
@[simp] theorem State.halfDecision_good (s : State) (p : Nat) {q₀ : List Instr}
    (hg : Good s.kept q₀) : Good (State.halfDecision s p).kept q₀ := by
  unfold State.halfDecision
  split <;> simp (maxDischargeDepth := 30) [hg]
@[simp] theorem State.twinBreak_good (s : State) (p : Nat) {q₀ : List Instr}
    (hg : Good s.kept q₀) : Good (State.twinBreak s p).kept q₀ := by
  simp (maxDischargeDepth := 30) [State.twinBreak, hg]
@[simp] theorem State.writeTwinCmd_good (s : State) (p : Nat) (data : Word) {q₀ : List Instr}
    (hg : Good s.kept q₀) : Good (State.writeTwinCmd s p data).kept q₀ := by
  unfold State.writeTwinCmd
  (repeat' split) <;> simp (maxDischargeDepth := 30) [hg]
@[simp] theorem State.fenceDecision_good (s : State) (p : Nat) {q₀ : List Instr}
    (hg : Good s.kept q₀) : Good (State.fenceDecision s p).kept q₀ := by
  unfold State.fenceDecision
  split <;> simp (maxDischargeDepth := 30) [hg]
@[simp] theorem State.mismatch_good (s : State) (p : Nat) (u : Nat) (detail : Byte) (rp : Option Report) (rs : Option Report) (brk : Bool) {q₀ : List Instr}
    (hg : Good s.kept q₀) : Good (State.mismatch s p u detail rp rs brk).kept q₀ := by
  simp (maxDischargeDepth := 30) [State.mismatch, hg]
@[simp] theorem State.chanReset_good (s : State) (c : Nat) {p : List Instr}
    (hg : Good s.kept p) : Good (State.chanReset s c).kept p := by
  simp (maxDischargeDepth := 30) [State.chanReset, hg]

@[simp] theorem State.vcQuiet_good (s : State) (v : Nat) {p : List Instr}
    (hg : Good s.kept p) : Good (State.vcQuiet s v).kept p := by
  unfold State.vcQuiet
  extract_lets inputs s1 s2 s3 s4 s5 s6 s7
  have h1 : Good s1.kept p := State.foldl_good _ _ _ (fun _ _ h => by simp (maxDischargeDepth := 30) [h]) hg
  have h2 : Good s2.kept p := State.foldl_good _ _ _ (fun _ _ h => by simp (maxDischargeDepth := 30) [h]) h1
  have h3 : Good s3.kept p := State.foldl_good _ _ _ (fun _ _ h => by simp (maxDischargeDepth := 30) [h]) h2
  have h4 : Good s4.kept p := State.foldl_good _ _ _ (fun _ _ h => by simp (maxDischargeDepth := 30) [h]) h3
  have h5 : Good s5.kept p := State.foldl_good _ _ _ (fun _ _ h => by simp (maxDischargeDepth := 30) [h]) h4
  have h6 : Good s6.kept p := State.foldl_good _ _ _ (fun _ _ h => by simp (maxDischargeDepth := 30) [h]) h5
  have h7 : Good s7.kept p := State.foldl_good _ _ _ (fun _ _ h => by simp (maxDischargeDepth := 30) [h]) h6
  simp (maxDischargeDepth := 30) [h7]
@[simp] theorem State.vcReset_good (s : State) (v : Nat) {p : List Instr}
    (hg : Good s.kept p) : Good (State.vcReset s v).kept p := by
  simp (maxDischargeDepth := 30) [State.vcReset, hg]

theorem State.vcCmd_good (s : State) (who : Agent) (v : Nat) (f : State → State) {p : List Instr}
    (hf : ∀ t, Good t.kept p → Good (f t).kept p) (hg : Good s.kept p) :
    Good (s.vcCmd who v f).kept p := by
  unfold State.vcCmd
  split
  · exact hg
  · split
    · exact hf _ hg
    · simp (maxDischargeDepth := 30) [hg]
@[simp] theorem State.vcRemove_good (s : State) (v : Nat) {p : List Instr}
    (hg : Good s.kept p) : Good (State.vcRemove s v).kept p := by
  unfold State.vcRemove
  (repeat' split) <;> simp (maxDischargeDepth := 30) [hg]

@[simp] theorem State.vcGone_good (s : State) (v : Nat) {p : List Instr}
    (hg : Good s.kept p) : Good (State.vcGone s v).kept p := by
  unfold State.vcGone
  extract_lets s1 s2 s3 s4 s5 s6
  have h1 : Good s1.kept p := State.foldl_good _ _ _ (fun _ _ h => by simp (maxDischargeDepth := 30) [h]) hg
  have h4 : Good s4.kept p := by simp (maxDischargeDepth := 30) [s4, s3, s2, h1]
  have h5 : Good s5.kept p := State.foldl_good _ _ _ (fun _ _ h => by
    split
    · rw [State.setBit_kept]
      split
      · exact State.poolDisable_good _ _ h
      · exact h
    · exact h) h4
  simp (maxDischargeDepth := 30) [s6, h5]

@[simp] theorem State.zeroBanks_good (s : State) {p : List Instr}
    (h : Good s.kept p) : Good (State.zeroBanks s).kept p := ⟨rfl, h.2⟩
@[simp] theorem State.lifecycleClear_good (s : State) (lc : Nat) {p : List Instr}
    (hg : Good s.kept p) : Good (State.lifecycleClear s lc).kept p := by
  simp (maxDischargeDepth := 30) [State.lifecycleClear, hg]

/-- What a start overlays on the reset state keeps the queue, and memory lists nothing. -/
theorem State.overlay_good (s : State) (rs : List (Nat × Nat)) {p : List Instr} (h : Good s.kept p) :
    Good (s.overlay State.reset rs).kept p := by
  rw [State.overlay_kept]; exact ⟨rfl, h.2⟩

@[simp] theorem State.toDormant_good (s : State) {p : List Instr} (h : Good s.kept p) :
    Good s.toDormant.kept p := by rw [State.toDormant_kept]; exact ⟨rfl, h.2⟩

@[simp] theorem State.toVoid_good (s : State) {p : List Instr} (h : Good s.kept p) :
    Good s.toVoid.kept p := by rw [State.toVoid_kept]; exact ⟨rfl, h.2⟩

@[simp] theorem State.toOff_good (s : State) {p : List Instr} (h : Good s.kept p) :
    Good s.toOff.kept p := by rw [State.toOff_kept]; exact ⟨rfl, h.2⟩

@[simp] theorem State.startFrom_good (s : State) (kind : Word) (keep : List (Nat × Nat)) {p : List Instr}
    (h : Good s.kept p) : Good (State.startFrom s kind keep).kept p := by
  unfold State.startFrom
  extract_lets lc t die u
  have ht : Good t.kept p := by
    unfold t
    split
    · exact h
    · simp (maxDischargeDepth := 30) [h]
  split
  · simp (maxDischargeDepth := 30) [ht]
  · have hu : Good u.kept p := by
      unfold u
      rw [State.setFld_kept, State.setBoardDie_kept]
      exact State.overlay_good _ _ ht
    exact hu
@[simp] theorem State.wake_good (s : State) (status : Word) {p : List Instr}
    (hg : Good s.kept p) : Good (State.wake s status).kept p := by
  simp (maxDischargeDepth := 30) [State.wake, hg]

@[simp] theorem State.warmStart_good (s : State) {p : List Instr}
    (h : Good s.kept p) : Good (State.warmStart s).kept p := by
  unfold State.warmStart
  extract_lets t die u w x
  have ht : Good t.kept p := State.foldl_good _ _ _ (fun v _ hv => by simp (maxDischargeDepth := 30) [hv]) h
  have hx : x.kept = (State.reset.mem, State.reset.bankFill, t.pending) := by
    refine (State.foldl_kept _ _ _ (fun _ _ => by rw [State.setFld_kept, State.setFld_kept])).trans ?_
    unfold w u
    rw [State.warmLedger_kept, State.setFld_kept, State.setBoardDie_kept, State.overlay_kept]
  clear_value x
  have hp : x.pending = t.pending := congrArg (fun k => k.2.2) hx
  rw [State.kept_mk]
  exact ⟨ht.1, hp.trans ht.2⟩

end Sys2Proof.Machine
end

