-- ==== Sys2Proof/Laws/InvBlocks.lean ====
section
/-!
SUPPORT. What register writes, start-up, modes, the boundary, DMA moves and the loads and stores of threads
keep, and from it that every command keeps the canonical form of memory and the queue.
-/
set_option Elab.async false
namespace Sys2Proof.Machine


/-- A write of a register run at its block, and one whose refusal is watched. -/
theorem State.watched_good (s : State) (b : Blk) (off : Nat) (f : State → State) {p : List Instr}
    (hf : ∀ t : State, Good t.kept p → Good (f t).kept p) (h : Good s.kept p) :
    Good (s.watched b off f).1.kept p := by
  unfold State.watched
  extract_lets c a s1 no s2 port
  have h1 : Good s1.kept p := hf _ (by simp (maxDischargeDepth := 30) [h])
  have h2 : Good s2.kept p := by simp (maxDischargeDepth := 30) [s2, h1]
  have hp : ∀ n, Good (port n).kept p := by
    intro n
    have hk : (port n).kept = s2.kept := State.setBit_kept s2 ⟨flagAddr (0x1780 + n), 3, 3⟩ (s.bit ⟨flagAddr (0x1780 + n), 3, 3⟩)
    rw [hk]; exact h2
  clear_value no port s2
  split
  · exact hf _ h
  · split <;> first | exact h2 | exact hp _

theorem State.atBlock_good (s : State) (who : Agent) (b : Blk) (off : Nat) (f : State → State) {p : List Instr}
    (hf : ∀ t : State, Good t.kept p → Good (f t).kept p) (h : Good s.kept p) :
    Good (s.atBlock who b off f).kept p := by
  unfold State.atBlock
  split
  · exact h
  · split
    · have := State.watched_good s b off f hf h
      simp (maxDischargeDepth := 30) [this]
    · exact hf _ h

@[simp] theorem State.writeEngine_good (s : State) (e off : Nat) (data : Word) {p : List Instr}
    (h : Good s.kept p) : Good (State.writeEngine s e off data).kept p := by
  unfold State.writeEngine
  (repeat' split) <;> simp (maxDischargeDepth := 30) [h]

theorem State.poolCmd_good (s : State) (who : Agent) (k : Nat) (on : Bool) (f : State → State) {p : List Instr}
    (hf : ∀ t, Good t.kept p → Good (f t).kept p) (hg : Good s.kept p) :
    Good (s.poolCmd who k on f).kept p := by
  unfold State.poolCmd
  split
  · exact hg
  · split
    · exact hf _ hg
    · simp (maxDischargeDepth := 30) [hg]
@[simp] theorem State.writePool_good (s : State) (who : Agent) (off : Nat) (data : Word) {p : List Instr}
    (hg : Good s.kept p) : Good (State.writePool s who off data).kept p := by
  unfold State.writePool
  extract_lets k r s1
  have h1 : Good s1.kept p := by simp (maxDischargeDepth := 30) [s1, hg]
  split
  · exact h1
  · refine State.poolCmd_good _ _ _ _ _ (fun t ht => ?_) h1
    split <;> simp (maxDischargeDepth := 30) [ht]
@[simp] theorem State.writeSilo_good (s : State) (off : Nat) (data : Word) {p : List Instr}
    (hg : Good s.kept p) : Good (State.writeSilo s off data).kept p := by
  unfold State.writeSilo
  split <;> simp (maxDischargeDepth := 30) [hg]
@[simp] theorem State.writeBm_good (s : State) (who : Agent) (off : Nat) (data : Word) {p : List Instr}
    (hg : Good s.kept p) : Good (State.writeBm s who off data).kept p := by
  simp (maxDischargeDepth := 30) [State.writeBm, hg]
@[simp] theorem State.writeBanks_good (s : State) (off : Nat) (data : Word) {p : List Instr}
    (hg : Good s.kept p) : Good (State.writeBanks s off data).kept p := by
  unfold State.writeBanks
  (repeat' split) <;> simp (maxDischargeDepth := 30) [hg]
@[simp] theorem State.writeWin_good (s : State) (off : Nat) (data : Word) {p : List Instr}
    (hg : Good s.kept p) : Good (State.writeWin s off data).kept p := by
  unfold State.writeWin
  (repeat' split) <;> simp (maxDischargeDepth := 30) [hg]
@[simp] theorem State.writeBridge_good (s : State) (who : Agent) (p : Nat) (off : Nat) (data : Word) {q₀ : List Instr}
    (hg : Good s.kept q₀) : Good (State.writeBridge s who p off data).kept q₀ := by
  simp (maxDischargeDepth := 30) [State.writeBridge, hg]
@[simp] theorem State.vcCommand_good (s : State) (v : Nat) (data : Word) {p : List Instr}
    (hg : Good s.kept p) : Good (State.vcCommand s v data).kept p := by
  unfold State.vcCommand
  split <;> simp (maxDischargeDepth := 30) [hg]
@[simp] theorem State.writeVct_good (s : State) (who : Agent) (off : Nat) (data : Word) {p : List Instr}
    (hg : Good s.kept p) : Good (State.writeVct s who off data).kept p := by
  simp (maxDischargeDepth := 30) [State.writeVct, hg]
@[simp] theorem State.blockSet_good (s : State) (who : Agent) (b : Blk) (off : Nat) (data : Word) (hi : Option Word) {p : List Instr}
    (hg : Good s.kept p) : Good (State.blockSet s who b off data hi).kept p := by
  unfold State.blockSet
  (repeat' split) <;> simp (maxDischargeDepth := 30) [*]
@[simp] theorem State.startFail_good (s : State) (code : Word) {p : List Instr}
    (hg : Good s.kept p) : Good (State.startFail s code).kept p := by
  simp (maxDischargeDepth := 30) [State.startFail, hg]
@[simp] theorem State.bankUp_good (s : State) (g : Nat) {p : List Instr}
    (hg : Good s.kept p) : Good (State.bankUp s g).kept p := by
  simp (maxDischargeDepth := 30) [State.bankUp, hg]
@[simp] theorem State.bankTest_good (s : State) (warm : Bool) (g : Nat) (fails : List (BitVec 11 × BitVec 9)) (again : Bool) {p : List Instr}
    (hg : Good s.kept p) : Good (State.bankTest s warm g fails again).kept p := by
  simp (maxDischargeDepth := 30) [State.bankTest, hg]
@[simp] theorem State.bootCore_good (s : State) (rom : List Byte) (n : Nat) {p : List Instr}
    (hg : Good s.kept p) : Good (State.bootCore s rom n).kept p := by
  simp (maxDischargeDepth := 30) [State.bootCore, hg]

@[simp] theorem State.bootBegin_good (s : State) (rom : List Byte) {p : List Instr}
    (h : Good s.kept p) : Good (State.bootBegin s rom).kept p := by
  have key : ∀ cs : List Nat, ∀ x : State, Good x.kept p →
      Good (cs.foldl (fun s n => (s.bootCore rom n).bootThread n) x).kept p := by
    intro cs x hx
    refine State.foldl_good _ _ _ ?_ hx
    intro u y hu
    simp (maxDischargeDepth := 30) [hu]
  have hk (cs : List Nat) := key cs _ (show Good (s.modStart (fun x => { x with
      booted := true, cores := cs, reserved := cs.map (fun n => 4 * n) ++ s.staging })).kept p by simp (maxDischargeDepth := 30) [h])
  unfold State.bootBegin
  extract_lets cs t u
  split
  · simp (maxDischargeDepth := 30) [h]
  · split
    · simp (maxDischargeDepth := 30) [h]
    · split
      · simp (maxDischargeDepth := 30) [h]
      · split
        · exact hk _
        · exact State.startFail_good _ _ (hk _)

@[simp] theorem State.placeRegs_good (s : State) (a : Nat) (ws : List Word) {p : List Instr}
    (h : Good s.kept p) : Good (State.placeRegs s a ws).1.kept p := by
  induction ws generalizing s a with
  | nil => exact h
  | cons w r ih =>
    unfold State.placeRegs
    split
    · exact h
    · simp only []
      split
      · exact ih _ _ h
      · split
        · simp (maxDischargeDepth := 30) [h]
        · exact ih _ _ (by simp (maxDischargeDepth := 30) [h])

@[simp] theorem State.placeChunk_good (s : State) (c : Chunk) (stored : List Byte) (fetched : Bool)
    (out : Option (List Byte)) {p : List Instr}
    (h : Good s.kept p) : Good (State.placeChunk s c stored fetched out).1.kept p := by
  unfold State.placeChunk
  split
  · exact h
  · split
    · exact h
    · simp only []
      split
      · exact h
      · split
        · exact h
        · split
          · simp (maxDischargeDepth := 30) [h]
          · exact State.foldl_good _ _ _ (fun u x hu => by simp (maxDischargeDepth := 30) [hu]) h

@[simp] theorem State.placeAll_good (s : State) (img : BootImage) (cs : List Chunk) (k : Nat) {p : List Instr}
    (h : Good s.kept p) : Good (State.placeAll s img cs k).1.kept p := by
  induction cs generalizing s k with
  | nil => exact h
  | cons c r ih =>
    unfold State.placeAll
    simp only []
    split
    · simp (maxDischargeDepth := 30) [h]
    · exact ih _ _ (State.placeChunk_good _ _ _ _ _ h)

@[simp] theorem State.reject_good (s : State) (code : Word) (written : List Chunk) {p : List Instr}
    (h : Good s.kept p) : Good (State.reject s code written).kept p := by
  unfold State.reject
  extract_lets t u
  have ht : Good t.kept p := by simp (maxDischargeDepth := 30) [t, h]
  have hu : Good u.kept p := by
    refine State.foldl_good _ _ _ ?_ ht
    intro v x hv
    split
    · exact hv
    · exact State.foldl_good _ _ _ (fun w y hw => by simp (maxDischargeDepth := 30) [hw]) hv
  clear_value u
  (repeat' split) <;> simp (maxDischargeDepth := 30) [hu]
@[simp] theorem State.placeImage_good (s : State) (img : BootImage) {p : List Instr}
    (hg : Good s.kept p) : Good (State.placeImage s img).kept p := by
  unfold State.placeImage
  simp only []
  (repeat' split) <;> simp (maxDischargeDepth := 30) [*]
@[simp] theorem State.tryImage_good (s : State) (img : BootImage) {p : List Instr}
    (hg : Good s.kept p) : Good (State.tryImage s img).kept p := by
  unfold State.tryImage
  split <;> simp (maxDischargeDepth := 30) [hg]
@[simp] theorem State.configBank_good (s : State) (g : Nat) {p : List Instr}
    (hg : Good s.kept p) : Good (State.configBank s g).kept p := by
  unfold State.configBank
  split <;> simp (maxDischargeDepth := 30) [hg]

@[simp] theorem State.release_good (s : State) {p : List Instr}
    (h : Good s.kept p) : Good (State.release s).kept p := by
  unfold State.release
  extract_lets a b c d e
  have ha : Good a.kept p := State.foldl_good _ _ _ (fun w y hw => by simp (maxDischargeDepth := 30) [hw]) h
  have he : Good e.kept p := by simp (maxDischargeDepth := 30) [e, d, c, b, ha]
  simp (maxDischargeDepth := 30) [he]
@[simp] theorem State.releaseBy_good (s : State) (who : Agent) {p : List Instr}
    (hg : Good s.kept p) : Good (State.releaseBy s who).kept p := by
  simp (maxDischargeDepth := 30) [State.releaseBy, hg]
@[simp] theorem State.writeGlob_good (s : State) (who : Agent) (off : Nat) (data : Word) {p : List Instr}
    (hg : Good s.kept p) : Good (State.writeGlob s who off data).kept p := by
  unfold State.writeGlob
  (repeat' split) <;> simp (maxDischargeDepth := 30) [hg]
@[simp] theorem State.bankWiped_good (s : State) (g : Nat) {p : List Instr}
    (hg : Good s.kept p) : Good (State.bankWiped s g).kept p := by
  simp (maxDischargeDepth := 30) [State.bankWiped, hg]

@[simp] theorem State.serviceWipe_good (s : State) {p : List Instr}
    (h : Good s.kept p) : Good (State.serviceWipe s).kept p := by
  have hk (t : State) (m : Map Thread) : ({ t with threads := m } : State).kept = t.kept := rfl
  unfold State.serviceWipe
  extract_lets a b ts
  have ha : Good a.kept p := State.foldl_good _ _ _ (fun w y hw => by simp (maxDischargeDepth := 30) [hw]) h
  have hb : Good b.kept p := State.foldl_good _ _ _ (fun w y hw => by simp (maxDischargeDepth := 30) [hw]) ha
  rw [hk]
  exact hb

@[simp] theorem State.enterService_good (s : State) {p : List Instr}
    (h : Good s.kept p) : Good (State.enterService s).kept p := by
  have hk (t : State) (m : List (Crossing × XItem)) : ({ t with xq := m } : State).kept = t.kept := rfl
  unfold State.enterService
  extract_lets a b c d e f g i j k
  have ha : Good a.kept p := State.foldl_good _ _ _ (fun w y hw => by simp (maxDischargeDepth := 30) [hw]) h
  have hb : Good b.kept p := by simp (maxDischargeDepth := 30) [b, ha]
  have hc : Good c.kept p := State.foldl_good _ _ _ (fun w y hw => by simp (maxDischargeDepth := 30) [hw]) hb
  have hd : Good d.kept p := State.foldl_good _ _ _ (fun w y hw => by simp (maxDischargeDepth := 30) [hw]) hc
  have he : Good e.kept p := State.foldl_good _ _ _ (fun w y hw => by simp (maxDischargeDepth := 30) [hw]) (by rw [hk]; exact hd)
  have hf : Good f.kept p := State.foldl_good _ _ _ (fun w y hw => by simp (maxDischargeDepth := 30) [hw]) he
  have hg : Good g.kept p := State.foldl_good _ _ _ (fun w y hw => by simp (maxDischargeDepth := 30) [hw]) hf
  have hi : Good i.kept p := State.foldl_good _ _ _ (fun w y hw => by simp (maxDischargeDepth := 30) [hw]) hg
  have hj : Good j.kept p := by
    unfold j
    split
    · exact hi
    · simp (maxDischargeDepth := 30) [hi]
  have hl : Good k.kept p := State.foldl_good _ _ _ (fun w y hw => by simp (maxDischargeDepth := 30) [hw]) hj
  simp (maxDischargeDepth := 30) [hl]

@[simp] theorem State.dormantBegin_good (s : State) {p : List Instr}
    (hg : Good s.kept p) : Good (State.dormantBegin s).kept p := by
  have hm (t : State) (m : ModeS) : ({ t with mode := m } : State).kept = t.kept := rfl
  unfold State.dormantBegin
  extract_lets s1 s2 s3 s4 m s5 s6 s7
  have h1 : s1.kept = s.kept := State.foldl_kept _ _ _ (fun _ _ => by simp (maxDischargeDepth := 30))
  have h2 : s2.kept = s.kept := (State.foldl_kept _ _ _ (fun _ _ => by simp (maxDischargeDepth := 30))).trans h1
  have h3 : s3.kept = s.kept := (State.foldl_kept _ _ _ (fun _ _ => by simp (maxDischargeDepth := 30))).trans h2
  have h4 : Good s4.kept p := State.foldl_good _ _ _ (fun t _ ht => by
    split <;> simp (maxDischargeDepth := 30) [ht]) (by rw [h3]; exact hg)
  clear_value s4
  have h5 : Good s5.kept p := by
    show Good (State.setBit _ _ _).kept p
    rw [State.setBit_kept, hm]; exact h4
  have h6 : Good s6.kept p := by
    show Good (State.fenceOpen _).kept p
    rw [State.fenceOpen_kept]; exact h5
  clear_value s6
  have h7 : Good s7.kept p := State.foldl_good _ _ _ (fun t _ ht => by
    split <;> simp (maxDischargeDepth := 30) [ht]) h6
  exact State.home_good _ _ h7
@[simp] theorem State.modeGo_good (s : State) (m : Word) {p : List Instr}
    (hg : Good s.kept p) : Good (State.modeGo s m).kept p := by
  unfold State.modeGo
  (repeat' split) <;> simp (maxDischargeDepth := 30) [*]

theorem State.modeReq_good (s : State) (who : Agent) (f : State → State) {p : List Instr}
    (hf : ∀ t : State, Good t.kept p → Good (f t).kept p) (h : Good s.kept p) :
    Good (s.modeReq who f).kept p := by
  unfold State.modeReq
  (repeat' split) <;> first | exact hf _ h | simp (maxDischargeDepth := 30) [h]

@[simp] theorem State.writeModeCtl_good (s : State) (who : Agent) (data : Word) {p : List Instr}
    (h : Good s.kept p) : Good (State.writeModeCtl s who data).kept p := by
  unfold State.writeModeCtl
  simp only []
  split
  · simp (maxDischargeDepth := 30) [h]
  · refine State.modeReq_good _ _ _ ?_ h
    intro t ht
    (repeat' split) <;> first | exact State.modeGo_good _ _ ht | (rw [State.modeNo_kept]; exact ht) | simp (maxDischargeDepth := 30) [ht]
@[simp] theorem State.coreUp_good (s : State) (n : Nat) {p : List Instr}
    (hg : Good s.kept p) : Good (State.coreUp s n).kept p := by
  simp (maxDischargeDepth := 30) [State.coreUp, hg]
@[simp] theorem State.domainUp_good (s : State) (i : Nat) {p : List Instr}
    (hg : Good s.kept p) : Good (State.domainUp s i).kept p := by
  simp (maxDischargeDepth := 30) [State.domainUp, hg]
@[simp] theorem State.dormantDown_good (s : State) (i : Nat) {p : List Instr}
    (hg : Good s.kept p) : Good (State.dormantDown s i).kept p := by
  simp (maxDischargeDepth := 30) [State.dormantDown, hg]
@[simp] theorem State.fcSafe_good (s : State) {p : List Instr}
    (hg : Good s.kept p) : Good (State.fcSafe s).kept p := by
  simp (maxDischargeDepth := 30) [State.fcSafe, hg]
@[simp] theorem State.writeFc_good (s : State) (who : Agent) (off : Nat) (data : Word) {p : List Instr}
    (hg : Good s.kept p) : Good (State.writeFc s who off data).kept p := by
  unfold State.writeFc
  (repeat' split) <;> simp (maxDischargeDepth := 30) [hg]
@[simp] theorem State.wakeBy_good (s : State) (ls : List (Fin 64)) (timer : Bool) (soc : Bool) {p : List Instr}
    (hg : Good s.kept p) : Good (State.wakeBy s ls timer soc).kept p := by
  simp (maxDischargeDepth := 30) [State.wakeBy, hg]
@[simp] theorem State.dbgHalt_good (s : State) (gt : Nat) {p : List Instr}
    (hg : Good s.kept p) : Good (State.dbgHalt s gt).kept p := by
  unfold State.dbgHalt
  split <;> simp (maxDischargeDepth := 30) [hg]

theorem State.dbgCmd_good (s : State) (who : Agent) (gt : Nat) (f : State → State) {p : List Instr}
    (hf : ∀ t, Good t.kept p → Good (f t).kept p) (hg : Good s.kept p) :
    Good (s.dbgCmd who gt f).kept p := by
  unfold State.dbgCmd
  split
  · simp (maxDischargeDepth := 30) [hg]
  · split
    · exact hf _ hg
    · exact hg
@[simp] theorem State.writeDbgCmd_good (s : State) (who : Agent) (data : Word) {p : List Instr}
    (hg : Good s.kept p) : Good (State.writeDbgCmd s who data).kept p := by
  unfold State.writeDbgCmd
  extract_lets gt
  split
  · exact State.dbgCmd_good _ _ _ _ (fun t ht => State.dbgHalt_good _ _ ht) hg
  · exact State.dbgCmd_good _ _ _ _ (fun t ht => by simp (maxDischargeDepth := 30) [ht]) hg
  · exact State.dbgCmd_good _ _ _ _ (fun t ht => by simp (maxDischargeDepth := 30) [ht]) hg
  · simp (maxDischargeDepth := 30) [hg]
@[simp] theorem State.writePower_good (s : State) (who : Agent) (off : Nat) (data : Word) {p : List Instr}
    (hg : Good s.kept p) : Good (State.writePower s who off data).kept p := by
  simp (maxDischargeDepth := 30) [State.writePower, hg]

@[simp] theorem State.blockStore_good (s : State) (who : Agent) (b : Blk) (off : Nat) (data : Word) (hi : Option Word)
    {p : List Instr} (hg : Good s.kept p) : Good (State.blockStore s who b off data hi).kept p := by
  unfold State.blockStore
  refine State.atBlock_good _ _ _ _ _ (fun t ht => ?_) hg
  (repeat' split) <;> simp (maxDischargeDepth := 30) [ht]
@[simp] theorem State.blockWrite_good (s : State) (who : Agent) (b : Blk) (off : Nat) (data : Word) {p : List Instr}
    (hg : Good s.kept p) : Good (State.blockWrite s who b off data).kept p := by
  simp (maxDischargeDepth := 30) [State.blockWrite, hg]
@[simp] theorem State.writeWords_good (s : State) (who : Agent) (b : Blk) (off : Nat) (data : Word) (hi : Option Word) {p : List Instr}
    (hg : Good s.kept p) : Good (State.writeWords s who b off data hi).kept p := by
  unfold State.writeWords
  (repeat' split) <;> simp (maxDischargeDepth := 30) [hg]

theorem State.judgedWrite_good {s t : State} {who : Agent} {b : Blk} {off : Nat} {data : Word}
    {hi : Option Word} {p : List Instr} (h : Good s.kept p) (e : s.judgedWrite who b off data hi = .ok t) :
    Good t.kept p := by
  unfold State.judgedWrite at e
  split at e
  · cases e
  · cases e; simp (maxDischargeDepth := 30) [h]

@[simp] theorem State.writeAt_good (s : State) (who : Agent) (b : Blk) (off : Nat) (data : Word)
    (hi : Option Word) (ref : ReqRef) {p : List Instr}
    (h : Good s.kept p) : Good (State.writeAt s who b off data hi ref).kept p := by
  unfold State.writeAt
  split
  · simp (maxDischargeDepth := 30) [h]
  · rename_i e
    have := State.judgedWrite_good h e
    simp (maxDischargeDepth := 30) [this]

@[simp] theorem State.xqArrive_good (s : State) (q : Crossing) (it : XItem) {p : List Instr}
    (h : Good s.kept p) : Good (State.xqArrive s q it).kept p := by
  unfold State.xqArrive
  split
  · split
    · simp (maxDischargeDepth := 30) [h]
    · split
      · split
        · simp (maxDischargeDepth := 30) [h]
        · rename_i e
          have := State.judgedWrite_good h e
          simp (maxDischargeDepth := 30) [this]
      · exact h
  · split
    · split
      · simp (maxDischargeDepth := 30) [h]
      · rename_i e
        have := State.judgedRead_kept e
        simp (maxDischargeDepth := 30) [this, h]
    · exact h
  · simp (maxDischargeDepth := 30) [h]
  · simp (maxDischargeDepth := 30) [h]
  · simp (maxDischargeDepth := 30) [h]
  · simp (maxDischargeDepth := 30) [h]
@[simp] theorem State.ctlWrite_good (s : State) (who : Agent) (a : Nat) (data : Word) (hi : Option Word) (ref : ReqRef) {p : List Instr}
    (hg : Good s.kept p) : Good (State.ctlWrite s who a data hi ref).kept p := by
  unfold State.ctlWrite
  simp only []
  (repeat' split) <;> simp (maxDischargeDepth := 30) [*]

theorem State.numbered_good (s : State) (f : State → ReqRef → State) {p : List Instr}
    (hf : ∀ t r, Good t.kept p → Good (f t r).kept p) (h : Good s.kept p) : Good (s.numbered f).kept p :=
  hf _ _ h

@[simp] theorem State.aperture_good (s : State) (v : Nat) (write : Option Word) {p : List Instr}
    (h : Good s.kept p) : Good (State.aperture s v write).kept p := by
  unfold State.aperture
  simp only []
  split
  · simp (maxDischargeDepth := 30) [h]
  · split
    · refine State.numbered_good _ _ ?_ h
      intro t r ht
      split <;> simp (maxDischargeDepth := 30) [ht]
    · simp (maxDischargeDepth := 30) [h]

@[simp] theorem State.hostRegister_good (s : State) (who : Agent) (a : Nat) (acc : HostAccess) {p : List Instr}
    (h : Good s.kept p) : Good (State.hostRegister s who a acc).kept p := by
  unfold State.hostRegister
  simp only []
  split
  · simp (maxDischargeDepth := 30) [h]
  · refine State.numbered_good _ _ ?_ h
    intro t r ht
    split <;> simp (maxDischargeDepth := 30) [ht]

@[simp] theorem State.hostMemory_good (s : State) (a : Nat) (acc : HostAccess) {p : List Instr}
    (h : Good s.kept p) : Good (State.hostMemory s a acc).kept p := by
  unfold State.hostMemory
  simp only []
  split
  · simp (maxDischargeDepth := 30) [h]
  · split
    · split
      · simp (maxDischargeDepth := 30) [h]
      · rename_i e; exact State.good_of_memHeld h e
      · rename_i e
        have := State.good_of_memAccess h e
        simp (maxDischargeDepth := 30) [this]
    · simp (maxDischargeDepth := 30) [h]
@[simp] theorem State.debugAccess_good (s : State) (off : Nat) (acc : HostAccess) {p : List Instr}
    (hg : Good s.kept p) : Good (State.debugAccess s off acc).kept p := by
  simp (maxDischargeDepth := 30) [State.debugAccess, hg]

@[simp] theorem State.winRead_good (s : State) (v o : Nat) {p : List Instr}
    (h : Good s.kept p) : Good (State.winRead s v o).kept p := by
  have hn (w : State → ReqRef → State) (hw : ∀ t r, Good t.kept p → Good (w t r).kept p) :
      Good (s.numbered w).kept p := State.numbered_good _ _ hw h
  unfold State.winRead
  extract_lets say
  have hs (w : Word) : Good (say w).kept p := by
    unfold say
    rw [State.hostAnswer_kept]
    exact h
  clear_value say
  split
  · exact hs _
  split
  · exact hs _
  split
  · exact hs _
  split
  · exact hs _
  split
  · rw [State.hostAnswer_kept, State.drawn_kept]; exact h
  split
  · exact hs _
  split
  · exact hs _
  split
  · refine hn _ ?_
    intro t r ht
    rw [State.readAt_kept]; exact ht
  split
  · exact hs _
  split
  · exact State.aperture_good _ _ _ h
  · exact hs _
@[simp] theorem State.winWrite_good (s : State) (v : Nat) (o : Nat) (data : Word) {p : List Instr}
    (hg : Good s.kept p) : Good (State.winWrite s v o data).kept p := by
  simp (maxDischargeDepth := 30) [State.winWrite, hg]
@[simp] theorem State.winAccess_good (s : State) (v : Nat) (o : Nat) (acc : HostAccess) (beat : Beat) {p : List Instr}
    (hg : Good s.kept p) : Good (State.winAccess s v o acc beat).kept p := by
  unfold State.winAccess
  simp only []
  (repeat' split) <;> simp (maxDischargeDepth := 30) [*]
@[simp] theorem State.htpRequest_good (s : State) (off : Nat) (acc : HostAccess) (beat : Beat) {p : List Instr}
    (hg : Good s.kept p) : Good (State.htpRequest s off acc beat).kept p := by
  simp (maxDischargeDepth := 30) [State.htpRequest, hg]

@[simp] theorem State.scanned_good (s : State) {p : List Instr}
    (h : Good s.kept p) : Good (State.scanned s).kept p := by
  unfold State.scanned
  extract_lets n base a b
  have h0 : Good base.kept p := ⟨rfl, h.2⟩
  have ha : Good a.kept p := State.foldl_good _ _ _ (fun w y hw => by simp (maxDischargeDepth := 30) [hw]) h0
  have hb : Good b.kept p := State.foldl_good _ _ _ (fun w y hw => by simp (maxDischargeDepth := 30) [hw]) ha
  exact State.foldl_good _ _ _ (fun w y hw => by simp (maxDischargeDepth := 30) [hw]) hb

theorem State.dmaCtl_good {s t : State} {c a n : Nat} {wr : Option (List Byte)} {ref : ReqRef} {p : List Instr}
    (hg : Good s.kept p) (e : s.dmaCtl c a n wr ref = some t) : Good t.kept p := by
  unfold State.dmaCtl at e
  split at e
  · cases e
  · obtain rfl := Option.some.inj e
    split <;> simp (maxDischargeDepth := 30) [hg]

theorem State.dmaOutside_good {s t : State} {c job a n : Nat} {wr : Option (List Byte)} {p : List Instr}
    (hg : Good s.kept p) (e : s.dmaOutside c job a n wr = some t) : Good t.kept p := by
  unfold State.dmaOutside at e
  split at e
  · cases e; simp (maxDischargeDepth := 30) [hg]
  · cases e; simp (maxDischargeDepth := 30) [hg]
  · refine State.dmaCtl_good ?_ e
    simp (maxDischargeDepth := 30) [hg]
  · cases e

@[simp] theorem State.dmaReadOne_good (s : State) (c : Nat) {p : List Instr}
    (hg : Good s.kept p) : Good (State.dmaReadOne s c).2.kept p := by
  unfold State.dmaReadOne
  extract_lets x k a n ok
  split
  · simp (maxDischargeDepth := 30) [hg]
  · split
    · exact hg
    · split
      · split
        · simp (maxDischargeDepth := 30) [hg]
        · rename_i e
          exact State.good_of_memHeld hg e
        · rename_i e
          have := State.good_of_memAccess hg e
          simp (maxDischargeDepth := 30) [ok, this]
      · split
        · rename_i e
          have := State.dmaOutside_good hg e
          simp (maxDischargeDepth := 30) [ok, this]
        · simp (maxDischargeDepth := 30) [hg]

@[simp] theorem State.dmaWriteBank_good (s : State) (c n : Nat) {p : List Instr}
    (hg : Good s.kept p) : Good (State.dmaWriteBank s c n).2.kept p := by
  unfold State.dmaWriteBank
  extract_lets x k a m
  split
  · simp (maxDischargeDepth := 30) [hg]
  · split
    · exact hg
    · split
      · simp (maxDischargeDepth := 30) [hg]
      · rename_i e
        exact State.good_of_memHeld hg e
      · rename_i e
        have := State.good_of_memAccess hg e
        simp (maxDischargeDepth := 30) [this]

@[simp] theorem State.dmaWriteOut_good (s : State) (c n : Nat) {p : List Instr}
    (hg : Good s.kept p) : Good (State.dmaWriteOut s c n).2.kept p := by
  unfold State.dmaWriteOut
  extract_lets x k a
  split
  · simp (maxDischargeDepth := 30) [hg]
  · split
    · exact hg
    · rename_i bs _
      have hq : Good (s.openBytes x k bs).2.kept p := by simp (maxDischargeDepth := 30) [hg]
      simp only []
      split
      · rename_i e
        have := State.dmaOutside_good hq e
        simp (maxDischargeDepth := 30) [this]
      · simp (maxDischargeDepth := 30) [hg]
@[simp] theorem State.dmaWriteOne_good (s : State) (c : Nat) {p : List Instr}
    (hg : Good s.kept p) : Good (State.dmaWriteOne s c).2.kept p := by
  unfold State.dmaWriteOne
  simp only []
  (repeat' split) <;> simp (maxDischargeDepth := 30) [*]

@[simp] theorem State.dmaRun_good (s : State) (c n : Nat) {p : List Instr}
    (hg : Good s.kept p) : Good (State.dmaRun s c n).kept p := by
  induction n generalizing s with
  | zero => unfold State.dmaRun; simp (maxDischargeDepth := 30) [hg]
  | succ m ih =>
    unfold State.dmaRun
    extract_lets w r
    have hw : Good w.2.kept p := State.dmaWriteOne_good _ _ (by simp (maxDischargeDepth := 30) [hg])
    have hr : Good r.2.kept p := State.dmaReadOne_good _ _ hw
    split
    · exact ih _ hw
    · split
      · exact ih _ hr
      · exact hr

@[simp] theorem State.dmaOpen_good (s : State) (c : Nat) (x : ChanS) (q : Nat) {p : List Instr}
    (hg : Good s.kept p) : Good (State.dmaOpen s c x q).2.kept p := by
  unfold State.dmaOpen
  extract_lets a n f d f'
  have hd : Good d.kept p := by simp (maxDischargeDepth := 30) [d, f, hg]
  have hf : Good f'.2.kept p := by simp (maxDischargeDepth := 30) [f', hg]
  clear_value d f'
  split
  · split
    · split
      · show Good (Option.getD _ d).kept p
        cases e : State.dmaCtl d c a n (some f.1) .posted with
        | none => exact hd
        | some t => exact State.dmaCtl_good hd e
      · exact hd
    · exact hg
  · split
    · split
      · exact hg
      · rename_i e
        exact State.good_of_memHeld hf e
      · rename_i e
        exact State.good_of_memAccess hf e
    · exact hg

@[simp] theorem State.dmaClose_good (s : State) (c stop fuel : Nat) {p : List Instr}
    (hg : Good s.kept p) : Good (State.dmaClose s c stop fuel).2.kept p := by
  induction fuel generalizing s with
  | zero => exact hg
  | succ f ih =>
    unfold State.dmaClose
    extract_lets x k q
    have hq : Good q.2.kept p := State.dmaOpen_good _ _ _ _ hg
    clear_value q
    split
    · exact hg
    · split
      · exact ih _ (by simp (maxDischargeDepth := 30) [hq])
      · exact hq

@[simp] theorem State.dmaSettle_good (s : State) (c : Nat) {p : List Instr}
    (hg : Good s.kept p) : Good (State.dmaSettle s c).kept p := by
  unfold State.dmaSettle
  extract_lets x ab e q
  have hq : Good q.2.kept p := State.dmaClose_good _ _ _ _ hg
  clear_value q
  split
  · simp (maxDischargeDepth := 30) [hg]
  · (repeat' split) <;> simp (maxDischargeDepth := 30) [hq]
@[simp] theorem State.dmaStop_good (s : State) (c : Nat) {p : List Instr}
    (hg : Good s.kept p) : Good (State.dmaStop s c).kept p := by
  unfold State.dmaStop
  (repeat' split) <;> simp (maxDischargeDepth := 30) [hg]
@[simp] theorem State.dmaEngine_good (s : State) (c : Nat) {p : List Instr}
    (hg : Good s.kept p) : Good (State.dmaEngine s c).kept p := by
  unfold State.dmaEngine
  simp only []
  (repeat' split) <;> simp (maxDischargeDepth := 30) [*]
@[simp] theorem State.bankPart_good (s : State) (gt : Nat) (acc : MemAcc) (cached : Bool) (clash : Bool) {p : List Instr}
    (hg : Good s.kept p) : Good (State.bankPart s gt acc cached clash).kept p := by
  simp (maxDischargeDepth := 30) [State.bankPart, hg]
@[simp] theorem State.loadPart_good (s : State) (gt : Nat) (a : Nat) (n : Nat) (ref : ReqRef) (clash : Bool) {p : List Instr}
    (hg : Good s.kept p) : Good (State.loadPart s gt a n ref clash).kept p := by
  unfold State.loadPart
  (repeat' split) <;> simp (maxDischargeDepth := 30) [hg]
@[simp] theorem State.storePart_good (s : State) (gt : Nat) (a : Nat) (plain : List Byte) (ref : ReqRef) (clash : Bool) {p : List Instr}
    (hg : Good s.kept p) : Good (State.storePart s gt a plain ref clash).kept p := by
  unfold State.storePart
  (repeat' split) <;> simp (maxDischargeDepth := 30) [hg]

@[simp] theorem State.loadParts_good (s : State) (gt id pos : Nat) (ps : List Part) (clash : List Bool) {p : List Instr}
    (hg : Good s.kept p) : Good (State.loadParts s gt id pos ps clash).kept p := by
  induction ps generalizing s pos clash with
  | nil => exact hg
  | cons q r ih => exact ih _ _ _ (State.loadPart_good _ _ _ _ _ _ hg)
@[simp] theorem State.issueLong_good (s : State) (gt : Nat) (d : Reg) (pair : Bool) (seg : Fin 8) (acc : BitVec 3) (form : LoadForm) (agree : Bool) (ps : List Part) (clash : List Bool) {p : List Instr}
    (hg : Good s.kept p) : Good (State.issueLong s gt d pair seg acc form agree ps clash).kept p := by
  unfold State.issueLong
  (repeat' split) <;> simp (maxDischargeDepth := 30) [hg]
@[simp] theorem State.loadBody_good (s : State) (gt : Nat) (m : MemOp) (n : Nat) (form : LoadForm) (agree : Bool) {p : List Instr}
    (hg : Good s.kept p) : Good (State.loadBody s gt m n form agree).state.kept p := by
  unfold State.loadBody
  simp only []
  (repeat' split) <;> simp (maxDischargeDepth := 30) [*]
@[simp] theorem State.storeOne_good (s : State) (gt : Nat) (seg : Fin 8) (a : Nat) (bs : List Byte) (rest : Option (Nat × List Byte)) (second : Bool) (split : Bool) (clash : Bool) {p : List Instr}
    (hg : Good s.kept p) : Good (State.storeOne s gt seg a bs rest second split clash).kept p := by
  simp (maxDischargeDepth := 30) [State.storeOne, hg]
@[simp] theorem State.storeParts_good (s : State) (gt : Nat) (seg : Fin 8) (ps : List Part) (bs : List Byte) (clash : Bool) (clash2 : Bool) {p : List Instr}
    (hg : Good s.kept p) : Good (State.storeParts s gt seg ps bs clash clash2).kept p := by
  unfold State.storeParts
  split <;> simp (maxDischargeDepth := 30) [hg]
@[simp] theorem State.storeBody_good (s : State) (gt : Nat) (m : MemOp) (n : Nat) (bs : List Byte) {p : List Instr}
    (hg : Good s.kept p) : Good (State.storeBody s gt m n bs).state.kept p := by
  unfold State.storeBody
  simp only []
  (repeat' split) <;> simp (maxDischargeDepth := 30) [*]
@[simp] theorem State.tableBody_good (s : State) (gt : Nat) (d : Reg) (seg : Fin 8) (ps : List Part) (form : LoadForm) (clash : List Bool) {p : List Instr}
    (hg : Good s.kept p) : Good (State.tableBody s gt d seg ps form clash).state.kept p := by
  unfold State.tableBody
  (repeat' split) <;> simp (maxDischargeDepth := 30) [hg]

end Sys2Proof.Machine
end

