-- ==== Sys2Proof/Laws/InvExec.lean ====
section
/-!
SUPPORT. Every command answers a next state, and keeps the canonical form of memory and the queue: one
lemma for each meaning.
-/
set_option Elab.async false
namespace Sys2Proof.Machine

/-- What keeps memory and the queue keeps what holds of them. -/
theorem good_of_kept {s t : State} {p : List Instr} (e : t.kept = s.kept) (h : Good s.kept p) : Good t.kept p := by
  rw [e]; exact h


theorem State.viaBody_good (s : State) (gt : Nat) (ws : List Reg) (z : Bool) (body : State → Exec) {p : List Instr}
    (hb : ∀ t, Good t.kept p → Good (body t).state.kept p) (h : Good s.kept p) :
    Good (s.viaBody gt ws z body).state.kept p := by
  unfold State.viaBody
  split
  · exact hb s h
  · rw [State.agreeTake_kept]; exact h
  · split
    · simp (maxDischargeDepth := 30) [h]
    · have := hb s h
      split
      · rename_i e; rw [e, Exec.state_done] at this; split <;> simp (maxDischargeDepth := 30) [this]
      · rename_i e; rw [e, Exec.state_fault] at this; simp (maxDischargeDepth := 30) [this]
      · exact this

/-- An instruction keeps memory's form and the queue when its operation does. -/
theorem State.issue_good (s : State) (x : Issue) (i : Ins) (body : State → Exec) {p : List Instr}
    (hb : ∀ t, Good t.kept p → Good (body t).state.kept p) (h : Good s.kept p) :
    Good (s.issue x i body).kept p := by
  unfold State.issue
  extract_lets gt i' after s'
  split
  · exact h
  · split
    · simp (maxDischargeDepth := 30) [h]
    · split
      · simp (maxDischargeDepth := 30) [h]
      · have hs : Good s'.kept p := by
          show Good (State.fetchAhead s gt).kept p
          rw [State.fetchAhead_kept]; exact h
        have hk : Good (if i'.via then s'.viaBody gt i'.writes i'.wrFlags body else body s').state.kept p := by
          split
          · exact State.viaBody_good _ _ _ _ _ hb hs
          · exact hb s' hs
        split <;> rename_i e <;> rw [e] at hk
        · rw [Exec.state_done] at hk; simp (maxDischargeDepth := 30) [hk]
        · rw [Exec.state_fault] at hk; simp (maxDischargeDepth := 30) [hk]
        · exact hk
        · rw [Exec.state_wait] at hk; simp (maxDischargeDepth := 30) [hk]

theorem State.recorded_good (s : State) (gt : Nat) (via : Bool) (ws : List Reg) (rec : List Byte)
    (body : State → Exec) {p : List Instr} (hb : ∀ t, Good t.kept p → Good (body t).state.kept p)
    (h : Good s.kept p) : Good (s.recorded gt via ws rec body).state.kept p := by
  unfold State.recorded
  have hk : Good (if via then s.viaBody gt ws false body else body s).state.kept p := by
    split
    · exact State.viaBody_good _ _ _ _ _ hb h
    · exact hb s h
  split
  · rename_i e; rw [e, Exec.state_done] at hk; simp (maxDischargeDepth := 30) [hk]
  · exact hk

theorem execLoad_good (x : Issue) (m : MemOp) (n : Nat) (form : LoadForm) (s : State) {p : List Instr}
    (h : Good s.kept p) : Good (execLoad x m n form s).kept p :=
  State.issue_good _ _ _ _ (fun t ht => State.loadBody_good _ _ _ _ _ _ ht) h

theorem execStore_good (x : Issue) (m : MemOp) (n : Nat) (s : State) {p : List Instr}
    (h : Good s.kept p) : Good (execStore x m n s).kept p :=
  State.issue_good _ _ _ _ (fun t ht => State.recorded_good _ _ _ _ _ _
    (fun u hu => State.storeBody_good _ _ _ _ _ hu) ht) h

theorem execCall1_kept (x : Issue) (reads : List Reg) (target : Thread → Word) (s : State) :
    (execCall1 x reads target s).kept = s.kept := by
  refine State.issue_kept _ _ _ _ ?_
  intro t
  simp only []
  split
  · rename_i e; exact State.push_kept e
  · rfl


theorem execAdd_good (x : Issue) (f : Bool) (d : Reg) (a : Reg) (b : Reg) (s : State) {p : List Instr} (hg : Good s.kept p) :
    ∃ u₀, execAdd x f d a b s = .next u₀ ∧ Good u₀.kept p := ⟨_, rfl, by
    refine good_of_kept (State.issue_kept _ _ _ _ ?_) hg
    intro t
    (repeat' split) <;> simp⟩
theorem execAddc_good (x : Issue) (f : Bool) (d : Reg) (a : Reg) (b : Reg) (s : State) {p : List Instr} (hg : Good s.kept p) :
    ∃ u₀, execAddc x f d a b s = .next u₀ ∧ Good u₀.kept p := ⟨_, rfl, by
    refine good_of_kept (State.issue_kept _ _ _ _ ?_) hg
    intro t
    (repeat' split) <;> simp⟩
theorem execSub_good (x : Issue) (f : Bool) (d : Reg) (a : Reg) (b : Reg) (s : State) {p : List Instr} (hg : Good s.kept p) :
    ∃ u₀, execSub x f d a b s = .next u₀ ∧ Good u₀.kept p := ⟨_, rfl, by
    refine good_of_kept (State.issue_kept _ _ _ _ ?_) hg
    intro t
    (repeat' split) <;> simp⟩
theorem execSubc_good (x : Issue) (f : Bool) (d : Reg) (a : Reg) (b : Reg) (s : State) {p : List Instr} (hg : Good s.kept p) :
    ∃ u₀, execSubc x f d a b s = .next u₀ ∧ Good u₀.kept p := ⟨_, rfl, by
    refine good_of_kept (State.issue_kept _ _ _ _ ?_) hg
    intro t
    (repeat' split) <;> simp⟩
theorem execAnd_good (x : Issue) (f : Bool) (d : Reg) (a : Reg) (b : Reg) (s : State) {p : List Instr} (hg : Good s.kept p) :
    ∃ u₀, execAnd x f d a b s = .next u₀ ∧ Good u₀.kept p := ⟨_, rfl, by
    refine good_of_kept (State.issue_kept _ _ _ _ ?_) hg
    intro t
    (repeat' split) <;> simp⟩
theorem execOr_good (x : Issue) (f : Bool) (d : Reg) (a : Reg) (b : Reg) (s : State) {p : List Instr} (hg : Good s.kept p) :
    ∃ u₀, execOr x f d a b s = .next u₀ ∧ Good u₀.kept p := ⟨_, rfl, by
    refine good_of_kept (State.issue_kept _ _ _ _ ?_) hg
    intro t
    (repeat' split) <;> simp⟩
theorem execXor_good (x : Issue) (f : Bool) (d : Reg) (a : Reg) (b : Reg) (s : State) {p : List Instr} (hg : Good s.kept p) :
    ∃ u₀, execXor x f d a b s = .next u₀ ∧ Good u₀.kept p := ⟨_, rfl, by
    refine good_of_kept (State.issue_kept _ _ _ _ ?_) hg
    intro t
    (repeat' split) <;> simp⟩
theorem execSll_good (x : Issue) (f : Bool) (d : Reg) (a : Reg) (b : Reg) (s : State) {p : List Instr} (hg : Good s.kept p) :
    ∃ u₀, execSll x f d a b s = .next u₀ ∧ Good u₀.kept p := ⟨_, rfl, by
    refine good_of_kept (State.issue_kept _ _ _ _ ?_) hg
    intro t
    (repeat' split) <;> simp⟩
theorem execSrl_good (x : Issue) (f : Bool) (d : Reg) (a : Reg) (b : Reg) (s : State) {p : List Instr} (hg : Good s.kept p) :
    ∃ u₀, execSrl x f d a b s = .next u₀ ∧ Good u₀.kept p := ⟨_, rfl, by
    refine good_of_kept (State.issue_kept _ _ _ _ ?_) hg
    intro t
    (repeat' split) <;> simp⟩
theorem execSra_good (x : Issue) (f : Bool) (d : Reg) (a : Reg) (b : Reg) (s : State) {p : List Instr} (hg : Good s.kept p) :
    ∃ u₀, execSra x f d a b s = .next u₀ ∧ Good u₀.kept p := ⟨_, rfl, by
    refine good_of_kept (State.issue_kept _ _ _ _ ?_) hg
    intro t
    (repeat' split) <;> simp⟩
theorem execRor_good (x : Issue) (f : Bool) (d : Reg) (a : Reg) (b : Reg) (s : State) {p : List Instr} (hg : Good s.kept p) :
    ∃ u₀, execRor x f d a b s = .next u₀ ∧ Good u₀.kept p := ⟨_, rfl, by
    refine good_of_kept (State.issue_kept _ _ _ _ ?_) hg
    intro t
    (repeat' split) <;> simp⟩
theorem execSlt_good (x : Issue) (f : Bool) (d : Reg) (a : Reg) (b : Reg) (s : State) {p : List Instr} (hg : Good s.kept p) :
    ∃ u₀, execSlt x f d a b s = .next u₀ ∧ Good u₀.kept p := ⟨_, rfl, by
    refine good_of_kept (State.issue_kept _ _ _ _ ?_) hg
    intro t
    (repeat' split) <;> simp⟩
theorem execSltu_good (x : Issue) (f : Bool) (d : Reg) (a : Reg) (b : Reg) (s : State) {p : List Instr} (hg : Good s.kept p) :
    ∃ u₀, execSltu x f d a b s = .next u₀ ∧ Good u₀.kept p := ⟨_, rfl, by
    refine good_of_kept (State.issue_kept _ _ _ _ ?_) hg
    intro t
    (repeat' split) <;> simp⟩
theorem execCmp_good (x : Issue) (a : Reg) (b : Reg) (s : State) {p : List Instr} (hg : Good s.kept p) :
    ∃ u₀, execCmp x a b s = .next u₀ ∧ Good u₀.kept p := ⟨_, rfl, by
    refine good_of_kept (State.issue_kept _ _ _ _ ?_) hg
    intro t
    (repeat' split) <;> simp⟩
theorem execAddi_good (x : Issue) (d : Reg) (a : Reg) (imm : BitVec 15) (s : State) {p : List Instr} (hg : Good s.kept p) :
    ∃ u₀, execAddi x d a imm s = .next u₀ ∧ Good u₀.kept p := ⟨_, rfl, by
    refine good_of_kept (State.issue_kept _ _ _ _ ?_) hg
    intro t
    (repeat' split) <;> simp⟩
theorem execAndi_good (x : Issue) (d : Reg) (a : Reg) (imm : BitVec 15) (s : State) {p : List Instr} (hg : Good s.kept p) :
    ∃ u₀, execAndi x d a imm s = .next u₀ ∧ Good u₀.kept p := ⟨_, rfl, by
    refine good_of_kept (State.issue_kept _ _ _ _ ?_) hg
    intro t
    (repeat' split) <;> simp⟩
theorem execOri_good (x : Issue) (d : Reg) (a : Reg) (imm : BitVec 15) (s : State) {p : List Instr} (hg : Good s.kept p) :
    ∃ u₀, execOri x d a imm s = .next u₀ ∧ Good u₀.kept p := ⟨_, rfl, by
    refine good_of_kept (State.issue_kept _ _ _ _ ?_) hg
    intro t
    (repeat' split) <;> simp⟩
theorem execXori_good (x : Issue) (d : Reg) (a : Reg) (imm : BitVec 15) (s : State) {p : List Instr} (hg : Good s.kept p) :
    ∃ u₀, execXori x d a imm s = .next u₀ ∧ Good u₀.kept p := ⟨_, rfl, by
    refine good_of_kept (State.issue_kept _ _ _ _ ?_) hg
    intro t
    (repeat' split) <;> simp⟩
theorem execSlli_good (x : Issue) (d : Reg) (a : Reg) (cnt : BitVec 5) (s : State) {p : List Instr} (hg : Good s.kept p) :
    ∃ u₀, execSlli x d a cnt s = .next u₀ ∧ Good u₀.kept p := ⟨_, rfl, by
    refine good_of_kept (State.issue_kept _ _ _ _ ?_) hg
    intro t
    (repeat' split) <;> simp⟩
theorem execSrli_good (x : Issue) (d : Reg) (a : Reg) (cnt : BitVec 5) (s : State) {p : List Instr} (hg : Good s.kept p) :
    ∃ u₀, execSrli x d a cnt s = .next u₀ ∧ Good u₀.kept p := ⟨_, rfl, by
    refine good_of_kept (State.issue_kept _ _ _ _ ?_) hg
    intro t
    (repeat' split) <;> simp⟩
theorem execSrai_good (x : Issue) (d : Reg) (a : Reg) (cnt : BitVec 5) (s : State) {p : List Instr} (hg : Good s.kept p) :
    ∃ u₀, execSrai x d a cnt s = .next u₀ ∧ Good u₀.kept p := ⟨_, rfl, by
    refine good_of_kept (State.issue_kept _ _ _ _ ?_) hg
    intro t
    (repeat' split) <;> simp⟩
theorem execRori_good (x : Issue) (d : Reg) (a : Reg) (cnt : BitVec 5) (s : State) {p : List Instr} (hg : Good s.kept p) :
    ∃ u₀, execRori x d a cnt s = .next u₀ ∧ Good u₀.kept p := ⟨_, rfl, by
    refine good_of_kept (State.issue_kept _ _ _ _ ?_) hg
    intro t
    (repeat' split) <;> simp⟩
theorem execCmpi_good (x : Issue) (a : Reg) (imm : BitVec 15) (s : State) {p : List Instr} (hg : Good s.kept p) :
    ∃ u₀, execCmpi x a imm s = .next u₀ ∧ Good u₀.kept p := ⟨_, rfl, by
    simp (maxDischargeDepth := 30) [hg]⟩
theorem execLui_good (x : Issue) (d : Reg) (imm : BitVec 20) (s : State) {p : List Instr} (hg : Good s.kept p) :
    ∃ u₀, execLui x d imm s = .next u₀ ∧ Good u₀.kept p := ⟨_, rfl, by
    simp (maxDischargeDepth := 30) [hg]⟩
theorem execMul_good (x : Issue) (d : Reg) (a : Reg) (b : Reg) (s : State) {p : List Instr} (hg : Good s.kept p) :
    ∃ u₀, execMul x d a b s = .next u₀ ∧ Good u₀.kept p := ⟨_, rfl, by
    refine good_of_kept (State.issue_kept _ _ _ _ ?_) hg
    intro t
    (repeat' split) <;> simp⟩
theorem execMulh_good (x : Issue) (d : Reg) (a : Reg) (b : Reg) (s : State) {p : List Instr} (hg : Good s.kept p) :
    ∃ u₀, execMulh x d a b s = .next u₀ ∧ Good u₀.kept p := ⟨_, rfl, by
    refine good_of_kept (State.issue_kept _ _ _ _ ?_) hg
    intro t
    (repeat' split) <;> simp⟩
theorem execMulhu_good (x : Issue) (d : Reg) (a : Reg) (b : Reg) (s : State) {p : List Instr} (hg : Good s.kept p) :
    ∃ u₀, execMulhu x d a b s = .next u₀ ∧ Good u₀.kept p := ⟨_, rfl, by
    refine good_of_kept (State.issue_kept _ _ _ _ ?_) hg
    intro t
    (repeat' split) <;> simp⟩
theorem execMulw_good (x : Issue) (d : Reg) (a : Reg) (b : Reg) (s : State) {p : List Instr} (hg : Good s.kept p) :
    ∃ u₀, execMulw x d a b s = .next u₀ ∧ Good u₀.kept p := ⟨_, rfl, by
    refine good_of_kept (State.issue_kept _ _ _ _ ?_) hg
    intro t
    (repeat' split) <;> simp⟩
theorem execMulwu_good (x : Issue) (d : Reg) (a : Reg) (b : Reg) (s : State) {p : List Instr} (hg : Good s.kept p) :
    ∃ u₀, execMulwu x d a b s = .next u₀ ∧ Good u₀.kept p := ⟨_, rfl, by
    refine good_of_kept (State.issue_kept _ _ _ _ ?_) hg
    intro t
    (repeat' split) <;> simp⟩
theorem execDiv_good (x : Issue) (d : Reg) (a : Reg) (b : Reg) (s : State) {p : List Instr} (hg : Good s.kept p) :
    ∃ u₀, execDiv x d a b s = .next u₀ ∧ Good u₀.kept p := ⟨_, rfl, by
    refine good_of_kept (State.issue_kept _ _ _ _ ?_) hg
    intro t
    (repeat' split) <;> simp⟩
theorem execDivu_good (x : Issue) (d : Reg) (a : Reg) (b : Reg) (s : State) {p : List Instr} (hg : Good s.kept p) :
    ∃ u₀, execDivu x d a b s = .next u₀ ∧ Good u₀.kept p := ⟨_, rfl, by
    refine good_of_kept (State.issue_kept _ _ _ _ ?_) hg
    intro t
    (repeat' split) <;> simp⟩
theorem execRem_good (x : Issue) (d : Reg) (a : Reg) (b : Reg) (s : State) {p : List Instr} (hg : Good s.kept p) :
    ∃ u₀, execRem x d a b s = .next u₀ ∧ Good u₀.kept p := ⟨_, rfl, by
    refine good_of_kept (State.issue_kept _ _ _ _ ?_) hg
    intro t
    (repeat' split) <;> simp⟩
theorem execRemu_good (x : Issue) (d : Reg) (a : Reg) (b : Reg) (s : State) {p : List Instr} (hg : Good s.kept p) :
    ∃ u₀, execRemu x d a b s = .next u₀ ∧ Good u₀.kept p := ⟨_, rfl, by
    refine good_of_kept (State.issue_kept _ _ _ _ ?_) hg
    intro t
    (repeat' split) <;> simp⟩
theorem execAddp_good (x : Issue) (f : Bool) (d : Reg) (a : Reg) (b : Reg) (s : State) {p : List Instr} (hg : Good s.kept p) :
    ∃ u₀, execAddp x f d a b s = .next u₀ ∧ Good u₀.kept p := ⟨_, rfl, by
    refine good_of_kept (State.issue_kept _ _ _ _ ?_) hg
    intro t
    (repeat' split) <;> simp⟩
theorem execSubp_good (x : Issue) (f : Bool) (d : Reg) (a : Reg) (b : Reg) (s : State) {p : List Instr} (hg : Good s.kept p) :
    ∃ u₀, execSubp x f d a b s = .next u₀ ∧ Good u₀.kept p := ⟨_, rfl, by
    refine good_of_kept (State.issue_kept _ _ _ _ ?_) hg
    intro t
    (repeat' split) <;> simp⟩
theorem execShasig_good (x : Issue) (d : Reg) (a : Reg) (which : Fin 4) (s : State) {p : List Instr} (hg : Good s.kept p) :
    ∃ u₀, execShasig x d a which s = .next u₀ ∧ Good u₀.kept p := ⟨_, rfl, by
    simp (maxDischargeDepth := 30) [hg]⟩
theorem execCrc_good (x : Issue) (d : Reg) (a : Reg) (b : Reg) (w : BitVec 5) (n : BitVec 5) (s : State) {p : List Instr} (hg : Good s.kept p) :
    ∃ u₀, execCrc x d a b w n s = .next u₀ ∧ Good u₀.kept p := ⟨_, rfl, by
    refine good_of_kept (State.issue_kept _ _ _ _ ?_) hg
    intro t
    (repeat' split) <;> simp⟩
theorem execCrcr_good (x : Issue) (d : Reg) (a : Reg) (b : Reg) (w : BitVec 5) (n : BitVec 5) (s : State) {p : List Instr} (hg : Good s.kept p) :
    ∃ u₀, execCrcr x d a b w n s = .next u₀ ∧ Good u₀.kept p := ⟨_, rfl, by
    refine good_of_kept (State.issue_kept _ _ _ _ ?_) hg
    intro t
    (repeat' split) <;> simp⟩
theorem execB_good (x : Issue) (cond : BitVec 4) (disp : BitVec 21) (s : State) {p : List Instr} (hg : Good s.kept p) :
    ∃ u₀, execB x cond disp s = .next u₀ ∧ Good u₀.kept p := ⟨_, rfl, by
    refine good_of_kept (State.issue_kept _ _ _ _ ?_) hg
    intro t
    simp only []
    (repeat' split) <;> simp⟩
theorem execCall_good (x : Issue) (disp : BitVec 25) (s : State) {p : List Instr} (hg : Good s.kept p) :
    ∃ u₀, execCall x disp s = .next u₀ ∧ Good u₀.kept p := ⟨_, rfl, good_of_kept (execCall1_kept _ _ _ _) hg⟩
theorem execBr_good (x : Issue) (a : Reg) (s : State) {p : List Instr} (hg : Good s.kept p) :
    ∃ u₀, execBr x a s = .next u₀ ∧ Good u₀.kept p := ⟨_, rfl, by
    refine good_of_kept (State.issue_kept _ _ _ _ ?_) hg
    intro t
    (repeat' split) <;> simp⟩
theorem execCallr_good (x : Issue) (a : Reg) (s : State) {p : List Instr} (hg : Good s.kept p) :
    ∃ u₀, execCallr x a s = .next u₀ ∧ Good u₀.kept p := ⟨_, rfl, good_of_kept (execCall1_kept _ _ _ _) hg⟩
theorem execRet_good (x : Issue) (s : State) {p : List Instr} (hg : Good s.kept p) :
    ∃ u₀, execRet x s = .next u₀ ∧ Good u₀.kept p := ⟨_, rfl, by
    refine good_of_kept (State.issue_kept _ _ _ _ ?_) hg
    intro t
    try simp only []
    split
    · rename_i e; exact State.pop_kept e
    · rfl⟩
theorem execEret_good (x : Issue) (s : State) {p : List Instr} (hg : Good s.kept p) :
    ∃ u₀, execEret x s = .next u₀ ∧ Good u₀.kept p := ⟨_, rfl, by
    have hk : (s.issue x (insXfer []) (fun s =>
        match s.pop x.gt.val with
        | some (v, s') => .done (s'.setBit (fInHandler x.gt.val) false) (.goto v (v + 4) false true)
        | none => .fault s (precise 5 2))).kept = s.kept := by
      refine State.issue_kept _ _ _ _ ?_
      intro t
      split
      · rename_i e; rw [Exec.state_done, State.setBit_kept]; exact State.pop_kept e
      · rfl
    refine good_of_kept ?_ hg
    try simp only []
    split
    · rw [State.modThread_kept]; exact hk
    · exact hk⟩
theorem execFret_good (x : Issue) (s : State) {p : List Instr} (hg : Good s.kept p) :
    ∃ u₀, execFret x s = .next u₀ ∧ Good u₀.kept p := ⟨_, rfl, by
    simp (maxDischargeDepth := 30) [hg]⟩
theorem execTrapi_good (x : Issue) (n : BitVec 7) (s : State) {p : List Instr} (hg : Good s.kept p) :
    ∃ u₀, execTrapi x n s = .next u₀ ∧ Good u₀.kept p := ⟨_, rfl, by
    refine good_of_kept (State.issue_kept _ _ _ _ ?_) hg
    intro t
    (repeat' split) <;> simp⟩
theorem execLoop_good (x : Issue) (k : BitVec 2) (a : Reg) (imm : BitVec 15) (s : State) {p : List Instr} (hg : Good s.kept p) :
    ∃ u₀, execLoop x k a imm s = .next u₀ ∧ Good u₀.kept p := ⟨_, rfl, by
    refine good_of_kept (State.issue_kept _ _ _ _ ?_) hg
    intro t
    simp only []
    (repeat' split) <;> simp⟩
theorem execLprd_good (x : Issue) (d : Reg) (k : BitVec 2) (fi : BitVec 2) (s : State) {p : List Instr} (hg : Good s.kept p) :
    ∃ u₀, execLprd x d k fi s = .next u₀ ∧ Good u₀.kept p := ⟨_, rfl, by
    simp (maxDischargeDepth := 30) [hg]⟩
theorem execLpwr_good (x : Issue) (k : BitVec 2) (fi : BitVec 2) (a : Reg) (s : State) {p : List Instr} (hg : Good s.kept p) :
    ∃ u₀, execLpwr x k fi a s = .next u₀ ∧ Good u₀.kept p := ⟨_, rfl, by
    refine good_of_kept (State.issue_kept _ _ _ _ ?_) hg
    intro t
    simp only []
    (repeat' split) <;> simp⟩
theorem execNop_good (x : Issue) (s : State) {p : List Instr} (hg : Good s.kept p) :
    ∃ u₀, execNop x s = .next u₀ ∧ Good u₀.kept p := ⟨_, rfl, by
    refine good_of_kept (State.issue_kept _ _ _ _ ?_) hg
    intro t
    (repeat' split) <;> simp⟩
theorem execTotask_good (x : Issue) (s : State) {p : List Instr} (hg : Good s.kept p) :
    ∃ u₀, execTotask x s = .next u₀ ∧ Good u₀.kept p := ⟨_, rfl, by
    simp (maxDischargeDepth := 30) [hg]⟩
theorem execRspush_good (x : Issue) (a : Reg) (s : State) {p : List Instr} (hg : Good s.kept p) :
    ∃ u₀, execRspush x a s = .next u₀ ∧ Good u₀.kept p := ⟨_, rfl, by
    refine good_of_kept (State.issue_kept _ _ _ _ ?_) hg
    intro t
    try simp only []
    split
    · rename_i e; exact State.push_kept e
    · rfl⟩
theorem execRspop_good (x : Issue) (d : Reg) (s : State) {p : List Instr} (hg : Good s.kept p) :
    ∃ u₀, execRspop x d s = .next u₀ ∧ Good u₀.kept p := ⟨_, rfl, by
    refine good_of_kept (State.issue_kept _ _ _ _ ?_) hg
    intro t
    try simp only []
    split
    · rename_i e; rw [Exec.state_done, State.modThread_kept]; exact State.pop_kept e
    · rfl⟩
theorem execMvfl_good (x : Issue) (d : Reg) (s : State) {p : List Instr} (hg : Good s.kept p) :
    ∃ u₀, execMvfl x d s = .next u₀ ∧ Good u₀.kept p := ⟨_, rfl, by
    simp (maxDischargeDepth := 30) [hg]⟩
theorem execMvtf_good (x : Issue) (a : Reg) (s : State) {p : List Instr} (hg : Good s.kept p) :
    ∃ u₀, execMvtf x a s = .next u₀ ∧ Good u₀.kept p := ⟨_, rfl, by
    simp (maxDischargeDepth := 30) [hg]⟩
theorem execRdfeat_good (x : Issue) (d : Reg) (n : Fin 8) (s : State) {p : List Instr} (hg : Good s.kept p) :
    ∃ u₀, execRdfeat x d n s = .next u₀ ∧ Good u₀.kept p := ⟨_, rfl, by
    simp (maxDischargeDepth := 30) [hg]⟩
theorem execGetseg_good (x : Issue) (d : Reg) (si : Fin 8) (w : Fin 4) (s : State) {p : List Instr} (hg : Good s.kept p) :
    ∃ u₀, execGetseg x d si w s = .next u₀ ∧ Good u₀.kept p := ⟨_, rfl, by
    simp (maxDischargeDepth := 30) [hg]⟩
theorem execSetseg_good (x : Issue) (si : Fin 8) (a : Reg) (b : Reg) (rights : BitVec 5) (s : State) {p : List Instr} (hg : Good s.kept p) :
    ∃ u₀, execSetseg x si a b rights s = .next u₀ ∧ Good u₀.kept p := ⟨_, rfl, by
    refine good_of_kept (State.issue_kept _ _ _ _ ?_) hg
    intro t
    simp only []
    (repeat' split) <;> simp⟩
theorem execWait_good (x : Issue) (d : Reg) (mask : BitVec 4) (s : State) {p : List Instr} (hg : Good s.kept p) :
    ∃ u₀, execWait x d mask s = .next u₀ ∧ Good u₀.kept p := ⟨_, rfl, by
    refine good_of_kept (State.issue_kept _ _ _ _ ?_) hg
    intro t
    try simp only []
    split
    · rename_i e; exact State.waitTake_kept e
    · rfl⟩
theorem execWaitComplete_good (gt : GT) (s : State) {p : List Instr} (hg : Good s.kept p) :
    ∃ u₀, execWaitComplete gt s = .next u₀ ∧ Good u₀.kept p := ⟨_, rfl, by
    refine good_of_kept ?_ hg
    split
    · split
      · rfl
      · split
        · rename_i e; rw [State.completeWait_kept]; exact State.waitTake_kept e
        · rfl
    · rfl⟩
theorem execRecv_good (x : Issue) (d : Reg) (wt : Bool) (s : State) {p : List Instr} (hg : Good s.kept p) :
    ∃ u₀, execRecv x d wt s = .next u₀ ∧ Good u₀.kept p := ⟨_, rfl, by
    refine good_of_kept (State.issue_kept _ _ _ _ ?_) hg
    intro t
    try simp only []
    split
    · rename_i e; exact State.recvTake_kept e
    · split
      · rfl
      · rw [Exec.state_done, State.modThread_kept]⟩
theorem execRecvComplete_good (gt : GT) (s : State) {p : List Instr} (hg : Good s.kept p) :
    ∃ u₀, execRecvComplete gt s = .next u₀ ∧ Good u₀.kept p := ⟨_, rfl, by
    refine good_of_kept ?_ hg
    split
    · split
      · rfl
      · split
        · rename_i e; rw [State.completeWait_kept]; exact State.recvTake_kept e
        · rfl
    · rfl⟩
theorem execSettle_good (x : Issue) (s : State) {p : List Instr} (hg : Good s.kept p) :
    ∃ u₀, execSettle x s = .next u₀ ∧ Good u₀.kept p := ⟨_, rfl, by
    refine good_of_kept (State.issue_kept _ _ _ _ ?_) hg
    intro t
    simp only []
    (repeat' split) <;> simp⟩
theorem execSettleComplete_good (gt : GT) (s : State) {p : List Instr} (hg : Good s.kept p) :
    ∃ u₀, execSettleComplete gt s = .next u₀ ∧ Good u₀.kept p := ⟨_, rfl, by
    simp only []
    (repeat' split) <;> simp (maxDischargeDepth := 30) [*]⟩
theorem execIsync_good (x : Issue) (s : State) {p : List Instr} (hg : Good s.kept p) :
    ∃ u₀, execIsync x s = .next u₀ ∧ Good u₀.kept p := ⟨_, rfl, by
    refine good_of_kept (State.issue_kept _ _ _ _ ?_) hg
    intro t
    split <;> simp (maxDischargeDepth := 30)⟩
theorem execSeal_good (x : Issue) (s : State) {p : List Instr} (hg : Good s.kept p) :
    ∃ u₀, execSeal x s = .next u₀ ∧ Good u₀.kept p := ⟨_, rfl, by
    refine good_of_kept (State.issue_kept _ _ _ _ ?_) hg
    intro t
    simp only []
    (repeat' split) <;> simp⟩
theorem execHandlerEntry_good (gt : GT) (s : State) {p : List Instr} (hg : Good s.kept p) :
    ∃ u₀, execHandlerEntry gt s = .next u₀ ∧ Good u₀.kept p := ⟨_, rfl, by
    refine good_of_kept ?_ hg
    try simp only []
    split
    · split
      · simp
      · rename_i e; have := State.push_kept e; simp [this]
    · rfl⟩
theorem execFaultEntry_good (gt : GT) (s : State) {p : List Instr} (hg : Good s.kept p) :
    ∃ u₀, execFaultEntry gt s = .next u₀ ∧ Good u₀.kept p := ⟨_, rfl, by
    split <;> simp (maxDischargeDepth := 30) [hg]⟩
theorem execSlotCommit_good (who : Agent) (n : Core) (s : State) {p : List Instr} (hg : Good s.kept p) :
    ∃ u₀, execSlotCommit who n s = .next u₀ ∧ Good u₀.kept p := ⟨_, rfl, by
    simp (maxDischargeDepth := 30) [hg]⟩
theorem execSlotTableApply_good (n : Core) (s : State) {p : List Instr} (hg : Good s.kept p) :
    ∃ u₀, execSlotTableApply n s = .next u₀ ∧ Good u₀.kept p := ⟨_, rfl, by
    simp (maxDischargeDepth := 30) [hg]⟩
theorem execThreadStart_good (who : Agent) (gt : GT) (s : State) {p : List Instr} (hg : Good s.kept p) :
    ∃ u₀, execThreadStart who gt s = .next u₀ ∧ Good u₀.kept p := ⟨_, rfl, by
    simp (maxDischargeDepth := 30) [hg]⟩
theorem execThreadHalt_good (who : Agent) (gt : GT) (s : State) {p : List Instr} (hg : Good s.kept p) :
    ∃ u₀, execThreadHalt who gt s = .next u₀ ∧ Good u₀.kept p := ⟨_, rfl, by
    simp (maxDischargeDepth := 30) [hg]⟩
theorem execThreadResume_good (who : Agent) (gt : GT) (s : State) {p : List Instr} (hg : Good s.kept p) :
    ∃ u₀, execThreadResume who gt s = .next u₀ ∧ Good u₀.kept p := ⟨_, rfl, by
    simp (maxDischargeDepth := 30) [hg]⟩
theorem execThreadStop_good (who : Agent) (gt : GT) (s : State) {p : List Instr} (hg : Good s.kept p) :
    ∃ u₀, execThreadStop who gt s = .next u₀ ∧ Good u₀.kept p := ⟨_, rfl, by
    simp (maxDischargeDepth := 30) [hg]⟩
theorem execIcacheInvAll_good (who : Agent) (n : Core) (s : State) {p : List Instr} (hg : Good s.kept p) :
    ∃ u₀, execIcacheInvAll who n s = .next u₀ ∧ Good u₀.kept p := ⟨_, rfl, by
    simp (maxDischargeDepth := 30) [hg]⟩
theorem execLongOpRetire_good (gt : GT) (i : Fin 4) (late : Bool) (s : State) {p : List Instr} (hg : Good s.kept p) :
    ∃ u₀, execLongOpRetire gt i late s = .next u₀ ∧ Good u₀.kept p := ⟨_, rfl, by
    split <;> simp (maxDischargeDepth := 30) [hg]⟩
theorem execLedgerIssue_good (i : Nat) (s : State) {p : List Instr} (hg : Good s.kept p) :
    ∃ u₀, execLedgerIssue i s = .next u₀ ∧ Good u₀.kept p := ⟨_, rfl, by
    split <;> simp (maxDischargeDepth := 30) [hg]⟩
theorem execDcacheFlushAll_good (who : Agent) (n : Core) (s : State) {p : List Instr} (hg : Good s.kept p) :
    ∃ u₀, execDcacheFlushAll who n s = .next u₀ ∧ Good u₀.kept p := ⟨_, rfl, by
    simp (maxDischargeDepth := 30) [hg]⟩
theorem execDcacheDisable_good (who : Agent) (n : Core) (s : State) {p : List Instr} (hg : Good s.kept p) :
    ∃ u₀, execDcacheDisable who n s = .next u₀ ∧ Good u₀.kept p := ⟨_, rfl, by
    simp (maxDischargeDepth := 30) [hg]⟩
theorem execSysCacheDisable_good (who : Agent) (n : Core) (s : State) {p : List Instr} (hg : Good s.kept p) :
    ∃ u₀, execSysCacheDisable who n s = .next u₀ ∧ Good u₀.kept p := ⟨_, rfl, by
    simp (maxDischargeDepth := 30) [hg]⟩
theorem execRdShared_good (c : Fin 33) (line : BitVec 42) (s : State) {p : List Instr} (hg : Good s.kept p) :
    ∃ u₀, execRdShared c line s = .next u₀ ∧ Good u₀.kept p := ⟨_, rfl, by
    simp (maxDischargeDepth := 30) [hg]⟩
theorem execRdUnique_good (c : Fin 33) (line : BitVec 42) (s : State) {p : List Instr} (hg : Good s.kept p) :
    ∃ u₀, execRdUnique c line s = .next u₀ ∧ Good u₀.kept p := ⟨_, rfl, by
    simp (maxDischargeDepth := 30) [hg]⟩
theorem execUpgrade_good (c : Fin 33) (line : BitVec 42) (s : State) {p : List Instr} (hg : Good s.kept p) :
    ∃ u₀, execUpgrade c line s = .next u₀ ∧ Good u₀.kept p := ⟨_, rfl, by
    simp (maxDischargeDepth := 30) [hg]⟩
theorem execSnpShared_good (c : Fin 33) (line : BitVec 42) (s : State) {p : List Instr} (hg : Good s.kept p) :
    ∃ u₀, execSnpShared c line s = .next u₀ ∧ Good u₀.kept p := ⟨_, rfl, by
    simp (maxDischargeDepth := 30) [hg]⟩
theorem execSnpInv_good (c : Fin 33) (line : BitVec 42) (s : State) {p : List Instr} (hg : Good s.kept p) :
    ∃ u₀, execSnpInv c line s = .next u₀ ∧ Good u₀.kept p := ⟨_, rfl, by
    simp (maxDischargeDepth := 30) [hg]⟩
theorem execAckShared_good (c : Fin 33) (line : BitVec 42) (s : State) {p : List Instr} (hg : Good s.kept p) :
    ∃ u₀, execAckShared c line s = .next u₀ ∧ Good u₀.kept p := ⟨_, rfl, by
    simp (maxDischargeDepth := 30) [hg]⟩
theorem execAckInv_good (c : Fin 33) (line : BitVec 42) (s : State) {p : List Instr} (hg : Good s.kept p) :
    ∃ u₀, execAckInv c line s = .next u₀ ∧ Good u₀.kept p := ⟨_, rfl, by
    simp (maxDischargeDepth := 30) [hg]⟩
theorem execSnpData_good (c : Fin 33) (line : BitVec 42) (inv : Bool) (data : Line) (s : State) {p : List Instr} (hg : Good s.kept p) :
    ∃ u₀, execSnpData c line inv data s = .next u₀ ∧ Good u₀.kept p := ⟨_, rfl, by
    try simp only []
    split
    · rename_i e
      have hk := good_of_kept (State.takeMsg_kept e) hg
      simp (maxDischargeDepth := 30) [hk]
    · simp (maxDischargeDepth := 30) [hg]⟩
theorem execInvWbInflight_good (c : Fin 33) (line : BitVec 42) (s : State) {p : List Instr} (hg : Good s.kept p) :
    ∃ u₀, execInvWbInflight c line s = .next u₀ ∧ Good u₀.kept p := ⟨_, rfl, by
    simp only []
    split
    · rename_i e
      have hk := good_of_kept (State.takeMsg_kept e) hg
      simp (maxDischargeDepth := 30) [hk]
    · split
      · simp (maxDischargeDepth := 30) [hg]
      · exact hg⟩
theorem execWbData_good (c : Fin 33) (line : BitVec 42) (data : Line) (s : State) {p : List Instr} (hg : Good s.kept p) :
    ∃ u₀, execWbData c line data s = .next u₀ ∧ Good u₀.kept p := ⟨_, rfl, by
    simp (maxDischargeDepth := 30) [hg]⟩
theorem execEvictClean_good (c : Fin 33) (line : BitVec 42) (s : State) {p : List Instr} (hg : Good s.kept p) :
    ∃ u₀, execEvictClean c line s = .next u₀ ∧ Good u₀.kept p := ⟨_, rfl, by
    simp (maxDischargeDepth := 30) [hg]⟩
theorem execWbAck_good (c : Fin 33) (line : BitVec 42) (s : State) {p : List Instr} (hg : Good s.kept p) :
    ∃ u₀, execWbAck c line s = .next u₀ ∧ Good u₀.kept p := ⟨_, rfl, by
    try simp only []
    split
    · exact hg
    · rename_i e
      have hk := good_of_kept (State.takeMsg_kept e) hg
      simp (maxDischargeDepth := 30) [hk]⟩
theorem execCompAck_good (c : Fin 33) (line : BitVec 42) (s : State) {p : List Instr} (hg : Good s.kept p) :
    ∃ u₀, execCompAck c line s = .next u₀ ∧ Good u₀.kept p := ⟨_, rfl, by
    try simp only []
    split
    · first
        | exact hg
        | (rename_i e
           have hk := good_of_kept (State.takeMsg_kept e) hg
           (repeat' split) <;> simp (maxDischargeDepth := 30) [hk])
    · first
        | exact hg
        | (rename_i e
           have hk := good_of_kept (State.takeMsg_kept e) hg
           (repeat' split) <;> simp (maxDischargeDepth := 30) [hk])
        | (repeat' split) <;> simp (maxDischargeDepth := 30) [hg]⟩
theorem execFillS_good (c : Fin 33) (line : BitVec 42) (s : State) {p : List Instr} (hg : Good s.kept p) :
    ∃ u₀, execFillS c line s = .next u₀ ∧ Good u₀.kept p := ⟨_, rfl, by
    simp (maxDischargeDepth := 30) [hg]⟩
theorem execFillE_good (c : Fin 33) (line : BitVec 42) (s : State) {p : List Instr} (hg : Good s.kept p) :
    ∃ u₀, execFillE c line s = .next u₀ ∧ Good u₀.kept p := ⟨_, rfl, by
    simp (maxDischargeDepth := 30) [hg]⟩
theorem execGrantE_good (c : Fin 33) (line : BitVec 42) (s : State) {p : List Instr} (hg : Good s.kept p) :
    ∃ u₀, execGrantE c line s = .next u₀ ∧ Good u₀.kept p := ⟨_, rfl, by
    try simp only []
    split
    · first
        | exact hg
        | (rename_i e
           have hk := good_of_kept (State.takeMsg_kept e) hg
           (repeat' split) <;> simp (maxDischargeDepth := 30) [hk])
    · first
        | exact hg
        | (rename_i e
           have hk := good_of_kept (State.takeMsg_kept e) hg
           (repeat' split) <;> simp (maxDischargeDepth := 30) [hk])
        | (repeat' split) <;> simp (maxDischargeDepth := 30) [hg]⟩
theorem execRetry_good (c : Fin 33) (line : BitVec 42) (s : State) {p : List Instr} (hg : Good s.kept p) :
    ∃ u₀, execRetry c line s = .next u₀ ∧ Good u₀.kept p := ⟨_, rfl, by
    try simp only []
    split
    · rename_i e
      have hk := good_of_kept (State.takeMsg_kept e) hg
      (repeat' split) <;> simp (maxDischargeDepth := 30) [hk]
    · exact hg⟩
theorem execProceed_good (c : Fin 33) (line : BitVec 42) (s : State) {p : List Instr} (hg : Good s.kept p) :
    ∃ u₀, execProceed c line s = .next u₀ ∧ Good u₀.kept p := ⟨_, rfl, by
    try simp only []
    split
    · first
        | exact hg
        | (rename_i e
           have hk := good_of_kept (State.takeMsg_kept e) hg
           (repeat' split) <;> simp (maxDischargeDepth := 30) [hk])
    · first
        | exact hg
        | (rename_i e
           have hk := good_of_kept (State.takeMsg_kept e) hg
           (repeat' split) <;> simp (maxDischargeDepth := 30) [hk])
        | (repeat' split) <;> simp (maxDischargeDepth := 30) [hg]⟩
theorem execDirFenceGo_good (who : Agent) (s : State) {p : List Instr} (hg : Good s.kept p) :
    ∃ u₀, execDirFenceGo who s = .next u₀ ∧ Good u₀.kept p := ⟨_, rfl, by
    simp (maxDischargeDepth := 30) [hg]⟩
theorem execFenceComplete_good (s : State) {p : List Instr} (hg : Good s.kept p) :
    ∃ u₀, execFenceComplete s = .next u₀ ∧ Good u₀.kept p := ⟨_, rfl, by
    simp (maxDischargeDepth := 30) [hg]⟩
theorem execSipResponse_good (tag : BitVec 14) (err : Bool) (data : Line) (s : State) {p : List Instr} (hg : Good s.kept p) :
    ∃ u₀, execSipResponse tag err data s = .next u₀ ∧ Good u₀.kept p := ⟨_, rfl, by
    split <;> simp (maxDischargeDepth := 30) [hg]⟩
theorem execLedgerTimeout_good (tag : BitVec 14) (s : State) {p : List Instr} (hg : Good s.kept p) :
    ∃ u₀, execLedgerTimeout tag s = .next u₀ ∧ Good u₀.kept p := ⟨_, rfl, by
    split <;> simp (maxDischargeDepth := 30) [hg]⟩
theorem execLaneInputTransition_good (l : Lane) (level : Bool) (time : BitVec 26) (held : BitVec 26) (s : State) {p : List Instr} (hg : Good s.kept p) :
    ∃ u₀, execLaneInputTransition l level time held s = .next u₀ ∧ Good u₀.kept p := ⟨_, rfl, by
    simp only []
    (repeat' split) <;> simp (maxDischargeDepth := 30) [*]⟩
theorem execLaneLastRead_good (v₀ : Agent) (l : Lane) (s : State) {p : List Instr} (hg : Good s.kept p) :
    ∃ u₀, execLaneLastRead v₀ l s = .next u₀ ∧ Good u₀.kept p := ⟨_, rfl, by
    simp (maxDischargeDepth := 30) [hg]⟩
theorem execBayCommit_good (who : Agent) (n : Core) (dt : PinTime) (s : State) {p : List Instr} (hg : Good s.kept p) :
    ∃ u₀, execBayCommit who n dt s = .next u₀ ∧ Good u₀.kept p := ⟨_, rfl, by
    simp (maxDischargeDepth := 30) [hg]⟩
theorem execProgWrite_good (who : Agent) (n : Core) (i : Fin 64) (data : Word) (s : State) {p : List Instr} (hg : Good s.kept p) :
    ∃ u₀, execProgWrite who n i data s = .next u₀ ∧ Good u₀.kept p := ⟨_, rfl, by
    simp (maxDischargeDepth := 30) [hg]⟩
theorem execTxwWrite_good (who : Agent) (n : Core) (k : Seq) (data : Word) (s : State) {p : List Instr} (hg : Good s.kept p) :
    ∃ u₀, execTxwWrite who n k data s = .next u₀ ∧ Good u₀.kept p := ⟨_, rfl, by
    (repeat' split) <;> simp (maxDischargeDepth := 30) [hg]⟩
theorem execRxwRead_good (who : Agent) (n : Core) (k : Seq) (s : State) {p : List Instr} (hg : Good s.kept p) :
    ∃ u₀, execRxwRead who n k s = .next u₀ ∧ Good u₀.kept p := ⟨_, rfl, by
    simp (maxDischargeDepth := 30) [hg]⟩
theorem execCreditReturn_good (n : Core) (c : Credit) (s : State) {p : List Instr} (hg : Good s.kept p) :
    ∃ u₀, execCreditReturn n c s = .next u₀ ∧ Good u₀.kept p := ⟨_, rfl, by
    simp (maxDischargeDepth := 30) [hg]⟩
theorem execSeqStart_good (who : Agent) (n : Core) (k : Seq) (s : State) {p : List Instr} (hg : Good s.kept p) :
    ∃ u₀, execSeqStart who n k s = .next u₀ ∧ Good u₀.kept p := ⟨_, rfl, by
    simp (maxDischargeDepth := 30) [hg]⟩
theorem execSeqStop_good (who : Agent) (n : Core) (k : Seq) (s : State) {p : List Instr} (hg : Good s.kept p) :
    ∃ u₀, execSeqStop who n k s = .next u₀ ∧ Good u₀.kept p := ⟨_, rfl, by
    simp (maxDischargeDepth := 30) [hg]⟩
theorem execSeqContinue_good (who : Agent) (n : Core) (k : Seq) (s : State) {p : List Instr} (hg : Good s.kept p) :
    ∃ u₀, execSeqContinue who n k s = .next u₀ ∧ Good u₀.kept p := ⟨_, rfl, by
    simp (maxDischargeDepth := 30) [hg]⟩
theorem execSeqFlush_good (who : Agent) (n : Core) (k : Seq) (s : State) {p : List Instr} (hg : Good s.kept p) :
    ∃ u₀, execSeqFlush who n k s = .next u₀ ∧ Good u₀.kept p := ⟨_, rfl, by
    simp (maxDischargeDepth := 30) [hg]⟩
theorem execSeqJmp_good (n : Core) (k : Seq) (dt : PinTime) (s : State) {p : List Instr} (hg : Good s.kept p) :
    ∃ u₀, execSeqJmp n k dt s = .next u₀ ∧ Good u₀.kept p := ⟨_, rfl, by
    simp (maxDischargeDepth := 30) [hg]⟩
theorem execSeqWait_good (n : Core) (k : Seq) (dt : PinTime) (s : State) {p : List Instr} (hg : Good s.kept p) :
    ∃ u₀, execSeqWait n k dt s = .next u₀ ∧ Good u₀.kept p := ⟨_, rfl, by
    simp (maxDischargeDepth := 30) [hg]⟩
theorem execSeqIn_good (n : Core) (k : Seq) (dt : PinTime) (s : State) {p : List Instr} (hg : Good s.kept p) :
    ∃ u₀, execSeqIn n k dt s = .next u₀ ∧ Good u₀.kept p := ⟨_, rfl, by
    simp (maxDischargeDepth := 30) [hg]⟩
theorem execSeqOut_good (n : Core) (k : Seq) (dt : PinTime) (s : State) {p : List Instr} (hg : Good s.kept p) :
    ∃ u₀, execSeqOut n k dt s = .next u₀ ∧ Good u₀.kept p := ⟨_, rfl, by
    simp (maxDischargeDepth := 30) [hg]⟩
theorem execSeqPush_good (n : Core) (k : Seq) (dt : PinTime) (s : State) {p : List Instr} (hg : Good s.kept p) :
    ∃ u₀, execSeqPush n k dt s = .next u₀ ∧ Good u₀.kept p := ⟨_, rfl, by
    simp (maxDischargeDepth := 30) [hg]⟩
theorem execSeqPull_good (n : Core) (k : Seq) (dt : PinTime) (s : State) {p : List Instr} (hg : Good s.kept p) :
    ∃ u₀, execSeqPull n k dt s = .next u₀ ∧ Good u₀.kept p := ⟨_, rfl, by
    simp (maxDischargeDepth := 30) [hg]⟩
theorem execSeqMov_good (n : Core) (k : Seq) (dt : PinTime) (s : State) {p : List Instr} (hg : Good s.kept p) :
    ∃ u₀, execSeqMov n k dt s = .next u₀ ∧ Good u₀.kept p := ⟨_, rfl, by
    simp (maxDischargeDepth := 30) [hg]⟩
theorem execSeqSet_good (n : Core) (k : Seq) (dt : PinTime) (s : State) {p : List Instr} (hg : Good s.kept p) :
    ∃ u₀, execSeqSet n k dt s = .next u₀ ∧ Good u₀.kept p := ⟨_, rfl, by
    simp (maxDischargeDepth := 30) [hg]⟩
theorem execSeqEvt_good (n : Core) (k : Seq) (dt : PinTime) (s : State) {p : List Instr} (hg : Good s.kept p) :
    ∃ u₀, execSeqEvt n k dt s = .next u₀ ∧ Good u₀.kept p := ⟨_, rfl, by
    simp (maxDischargeDepth := 30) [hg]⟩
theorem execSeqStamp_good (n : Core) (k : Seq) (dt : PinTime) (s : State) {p : List Instr} (hg : Good s.kept p) :
    ∃ u₀, execSeqStamp n k dt s = .next u₀ ∧ Good u₀.kept p := ⟨_, rfl, by
    simp (maxDischargeDepth := 30) [hg]⟩
theorem execSeqStallRelease_good (n : Core) (k : Seq) (dt : PinTime) (s : State) {p : List Instr} (hg : Good s.kept p) :
    ∃ u₀, execSeqStallRelease n k dt s = .next u₀ ∧ Good u₀.kept p := ⟨_, rfl, by
    simp (maxDischargeDepth := 30) [hg]⟩
theorem execEdgeEntryCheck_good (n : Core) (dt : PinTime) (s : State) {p : List Instr} (hg : Good s.kept p) :
    ∃ u₀, execEdgeEntryCheck n dt s = .next u₀ ∧ Good u₀.kept p := ⟨_, rfl, by
    simp only []
    (repeat' split) <;> simp (maxDischargeDepth := 30) [*]⟩
theorem execEdgeEntryApply_good (n : Core) (dt : PinTime) (s : State) {p : List Instr} (hg : Good s.kept p) :
    ∃ u₀, execEdgeEntryApply n dt s = .next u₀ ∧ Good u₀.kept p := ⟨_, rfl, by
    simp (maxDischargeDepth := 30) [hg]⟩
theorem execSeqEventLatch_good (n : Core) (k : Seq) (i : Fin 2) (s : State) {p : List Instr} (hg : Good s.kept p) :
    ∃ u₀, execSeqEventLatch n k i s = .next u₀ ∧ Good u₀.kept p := ⟨_, rfl, by
    simp (maxDischargeDepth := 30) [hg]⟩
theorem execTbRate_good (who : Agent) (dt : BitVec 32) (s : State) {p : List Instr} (hg : Good s.kept p) :
    ∃ u₀, execTbRate who dt s = .next u₀ ∧ Good u₀.kept p := ⟨_, rfl, by
    simp (maxDischargeDepth := 30) [hg]⟩
theorem execTbStep_good (who : Agent) (dt : BitVec 32) (s : State) {p : List Instr} (hg : Good s.kept p) :
    ∃ u₀, execTbStep who dt s = .next u₀ ∧ Good u₀.kept p := ⟨_, rfl, by
    simp (maxDischargeDepth := 30) [hg]⟩
theorem execTbSnap_good (who : Agent) (dt : BitVec 32) (s : State) {p : List Instr} (hg : Good s.kept p) :
    ∃ u₀, execTbSnap who dt s = .next u₀ ∧ Good u₀.kept p := ⟨_, rfl, by
    simp (maxDischargeDepth := 30) [hg]⟩
theorem execTbAdjEnd_good (s : State) {p : List Instr} (hg : Good s.kept p) :
    ∃ u₀, execTbAdjEnd s = .next u₀ ∧ Good u₀.kept p := ⟨_, rfl, by
    simp (maxDischargeDepth := 30) [hg]⟩
theorem execPpsRecord_good (dt : BitVec 32) (s : State) {p : List Instr} (hg : Good s.kept p) :
    ∃ u₀, execPpsRecord dt s = .next u₀ ∧ Good u₀.kept p := ⟨_, rfl, by
    simp (maxDischargeDepth := 30) [hg]⟩
theorem execTimerCount_good (m : Timer) (dt : BitVec 32) (s : State) {p : List Instr} (hg : Good s.kept p) :
    ∃ u₀, execTimerCount m dt s = .next u₀ ∧ Good u₀.kept p := ⟨_, rfl, by
    simp (maxDischargeDepth := 30) [hg]⟩
theorem execTimerZero_good (m : Timer) (dt : BitVec 32) (s : State) {p : List Instr} (hg : Good s.kept p) :
    ∃ u₀, execTimerZero m dt s = .next u₀ ∧ Good u₀.kept p := ⟨_, rfl, by
    simp (maxDischargeDepth := 30) [hg]⟩
theorem execTimerInputSeen_good (m : Timer) (i : TimerIn) (dt : BitVec 32) (s : State) {p : List Instr} (hg : Good s.kept p) :
    ∃ u₀, execTimerInputSeen m i dt s = .next u₀ ∧ Good u₀.kept p := ⟨_, rfl, by
    split <;> simp (maxDischargeDepth := 30) [hg]⟩
theorem execTimerCapture_good (m : Timer) (s : State) {p : List Instr} (hg : Good s.kept p) :
    ∃ u₀, execTimerCapture m s = .next u₀ ∧ Good u₀.kept p := ⟨_, rfl, by
    simp (maxDischargeDepth := 30) [hg]⟩
theorem execTmrCapRead_good (v₀ : Agent) (m : Timer) (wide : Bool) (s : State) {p : List Instr} (hg : Good s.kept p) :
    ∃ u₀, execTmrCapRead v₀ m wide s = .next u₀ ∧ Good u₀.kept p := ⟨_, rfl, by
    simp (maxDischargeDepth := 30) [hg]⟩
theorem execTmrStart_good (who : Agent) (m : Timer) (s : State) {p : List Instr} (hg : Good s.kept p) :
    ∃ u₀, execTmrStart who m s = .next u₀ ∧ Good u₀.kept p := ⟨_, rfl, by
    simp (maxDischargeDepth := 30) [hg]⟩
theorem execTmrStop_good (who : Agent) (m : Timer) (s : State) {p : List Instr} (hg : Good s.kept p) :
    ∃ u₀, execTmrStop who m s = .next u₀ ∧ Good u₀.kept p := ⟨_, rfl, by
    simp (maxDischargeDepth := 30) [hg]⟩
theorem execTmrCommit_good (who : Agent) (m : Timer) (s : State) {p : List Instr} (hg : Good s.kept p) :
    ∃ u₀, execTmrCommit who m s = .next u₀ ∧ Good u₀.kept p := ⟨_, rfl, by
    simp (maxDischargeDepth := 30) [hg]⟩
theorem execTmrForceReload_good (who : Agent) (m : Timer) (s : State) {p : List Instr} (hg : Good s.kept p) :
    ∃ u₀, execTmrForceReload who m s = .next u₀ ∧ Good u₀.kept p := ⟨_, rfl, by
    simp (maxDischargeDepth := 30) [hg]⟩
theorem execTmrSnap_good (who : Agent) (m : Timer) (s : State) {p : List Instr} (hg : Good s.kept p) :
    ∃ u₀, execTmrSnap who m s = .next u₀ ∧ Good u₀.kept p := ⟨_, rfl, by
    simp (maxDischargeDepth := 30) [hg]⟩
theorem execGsGo_good (who : Agent) (dt : BitVec 32) (s : State) {p : List Instr} (hg : Good s.kept p) :
    ∃ u₀, execGsGo who dt s = .next u₀ ∧ Good u₀.kept p := ⟨_, rfl, by
    simp (maxDischargeDepth := 30) [hg]⟩
theorem execGoAtDue_good (dt : BitVec 32) (s : State) {p : List Instr} (hg : Good s.kept p) :
    ∃ u₀, execGoAtDue dt s = .next u₀ ∧ Good u₀.kept p := ⟨_, rfl, by
    simp (maxDischargeDepth := 30) [hg]⟩
theorem execLatchingRead_good (gt : GT) (r : Latch) (dt : BitVec 32) (s : State) {p : List Instr} (hg : Good s.kept p) :
    ∃ u₀, execLatchingRead gt r dt s = .next u₀ ∧ Good u₀.kept p := ⟨_, rfl, by
    simp (maxDischargeDepth := 30) [hg]⟩
theorem execShadowHiRead_good (gt : GT) (r : Latch) (s : State) {p : List Instr} (hg : Good s.kept p) :
    ∃ u₀, execShadowHiRead gt r s = .next u₀ ∧ Good u₀.kept p := ⟨_, rfl, by
    simp (maxDischargeDepth := 30) [hg]⟩
theorem execWidePairRead_good (v₀ : Agent) (r : WidePair) (dt : BitVec 32) (s : State) {p : List Instr} (hg : Good s.kept p) :
    ∃ u₀, execWidePairRead v₀ r dt s = .next u₀ ∧ Good u₀.kept p := ⟨_, rfl, by
    simp (maxDischargeDepth := 30) [hg]⟩
theorem execAnchorTake_good (q : Fin 4) (dt : BitVec 32) (time : BitVec 26) (s : State) {p : List Instr} (hg : Good s.kept p) :
    ∃ u₀, execAnchorTake q dt time s = .next u₀ ∧ Good u₀.kept p := ⟨_, rfl, by
    simp only []
    (repeat' split) <;> simp (maxDischargeDepth := 30) [*]⟩
theorem execEventDelivery_good (e : EventRef) (coincide : Bool) (s : State) {p : List Instr} (hg : Good s.kept p) :
    ∃ u₀, execEventDelivery e coincide s = .next u₀ ∧ Good u₀.kept p := ⟨_, rfl, by
    simp only []
    (repeat' split) <;> simp (maxDischargeDepth := 30) [*]⟩
theorem execEventSynchroniserDelivery_good (port : BitVec 13) (b : Bool) (s : State) {p : List Instr} (hg : Good s.kept p) :
    ∃ u₀, execEventSynchroniserDelivery port b s = .next u₀ ∧ Good u₀.kept p := ⟨_, rfl, by
    simp only []
    (repeat' split) <;> simp (maxDischargeDepth := 30) [*]⟩
theorem execLevelDelivery_good (x : Fin 11776) (s : State) {p : List Instr} (hg : Good s.kept p) :
    ∃ u₀, execLevelDelivery x s = .next u₀ ∧ Good u₀.kept p := ⟨_, rfl, by
    simp (maxDischargeDepth := 30) [hg]⟩
theorem execEvselWrite_good (who : Agent) (x : Fin 11776) (data : Word) (s : State) {p : List Instr} (hg : Good s.kept p) :
    ∃ u₀, execEvselWrite who x data s = .next u₀ ∧ Good u₀.kept p := ⟨_, rfl, by
    simp (maxDischargeDepth := 30) [hg]⟩
theorem execForceWrite_good (who : Agent) (x : Fin 11776) (data : Word) (s : State) {p : List Instr} (hg : Good s.kept p) :
    ∃ u₀, execForceWrite who x data s = .next u₀ ∧ Good u₀.kept p := ⟨_, rfl, by
    simp (maxDischargeDepth := 30) [hg]⟩
theorem execMsgAccept_good (n : Core) (here : List GT) (s : State) {p : List Instr} (hg : Good s.kept p) :
    ∃ u₀, execMsgAccept n here s = .next u₀ ∧ Good u₀.kept p := ⟨_, rfl, by
    simp only []
    (repeat' split) <;> simp (maxDischargeDepth := 30) [*]⟩
theorem execBankHandover_good (who : Agent) (g : Bank) (kind : BitVec 3) (engine : BitVec 2) (s : State) {p : List Instr} (hg : Good s.kept p) :
    ∃ u₀, execBankHandover who g kind engine s = .next u₀ ∧ Good u₀.kept p := ⟨_, rfl, by
    refine State.atBlock_good _ _ _ _ _ ?_ hg
    intro t ht
    simp (maxDischargeDepth := 30) [ht]⟩
theorem execDrainComplete_good (g : Bank) (s : State) {p : List Instr} (hg : Good s.kept p) :
    ∃ u₀, execDrainComplete g s = .next u₀ ∧ Good u₀.kept p := ⟨_, rfl, by
    simp (maxDischargeDepth := 30) [hg]⟩
theorem execBankPowerRequest_good (who : Agent) (g : Bank) (p : BitVec 2) (s : State) {q₀ : List Instr} (hg : Good s.kept q₀) :
    ∃ u₀, execBankPowerRequest who g p s = .next u₀ ∧ Good u₀.kept q₀ := ⟨_, rfl, by
    simp (maxDischargeDepth := 30) [hg]⟩
theorem execBankEnterDone_good (g : Bank) (s : State) {p : List Instr} (hg : Good s.kept p) :
    ∃ u₀, execBankEnterDone g s = .next u₀ ∧ Good u₀.kept p := ⟨_, rfl, by
    simp (maxDischargeDepth := 30) [hg]⟩
theorem execBankWakeDone_good (g : Bank) (s : State) {p : List Instr} (hg : Good s.kept p) :
    ∃ u₀, execBankWakeDone g s = .next u₀ ∧ Good u₀.kept p := ⟨_, rfl, by
    simp (maxDischargeDepth := 30) [hg]⟩
theorem execBankClearDone_good (g : Bank) (s : State) {p : List Instr} (hg : Good s.kept p) :
    ∃ u₀, execBankClearDone g s = .next u₀ ∧ Good u₀.kept p := ⟨_, rfl, by
    simp (maxDischargeDepth := 30) [hg]⟩
theorem execMarchGo_good (who : Agent) (s : State) {p : List Instr} (hg : Good s.kept p) :
    ∃ u₀, execMarchGo who s = .next u₀ ∧ Good u₀.kept p := ⟨_, rfl, by
    simp (maxDischargeDepth := 30) [hg]⟩
theorem execMarchDone_good (fails : List (BitVec 11 × BitVec 9)) (again : Bool) (s : State) {p : List Instr} (hg : Good s.kept p) :
    ∃ u₀, execMarchDone fails again s = .next u₀ ∧ Good u₀.kept p := ⟨_, rfl, by
    split
    · exact hg
    · split
      · exact hg
      · simp only []
        split
        · rw [State.setBit_kept, State.setReg_kept]; exact State.marchJudge_good _ _ _ _ _ _ hg
        · rw [State.setReg_kept]; exact State.marchJudge_good _ _ _ _ _ _ hg⟩
theorem execLoftStoreGo_good (who : Agent) (r : Fin 2048) (secret : Bool) (s : State) {p : List Instr} (hg : Good s.kept p) :
    ∃ u₀, execLoftStoreGo who r secret s = .next u₀ ∧ Good u₀.kept p := ⟨_, rfl, by
    simp (maxDischargeDepth := 30) [hg]⟩
theorem execLoftStoreDone_good (ok : Bool) (s : State) {p : List Instr} (hg : Good s.kept p) :
    ∃ u₀, execLoftStoreDone ok s = .next u₀ ∧ Good u₀.kept p := ⟨_, rfl, by
    (repeat' split) <;> simp (maxDischargeDepth := 30) [hg]⟩
theorem execBrEnable_good (who : Agent) (p : Fin 4) (s : State) {q₀ : List Instr} (hg : Good s.kept q₀) :
    ∃ u₀, execBrEnable who p s = .next u₀ ∧ Good u₀.kept q₀ := ⟨_, rfl, by
    simp (maxDischargeDepth := 30) [hg]⟩
theorem execBrDisable_good (who : Agent) (p : Fin 4) (s : State) {q₀ : List Instr} (hg : Good s.kept q₀) :
    ∃ u₀, execBrDisable who p s = .next u₀ ∧ Good u₀.kept q₀ := ⟨_, rfl, by
    simp (maxDischargeDepth := 30) [hg]⟩
theorem execSerdesLockGained_good (p : Fin 4) (s : State) {q₀ : List Instr} (hg : Good s.kept q₀) :
    ∃ u₀, execSerdesLockGained p s = .next u₀ ∧ Good u₀.kept q₀ := ⟨_, rfl, by
    simp (maxDischargeDepth := 30) [hg]⟩
theorem execSerdesLockLost_good (p : Fin 4) (s : State) {q₀ : List Instr} (hg : Good s.kept q₀) :
    ∃ u₀, execSerdesLockLost p s = .next u₀ ∧ Good u₀.kept q₀ := ⟨_, rfl, by
    simp (maxDischargeDepth := 30) [hg]⟩
theorem execLinkUp_good (p : Fin 4) (partner : BitVec 2) (offer : BitVec 2) (id : BitVec 16) (s : State) {q₀ : List Instr} (hg : Good s.kept q₀) :
    ∃ u₀, execLinkUp p partner offer id s = .next u₀ ∧ Good u₀.kept q₀ := ⟨_, rfl, by
    simp only []
    (repeat' split) <;> simp (maxDischargeDepth := 30) [*]⟩
theorem execTrainingTimeout_good (p : Fin 4) (s : State) {q₀ : List Instr} (hg : Good s.kept q₀) :
    ∃ u₀, execTrainingTimeout p s = .next u₀ ∧ Good u₀.kept q₀ := ⟨_, rfl, by
    simp (maxDischargeDepth := 30) [hg]⟩
theorem execRetrain_good (p : Fin 4) (s : State) {q₀ : List Instr} (hg : Good s.kept q₀) :
    ∃ u₀, execRetrain p s = .next u₀ ∧ Good u₀.kept q₀ := ⟨_, rfl, by
    simp (maxDischargeDepth := 30) [hg]⟩
theorem execLinkDown_good (p : Fin 4) (cause : BitVec 4) (s : State) {q₀ : List Instr} (hg : Good s.kept q₀) :
    ∃ u₀, execLinkDown p cause s = .next u₀ ∧ Good u₀.kept q₀ := ⟨_, rfl, by
    simp (maxDischargeDepth := 30) [hg]⟩
theorem execDownNotice_good (p : Fin 4) (s : State) {q₀ : List Instr} (hg : Good s.kept q₀) :
    ∃ u₀, execDownNotice p s = .next u₀ ∧ Good u₀.kept q₀ := ⟨_, rfl, by
    simp (maxDischargeDepth := 30) [hg]⟩
theorem execFlitReceive_good (p : Fin 4) (good : Bool) (seq : Nat) (ack : Option Nat) (s : State) {q₀ : List Instr} (hg : Good s.kept q₀) :
    ∃ u₀, execFlitReceive p good seq ack s = .next u₀ ∧ Good u₀.kept q₀ := ⟨_, rfl, by
    simp (maxDischargeDepth := 30) [hg]⟩
theorem execFlitNak_good (p : Fin 4) (seq : Nat) (s : State) {q₀ : List Instr} (hg : Good s.kept q₀) :
    ∃ u₀, execFlitNak p seq s = .next u₀ ∧ Good u₀.kept q₀ := ⟨_, rfl, by
    simp (maxDischargeDepth := 30) [hg]⟩
theorem execAckTimeout_good (p : Fin 4) (s : State) {q₀ : List Instr} (hg : Good s.kept q₀) :
    ∃ u₀, execAckTimeout p s = .next u₀ ∧ Good u₀.kept q₀ := ⟨_, rfl, by
    simp (maxDischargeDepth := 30) [hg]⟩
theorem execInboundRequest_good (p : Fin 4) (addr : BitVec 32) (acc : HostAccess) (s : State) {q₀ : List Instr} (hg : Good s.kept q₀) :
    ∃ u₀, execInboundRequest p addr acc s = .next u₀ ∧ Good u₀.kept q₀ := ⟨_, rfl, by
    split
    · split
      · simp (maxDischargeDepth := 30) [hg]
      · exact hg
    · split
      · simp (maxDischargeDepth := 30) [hg]
      · exact hg⟩
theorem execInboundBridgeEvent_good (p : Fin 4) (i : Fin 64) (hop : Fin 9) (level : Option Bool) (s : State) {q₀ : List Instr} (hg : Good s.kept q₀) :
    ∃ u₀, execInboundBridgeEvent p i hop level s = .next u₀ ∧ Good u₀.kept q₀ := ⟨_, rfl, by
    (repeat' split) <;> simp (maxDischargeDepth := 30) [hg]⟩
theorem execInboundMessage_good (p : Fin 4) (dst : GT) (role : BitVec 12) (data : BitVec 64) (s : State) {q₀ : List Instr} (hg : Good s.kept q₀) :
    ∃ u₀, execInboundMessage p dst role data s = .next u₀ ∧ Good u₀.kept q₀ := ⟨_, rfl, by
    simp (maxDischargeDepth := 30) [hg]⟩
theorem execMsgNack_good (p : Fin 4) (full : Bool) (s : State) {q₀ : List Instr} (hg : Good s.kept q₀) :
    ∃ u₀, execMsgNack p full s = .next u₀ ∧ Good u₀.kept q₀ := ⟨_, rfl, by
    simp (maxDischargeDepth := 30) [hg]⟩
theorem execTimeExchangeStart_good (p : Fin 4) (t1 : BitVec 64) (s : State) {q₀ : List Instr} (hg : Good s.kept q₀) :
    ∃ u₀, execTimeExchangeStart p t1 s = .next u₀ ∧ Good u₀.kept q₀ := ⟨_, rfl, by
    simp (maxDischargeDepth := 30) [hg]⟩
theorem execTimeExchangeReply_good (p : Fin 4) (t2 : BitVec 64) (t3 : BitVec 64) (t4 : BitVec 64) (stepped : Bool) (s : State) {q₀ : List Instr} (hg : Good s.kept q₀) :
    ∃ u₀, execTimeExchangeReply p t2 t3 t4 stepped s = .next u₀ ∧ Good u₀.kept q₀ := ⟨_, rfl, by
    simp only []
    (repeat' split) <;> simp (maxDischargeDepth := 30) [*]⟩
theorem execPoolAlloc_good (v₀ : Agent) (p : Pool) (s : State) {q₀ : List Instr} (hg : Good s.kept q₀) :
    ∃ u₀, execPoolAlloc v₀ p s = .next u₀ ∧ Good u₀.kept q₀ := ⟨_, rfl, by
    split
    · rw [State.poolServe_kept]; exact hg
    · simp (maxDischargeDepth := 30) [hg]⟩
theorem execPoolEnable_good (who : Agent) (p : Pool) (s : State) {q₀ : List Instr} (hg : Good s.kept q₀) :
    ∃ u₀, execPoolEnable who p s = .next u₀ ∧ Good u₀.kept q₀ := ⟨_, rfl, by
    simp (maxDischargeDepth := 30) [hg]⟩
theorem execPoolDisable_good (who : Agent) (p : Pool) (s : State) {q₀ : List Instr} (hg : Good s.kept q₀) :
    ∃ u₀, execPoolDisable who p s = .next u₀ ∧ Good u₀.kept q₀ := ⟨_, rfl, State.poolCmd_good _ _ _ _ _ (fun t ht => State.poolDisable_good _ _ ht) hg⟩
theorem execPoolRefill_good (p : Pool) (s : State) {q₀ : List Instr} (hg : Good s.kept q₀) :
    ∃ u₀, execPoolRefill p s = .next u₀ ∧ Good u₀.kept q₀ := ⟨_, rfl, by
    simp (maxDischargeDepth := 30) [hg]⟩
theorem execPoolSpill_good (p : Pool) (s : State) {q₀ : List Instr} (hg : Good s.kept q₀) :
    ∃ u₀, execPoolSpill p s = .next u₀ ∧ Good u₀.kept q₀ := ⟨_, rfl, by
    simp (maxDischargeDepth := 30) [hg]⟩
theorem execBmFree_good (who : Agent) (h : Word) (s : State) {p : List Instr} (hg : Good s.kept p) :
    ∃ u₀, execBmFree who h s = .next u₀ ∧ Good u₀.kept p := ⟨_, rfl, by
    refine State.atBlock_good _ _ _ _ _ ?_ hg
    intro t ht
    simp (maxDischargeDepth := 30) [ht]⟩
theorem execChCommit_good (who : Agent) (c : Chan) (s : State) {p : List Instr} (hg : Good s.kept p) :
    ∃ u₀, execChCommit who c s = .next u₀ ∧ Good u₀.kept p := ⟨_, rfl, by
    simp (maxDischargeDepth := 30) [hg]⟩
theorem execChGo_good (who : Agent) (c : Chan) (s : State) {p : List Instr} (hg : Good s.kept p) :
    ∃ u₀, execChGo who c s = .next u₀ ∧ Good u₀.kept p := ⟨_, rfl, by
    refine State.atBlock_good _ _ _ _ _ ?_ hg
    intro t ht
    simp (maxDischargeDepth := 30) [ht]⟩
theorem execChAbort_good (who : Agent) (c : Chan) (s : State) {p : List Instr} (hg : Good s.kept p) :
    ∃ u₀, execChAbort who c s = .next u₀ ∧ Good u₀.kept p := ⟨_, rfl, by
    simp (maxDischargeDepth := 30) [hg]⟩
theorem execChTrigger_good (c : Chan) (i : Fin 2) (s : State) {p : List Instr} (hg : Good s.kept p) :
    ∃ u₀, execChTrigger c i s = .next u₀ ∧ Good u₀.kept p := ⟨_, rfl, by
    try simp only []
    have hk (t : State) (m : Map Nat) : ({ t with held := m } : State).kept = t.kept := rfl
    have h1 : Good ({ s with held := Map.erase s.held (selChan c.val i.val) } : State).kept p := by rw [hk]; exact hg
    generalize ({ s with held := Map.erase s.held (selChan c.val i.val) } : State) = u at h1 ⊢
    (repeat' split) <;> simp (maxDischargeDepth := 30) [hg, h1]⟩
theorem execDescriptorLoad_good (c : Chan) (s : State) {p : List Instr} (hg : Good s.kept p) :
    ∃ u₀, execDescriptorLoad c s = .next u₀ ∧ Good u₀.kept p := ⟨_, rfl, by
    simp only []
    split
    · exact hg
    · split
      · simp (maxDischargeDepth := 30) [hg]
      · split
        · simp (maxDischargeDepth := 30) [hg]
        · split
          · rename_i e
            exact State.good_of_spanHeld hg e
          · simp (maxDischargeDepth := 30) [hg]
          · rename_i e
            have := State.good_of_span hg e
            (repeat' split) <;> simp (maxDischargeDepth := 30) [this]⟩
theorem execDescriptorWriteback_good (c : Chan) (s : State) {p : List Instr} (hg : Good s.kept p) :
    ∃ u₀, execDescriptorWriteback c s = .next u₀ ∧ Good u₀.kept p := ⟨_, rfl, by
    simp only []
    split
    · exact hg
    · split
      · simp (maxDischargeDepth := 30) [hg]
      · split
        · rename_i e
          exact State.good_of_spanHeld hg e
        · simp (maxDischargeDepth := 30) [hg]
        · rename_i e
          have := State.good_of_span hg e
          simp (maxDischargeDepth := 30) [this]⟩
theorem execSiloEnable_good (who : Agent) (s : State) {p : List Instr} (hg : Good s.kept p) :
    ∃ u₀, execSiloEnable who s = .next u₀ ∧ Good u₀.kept p := ⟨_, rfl, by
    simp (maxDischargeDepth := 30) [hg]⟩
theorem execSiloPut_good (who : Agent) (lo : Word) (hi : Word) (s : State) {p : List Instr} (hg : Good s.kept p) :
    ∃ u₀, execSiloPut who lo hi s = .next u₀ ∧ Good u₀.kept p := ⟨_, rfl, by
    simp (maxDischargeDepth := 30) [hg]⟩
theorem execSiloRecordWrite_good (lag : BitVec 3) (s : State) {p : List Instr} (hg : Good s.kept p) :
    ∃ u₀, execSiloRecordWrite lag s = .next u₀ ∧ Good u₀.kept p := ⟨_, rfl, by
    simp (maxDischargeDepth := 30) [hg]⟩
theorem execSiloRecordDone_good (s : State) {p : List Instr} (hg : Good s.kept p) :
    ∃ u₀, execSiloRecordDone s = .next u₀ ∧ Good u₀.kept p := ⟨_, rfl, by
    simp only []
    (repeat' split) <;> simp (maxDischargeDepth := 30) [*]⟩
theorem execSiloTrigger_good (who : Agent) (s : State) {p : List Instr} (hg : Good s.kept p) :
    ∃ u₀, execSiloTrigger who s = .next u₀ ∧ Good u₀.kept p := ⟨_, rfl, by
    simp (maxDischargeDepth := 30) [hg]⟩
theorem execSiloRearm_good (who : Agent) (s : State) {p : List Instr} (hg : Good s.kept p) :
    ∃ u₀, execSiloRearm who s = .next u₀ ∧ Good u₀.kept p := ⟨_, rfl, by
    simp (maxDischargeDepth := 30) [hg]⟩
theorem execBulkWindowAccess_good (k : Fin 65) (acc : HostAccess) (beat : Beat) (s : State) {p : List Instr} (hg : Good s.kept p) :
    ∃ u₀, execBulkWindowAccess k acc beat s = .next u₀ ∧ Good u₀.kept p := ⟨_, rfl, by
    simp (maxDischargeDepth := 30) [hg]⟩
theorem execBulkAddrWrite_good (k : Fin 65) (data : Word) (s : State) {p : List Instr} (hg : Good s.kept p) :
    ∃ u₀, execBulkAddrWrite k data s = .next u₀ ∧ Good u₀.kept p := ⟨_, rfl, by
    simp (maxDischargeDepth := 30) [hg]⟩
theorem execBulkStatusRead_good (k : Fin 65) (addr : Bool) (s : State) {p : List Instr} (hg : Good s.kept p) :
    ∃ u₀, execBulkStatusRead k addr s = .next u₀ ∧ Good u₀.kept p := ⟨_, rfl, by
    simp (maxDischargeDepth := 30) [hg]⟩
theorem execBulkWritePerform_good (k : Fin 65) (clash : Bool) (s : State) {p : List Instr} (hg : Good s.kept p) :
    ∃ u₀, execBulkWritePerform k clash s = .next u₀ ∧ Good u₀.kept p := ⟨_, rfl, by
    simp only []
    split
    · exact hg
    · split <;> simp (maxDischargeDepth := 30) [hg]⟩
theorem execClkAck_good (i : Fin 5) (s : State) {p : List Instr} (hg : Good s.kept p) :
    ∃ u₀, execClkAck i s = .next u₀ ∧ Good u₀.kept p := ⟨_, rfl, by
    simp (maxDischargeDepth := 30) [hg]⟩
theorem execTwinSeed_good (who : Agent) (p : Fin 256) (s : State) {q₀ : List Instr} (hg : Good s.kept q₀) :
    ∃ u₀, execTwinSeed who p s = .next u₀ ∧ Good u₀.kept q₀ := ⟨_, rfl, by
    simp (maxDischargeDepth := 30) [hg]⟩
theorem execTwinBreak_good (who : Agent) (p : Fin 256) (s : State) {q₀ : List Instr} (hg : Good s.kept q₀) :
    ∃ u₀, execTwinBreak who p s = .next u₀ ∧ Good u₀.kept q₀ := ⟨_, rfl, by
    refine State.atBlock_good _ _ _ _ _ ?_ hg
    intro t ht
    simp (maxDischargeDepth := 30) [ht]⟩
theorem execWindowEnd_good (gt : GT) (s : State) {p : List Instr} (hg : Good s.kept p) :
    ∃ u₀, execWindowEnd gt s = .next u₀ ∧ Good u₀.kept p := ⟨_, rfl, by
    simp only []
    (repeat' split) <;> simp (maxDischargeDepth := 30) [*]⟩
theorem execWinInjectGo_good (who : Agent) (u : Fin 8) (s : State) {p : List Instr} (hg : Good s.kept p) :
    ∃ u₀, execWinInjectGo who u s = .next u₀ ∧ Good u₀.kept p := ⟨_, rfl, by
    simp (maxDischargeDepth := 30) [hg]⟩
theorem execTwinCompare_good (p : Fin 256) (brk : Bool) (s : State) {q₀ : List Instr} (hg : Good s.kept q₀) :
    ∃ u₀, execTwinCompare p brk s = .next u₀ ∧ Good u₀.kept q₀ := ⟨_, rfl, by
    simp only []
    (repeat' split) <;> simp (maxDischargeDepth := 30) [*]⟩
theorem execTwinReportTimeout_good (p : Fin 256) (brk : Bool) (s : State) {q₀ : List Instr} (hg : Good s.kept q₀) :
    ∃ u₀, execTwinReportTimeout p brk s = .next u₀ ∧ Good u₀.kept q₀ := ⟨_, rfl, by
    simp (maxDischargeDepth := 30) [hg]⟩
theorem execCoreSelftestDone_good (n : Core) (pass : Bool) (s : State) {p : List Instr} (hg : Good s.kept p) :
    ∃ u₀, execCoreSelftestDone n pass s = .next u₀ ∧ Good u₀.kept p := ⟨_, rfl, by
    try simp only []
    split
    · exact hg
    · split
      · simp (maxDischargeDepth := 30) [hg]
      · refine State.foldl_good _ _ _ (fun u x hu => by simp (maxDischargeDepth := 30) [hu]) ?_
        rw [State.foldl_kept]
        · exact hg
        · intro u x; rw [State.modPair_kept]⟩
theorem execInjectionTestDone_good (u : Fin 8) (pass : Bool) (s : State) {p : List Instr} (hg : Good s.kept p) :
    ∃ u₀, execInjectionTestDone u pass s = .next u₀ ∧ Good u₀.kept p := ⟨_, rfl, by
    simp (maxDischargeDepth := 30) [hg]⟩
theorem execOwnerByteWrite_good (who : Agent) (off : Fin 16384) (data : Word) (s : State) {p : List Instr} (hg : Good s.kept p) :
    ∃ u₀, execOwnerByteWrite who off data s = .next u₀ ∧ Good u₀.kept p := ⟨_, rfl, by
    simp (maxDischargeDepth := 30) [hg]⟩
theorem execVcGenAdvance_good (v : VC) (s : State) {p : List Instr} (hg : Good s.kept p) :
    ∃ u₀, execVcGenAdvance v s = .next u₀ ∧ Good u₀.kept p := ⟨_, rfl, by
    simp (maxDischargeDepth := 30) [hg]⟩
theorem execVcFreezeComplete_good (v : VC) (s : State) {p : List Instr} (hg : Good s.kept p) :
    ∃ u₀, execVcFreezeComplete v s = .next u₀ ∧ Good u₀.kept p := ⟨_, rfl, by
    simp (maxDischargeDepth := 30) [hg]⟩
theorem execMbxTx_good (v : VC) (lo : Word) (hi : Word) (s : State) {p : List Instr} (hg : Good s.kept p) :
    ∃ u₀, execMbxTx v lo hi s = .next u₀ ∧ Good u₀.kept p := ⟨_, rfl, by
    simp (maxDischargeDepth := 30) [hg]⟩
theorem execMbxMove_good (v : VC) (s : State) {p : List Instr} (hg : Good s.kept p) :
    ∃ u₀, execMbxMove v s = .next u₀ ∧ Good u₀.kept p := ⟨_, rfl, by
    simp only []
    (repeat' split) <;> simp (maxDischargeDepth := 30) [*]⟩
theorem execVcMbxPost_good (who : Agent) (v : VC) (lo : Word) (hi : Word) (s : State) {p : List Instr} (hg : Good s.kept p) :
    ∃ u₀, execVcMbxPost who v lo hi s = .next u₀ ∧ Good u₀.kept p := ⟨_, rfl, by
    simp (maxDischargeDepth := 30) [hg]⟩
theorem execMbxRx_good (v : VC) (s : State) {p : List Instr} (hg : Good s.kept p) :
    ∃ u₀, execMbxRx v s = .next u₀ ∧ Good u₀.kept p := ⟨_, rfl, by
    simp (maxDischargeDepth := 30) [hg]⟩
theorem execIfaceSelect_good (v : VC) (data : Word) (s : State) {p : List Instr} (hg : Good s.kept p) :
    ∃ u₀, execIfaceSelect v data s = .next u₀ ∧ Good u₀.kept p := ⟨_, rfl, by
    simp (maxDischargeDepth := 30) [hg]⟩
theorem execVcrReq_good (v : VC) (s : State) {p : List Instr} (hg : Good s.kept p) :
    ∃ u₀, execVcrReq v s = .next u₀ ∧ Good u₀.kept p := ⟨_, rfl, by
    simp (maxDischargeDepth := 30) [hg]⟩
theorem execVcCreate_good (who : Agent) (v : VC) (s : State) {p : List Instr} (hg : Good s.kept p) :
    ∃ u₀, execVcCreate who v s = .next u₀ ∧ Good u₀.kept p := ⟨_, rfl, by
    simp (maxDischargeDepth := 30) [hg]⟩
theorem execVcReset_good (who : Agent) (v : VC) (s : State) {p : List Instr} (hg : Good s.kept p) :
    ∃ u₀, execVcReset who v s = .next u₀ ∧ Good u₀.kept p := ⟨_, rfl, State.vcCmd_good _ _ _ _ (fun t ht => State.vcReset_good _ _ ht) hg⟩
theorem execVcRemove_good (who : Agent) (v : VC) (s : State) {p : List Instr} (hg : Good s.kept p) :
    ∃ u₀, execVcRemove who v s = .next u₀ ∧ Good u₀.kept p := ⟨_, rfl, State.vcCmd_good _ _ _ _ (fun t ht => State.vcRemove_good _ _ ht) hg⟩
theorem execVcFreeze_good (who : Agent) (v : VC) (s : State) {p : List Instr} (hg : Good s.kept p) :
    ∃ u₀, execVcFreeze who v s = .next u₀ ∧ Good u₀.kept p := ⟨_, rfl, by
    simp (maxDischargeDepth := 30) [hg]⟩
theorem execVcThaw_good (who : Agent) (v : VC) (s : State) {p : List Instr} (hg : Good s.kept p) :
    ∃ u₀, execVcThaw who v s = .next u₀ ∧ Good u₀.kept p := ⟨_, rfl, by
    simp (maxDischargeDepth := 30) [hg]⟩
theorem execVcSave_good (who : Agent) (v : VC) (s : State) {p : List Instr} (hg : Good s.kept p) :
    ∃ u₀, execVcSave who v s = .next u₀ ∧ Good u₀.kept p := ⟨_, rfl, by
    simp (maxDischargeDepth := 30) [hg]⟩
theorem execVcRestore_good (who : Agent) (v : VC) (s : State) {p : List Instr} (hg : Good s.kept p) :
    ∃ u₀, execVcRestore who v s = .next u₀ ∧ Good u₀.kept p := ⟨_, rfl, by
    simp (maxDischargeDepth := 30) [hg]⟩
theorem execImageDone_good (v : VC) (s : State) {p : List Instr} (hg : Good s.kept p) :
    ∃ u₀, execImageDone v s = .next u₀ ∧ Good u₀.kept p := ⟨_, rfl, by
    split
    · exact hg
    · (repeat' split) <;> simp (maxDischargeDepth := 30) [hg]⟩
theorem execColdReset_good (boardDie : BitVec 2) (s : State) {p : List Instr} (hg : Good s.kept p) :
    ∃ u₀, execColdReset boardDie s = .next u₀ ∧ Good u₀.kept p := ⟨_, rfl, by
    simp (maxDischargeDepth := 30) [hg]⟩
theorem execSupplyUp_good (boardDie : BitVec 2) (lc : BitVec 3) (s : State) {p : List Instr} (hg : Good s.kept p) :
    ∃ u₀, execSupplyUp boardDie lc s = .next u₀ ∧ Good u₀.kept p := ⟨_, rfl, by
    simp (maxDischargeDepth := 30) [hg]⟩
theorem execSupplyLoss_good (s : State) {p : List Instr} (hg : Good s.kept p) :
    ∃ u₀, execSupplyLoss s = .next u₀ ∧ Good u₀.kept p := ⟨_, rfl, by
    simp (maxDischargeDepth := 30) [hg]⟩
theorem execWarmReset_good (s : State) {p : List Instr} (hg : Good s.kept p) :
    ∃ u₀, execWarmReset s = .next u₀ ∧ Good u₀.kept p := ⟨_, rfl, by
    simp (maxDischargeDepth := 30) [hg]⟩
theorem execLifecycleChange_good (lc : BitVec 3) (s : State) {p : List Instr} (hg : Good s.kept p) :
    ∃ u₀, execLifecycleChange lc s = .next u₀ ∧ Good u₀.kept p := ⟨_, rfl, by
    simp (maxDischargeDepth := 30) [hg]⟩
theorem execFuseLoad_good (words : List Word) (parityOk : Bool) (s : State) {p : List Instr} (hg : Good s.kept p) :
    ∃ u₀, execFuseLoad words parityOk s = .next u₀ ∧ Good u₀.kept p := ⟨_, rfl, by
    simp (maxDischargeDepth := 30) [hg]⟩
theorem execRepairAndHeader_good (s : State) {p : List Instr} (hg : Good s.kept p) :
    ∃ u₀, execRepairAndHeader s = .next u₀ ∧ Good u₀.kept p := ⟨_, rfl, by
    simp (maxDischargeDepth := 30) [hg]⟩
theorem execBankWakeAndMarch_good (fails : List (Bank × List (BitVec 11 × BitVec 9) × Bool)) (s : State) {p : List Instr} (hg : Good s.kept p) :
    ∃ u₀, execBankWakeAndMarch fails s = .next u₀ ∧ Good u₀.kept p := ⟨_, rfl, by
    try simp only []
    split
    · exact hg
    · rw [State.stepEnds_kept]
      refine State.foldl_good _ _ _ ?_ hg
      intro u x hu
      split
      · exact hu
      · split <;> simp (maxDischargeDepth := 30) [hu]⟩
theorem execComparatorInjection_good (pass : BitVec 8) (s : State) {p : List Instr} (hg : Good s.kept p) :
    ∃ u₀, execComparatorInjection pass s = .next u₀ ∧ Good u₀.kept p := ⟨_, rfl, by
    simp (maxDischargeDepth := 30) [hg]⟩
theorem execBootAuthentication_good (rom : List Byte) (man : List Byte) (stored : List (List Byte)) (placed : List (Option (List Byte))) (busErr : Bool) (s : State) {p : List Instr} (hg : Good s.kept p) :
    ∃ u₀, execBootAuthentication rom man stored placed busErr s = .next u₀ ∧ Good u₀.kept p := ⟨_, rfl, by
    simp (maxDischargeDepth := 30) [hg]⟩
theorem execSecDone_good (pass : Bool) (s : State) {p : List Instr} (hg : Good s.kept p) :
    ∃ u₀, execSecDone pass s = .next u₀ ∧ Good u₀.kept p := ⟨_, rfl, by
    simp only []
    (repeat' split) <;> simp (maxDischargeDepth := 30) [*]⟩
theorem execBootDoorbellReady_good (who : Agent) (s : State) {p : List Instr} (hg : Good s.kept p) :
    ∃ u₀, execBootDoorbellReady who s = .next u₀ ∧ Good u₀.kept p := ⟨_, rfl, by
    simp (maxDischargeDepth := 30) [hg]⟩
theorem execBootDoorbellRecovery_good (who : Agent) (s : State) {p : List Instr} (hg : Good s.kept p) :
    ∃ u₀, execBootDoorbellRecovery who s = .next u₀ ∧ Good u₀.kept p := ⟨_, rfl, by
    simp (maxDischargeDepth := 30) [hg]⟩
theorem execLoftConfiguration_good (s : State) {p : List Instr} (hg : Good s.kept p) :
    ∃ u₀, execLoftConfiguration s = .next u₀ ∧ Good u₀.kept p := ⟨_, rfl, by
    split
    · exact hg
    · have h1 : Good ((List.range 320).foldl (fun s g => s.configBank g) s.configLanes).kept p := by
        refine State.foldl_good _ _ _ (fun u x hu => by simp (maxDischargeDepth := 30) [hu]) ?_
        simp (maxDischargeDepth := 30) [hg]
      have h2 : Good (if s.start.loaded then s else
          (List.range 64).foldl (fun s i =>
            s.setReg (startReg (0x900 + 4 * i)) (s.start.mask.getD i 0 &&& s.thereMask .glob (0x900 + 4 * i)))
            ((List.range 320).foldl (fun s g => s.configBank g) s.configLanes)).kept p := by
        split
        · exact hg
        · exact State.foldl_good _ _ _ (fun u x hu => by simp (maxDischargeDepth := 30) [hu]) h1
      simp only []
      revert h2
      generalize (if s.start.loaded then s else _ : State) = w
      intro h2
      have h3 : Good ((List.range 320).foldl (fun s g => s.configOff g) w).kept p :=
        State.foldl_good _ _ _ (fun u x hu => by simp (maxDischargeDepth := 30) [hu]) h2
      split
      · exact h3
      · simp (maxDischargeDepth := 30) [h2]⟩
theorem execBootRelease_good (who : Agent) (s : State) {p : List Instr} (hg : Good s.kept p) :
    ∃ u₀, execBootRelease who s = .next u₀ ∧ Good u₀.kept p := ⟨_, rfl, by
    simp (maxDischargeDepth := 30) [hg]⟩
theorem execReleaseStart_good (s : State) {p : List Instr} (hg : Good s.kept p) :
    ∃ u₀, execReleaseStart s = .next u₀ ∧ Good u₀.kept p := ⟨_, rfl, by
    simp (maxDischargeDepth := 30) [hg]⟩
theorem execStartTimeout_good (s : State) {p : List Instr} (hg : Good s.kept p) :
    ∃ u₀, execStartTimeout s = .next u₀ ∧ Good u₀.kept p := ⟨_, rfl, by
    simp (maxDischargeDepth := 30) [hg]⟩
theorem execRenameEnter_good (who : Agent) (n : Core) (t : Fin 64) (s : State) {p : List Instr} (hg : Good s.kept p) :
    ∃ u₀, execRenameEnter who n t s = .next u₀ ∧ Good u₀.kept p := ⟨_, rfl, by
    simp (maxDischargeDepth := 30) [hg]⟩
theorem execRenameExit_good (who : Agent) (n : Core) (s : State) {p : List Instr} (hg : Good s.kept p) :
    ∃ u₀, execRenameExit who n s = .next u₀ ∧ Good u₀.kept p := ⟨_, rfl, by
    simp (maxDischargeDepth := 30) [hg]⟩
theorem execModeReqDormant_good (who : Agent) (s : State) {p : List Instr} (hg : Good s.kept p) :
    ∃ u₀, execModeReqDormant who s = .next u₀ ∧ Good u₀.kept p := ⟨_, rfl, State.modeReq_good _ _ _ (fun t ht => State.modeGo_good _ _ ht) hg⟩
theorem execModeReqRun_good (who : Agent) (s : State) {p : List Instr} (hg : Good s.kept p) :
    ∃ u₀, execModeReqRun who s = .next u₀ ∧ Good u₀.kept p := ⟨_, rfl, State.modeReq_good _ _ _ (fun t ht => State.modeGo_good _ _ ht) hg⟩
theorem execModeReqService_good (who : Agent) (s : State) {p : List Instr} (hg : Good s.kept p) :
    ∃ u₀, execModeReqService who s = .next u₀ ∧ Good u₀.kept p := ⟨_, rfl, State.modeReq_good _ _ _ (fun t ht => State.modeGo_good _ _ ht) hg⟩
theorem execModeReqLimp_good (who : Option Agent) (s : State) {p : List Instr} (hg : Good s.kept p) :
    ∃ u₀, execModeReqLimp who s = .next u₀ ∧ Good u₀.kept p := ⟨_, rfl, by
    split
    · exact State.modeReq_good _ _ _ (fun t ht => State.modeGo_good _ _ ht) hg
    · simp (maxDischargeDepth := 30) [hg]⟩
theorem execClockChange_good (who : Agent) (s : State) {p : List Instr} (hg : Good s.kept p) :
    ∃ u₀, execClockChange who s = .next u₀ ∧ Good u₀.kept p := ⟨_, rfl, by
    simp (maxDischargeDepth := 30) [hg]⟩
theorem execPdReqWrite_good (who : Agent) (hi : Bool) (data : Word) (s : State) {p : List Instr} (hg : Good s.kept p) :
    ∃ u₀, execPdReqWrite who hi data s = .next u₀ ∧ Good u₀.kept p := ⟨_, rfl, by
    simp (maxDischargeDepth := 30) [hg]⟩
theorem execPdAck_good (i : Fin 50) (s : State) {p : List Instr} (hg : Good s.kept p) :
    ∃ u₀, execPdAck i s = .next u₀ ∧ Good u₀.kept p := ⟨_, rfl, by
    simp (maxDischargeDepth := 30) [hg]⟩
theorem execFcSafe_good (who : Agent) (s : State) {p : List Instr} (hg : Good s.kept p) :
    ∃ u₀, execFcSafe who s = .next u₀ ∧ Good u₀.kept p := ⟨_, rfl, by
    refine State.atBlock_good _ _ _ _ _ ?_ hg
    intro t ht
    simp (maxDischargeDepth := 30) [ht]⟩
theorem execFcRelease_good (who : Agent) (s : State) {p : List Instr} (hg : Good s.kept p) :
    ∃ u₀, execFcRelease who s = .next u₀ ∧ Good u₀.kept p := ⟨_, rfl, by
    simp (maxDischargeDepth := 30) [hg]⟩
theorem execSafeReq_good (s : State) {p : List Instr} (hg : Good s.kept p) :
    ∃ u₀, execSafeReq s = .next u₀ ∧ Good u₀.kept p := ⟨_, rfl, by
    simp (maxDischargeDepth := 30) [hg]⟩
theorem execWdogKick_good (who : Agent) (key : BitVec 8) (s : State) {p : List Instr} (hg : Good s.kept p) :
    ∃ u₀, execWdogKick who key s = .next u₀ ∧ Good u₀.kept p := ⟨_, rfl, by
    simp (maxDischargeDepth := 30) [hg]⟩
theorem execWdogExpire_good (s : State) {p : List Instr} (hg : Good s.kept p) :
    ∃ u₀, execWdogExpire s = .next u₀ ∧ Good u₀.kept p := ⟨_, rfl, by
    simp (maxDischargeDepth := 30) [hg]⟩
theorem execSafetyPowerLost_good (s : State) {p : List Instr} (hg : Good s.kept p) :
    ∃ u₀, execSafetyPowerLost s = .next u₀ ∧ Good u₀.kept p := ⟨_, rfl, by
    simp (maxDischargeDepth := 30) [hg]⟩
theorem execSafetyPowerReturn_good (s : State) {p : List Instr} (hg : Good s.kept p) :
    ∃ u₀, execSafetyPowerReturn s = .next u₀ ∧ Good u₀.kept p := ⟨_, rfl, by
    simp (maxDischargeDepth := 30) [hg]⟩
theorem execLaneWake_good (i : Fin 64) (also : Wakes) (s : State) {p : List Instr} (hg : Good s.kept p) :
    ∃ u₀, execLaneWake i also s = .next u₀ ∧ Good u₀.kept p := ⟨_, rfl, by
    simp (maxDischargeDepth := 30) [hg]⟩
theorem execAonTimerWake_good (count : BitVec 48) (also : Wakes) (s : State) {p : List Instr} (hg : Good s.kept p) :
    ∃ u₀, execAonTimerWake count also s = .next u₀ ∧ Good u₀.kept p := ⟨_, rfl, by
    simp (maxDischargeDepth := 30) [hg]⟩
theorem execSocWake_good (also : Wakes) (s : State) {p : List Instr} (hg : Good s.kept p) :
    ∃ u₀, execSocWake also s = .next u₀ ∧ Good u₀.kept p := ⟨_, rfl, by
    simp (maxDischargeDepth := 30) [hg]⟩
theorem execDbgHalt_good (who : Agent) (gt : GT) (s : State) {p : List Instr} (hg : Good s.kept p) :
    ∃ u₀, execDbgHalt who gt s = .next u₀ ∧ Good u₀.kept p := ⟨_, rfl, State.dbgCmd_good _ _ _ _ (fun t ht => State.dbgHalt_good _ _ ht) hg⟩
theorem execDbgResume_good (who : Agent) (gt : GT) (s : State) {p : List Instr} (hg : Good s.kept p) :
    ∃ u₀, execDbgResume who gt s = .next u₀ ∧ Good u₀.kept p := ⟨_, rfl, by
    simp (maxDischargeDepth := 30) [hg]⟩
theorem execDbgStep_good (who : Agent) (gt : GT) (s : State) {p : List Instr} (hg : Good s.kept p) :
    ∃ u₀, execDbgStep who gt s = .next u₀ ∧ Good u₀.kept p := ⟨_, rfl, by
    simp (maxDischargeDepth := 30) [hg]⟩
theorem execCrossingQueueDelivery_good (q : Crossing) (t : BitVec 32) (s : State) {p : List Instr} (hg : Good s.kept p) :
    ∃ u₀, execCrossingQueueDelivery q t s = .next u₀ ∧ Good u₀.kept p := ⟨_, rfl, by
    split
    · exact hg
    · split
      · simp (maxDischargeDepth := 30) [hg]
      · split
        · exact hg
        · rename_i e
          have hk := good_of_kept (State.xqTake_kept e) hg
          simp (maxDischargeDepth := 30) [hk]⟩
theorem execRegisterWrite_good (who : Agent) (addr : BitVec 48) (data : Word) (s : State) {p : List Instr} (hg : Good s.kept p) :
    ∃ u₀, execRegisterWrite who addr data s = .next u₀ ∧ Good u₀.kept p := ⟨_, rfl, by
    simp only []
    (repeat' split) <;> simp (maxDischargeDepth := 30) [*]⟩
theorem execSegDescriptorWrite_good (who : Agent) (gt : GT) (i : Fin 8) (w : Fin 4) (data : Word) (s : State) {p : List Instr} (hg : Good s.kept p) :
    ∃ u₀, execSegDescriptorWrite who gt i w data s = .next u₀ ∧ Good u₀.kept p := ⟨_, rfl, by
    simp (maxDischargeDepth := 30) [hg]⟩
theorem execCeilingWrite_good (who : Agent) (gt : GT) (i : Fin 8) (w : Fin 4) (data : Word) (s : State) {p : List Instr} (hg : Good s.kept p) :
    ∃ u₀, execCeilingWrite who gt i w data s = .next u₀ ∧ Good u₀.kept p := ⟨_, rfl, by
    simp (maxDischargeDepth := 30) [hg]⟩
theorem execApertureAccess_good (v : VC) (write : Option Word) (s : State) {p : List Instr} (hg : Good s.kept p) :
    ∃ u₀, execApertureAccess v write s = .next u₀ ∧ Good u₀.kept p := ⟨_, rfl, by
    simp (maxDischargeDepth := 30) [hg]⟩
theorem execDebugAccess_good (off : BitVec 30) (acc : HostAccess) (s : State) {p : List Instr} (hg : Good s.kept p) :
    ∃ u₀, execDebugAccess off acc s = .next u₀ ∧ Good u₀.kept p := ⟨_, rfl, by
    simp (maxDischargeDepth := 30) [hg]⟩
theorem execTestAccessUpdate_good (write : Bool) (off : BitVec 29) (data : Word) (s : State) {p : List Instr} (hg : Good s.kept p) :
    ∃ u₀, execTestAccessUpdate write off data s = .next u₀ ∧ Good u₀.kept p := ⟨_, rfl, by
    simp (maxDischargeDepth := 30) [hg]⟩
theorem execHtpRequest_good (off : BitVec 30) (acc : HostAccess) (beat : Beat) (s : State) {p : List Instr} (hg : Good s.kept p) :
    ∃ u₀, execHtpRequest off acc beat s = .next u₀ ∧ Good u₀.kept p := ⟨_, rfl, by
    simp (maxDischargeDepth := 30) [hg]⟩
theorem execGwSnoop_good (line : BitVec 42) (inv : Bool) (s : State) {p : List Instr} (hg : Good s.kept p) :
    ∃ u₀, execGwSnoop line inv s = .next u₀ ∧ Good u₀.kept p := ⟨_, rfl, by
    split
    · exact hg
    · have ht : Good ({ s.countUp ⟨0x10700204, 31, 0⟩ with reqCtr := s.reqCtr + 1 } : State).kept p := by
        rw [State.kept_mk]; exact hg
      simp only []
      split
      · exact State.homeArrive_good _ _ ht
      · rw [State.answerWith_kept]; exact ht⟩
theorem execTestScan_good (s : State) {p : List Instr} (hg : Good s.kept p) :
    ∃ u₀, execTestScan s = .next u₀ ∧ Good u₀.kept p := ⟨_, rfl, by
    simp (maxDischargeDepth := 30) [hg]⟩
theorem execPdLate_good (s : State) {p : List Instr} (hg : Good s.kept p) :
    ∃ u₀, execPdLate s = .next u₀ ∧ Good u₀.kept p := ⟨_, rfl, by
    simp (maxDischargeDepth := 30) [hg]⟩
theorem execDbgClassChange_good (cls : BitVec 2) (v : VC) (s : State) {p : List Instr} (hg : Good s.kept p) :
    ∃ u₀, execDbgClassChange cls v s = .next u₀ ∧ Good u₀.kept p := ⟨_, rfl, by
    simp (maxDischargeDepth := 30) [hg]⟩
theorem execDmaTransferDone_good (c : Chan) (n : Word) (s : State) {p : List Instr} (hg : Good s.kept p) :
    ∃ u₀, execDmaTransferDone c n s = .next u₀ ∧ Good u₀.kept p := ⟨_, rfl, by
    simp only []
    split
    · exact hg
    · split <;> simp (maxDischargeDepth := 30) [hg]⟩
theorem execDmaAccessFail_good (c : Chan) (s : State) {p : List Instr} (hg : Good s.kept p) :
    ∃ u₀, execDmaAccessFail c s = .next u₀ ∧ Good u₀.kept p := ⟨_, rfl, by
    simp only []
    split
    · exact hg
    · split <;> simp (maxDischargeDepth := 30) [hg]⟩
theorem execEngineError_good (e : Fin 4) (s : State) {p : List Instr} (hg : Good s.kept p) :
    ∃ u₀, execEngineError e s = .next u₀ ∧ Good u₀.kept p := ⟨_, rfl, by
    try simp only []
    split
    · exact hg
    · have h1 : ∀ l : List Nat, Good (l.foldl (fun s i =>
          if s.fld (fChState (32 * e.val + i)) = chActive ∨ s.fld (fChState (32 * e.val + i)) = chAborting then
            s.dmaEngine (32 * e.val + i) else s) s).kept p := by
        intro l
        exact State.foldl_good _ _ _ (fun u x hu => by simp (maxDischargeDepth := 30) [hu]) hg
      rw [State.faultMinor_kept, State.present_kept, State.setBit_kept]
      exact h1 _⟩
theorem execLdb_good (x : Issue) (m : MemOp) (s : State) {p : List Instr} (hg : Good s.kept p) :
    ∃ u₀, execLdb x m s = .next u₀ ∧ Good u₀.kept p := ⟨_, rfl, execLoad_good _ _ _ _ _ hg⟩
theorem execLdbu_good (x : Issue) (m : MemOp) (s : State) {p : List Instr} (hg : Good s.kept p) :
    ∃ u₀, execLdbu x m s = .next u₀ ∧ Good u₀.kept p := ⟨_, rfl, execLoad_good _ _ _ _ _ hg⟩
theorem execLdh_good (x : Issue) (m : MemOp) (s : State) {p : List Instr} (hg : Good s.kept p) :
    ∃ u₀, execLdh x m s = .next u₀ ∧ Good u₀.kept p := ⟨_, rfl, execLoad_good _ _ _ _ _ hg⟩
theorem execLdhu_good (x : Issue) (m : MemOp) (s : State) {p : List Instr} (hg : Good s.kept p) :
    ∃ u₀, execLdhu x m s = .next u₀ ∧ Good u₀.kept p := ⟨_, rfl, execLoad_good _ _ _ _ _ hg⟩
theorem execLdw_good (x : Issue) (m : MemOp) (s : State) {p : List Instr} (hg : Good s.kept p) :
    ∃ u₀, execLdw x m s = .next u₀ ∧ Good u₀.kept p := ⟨_, rfl, execLoad_good _ _ _ _ _ hg⟩
theorem execLdd_good (x : Issue) (m : MemOp) (s : State) {p : List Instr} (hg : Good s.kept p) :
    ∃ u₀, execLdd x m s = .next u₀ ∧ Good u₀.kept p := ⟨_, rfl, execLoad_good _ _ _ _ _ hg⟩
theorem execAgree_good (x : Issue) (m : MemOp) (s : State) {p : List Instr} (hg : Good s.kept p) :
    ∃ u₀, execAgree x m s = .next u₀ ∧ Good u₀.kept p := ⟨_, rfl, State.issue_good _ _ _ _ (fun t ht => State.loadBody_good _ _ _ _ _ _ ht) hg⟩
theorem execStb_good (x : Issue) (m : MemOp) (s : State) {p : List Instr} (hg : Good s.kept p) :
    ∃ u₀, execStb x m s = .next u₀ ∧ Good u₀.kept p := ⟨_, rfl, execStore_good _ _ _ _ hg⟩
theorem execSth_good (x : Issue) (m : MemOp) (s : State) {p : List Instr} (hg : Good s.kept p) :
    ∃ u₀, execSth x m s = .next u₀ ∧ Good u₀.kept p := ⟨_, rfl, execStore_good _ _ _ _ hg⟩
theorem execStw_good (x : Issue) (m : MemOp) (s : State) {p : List Instr} (hg : Good s.kept p) :
    ∃ u₀, execStw x m s = .next u₀ ∧ Good u₀.kept p := ⟨_, rfl, execStore_good _ _ _ _ hg⟩
theorem execStd_good (x : Issue) (m : MemOp) (s : State) {p : List Instr} (hg : Good s.kept p) :
    ∃ u₀, execStd x m s = .next u₀ ∧ Good u₀.kept p := ⟨_, rfl, execStore_good _ _ _ _ hg⟩
theorem execTli_good (x : Issue) (d : Reg) (a : Reg) (b : Reg) (seg : Fin 8) (w : Bool) (n : BitVec 6) (clash : BitVec 2) (s : State) {p : List Instr} (hg : Good s.kept p) :
    ∃ u₀, execTli x d a b seg w n clash s = .next u₀ ∧ Good u₀.kept p := ⟨_, rfl, State.issue_good _ _ _ _ (fun t ht => State.tableBody_good _ _ _ _ _ _ _ ht) hg⟩
theorem execTli2_good (x : Issue) (d : Reg) (a : Reg) (b : Reg) (seg : Fin 8) (w : Bool) (n : BitVec 6) (clash : BitVec 4) (s : State) {p : List Instr} (hg : Good s.kept p) :
    ∃ u₀, execTli2 x d a b seg w n clash s = .next u₀ ∧ Good u₀.kept p := ⟨_, rfl, State.issue_good _ _ _ _ (fun t ht => State.tableBody_good _ _ _ _ _ _ _ ht) hg⟩
theorem execSend_good (x : Issue) (d : Reg) (a : Reg) (b : Reg) (s : State) {p : List Instr} (hg : Good s.kept p) :
    ∃ u₀, execSend x d a b s = .next u₀ ∧ Good u₀.kept p := ⟨_, rfl, by
    simp (maxDischargeDepth := 30) [hg]⟩
theorem execEdge_good (x : Issue) (a : Reg) (seg : Fin 8) (lane : BitVec 5) (act : BitVec 2) (s : State) {p : List Instr} (hg : Good s.kept p) :
    ∃ u₀, execEdge x a seg lane act s = .next u₀ ∧ Good u₀.kept p := ⟨_, rfl, by
    simp (maxDischargeDepth := 30) [hg]⟩
theorem execStoreCompletion_good (gt : GT) (late : Bool) (s : State) {p : List Instr} (hg : Good s.kept p) :
    ∃ u₀, execStoreCompletion gt late s = .next u₀ ∧ Good u₀.kept p := ⟨_, rfl, by
    split <;> simp (maxDischargeDepth := 30) [hg]⟩
theorem execPortBRetry_good (i : Nat) (clash : Bool) (s : State) {p : List Instr} (hg : Good s.kept p) :
    ∃ u₀, execPortBRetry i clash s = .next u₀ ∧ Good u₀.kept p := ⟨_, rfl, by
    split
    · split
      · exact hg
      · refine State.performAt_good _ _ ?_
        exact hg
    · exact hg⟩
theorem execIcacheRefill_good (gt : GT) (line : BitVec 42) (way : Fin 4) (lost : Word) (s : State) {p : List Instr} (hg : Good s.kept p) :
    ∃ u₀, execIcacheRefill gt line way lost s = .next u₀ ∧ Good u₀.kept p := ⟨_, rfl, by
    simp only []
    (repeat' split) <;> simp (maxDischargeDepth := 30) [*]⟩

end Sys2Proof.Machine
end

