-- ==== Sys2Proof/WellFormed.lean ====
section
/-!
DEFINITION. Well-formed commands: an instruction with a defined encoding (R163) that names a pair where
one is required (R111), and a write to a word of the address space (R8).
-/
namespace Sys2Proof

/-- The register names a pair. -/
def evenReg (r : Reg) : Bool := !r.getLsbD 0

/-- No field of the command holds a code that its encoding does not list, and every pair register is
even. -/
def Instr.wellFormed (i : Instr) : Bool :=
  match i with
  | .registerWrite _ addr _ => decide (addr.toNat % 4 = 0)
  | .b _ cond _ => cond != 15
  | .loop _ k _ imm => k != 3 && imm != 0
  | .lprd _ _ k _ => k != 3
  | .lpwr _ k _ _ => k != 3
  | .wait _ _ mask => mask != 0
  | .tli _ _ _ _ _ _ n _ => n != 0 && decide (n.toNat < 16)
  | .tli2 _ _ a _ _ _ _ _ => evenReg a
  | .ldd _ m => evenReg m.d
  | .std _ m => evenReg m.d
  | .mulw _ d _ _ => evenReg d
  | .mulwu _ d _ _ => evenReg d
  | .addp _ _ d p q => evenReg d && evenReg p && evenReg q
  | .subp _ _ d p q => evenReg d && evenReg p && evenReg q
  | .shasig _ d a _ => evenReg d && evenReg a
  | .send _ _ a _ => evenReg a
  | .recv _ d _ => evenReg d
  | _ => true

end Sys2Proof
end

