-- ==== Sys2Proof/Laws/PerInstr.lean ====
section
/-!
SUPPORT. A fact about every command as syntax, one lemma per constructor: only an instruction of a thread
(R163, R111) and a register write (R8) can be ill formed; every other command is served whatever its operands.
-/
namespace Sys2Proof.Laws

/-- The command is an instruction that issues from a thread, or a register write. -/
def Served.named (i : Instr) : Bool :=
  match i with
  | .registerWrite .. => true
  | .b .. => true
  | .loop .. => true
  | .lprd .. => true
  | .lpwr .. => true
  | .wait .. => true
  | .tli .. => true
  | .tli2 .. => true
  | .ldd .. => true
  | .std .. => true
  | .mulw .. => true
  | .mulwu .. => true
  | .addp .. => true
  | .subp .. => true
  | .shasig .. => true
  | .send .. => true
  | .recv .. => true
  | _ => false

/-- The command is well formed, or is one of those that name a code or a pair. -/
def Served.Statement (i : Instr) : Prop := i.wellFormed = true ∨ Served.named i = true

theorem Served.registerWrite (who : Agent) (addr : BitVec 48) (data : Word) :
    Served.Statement (.registerWrite who addr data) := .inr rfl
theorem Served.crossingQueueDelivery (q : Crossing) (t : BitVec 32) :
    Served.Statement (.crossingQueueDelivery q t) := .inl rfl
theorem Served.eventSynchroniserDelivery (port : BitVec 13) (b : Bool) :
    Served.Statement (.eventSynchroniserDelivery port b) := .inl rfl
theorem Served.slotCommit (who : Agent) (n : Core) :
    Served.Statement (.slotCommit who n) := .inl rfl
theorem Served.slotTableApply (n : Core) :
    Served.Statement (.slotTableApply n) := .inl rfl
theorem Served.threadStart (who : Agent) (gt : GT) :
    Served.Statement (.threadStart who gt) := .inl rfl
theorem Served.threadHalt (who : Agent) (gt : GT) :
    Served.Statement (.threadHalt who gt) := .inl rfl
theorem Served.threadResume (who : Agent) (gt : GT) :
    Served.Statement (.threadResume who gt) := .inl rfl
theorem Served.threadStop (who : Agent) (gt : GT) :
    Served.Statement (.threadStop who gt) := .inl rfl
theorem Served.handlerEntry (gt : GT) :
    Served.Statement (.handlerEntry gt) := .inl rfl
theorem Served.faultEntry (gt : GT) :
    Served.Statement (.faultEntry gt) := .inl rfl
theorem Served.icacheRefill (gt : GT) (line : BitVec 42) (way : Fin 4) (lost : Word) :
    Served.Statement (.icacheRefill gt line way lost) := .inl rfl
theorem Served.icacheInvAll (who : Agent) (n : Core) :
    Served.Statement (.icacheInvAll who n) := .inl rfl
theorem Served.longOpRetire (gt : GT) (i : Fin 4) (late : Bool) :
    Served.Statement (.longOpRetire gt i late) := .inl rfl
theorem Served.storeCompletion (gt : GT) (late : Bool) :
    Served.Statement (.storeCompletion gt late) := .inl rfl
theorem Served.add (x : Issue) (f : Bool) (d a b : Reg) :
    Served.Statement (.add x f d a b) := .inl rfl
theorem Served.addc (x : Issue) (f : Bool) (d a b : Reg) :
    Served.Statement (.addc x f d a b) := .inl rfl
theorem Served.sub (x : Issue) (f : Bool) (d a b : Reg) :
    Served.Statement (.sub x f d a b) := .inl rfl
theorem Served.subc (x : Issue) (f : Bool) (d a b : Reg) :
    Served.Statement (.subc x f d a b) := .inl rfl
theorem Served.and (x : Issue) (f : Bool) (d a b : Reg) :
    Served.Statement (.and x f d a b) := .inl rfl
theorem Served.or (x : Issue) (f : Bool) (d a b : Reg) :
    Served.Statement (.or x f d a b) := .inl rfl
theorem Served.xor (x : Issue) (f : Bool) (d a b : Reg) :
    Served.Statement (.xor x f d a b) := .inl rfl
theorem Served.sll (x : Issue) (f : Bool) (d a b : Reg) :
    Served.Statement (.sll x f d a b) := .inl rfl
theorem Served.srl (x : Issue) (f : Bool) (d a b : Reg) :
    Served.Statement (.srl x f d a b) := .inl rfl
theorem Served.sra (x : Issue) (f : Bool) (d a b : Reg) :
    Served.Statement (.sra x f d a b) := .inl rfl
theorem Served.ror (x : Issue) (f : Bool) (d a b : Reg) :
    Served.Statement (.ror x f d a b) := .inl rfl
theorem Served.slt (x : Issue) (f : Bool) (d a b : Reg) :
    Served.Statement (.slt x f d a b) := .inl rfl
theorem Served.sltu (x : Issue) (f : Bool) (d a b : Reg) :
    Served.Statement (.sltu x f d a b) := .inl rfl
theorem Served.cmp (x : Issue) (a b : Reg) :
    Served.Statement (.cmp x a b) := .inl rfl
theorem Served.addi (x : Issue) (d a : Reg) (imm : BitVec 15) :
    Served.Statement (.addi x d a imm) := .inl rfl
theorem Served.andi (x : Issue) (d a : Reg) (imm : BitVec 15) :
    Served.Statement (.andi x d a imm) := .inl rfl
theorem Served.ori (x : Issue) (d a : Reg) (imm : BitVec 15) :
    Served.Statement (.ori x d a imm) := .inl rfl
theorem Served.xori (x : Issue) (d a : Reg) (imm : BitVec 15) :
    Served.Statement (.xori x d a imm) := .inl rfl
theorem Served.slli (x : Issue) (d a : Reg) (cnt : BitVec 5) :
    Served.Statement (.slli x d a cnt) := .inl rfl
theorem Served.srli (x : Issue) (d a : Reg) (cnt : BitVec 5) :
    Served.Statement (.srli x d a cnt) := .inl rfl
theorem Served.srai (x : Issue) (d a : Reg) (cnt : BitVec 5) :
    Served.Statement (.srai x d a cnt) := .inl rfl
theorem Served.rori (x : Issue) (d a : Reg) (cnt : BitVec 5) :
    Served.Statement (.rori x d a cnt) := .inl rfl
theorem Served.cmpi (x : Issue) (a : Reg) (imm : BitVec 15) :
    Served.Statement (.cmpi x a imm) := .inl rfl
theorem Served.lui (x : Issue) (d : Reg) (imm : BitVec 20) :
    Served.Statement (.lui x d imm) := .inl rfl
theorem Served.mul (x : Issue) (d a b : Reg) :
    Served.Statement (.mul x d a b) := .inl rfl
theorem Served.mulh (x : Issue) (d a b : Reg) :
    Served.Statement (.mulh x d a b) := .inl rfl
theorem Served.mulhu (x : Issue) (d a b : Reg) :
    Served.Statement (.mulhu x d a b) := .inl rfl
theorem Served.mulw (x : Issue) (d a b : Reg) :
    Served.Statement (.mulw x d a b) := .inr rfl
theorem Served.mulwu (x : Issue) (d a b : Reg) :
    Served.Statement (.mulwu x d a b) := .inr rfl
theorem Served.div (x : Issue) (d a b : Reg) :
    Served.Statement (.div x d a b) := .inl rfl
theorem Served.divu (x : Issue) (d a b : Reg) :
    Served.Statement (.divu x d a b) := .inl rfl
theorem Served.rem (x : Issue) (d a b : Reg) :
    Served.Statement (.rem x d a b) := .inl rfl
theorem Served.remu (x : Issue) (d a b : Reg) :
    Served.Statement (.remu x d a b) := .inl rfl
theorem Served.addp (x : Issue) (f : Bool) (d a b : Reg) :
    Served.Statement (.addp x f d a b) := .inr rfl
theorem Served.subp (x : Issue) (f : Bool) (d a b : Reg) :
    Served.Statement (.subp x f d a b) := .inr rfl
theorem Served.shasig (x : Issue) (d a : Reg) (which : Fin 4) :
    Served.Statement (.shasig x d a which) := .inr rfl
theorem Served.ldb (x : Issue) (m : MemOp) :
    Served.Statement (.ldb x m) := .inl rfl
theorem Served.ldbu (x : Issue) (m : MemOp) :
    Served.Statement (.ldbu x m) := .inl rfl
theorem Served.ldh (x : Issue) (m : MemOp) :
    Served.Statement (.ldh x m) := .inl rfl
theorem Served.ldhu (x : Issue) (m : MemOp) :
    Served.Statement (.ldhu x m) := .inl rfl
theorem Served.ldw (x : Issue) (m : MemOp) :
    Served.Statement (.ldw x m) := .inl rfl
theorem Served.ldd (x : Issue) (m : MemOp) :
    Served.Statement (.ldd x m) := .inr rfl
theorem Served.stb (x : Issue) (m : MemOp) :
    Served.Statement (.stb x m) := .inl rfl
theorem Served.sth (x : Issue) (m : MemOp) :
    Served.Statement (.sth x m) := .inl rfl
theorem Served.stw (x : Issue) (m : MemOp) :
    Served.Statement (.stw x m) := .inl rfl
theorem Served.std (x : Issue) (m : MemOp) :
    Served.Statement (.std x m) := .inr rfl
theorem Served.agree (x : Issue) (m : MemOp) :
    Served.Statement (.agree x m) := .inl rfl
theorem Served.tli (x : Issue) (d a b : Reg) (seg : Fin 8) (w : Bool) (n : BitVec 6) (clash : BitVec 2) :
    Served.Statement (.tli x d a b seg w n clash) := .inr rfl
theorem Served.tli2 (x : Issue) (d a b : Reg) (seg : Fin 8) (w : Bool) (n : BitVec 6) (clash : BitVec 4) :
    Served.Statement (.tli2 x d a b seg w n clash) := .inr rfl
theorem Served.crc (x : Issue) (d a b : Reg) (w n : BitVec 5) :
    Served.Statement (.crc x d a b w n) := .inl rfl
theorem Served.crcr (x : Issue) (d a b : Reg) (w n : BitVec 5) :
    Served.Statement (.crcr x d a b w n) := .inl rfl
theorem Served.b (x : Issue) (cond : BitVec 4) (disp : BitVec 21) :
    Served.Statement (.b x cond disp) := .inr rfl
theorem Served.call (x : Issue) (disp : BitVec 25) :
    Served.Statement (.call x disp) := .inl rfl
theorem Served.br (x : Issue) (a : Reg) :
    Served.Statement (.br x a) := .inl rfl
theorem Served.callr (x : Issue) (a : Reg) :
    Served.Statement (.callr x a) := .inl rfl
theorem Served.ret (x : Issue) :
    Served.Statement (.ret x) := .inl rfl
theorem Served.eret (x : Issue) :
    Served.Statement (.eret x) := .inl rfl
theorem Served.fret (x : Issue) :
    Served.Statement (.fret x) := .inl rfl
theorem Served.trapi (x : Issue) (n : BitVec 7) :
    Served.Statement (.trapi x n) := .inl rfl
theorem Served.loop (x : Issue) (k : BitVec 2) (a : Reg) (imm : BitVec 15) :
    Served.Statement (.loop x k a imm) := .inr rfl
theorem Served.lprd (x : Issue) (d : Reg) (k f : BitVec 2) :
    Served.Statement (.lprd x d k f) := .inr rfl
theorem Served.lpwr (x : Issue) (k f : BitVec 2) (a : Reg) :
    Served.Statement (.lpwr x k f a) := .inr rfl
theorem Served.nop (x : Issue) :
    Served.Statement (.nop x) := .inl rfl
theorem Served.wait (x : Issue) (d : Reg) (mask : BitVec 4) :
    Served.Statement (.wait x d mask) := .inr rfl
theorem Served.waitComplete (gt : GT) :
    Served.Statement (.waitComplete gt) := .inl rfl
theorem Served.recv (x : Issue) (d : Reg) (wt : Bool) :
    Served.Statement (.recv x d wt) := .inr rfl
theorem Served.recvComplete (gt : GT) :
    Served.Statement (.recvComplete gt) := .inl rfl
theorem Served.send (x : Issue) (d a b : Reg) :
    Served.Statement (.send x d a b) := .inr rfl
theorem Served.settle (x : Issue) :
    Served.Statement (.settle x) := .inl rfl
theorem Served.settleComplete (gt : GT) :
    Served.Statement (.settleComplete gt) := .inl rfl
theorem Served.isync (x : Issue) :
    Served.Statement (.isync x) := .inl rfl
theorem Served.seal (x : Issue) :
    Served.Statement (.seal x) := .inl rfl
theorem Served.rdfeat (x : Issue) (d : Reg) (n : Fin 8) :
    Served.Statement (.rdfeat x d n) := .inl rfl
theorem Served.totask (x : Issue) :
    Served.Statement (.totask x) := .inl rfl
theorem Served.rspush (x : Issue) (a : Reg) :
    Served.Statement (.rspush x a) := .inl rfl
theorem Served.rspop (x : Issue) (d : Reg) :
    Served.Statement (.rspop x d) := .inl rfl
theorem Served.mvfl (x : Issue) (d : Reg) :
    Served.Statement (.mvfl x d) := .inl rfl
theorem Served.mvtf (x : Issue) (a : Reg) :
    Served.Statement (.mvtf x a) := .inl rfl
theorem Served.setseg (x : Issue) (si : Fin 8) (a b : Reg) (rights : BitVec 5) :
    Served.Statement (.setseg x si a b rights) := .inl rfl
theorem Served.getseg (x : Issue) (d : Reg) (si : Fin 8) (w : Fin 4) :
    Served.Statement (.getseg x d si w) := .inl rfl
theorem Served.edge (x : Issue) (a : Reg) (seg : Fin 8) (lane : BitVec 5) (act : BitVec 2) :
    Served.Statement (.edge x a seg lane act) := .inl rfl
theorem Served.segDescriptorWrite (who : Agent) (gt : GT) (i : Fin 8) (w : Fin 4) (data : Word) :
    Served.Statement (.segDescriptorWrite who gt i w data) := .inl rfl
theorem Served.ceilingWrite (who : Agent) (gt : GT) (i : Fin 8) (w : Fin 4) (data : Word) :
    Served.Statement (.ceilingWrite who gt i w data) := .inl rfl
theorem Served.latchingRead (gt : GT) (r : Latch) (dt : BitVec 32) :
    Served.Statement (.latchingRead gt r dt) := .inl rfl
theorem Served.shadowHiRead (gt : GT) (r : Latch) :
    Served.Statement (.shadowHiRead gt r) := .inl rfl
theorem Served.widePairRead (who : Agent) (r : WidePair) (dt : BitVec 32) :
    Served.Statement (.widePairRead who r dt) := .inl rfl
theorem Served.laneInputTransition (l : Lane) (level : Bool) (time held : BitVec 26) :
    Served.Statement (.laneInputTransition l level time held) := .inl rfl
theorem Served.laneLastRead (who : Agent) (l : Lane) :
    Served.Statement (.laneLastRead who l) := .inl rfl
theorem Served.bayCommit (who : Agent) (n : Core) (dt : PinTime) :
    Served.Statement (.bayCommit who n dt) := .inl rfl
theorem Served.progWrite (who : Agent) (n : Core) (i : Fin 64) (data : Word) :
    Served.Statement (.progWrite who n i data) := .inl rfl
theorem Served.seqStart (who : Agent) (n : Core) (k : Seq) :
    Served.Statement (.seqStart who n k) := .inl rfl
theorem Served.seqStop (who : Agent) (n : Core) (k : Seq) :
    Served.Statement (.seqStop who n k) := .inl rfl
theorem Served.seqContinue (who : Agent) (n : Core) (k : Seq) :
    Served.Statement (.seqContinue who n k) := .inl rfl
theorem Served.seqFlush (who : Agent) (n : Core) (k : Seq) :
    Served.Statement (.seqFlush who n k) := .inl rfl
theorem Served.seqJmp (n : Core) (k : Seq) (dt : PinTime) :
    Served.Statement (.seqJmp n k dt) := .inl rfl
theorem Served.seqWait (n : Core) (k : Seq) (dt : PinTime) :
    Served.Statement (.seqWait n k dt) := .inl rfl
theorem Served.seqIn (n : Core) (k : Seq) (dt : PinTime) :
    Served.Statement (.seqIn n k dt) := .inl rfl
theorem Served.seqOut (n : Core) (k : Seq) (dt : PinTime) :
    Served.Statement (.seqOut n k dt) := .inl rfl
theorem Served.seqPush (n : Core) (k : Seq) (dt : PinTime) :
    Served.Statement (.seqPush n k dt) := .inl rfl
theorem Served.seqPull (n : Core) (k : Seq) (dt : PinTime) :
    Served.Statement (.seqPull n k dt) := .inl rfl
theorem Served.seqMov (n : Core) (k : Seq) (dt : PinTime) :
    Served.Statement (.seqMov n k dt) := .inl rfl
theorem Served.seqSet (n : Core) (k : Seq) (dt : PinTime) :
    Served.Statement (.seqSet n k dt) := .inl rfl
theorem Served.seqEvt (n : Core) (k : Seq) (dt : PinTime) :
    Served.Statement (.seqEvt n k dt) := .inl rfl
theorem Served.seqStamp (n : Core) (k : Seq) (dt : PinTime) :
    Served.Statement (.seqStamp n k dt) := .inl rfl
theorem Served.seqStallRelease (n : Core) (k : Seq) (dt : PinTime) :
    Served.Statement (.seqStallRelease n k dt) := .inl rfl
theorem Served.seqEventLatch (n : Core) (k : Seq) (i : Fin 2) :
    Served.Statement (.seqEventLatch n k i) := .inl rfl
theorem Served.txwWrite (who : Agent) (n : Core) (k : Seq) (data : Word) :
    Served.Statement (.txwWrite who n k data) := .inl rfl
theorem Served.rxwRead (who : Agent) (n : Core) (k : Seq) :
    Served.Statement (.rxwRead who n k) := .inl rfl
theorem Served.creditReturn (n : Core) (c : Credit) :
    Served.Statement (.creditReturn n c) := .inl rfl
theorem Served.edgeEntryCheck (n : Core) (dt : PinTime) :
    Served.Statement (.edgeEntryCheck n dt) := .inl rfl
theorem Served.edgeEntryApply (n : Core) (dt : PinTime) :
    Served.Statement (.edgeEntryApply n dt) := .inl rfl
theorem Served.anchorTake (q : Fin 4) (dt : BitVec 32) (time : BitVec 26) :
    Served.Statement (.anchorTake q dt time) := .inl rfl
theorem Served.tbRate (who : Agent) (dt : BitVec 32) :
    Served.Statement (.tbRate who dt) := .inl rfl
theorem Served.tbStep (who : Agent) (dt : BitVec 32) :
    Served.Statement (.tbStep who dt) := .inl rfl
theorem Served.tbSnap (who : Agent) (dt : BitVec 32) :
    Served.Statement (.tbSnap who dt) := .inl rfl
theorem Served.tbAdjEnd :
    Served.Statement .tbAdjEnd := .inl rfl
theorem Served.ppsRecord (dt : BitVec 32) :
    Served.Statement (.ppsRecord dt) := .inl rfl
theorem Served.gsGo (who : Agent) (dt : BitVec 32) :
    Served.Statement (.gsGo who dt) := .inl rfl
theorem Served.goAtDue (dt : BitVec 32) :
    Served.Statement (.goAtDue dt) := .inl rfl
theorem Served.tmrStart (who : Agent) (m : Timer) :
    Served.Statement (.tmrStart who m) := .inl rfl
theorem Served.tmrStop (who : Agent) (m : Timer) :
    Served.Statement (.tmrStop who m) := .inl rfl
theorem Served.tmrCommit (who : Agent) (m : Timer) :
    Served.Statement (.tmrCommit who m) := .inl rfl
theorem Served.tmrForceReload (who : Agent) (m : Timer) :
    Served.Statement (.tmrForceReload who m) := .inl rfl
theorem Served.tmrSnap (who : Agent) (m : Timer) :
    Served.Statement (.tmrSnap who m) := .inl rfl
theorem Served.timerCount (m : Timer) (dt : BitVec 32) :
    Served.Statement (.timerCount m dt) := .inl rfl
theorem Served.timerZero (m : Timer) (dt : BitVec 32) :
    Served.Statement (.timerZero m dt) := .inl rfl
theorem Served.timerInputSeen (m : Timer) (i : TimerIn) (dt : BitVec 32) :
    Served.Statement (.timerInputSeen m i dt) := .inl rfl
theorem Served.timerCapture (m : Timer) :
    Served.Statement (.timerCapture m) := .inl rfl
theorem Served.tmrCapRead (who : Agent) (m : Timer) (wide : Bool) :
    Served.Statement (.tmrCapRead who m wide) := .inl rfl
theorem Served.evselWrite (who : Agent) (x : Fin 11776) (data : Word) :
    Served.Statement (.evselWrite who x data) := .inl rfl
theorem Served.forceWrite (who : Agent) (x : Fin 11776) (data : Word) :
    Served.Statement (.forceWrite who x data) := .inl rfl
theorem Served.eventDelivery (e : EventRef) (coincide : Bool) :
    Served.Statement (.eventDelivery e coincide) := .inl rfl
theorem Served.levelDelivery (x : Fin 11776) :
    Served.Statement (.levelDelivery x) := .inl rfl
theorem Served.msgAccept (n : Core) (here : List GT) :
    Served.Statement (.msgAccept n here) := .inl rfl
theorem Served.portBRetry (i : Nat) (clash : Bool) :
    Served.Statement (.portBRetry i clash) := .inl rfl
theorem Served.bankHandover (who : Agent) (g : Bank) (kind : BitVec 3) (engine : BitVec 2) :
    Served.Statement (.bankHandover who g kind engine) := .inl rfl
theorem Served.drainComplete (g : Bank) :
    Served.Statement (.drainComplete g) := .inl rfl
theorem Served.bankPowerRequest (who : Agent) (g : Bank) (p : BitVec 2) :
    Served.Statement (.bankPowerRequest who g p) := .inl rfl
theorem Served.bankEnterDone (g : Bank) :
    Served.Statement (.bankEnterDone g) := .inl rfl
theorem Served.bankWakeDone (g : Bank) :
    Served.Statement (.bankWakeDone g) := .inl rfl
theorem Served.bankClearDone (g : Bank) :
    Served.Statement (.bankClearDone g) := .inl rfl
theorem Served.marchGo (who : Agent) :
    Served.Statement (.marchGo who) := .inl rfl
theorem Served.marchDone (fails : List (BitVec 11 × BitVec 9)) (again : Bool) :
    Served.Statement (.marchDone fails again) := .inl rfl
theorem Served.loftStoreGo (who : Agent) (r : Fin 2048) (secret : Bool) :
    Served.Statement (.loftStoreGo who r secret) := .inl rfl
theorem Served.loftStoreDone (ok : Bool) :
    Served.Statement (.loftStoreDone ok) := .inl rfl
theorem Served.rdShared (c : Fin 33) (line : BitVec 42) :
    Served.Statement (.rdShared c line) := .inl rfl
theorem Served.rdUnique (c : Fin 33) (line : BitVec 42) :
    Served.Statement (.rdUnique c line) := .inl rfl
theorem Served.upgrade (c : Fin 33) (line : BitVec 42) :
    Served.Statement (.upgrade c line) := .inl rfl
theorem Served.snpShared (c : Fin 33) (line : BitVec 42) :
    Served.Statement (.snpShared c line) := .inl rfl
theorem Served.snpInv (c : Fin 33) (line : BitVec 42) :
    Served.Statement (.snpInv c line) := .inl rfl
theorem Served.ackShared (c : Fin 33) (line : BitVec 42) :
    Served.Statement (.ackShared c line) := .inl rfl
theorem Served.ackInv (c : Fin 33) (line : BitVec 42) :
    Served.Statement (.ackInv c line) := .inl rfl
theorem Served.snpData (c : Fin 33) (line : BitVec 42) (inv : Bool) (data : Line) :
    Served.Statement (.snpData c line inv data) := .inl rfl
theorem Served.invWbInflight (c : Fin 33) (line : BitVec 42) :
    Served.Statement (.invWbInflight c line) := .inl rfl
theorem Served.wbData (c : Fin 33) (line : BitVec 42) (data : Line) :
    Served.Statement (.wbData c line data) := .inl rfl
theorem Served.evictClean (c : Fin 33) (line : BitVec 42) :
    Served.Statement (.evictClean c line) := .inl rfl
theorem Served.wbAck (c : Fin 33) (line : BitVec 42) :
    Served.Statement (.wbAck c line) := .inl rfl
theorem Served.compAck (c : Fin 33) (line : BitVec 42) :
    Served.Statement (.compAck c line) := .inl rfl
theorem Served.fillS (c : Fin 33) (line : BitVec 42) :
    Served.Statement (.fillS c line) := .inl rfl
theorem Served.fillE (c : Fin 33) (line : BitVec 42) :
    Served.Statement (.fillE c line) := .inl rfl
theorem Served.grantE (c : Fin 33) (line : BitVec 42) :
    Served.Statement (.grantE c line) := .inl rfl
theorem Served.retry (c : Fin 33) (line : BitVec 42) :
    Served.Statement (.retry c line) := .inl rfl
theorem Served.proceed (c : Fin 33) (line : BitVec 42) :
    Served.Statement (.proceed c line) := .inl rfl
theorem Served.dcacheFlushAll (who : Agent) (n : Core) :
    Served.Statement (.dcacheFlushAll who n) := .inl rfl
theorem Served.dcacheDisable (who : Agent) (n : Core) :
    Served.Statement (.dcacheDisable who n) := .inl rfl
theorem Served.sysCacheDisable (who : Agent) (n : Core) :
    Served.Statement (.sysCacheDisable who n) := .inl rfl
theorem Served.dirFenceGo (who : Agent) :
    Served.Statement (.dirFenceGo who) := .inl rfl
theorem Served.fenceComplete :
    Served.Statement .fenceComplete := .inl rfl
theorem Served.ledgerIssue (i : Nat) :
    Served.Statement (.ledgerIssue i) := .inl rfl
theorem Served.sipResponse (tag : BitVec 14) (err : Bool) (data : Line) :
    Served.Statement (.sipResponse tag err data) := .inl rfl
theorem Served.ledgerTimeout (tag : BitVec 14) :
    Served.Statement (.ledgerTimeout tag) := .inl rfl
theorem Served.chCommit (who : Agent) (c : Chan) :
    Served.Statement (.chCommit who c) := .inl rfl
theorem Served.chGo (who : Agent) (c : Chan) :
    Served.Statement (.chGo who c) := .inl rfl
theorem Served.chAbort (who : Agent) (c : Chan) :
    Served.Statement (.chAbort who c) := .inl rfl
theorem Served.chTrigger (c : Chan) (i : Fin 2) :
    Served.Statement (.chTrigger c i) := .inl rfl
theorem Served.dmaTransferDone (c : Chan) (n : Word) :
    Served.Statement (.dmaTransferDone c n) := .inl rfl
theorem Served.descriptorLoad (c : Chan) :
    Served.Statement (.descriptorLoad c) := .inl rfl
theorem Served.descriptorWriteback (c : Chan) :
    Served.Statement (.descriptorWriteback c) := .inl rfl
theorem Served.dmaAccessFail (c : Chan) :
    Served.Statement (.dmaAccessFail c) := .inl rfl
theorem Served.engineError (e : Fin 4) :
    Served.Statement (.engineError e) := .inl rfl
theorem Served.poolEnable (who : Agent) (p : Pool) :
    Served.Statement (.poolEnable who p) := .inl rfl
theorem Served.poolDisable (who : Agent) (p : Pool) :
    Served.Statement (.poolDisable who p) := .inl rfl
theorem Served.poolAlloc (who : Agent) (p : Pool) :
    Served.Statement (.poolAlloc who p) := .inl rfl
theorem Served.poolRefill (p : Pool) :
    Served.Statement (.poolRefill p) := .inl rfl
theorem Served.poolSpill (p : Pool) :
    Served.Statement (.poolSpill p) := .inl rfl
theorem Served.bmFree (who : Agent) (h : Word) :
    Served.Statement (.bmFree who h) := .inl rfl
theorem Served.siloEnable (who : Agent) :
    Served.Statement (.siloEnable who) := .inl rfl
theorem Served.siloPut (who : Agent) (lo hi : Word) :
    Served.Statement (.siloPut who lo hi) := .inl rfl
theorem Served.siloRecordWrite (lag : BitVec 3) :
    Served.Statement (.siloRecordWrite lag) := .inl rfl
theorem Served.siloRecordDone :
    Served.Statement .siloRecordDone := .inl rfl
theorem Served.siloTrigger (who : Agent) :
    Served.Statement (.siloTrigger who) := .inl rfl
theorem Served.siloRearm (who : Agent) :
    Served.Statement (.siloRearm who) := .inl rfl
theorem Served.bulkWindowAccess (k : Fin 65) (acc : HostAccess) (beat : Beat) :
    Served.Statement (.bulkWindowAccess k acc beat) := .inl rfl
theorem Served.bulkAddrWrite (k : Fin 65) (data : Word) :
    Served.Statement (.bulkAddrWrite k data) := .inl rfl
theorem Served.bulkStatusRead (k : Fin 65) (addr : Bool) :
    Served.Statement (.bulkStatusRead k addr) := .inl rfl
theorem Served.bulkWritePerform (k : Fin 65) (clash : Bool) :
    Served.Statement (.bulkWritePerform k clash) := .inl rfl
theorem Served.twinSeed (who : Agent) (p : Fin 256) :
    Served.Statement (.twinSeed who p) := .inl rfl
theorem Served.twinBreak (who : Agent) (p : Fin 256) :
    Served.Statement (.twinBreak who p) := .inl rfl
theorem Served.windowEnd (gt : GT) :
    Served.Statement (.windowEnd gt) := .inl rfl
theorem Served.twinCompare (p : Fin 256) (brk : Bool) :
    Served.Statement (.twinCompare p brk) := .inl rfl
theorem Served.twinReportTimeout (p : Fin 256) (brk : Bool) :
    Served.Statement (.twinReportTimeout p brk) := .inl rfl
theorem Served.coreSelftestDone (n : Core) (pass : Bool) :
    Served.Statement (.coreSelftestDone n pass) := .inl rfl
theorem Served.winInjectGo (who : Agent) (u : Fin 8) :
    Served.Statement (.winInjectGo who u) := .inl rfl
theorem Served.injectionTestDone (u : Fin 8) (pass : Bool) :
    Served.Statement (.injectionTestDone u pass) := .inl rfl
theorem Served.ownerByteWrite (who : Agent) (off : Fin 16384) (data : Word) :
    Served.Statement (.ownerByteWrite who off data) := .inl rfl
theorem Served.vcCreate (who : Agent) (v : VC) :
    Served.Statement (.vcCreate who v) := .inl rfl
theorem Served.vcReset (who : Agent) (v : VC) :
    Served.Statement (.vcReset who v) := .inl rfl
theorem Served.vcGenAdvance (v : VC) :
    Served.Statement (.vcGenAdvance v) := .inl rfl
theorem Served.vcRemove (who : Agent) (v : VC) :
    Served.Statement (.vcRemove who v) := .inl rfl
theorem Served.vcFreeze (who : Agent) (v : VC) :
    Served.Statement (.vcFreeze who v) := .inl rfl
theorem Served.vcFreezeComplete (v : VC) :
    Served.Statement (.vcFreezeComplete v) := .inl rfl
theorem Served.vcThaw (who : Agent) (v : VC) :
    Served.Statement (.vcThaw who v) := .inl rfl
theorem Served.vcSave (who : Agent) (v : VC) :
    Served.Statement (.vcSave who v) := .inl rfl
theorem Served.vcRestore (who : Agent) (v : VC) :
    Served.Statement (.vcRestore who v) := .inl rfl
theorem Served.imageDone (v : VC) :
    Served.Statement (.imageDone v) := .inl rfl
theorem Served.ifaceSelect (v : VC) (data : Word) :
    Served.Statement (.ifaceSelect v data) := .inl rfl
theorem Served.apertureAccess (v : VC) (write : Option Word) :
    Served.Statement (.apertureAccess v write) := .inl rfl
theorem Served.mbxTx (v : VC) (lo hi : Word) :
    Served.Statement (.mbxTx v lo hi) := .inl rfl
theorem Served.mbxMove (v : VC) :
    Served.Statement (.mbxMove v) := .inl rfl
theorem Served.vcMbxPost (who : Agent) (v : VC) (lo hi : Word) :
    Served.Statement (.vcMbxPost who v lo hi) := .inl rfl
theorem Served.mbxRx (v : VC) :
    Served.Statement (.mbxRx v) := .inl rfl
theorem Served.vcrReq (v : VC) :
    Served.Statement (.vcrReq v) := .inl rfl
theorem Served.coldReset (boardDie : BitVec 2) :
    Served.Statement (.coldReset boardDie) := .inl rfl
theorem Served.warmReset :
    Served.Statement .warmReset := .inl rfl
theorem Served.supplyUp (boardDie : BitVec 2) (lc : BitVec 3) :
    Served.Statement (.supplyUp boardDie lc) := .inl rfl
theorem Served.supplyLoss :
    Served.Statement .supplyLoss := .inl rfl
theorem Served.fuseLoad (words : List Word) (parityOk : Bool) :
    Served.Statement (.fuseLoad words parityOk) := .inl rfl
theorem Served.repairAndHeader :
    Served.Statement .repairAndHeader := .inl rfl
theorem Served.bankWakeAndMarch (fails : List (Bank × List (BitVec 11 × BitVec 9) × Bool)) :
    Served.Statement (.bankWakeAndMarch fails) := .inl rfl
theorem Served.comparatorInjection (pass : BitVec 8) :
    Served.Statement (.comparatorInjection pass) := .inl rfl
theorem Served.bootAuthentication (rom man : List Byte) (stored : List (List Byte)) (placed : List (Option (List Byte))) (busErr : Bool) :
    Served.Statement (.bootAuthentication rom man stored placed busErr) := .inl rfl
theorem Served.bootDoorbellReady (who : Agent) :
    Served.Statement (.bootDoorbellReady who) := .inl rfl
theorem Served.bootDoorbellRecovery (who : Agent) :
    Served.Statement (.bootDoorbellRecovery who) := .inl rfl
theorem Served.secDone (pass : Bool) :
    Served.Statement (.secDone pass) := .inl rfl
theorem Served.loftConfiguration :
    Served.Statement .loftConfiguration := .inl rfl
theorem Served.bootRelease (who : Agent) :
    Served.Statement (.bootRelease who) := .inl rfl
theorem Served.releaseStart :
    Served.Statement .releaseStart := .inl rfl
theorem Served.startTimeout :
    Served.Statement .startTimeout := .inl rfl
theorem Served.renameEnter (who : Agent) (n : Core) (t : Fin 64) :
    Served.Statement (.renameEnter who n t) := .inl rfl
theorem Served.renameExit (who : Agent) (n : Core) :
    Served.Statement (.renameExit who n) := .inl rfl
theorem Served.modeReqDormant (who : Agent) :
    Served.Statement (.modeReqDormant who) := .inl rfl
theorem Served.modeReqRun (who : Agent) :
    Served.Statement (.modeReqRun who) := .inl rfl
theorem Served.modeReqLimp (who : Option Agent) :
    Served.Statement (.modeReqLimp who) := .inl rfl
theorem Served.modeReqService (who : Agent) :
    Served.Statement (.modeReqService who) := .inl rfl
theorem Served.clockChange (who : Agent) :
    Served.Statement (.clockChange who) := .inl rfl
theorem Served.clkAck (i : Fin 5) :
    Served.Statement (.clkAck i) := .inl rfl
theorem Served.pdReqWrite (who : Agent) (hi : Bool) (data : Word) :
    Served.Statement (.pdReqWrite who hi data) := .inl rfl
theorem Served.pdAck (i : Fin 50) :
    Served.Statement (.pdAck i) := .inl rfl
theorem Served.fcSafe (who : Agent) :
    Served.Statement (.fcSafe who) := .inl rfl
theorem Served.fcRelease (who : Agent) :
    Served.Statement (.fcRelease who) := .inl rfl
theorem Served.safeReq :
    Served.Statement .safeReq := .inl rfl
theorem Served.wdogKick (who : Agent) (key : BitVec 8) :
    Served.Statement (.wdogKick who key) := .inl rfl
theorem Served.wdogExpire :
    Served.Statement .wdogExpire := .inl rfl
theorem Served.safetyPowerLost :
    Served.Statement .safetyPowerLost := .inl rfl
theorem Served.laneWake (i : Fin 64) (also : Wakes) :
    Served.Statement (.laneWake i also) := .inl rfl
theorem Served.aonTimerWake (count : BitVec 48) (also : Wakes) :
    Served.Statement (.aonTimerWake count also) := .inl rfl
theorem Served.socWake (also : Wakes) :
    Served.Statement (.socWake also) := .inl rfl
theorem Served.lifecycleChange (lc : BitVec 3) :
    Served.Statement (.lifecycleChange lc) := .inl rfl
theorem Served.debugAccess (off : BitVec 30) (acc : HostAccess) :
    Served.Statement (.debugAccess off acc) := .inl rfl
theorem Served.dbgHalt (who : Agent) (gt : GT) :
    Served.Statement (.dbgHalt who gt) := .inl rfl
theorem Served.dbgResume (who : Agent) (gt : GT) :
    Served.Statement (.dbgResume who gt) := .inl rfl
theorem Served.dbgStep (who : Agent) (gt : GT) :
    Served.Statement (.dbgStep who gt) := .inl rfl
theorem Served.brEnable (who : Agent) (p : Fin 4) :
    Served.Statement (.brEnable who p) := .inl rfl
theorem Served.brDisable (who : Agent) (p : Fin 4) :
    Served.Statement (.brDisable who p) := .inl rfl
theorem Served.linkUp (p : Fin 4) (partner : BitVec 2) (offer : BitVec 2) (id : BitVec 16) :
    Served.Statement (.linkUp p partner offer id) := .inl rfl
theorem Served.trainingTimeout (p : Fin 4) :
    Served.Statement (.trainingTimeout p) := .inl rfl
theorem Served.linkDown (p : Fin 4) (cause : BitVec 4) :
    Served.Statement (.linkDown p cause) := .inl rfl
theorem Served.serdesLockLost (p : Fin 4) :
    Served.Statement (.serdesLockLost p) := .inl rfl
theorem Served.flitReceive (p : Fin 4) (good : Bool) (seq : Nat) (ack : Option Nat) :
    Served.Statement (.flitReceive p good seq ack) := .inl rfl
theorem Served.flitNak (p : Fin 4) (seq : Nat) :
    Served.Statement (.flitNak p seq) := .inl rfl
theorem Served.ackTimeout (p : Fin 4) :
    Served.Statement (.ackTimeout p) := .inl rfl
theorem Served.downNotice (p : Fin 4) :
    Served.Statement (.downNotice p) := .inl rfl
theorem Served.retrain (p : Fin 4) :
    Served.Statement (.retrain p) := .inl rfl
theorem Served.inboundRequest (p : Fin 4) (addr : BitVec 32) (acc : HostAccess) :
    Served.Statement (.inboundRequest p addr acc) := .inl rfl
theorem Served.inboundBridgeEvent (p : Fin 4) (i : Fin 64) (hop : Fin 9) (level : Option Bool) :
    Served.Statement (.inboundBridgeEvent p i hop level) := .inl rfl
theorem Served.inboundMessage (p : Fin 4) (dst : GT) (role : BitVec 12) (data : BitVec 64) :
    Served.Statement (.inboundMessage p dst role data) := .inl rfl
theorem Served.msgNack (p : Fin 4) (full : Bool) :
    Served.Statement (.msgNack p full) := .inl rfl
theorem Served.timeExchangeStart (p : Fin 4) (t1 : BitVec 64) :
    Served.Statement (.timeExchangeStart p t1) := .inl rfl
theorem Served.timeExchangeReply (p : Fin 4) (t2 t3 t4 : BitVec 64) (stepped : Bool) :
    Served.Statement (.timeExchangeReply p t2 t3 t4 stepped) := .inl rfl
theorem Served.htpRequest (off : BitVec 30) (acc : HostAccess) (beat : Beat) :
    Served.Statement (.htpRequest off acc beat) := .inl rfl
theorem Served.gwSnoop (line : BitVec 42) (inv : Bool) :
    Served.Statement (.gwSnoop line inv) := .inl rfl
theorem Served.testAccessUpdate (write : Bool) (off : BitVec 29) (data : Word) :
    Served.Statement (.testAccessUpdate write off data) := .inl rfl
theorem Served.testScan :
    Served.Statement .testScan := .inl rfl
theorem Served.pdLate :
    Served.Statement .pdLate := .inl rfl
theorem Served.safetyPowerReturn :
    Served.Statement .safetyPowerReturn := .inl rfl
theorem Served.serdesLockGained (p : Fin 4) :
    Served.Statement (.serdesLockGained p) := .inl rfl
theorem Served.dbgClassChange (cls : BitVec 2) (v : VC) :
    Served.Statement (.dbgClassChange cls v) := .inl rfl

end Sys2Proof.Laws
end

