-- ==== Sys2Proof/Tests/Slice0.lean ====
section
/-!
SUPPORT. Tests: the checks of WellFormed on ill-formed terms, one step of single commands on small states,
and for every statement a state and operands that meet its hypotheses. Expected values come from the spec's
tables and examples or from hand calculation.
-/
namespace Sys2Proof.Machine

set_option Elab.async false

/-! ## A small machine -/

/-- RUN, everything powered; every core, bay, timer, channel and bank of the first words present; thread 0 of core 0
READY with slot 0, segment 7 over everything, segment 1 readable and writable. -/
def labRegs : List (Nat × Word) :=
  [(0x10900020, 0xFFFFFFFF), (0x10900024, 0x3FFFF), (0x10900018, 0xFFFFFFFF), (0x1090001C, 0x3FFFF),
   (0x10900004, 3), (0x10000310, 0xFFFFFFFF), (0x10000314, 0xFFFFFFFF), (0x10000318, 0xFFFFF),
   (0x10781000, 0xFFFFFFFF), (0x10781010, 0xFFFFFFFF), (0x10000200, 0xFFFFFFFF), (0x10000280, 0xFFFFFFFF),
   (0x10000300, 0xFFFFFFFF), (0x10780000, 0x10), (0x10780008, 0x10), (0x10780010, 0x10), (0x10780018, 0x10),
   (0x10780000 + 8 * 128, 0x10), (0x10780000 + 8 * 4, 0x10), (0x10100200, 0x80000000), (tReg 0 4, 1),
   (tSeg 0 7 8, 0xFFFFFFFF), (tSeg 0 7 0xC, 0xF), (tSeg 0 1 8, 0xFFFFFFFF), (tSeg 0 1 0xC, 7)]
def lab : State := (State.reset.setWords labRegs).modThread 0 (fun t => { t with lineBuf := [0] })
def x0 : Issue := ⟨0, none, false⟩
/-- Thread 0 with another typed part. -/
def labT (f : Thread → Thread) : State := lab.modThread 0 f
def regd (s : State) (l : List (Reg × Word)) : State :=
  s.modThread 0 (fun t => l.foldl (fun t p => t.wr p.1 p.2) t)
/-- The state an outcome answers. -/
def got (o : Host.Outcome State Fault Refusal) : State :=
  match o with
  | .next s => s
  | _ => State.reset

/-- Complex 63 in a state, and thread 64 owned by it. -/
def labV (st : Word) : State :=
  (lab.put [(vcState 63, st)]).setWords [(0x10D02040, 0xBF)]

/-! ## Ill-formed terms -/

theorem test_wf_register_write_unaligned : (Instr.registerWrite .manager 2 0).wellFormed = false := by decide
theorem test_wf_b_cond_15 : (Instr.b x0 15 0).wellFormed = false := by decide
theorem test_wf_loop_lp3 : (Instr.loop x0 3 0 1).wellFormed = false := by decide
theorem test_wf_loop_imm_0 : (Instr.loop x0 2 0 0).wellFormed = false := by decide
theorem test_wf_lprd_lp3 : (Instr.lprd x0 0 3 0).wellFormed = false := by decide
theorem test_wf_lpwr_lp3 : (Instr.lpwr x0 3 0 0).wellFormed = false := by decide
theorem test_wf_wait_mask_0 : (Instr.wait x0 0 0).wellFormed = false := by decide
theorem test_wf_tli_n_0 : (Instr.tli x0 0 0 0 0 false 0 0).wellFormed = false := by decide
theorem test_wf_tli_n_16 : (Instr.tli x0 0 0 0 0 false 16 0).wellFormed = false := by decide
theorem test_wf_tli2_odd : (Instr.tli2 x0 0 1 0 0 false 1 0).wellFormed = false := by decide
theorem test_wf_ldd_odd : (Instr.ldd x0 ⟨1, 0, 0, 0, false, false⟩).wellFormed = false := by decide
theorem test_wf_std_odd : (Instr.std x0 ⟨1, 0, 0, 0, false, false⟩).wellFormed = false := by decide
theorem test_wf_mulw_odd : (Instr.mulw x0 1 0 0).wellFormed = false ∧ (Instr.mulwu x0 31 0 0).wellFormed = false := by
  decide
theorem test_wf_addp_odd : (Instr.addp x0 true 2 1 0).wellFormed = false ∧
    (Instr.subp x0 true 2 0 1).wellFormed = false ∧ (Instr.addp x0 false 3 0 0).wellFormed = false := by decide
theorem test_wf_shasig_odd : (Instr.shasig x0 2 1 0).wellFormed = false := by decide
theorem test_wf_send_odd : (Instr.send x0 0 1 0).wellFormed = false := by decide
theorem test_wf_recv_odd : (Instr.recv x0 1 true).wellFormed = false := by decide
theorem test_wf_add_good : (Instr.add x0 true 31 30 29).wellFormed = true := by decide

/-! ## The machine -/

theorem test_direct_manager : direct .manager := nofun
theorem test_direct_thread : direct (.thread 0) := nofun
theorem test_direct_debug : direct .debug := nofun

theorem witness_StepRunsFrontCommandOrIdles : State.reset.pending = [] := by decide +kernel
theorem test_queue_front : (got (step { lab with pending := [.tbAdjEnd, .safeReq] })).pending = [.safeReq] := by
  decide +kernel
theorem witness_StepKeepsMemoryCanonical : Memory.wf State.reset.bankFill State.reset.mem = true ∧
    step State.reset = .next State.reset := ⟨by decide +kernel, rfl⟩

/-! ## Instruction words (R161 to R163) -/

-- The three words of 04_plindinik_instruction_reference.md; the others added up from the fields by hand.
theorem test_decode_add_f : decodeInstr x0 0x80321600 = some (.add x0 true 3 4 5) := rfl
theorem test_decode_b_ne : decodeTableWord 32 0x5020000C = some (.b x0 1 12) := rfl
theorem test_decode_nop : decodeTableWord 32 0x70000000 = some (.nop x0) ∧ decodeTableWord 16 0 = none := ⟨rfl, rfl⟩
theorem test_decode_addi : decodeInstr x0 0x02117FFF = some (.addi x0 1 2 0x7FFF) := rfl
theorem test_decode_ldw : decodeInstr x0 0x28322008 = some (.ldw x0 ⟨3, 4, 2, 8, false, false⟩) := rfl
theorem test_decode_tli : decodeInstr x0 0x3A110E45 = some (.tli x0 1 2 3 4 true 5 0) := rfl
theorem test_decode_edge : decodeInstr x0 0x7400AFE0 = some (.edge x0 1 2 31 3) := rfl
theorem test_decode_setseg : decodeInstr x0 0x706089BF = some (.setseg x0 6 1 2 0x1F) := rfl
theorem test_decode_eret : decodeInstr x0 0x54000003 = some (.eret x0) := rfl
theorem test_decode_undefined : decodeInstr x0 0x14000000 = none ∧ decodeInstr x0 0x0010000E = none ∧
    decodeInstr x0 0x3A000000 = none ∧ decodeInstr x0 0x51E00000 = none := ⟨rfl, rfl, rfl, rfl⟩
theorem test_fetched_pair : fetchedInstr 0 0x80321600 7 = .add ⟨0, some 7, false⟩ true 3 4 5 := rfl
theorem test_fetched_undefined : fetchedInstr 0 0x14000000 7 = .nop ⟨0, none, true⟩ ∧
    ((got (exec (.nop ⟨0, none, true⟩) lab)).thread 0).raised.map (fun r => (r.cls, r.detail)) = some (2, 0) :=
  ⟨rfl, by decide +kernel⟩

/-! ## Instructions -/

-- R172: 0xFFFFFFFF + 1 carries and is zero; 0x7FFFFFFF + 1 overflows.
theorem test_add_carry : let t := got (exec (.add x0 true 3 1 2) (regd lab [(1, 0xFFFFFFFF), (2, 1)]))
    (t.thread 0).rd 3 = 0 ∧ (t.thread 0).flags = ⟨false, true, true, false⟩ := by decide +kernel
theorem test_add_overflow : let t := got (exec (.add x0 true 3 1 2) (regd lab [(1, 0x7FFFFFFF), (2, 1)]))
    (t.thread 0).rd 3 = 0x80000000 ∧ (t.thread 0).flags = ⟨true, false, false, true⟩ := by decide +kernel
theorem test_sub_borrow : let t := got (exec (.sub x0 true 3 1 2) (regd lab [(1, 1), (2, 2)]))
    (t.thread 0).rd 3 = 0xFFFFFFFF ∧ (t.thread 0).flags = ⟨true, false, false, false⟩ := by decide +kernel
theorem test_subc_no_carry : let t := got (exec (.subc x0 false 3 1 2) (regd lab [(1, 5), (2, 2)]))
    (t.thread 0).rd 3 = 2 := by decide +kernel
theorem test_ror_32 : ((got (exec (.ror x0 false 3 1 2) (regd lab [(1, 0x80000001), (2, 33)]))).thread 0).rd 3 =
    0xC0000000 := by decide +kernel
theorem test_g0_discards : ((got (exec (.addi x0 0 0 5) lab)).thread 0).rd 0 = 0 := by decide +kernel
theorem test_addi_negative : ((got (exec (.addi x0 1 0 0x7FFF) lab)).thread 0).rd 1 = 0xFFFFFFFF := by decide +kernel
theorem test_lui : ((got (exec (.lui x0 1 0xABCDE) lab)).thread 0).rd 1 = 0xABCDE000 := by decide +kernel
theorem test_mulh_signs : ((got (exec (.mulh x0 3 1 2) (regd lab [(1, 0xFFFFFFFF), (2, 1)]))).thread 0).rd 3 =
    0xFFFFFFFF := by decide +kernel
theorem test_mulwu_pair : let t := (got (exec (.mulwu x0 4 1 2) (regd lab [(1, 0xFFFFFFFF), (2, 2)]))).thread 0
    t.rd 4 = 0xFFFFFFFE ∧ t.rd 5 = 1 := by decide +kernel
-- R111: an odd pair register raises ILLEGAL with DETAIL 0x02.
theorem test_mulw_odd_illegal : ((got (exec (.mulw x0 5 1 2) lab)).thread 0).raised.map
    (fun r => (r.cls, r.detail)) = some (2, 2) := by decide +kernel
-- R176
theorem test_div_corner : let s := regd lab [(1, 0x80000000), (2, 0xFFFFFFFF)]
    ((got (exec (.div x0 3 1 2) s)).thread 0).ops.map (fun o => o.result) = [some (.value 0x80000000 0)] ∧
    ((got (exec (.rem x0 3 1 2) s)).thread 0).ops.map (fun o => o.result) = [some (.value 0 0)] := by decide +kernel
theorem test_div_zero_retires : let s := got (exec (.divu x0 3 1 2) (regd lab [(1, 7), (2, 0), (3, 9)]))
    let t := got (exec (.longOpRetire 0 0 false) s)
    (t.thread 0).rd 3 = 9 ∧ (t.thread 0).raised.map (fun r => (r.cls, r.imprecise)) = some (9, true) := by
  decide +kernel
-- R190: CRC-15 of ISO 11898-1, polynomial 0x4599: one bit 1 into an empty state leaves the polynomial.
theorem test_crc15_one_bit : ((got (exec (.crc x0 3 1 2 14 0) (regd lab [(1, 1), (2, 0x4599), (3, 0)]))).thread 0).rd 3 =
    0x4599 := by decide +kernel
-- FIPS 180-4: the function of x = 0 is 0; ROTR28, ROTR34 and ROTR39 of 1 set bits 36, 30 and 25.
theorem test_shasig_0 : let t := (got (exec (.shasig x0 4 2 0) (regd lab [(2, 1), (3, 0)]))).thread 0
    t.rd 4 = 0x42000000 ∧ t.rd 5 = 0x10 := by decide +kernel
-- FIPS 180-4: the SHA-384 digest of the empty message begins 38b060a7 51ac9638.
theorem test_sha384_empty : (sha384 []).take 8 = [0x38, 0xB0, 0x60, 0xA7, 0x51, 0xAC, 0x96, 0x38] ∧
    (sha384 []).length = 48 := by decide +kernel
theorem test_addp_carries_over : let t := (got (exec (.addp x0 true 6 2 4)
      (regd lab [(2, 0xFFFFFFFF), (3, 0xFFFFFFFF), (4, 1), (5, 0)]))).thread 0
    t.rd 6 = 0 ∧ t.rd 7 = 0 ∧ t.flags = ⟨false, true, true, false⟩ := by decide +kernel
theorem test_store_load : let s := got (exec (.stw x0 ⟨2, 0, 1, 0x7FE, false, false⟩) (regd lab [(2, 0x11223344)]))
    s.byte 0x7FE = 0x44 ∧ s.byte 0x801 = 0x11 ∧
    ((got (exec (.ldh x0 ⟨3, 0, 1, 0x7FF, false, false⟩) s)).thread 0).rd 3 = 0x2233 := by decide +kernel
theorem test_ldb_sign : let s := got (exec (.stb x0 ⟨2, 0, 1, 4, false, false⟩) (regd lab [(2, 0x80)]))
    ((got (exec (.ldb x0 ⟨3, 0, 1, 4, false, false⟩) s)).thread 0).rd 3 = 0xFFFFFF80 ∧
    ((got (exec (.ldbu x0 ⟨3, 0, 1, 4, false, false⟩) s)).thread 0).rd 3 = 0x80 := by decide +kernel
-- R123, step 1: an invalid segment raises SEGMENT.
theorem test_invalid_segment : ((got (exec (.ldw x0 ⟨3, 0, 0, 0, false, false⟩) lab)).thread 0).raised.map
    (fun r => r.cls) = some 0 := by decide +kernel
-- R133: the slot is next, the target after it.
theorem test_b_delay_slot : let t := (got (exec (.b x0 14 5) lab)).thread 0
    t.pc = 4 ∧ t.npc = 20 ∧ t.inDelay = true := by decide +kernel
theorem test_call_ret : let s := got (exec (.nop x0) (got (exec (.call x0 4) lab)))
    (s.thread 0).pc = 16 ∧ (s.thread 0).rs = [8] ∧ ((got (exec (.ret x0) s)).thread 0).npc = 8 := by decide +kernel
-- R140: at the loop's end the count goes down and the loop starts again.
theorem test_loop_back : let s := got (exec (.loop x0 0 1 1) (regd lab [(1, 3)]))
    let t := (got (exec (.nop x0) s)).thread 0
    (s.thread 0).lp0 = ⟨4, 4, 3, true⟩ ∧ t.pc = 4 ∧ t.lp0.count = 2 := by decide +kernel
theorem test_trapi : ((got (exec (.trapi x0 5) lab)).thread 0).raised.map (fun r => (r.cls, r.detail)) =
    some (2, 0x85) := by decide +kernel
theorem test_fault_record : let t := got (exec (.faultEntry 0) (got (exec (.trapi x0 5) lab)))
    t.fld (fState 0) = stFaulted ∧ (t.reg (tReg 0 0x30)).getLsbD 31 = true ∧ bitsOf (t.reg (tReg 0 0x30)) 7 0 = 0x85 := by
  decide +kernel
theorem test_rspop_empty : ((got (exec (.rspop x0 1) lab)).thread 0).raised.map (fun r => (r.cls, r.detail)) =
    some (5, 2) := by decide +kernel
theorem test_wait_takes_lowest : let s := lab.setReg (tReg 0 0x1C) 0xA
    let t := got (exec (.wait x0 5 0xE) s)
    (t.thread 0).rd 5 = 1 ∧ t.reg (tReg 0 0x1C) = 8 := by decide +kernel
theorem test_send_recv : let s := (labT (fun t => { t with inbox := [0x1111111122222222] }))
    let t := (got (exec (.recv x0 4 false) s)).thread 0
    t.rd 4 = 0x22222222 ∧ t.rd 5 = 0x11111111 ∧ t.flags.z = false ∧ t.inbox = [] := by decide +kernel

/-! ## Witnesses: instructions -/

/-- Thread 0 with one ready long operation, one answered store, or both. -/
def opV (v : OpResult) (pair : Bool) : LongOp :=
  { id := 7, pc := 0x40, d := 30, pair := pair, seg := 1, acc := 0, form := .zext 4, need := 0, data := [],
    result := some v, agree := false, padded := true }
def stV (ok : Bool) (second : Bool) : StoreOp :=
  { id := 9, pc := 0x44, seg := 1, acc := 1, addr := 0x100000000000, rest := none, second := second, answer := some ok,
    quiet := false, long := true }

theorem witness_AluWritesResultAndFlags :
    lab.issues x0 (insAlu 31 30 29 false true) ∧ lab.issues x0 (insAlu 0 1 2 true false) ∧
    lab.issues x0 (insAlu 0 31 1 false true) ∧ lab.issues x0 { insImm 0 31 with wrFlags := true } ∧
    lab.issues x0 (insAlu 31 31 31 false false) ∧
    lab.issues ⟨0, some 0x70000000, false⟩ (insAlu 31 30 29 false true) := by decide +kernel
theorem witness_ImmediatesProductsAndPairs :
    lab.issues x0 (insImm 31 0) ∧ lab.issues x0 { writes := [31] } ∧ lab.issues x0 (insAlu 0 31 30 false false) ∧
    lab.issues x0 { odd := oddReg 30, reads := [1, 2], writes := pairRegs 30 } ∧ lab.issues x0 (insWide 30 0 2 true) ∧
    lab.issues x0 { odd := oddReg 30 || oddReg 0, reads := pairRegs 0, writes := pairRegs 30 } := by decide +kernel
theorem witness_CrcSteps : lab.issues x0 { reads := [31, 0, 1], writes := [31] } := by decide +kernel
theorem witness_DivisionsIssueAndRetire :
    lab.issues x0 { insAlu 31 1 2 false false with long := true } ∧
    (let s := labT (fun t => { t with ops := [opV (.value 1 2) true] })
     let u := s.thread 0
     u.ops[0]? = some (opV (.value 1 2) true) ∧ (opV (.value 1 2) true).need = 0 ∧ u.stopReq = false ∧
       oddReg (opV (.value 1 2) true).d = false ∧ (opV (.value 1 2) true).padded = true ∧ s.det 0 = false ∧
       (s.put [(fDet 0, 1)]).det 0 = true) ∧
    (let s := labT (fun t => { t with ops := [opV .divZero false] })
     let u := s.thread 0
     u.ops[0]? = some (opV .divZero false) ∧ (opV .divZero false).lateRec ≠ none ∧ u.twin = none ∧ u.boundary = true ∧
       u.raised = none ∧ u.twinStop = none ∧ u.late = [] ∧ s.fld (fState 0) = stReady) ∧
    (opV (.busError 0xFFFFFFFFFFFF true) false).lateRec ≠ none := by decide +kernel
theorem witness_MovesFeaturesAndSegmentReads :
    lab.issues x0 {} ∧ lab.issues x0 { pairOk := false } ∧ lab.issues x0 { writes := [31], rdFlags := true } ∧
    lab.issues x0 { reads := [31], wrFlags := true, pairOk := false } ∧
    lab.issues x0 { wf := (2 : BitVec 2) != 3, writes := [31], pairOk := false } ∧
    lab.issuesAlone x0 { writes := [31], via := true } ∧
    lab.issuesAlone x0 { writes := [31], pairOk := false, via := true } := by decide +kernel
theorem witness_ReturnStackAndLoops :
    lab.issues x0 { reads := [31], pairOk := false } ∧ lab.issues x0 { writes := [31], pairOk := false } ∧
    (let s := (labT (fun t => { t with rs := [1, 2, 3, 4, 5, 6, 7, 8] })).put [(fRsTrap 0, 1)]
     s.issues x0 { reads := [31], pairOk := false } ∧ 8 ≤ (s.thread 0).rs.length ∧ s.bit (fRsTrap 0) = true) ∧
    lab.issues x0 { insXfer [31] with wf := (2 : BitVec 2) != 3 && (1 : BitVec 15) != 0 } ∧
    (lab.thread 0).loopFault 0 4 4 = none ∧ (lab.thread 0).loopFault 0 4 0 ≠ none ∧
    lab.issues x0 { wf := (2 : BitVec 2) != 3, reads := [31], pairOk := false } := by decide +kernel
theorem witness_TransfersTakeDelaySlot :
    lab.issues x0 { insXfer [] with wf := (14 : BitVec 4) != 0xF, rdFlags := true } ∧ lab.issues x0 (insXfer [31]) ∧
    lab.issues x0 (insXfer []) ∧
    ((labT (fun t => { t with rs := [1, 2, 3, 4, 5, 6, 7, 8] })).put [(fRsTrap 0, 1)]).issues x0 (insXfer []) := by
  decide +kernel
/-- Thread 0 at LEAD. -/
def labLead : State := lab.put [(fCurLead 0, 1)]
theorem witness_ReturnsAndTraps : lab.issues x0 (insXfer []) ∧
    (labT (fun t => { t with rs := [8] })).issues x0 (insXfer []) ∧
    labLead.issues x0 { insXfer [] with priv := true } ∧
    (let x : Issue := ⟨0, none, true⟩
     x.undef = true ∧ lab.fetchFault 0 = none ∧ (lab.thread 0).delayed = [] ∧ (lab.thread 0).stopReq = false ∧
       lab.canIssue 0 x { wf := false } = true ∧ lab.canIssue 0 x { insXfer [] with wf := false } = true) := by decide +kernel
/-- Thread 0 in WAIT. -/
def labW (w : Waiting) : State := (labT (fun t => { t with waiting := some w })).put [(fState 0, stWait)]
theorem witness_SetsegSettleIsyncSeal :
    (let s := regd (labLead.setWords [(tSeg 0 8 8, 0xFFFFFFFF), (tSeg 0 8 0xC, 7)]) [(1, 0xFFFFFFFF)]
     s.issues x0 { reads := [1, 2], pairOk := false, priv := true, delayIll := (0 : Fin 8).val == 7 } ∧
       (s.reg (tSeg 0 8 0xC)).getLsbD 0 = true ∧
       ((s.thread 0).rd 1).toNat + ((s.thread 0).rd 2).toNat ≤ (s.reg (tSeg 0 8 8)).toNat) ∧
    (labLead.reg (tSeg 0 8 0xC)).getLsbD 0 = false ∧
    labLead.issues x0 { reads := [1, 2], pairOk := false, priv := true, delayIll := (7 : Fin 8).val == 7 } ∧
    lab.issues x0 { pairOk := false } ∧
    (labT (fun t => { t with ops := [opV .divZero false] })).issues x0 { pairOk := false } ∧
    (labT (fun t => { t with stores := [stV true false] })).issues x0 { pairOk := false } ∧
    (labT (fun t => { t with twin := some (0, false) })).issues x0 { pairOk := false } ∧
    (let s := labT (fun t => { t with twin := some (0, false), late := [(7, precise 9 0)] })
     s.issues x0 { pairOk := false } ∧ (s.thread 0).twin ≠ none ∧ (s.thread 0).late ≠ []) ∧
    (let s := labT (fun t => { t with delayed := [(0, .seg7 0xFFFFFFFF0000 5 1)] })
     s.canIssue 0 x0 {} = true ∧ s.fetchFault 0 = none ∧ s.earlyFault 0 {} = none ∧ (s.thread 0).stopReq = false) := by decide +kernel
theorem witness_SetsegSettleIsyncSeal_waits :
    (∀ w ∈ [Waiting.settle, .isync], ((labW w).thread 0).waiting = some w ∧ ((labW w).thread 0).ops = [] ∧
      ((labW w).thread 0).stores = [] ∧ ((labW w).thread 0).late = [] ∧ ((labW w).thread 0).delayed = [] ∧
      ((labW w).thread 0).stopReq = false ∧ (labW w).mayComplete 0 = true) := by decide +kernel
theorem witness_WaitsAndHandlersTakeLowestInput :
    lab.issuesAlone x0 { wf := (8 : BitVec 4) != 0, writes := [31], pairOk := false, via := true } ∧
    (let s := (labT (fun t => { t with waiting := some (.wait 31 8) })).put [(fState 0, stWait), (fPend 0, 8)]
     let u := s.thread 0
     u.waiting = some (.wait 31 8) ∧ u.twin = none ∧ u.delayed = [] ∧ u.stopReq = false ∧
       s.reg (tReg 0 0x1C) &&& (8 : BitVec 4).setWidth 32 ≠ 0 ∧ s.mayComplete 0 = true) ∧
    (let s := lab.put [(fPend 0, 8), (fHen 0, 8)]
     let u := s.thread 0
     s.handlerDue 0 = true ∧ u.raised = none ∧ u.haltReq = none ∧ u.freezeReq = false ∧ s.fld (fState 0) = stReady ∧
       s.hasBeats 0 = true ∧ u.rs.length < 8) := by decide +kernel
theorem witness_FaultEntryWritesRecord :
    (let s := (labT (fun t => { t with raised := some (precise 2 0x80) })).put [(fFaultEnable 0, 1)]
     (s.thread 0).raised = some (precise 2 0x80) ∧ (precise 2 0x80).cls ≠ 8 ∧ s.bit (fFaultEnable 0) = true ∧
       s.bit (fInFault 0) = false ∧ s.hasBeats 0 = true ∧ (s.thread 0).stopReq = false ∧
       (s.setWords [(0x10100200, 0)]).hasBeats 0 = false) ∧
    lab.bit (fFaultEnable 0) = false := by decide +kernel
theorem witness_LoadsFromOwnBins :
    (let m : MemOp := ⟨30, 0, 1, 0x7FF, false, false⟩
     lab.reaches 0 1 0x7FF 8 true false ∧
       (0x7FF / 0x40000 = 0 ∧ lab.coresBank 0 = true ∧ lab.bit (fDraining 0) = false) ∧ (lab.thread 0).stores = [] ∧
       lab.issues x0 (lab.insLoad 0 m 1) ∧ lab.issues x0 (lab.insLoad 0 m 2) ∧ lab.issues x0 (lab.insLoad 0 m 4) ∧
       lab.issuesAlone x0 { lab.insLoad 0 m 4 with pairOk := false, via := true } ∧ lab.issues x0 (lab.insLoad 0 m 8)) := by
  unfold State.reaches; decide +kernel
theorem witness_StoresToOwnBins :
    (let m : MemOp := ⟨30, 0, 1, 0x7FF, false, false⟩
     lab.reaches 0 1 0x7FF 8 false true ∧
       lab.issues x0 { odd := (8 == 8) && oddReg m.d, reads := m.a :: memRegs m.d 8, access := true }) ∧
    (let s := lab.setWords [(tSeg 0 1 0, 0x4000000)]
     StoreWay.setAlias.shift ≤ (s.desc 0 1).base + 0x7FF ∧ s.reaches 0 1 0x7FF 4 true true ∧ s.dwait = []) ∧
    (let s := labT (fun t => { t with stores := [stV true false] })
     (s.thread 0).stores.find? (fun p => p.answer.isSome) = some (stV true false) ∧
       (stV true false).quiet = false ∧ (s.thread 0).stopReq = false ∧ (stV true false).rest = none) ∧
    (let s := labT (fun t => { t with stores := [stV false true] })
     let u := s.thread 0
     u.stores.find? (fun p => p.answer.isSome) = some (stV false true) ∧ u.twin = none ∧ u.boundary = true ∧
       u.raised = none ∧ u.twinStop = none ∧ u.late = [] ∧ s.fld (fState 0) = stReady) := by
  unfold State.reaches; decide +kernel
theorem witness_TablesInterpolate :
    lab.issues x0 (insTable ((15 : BitVec 6).toNat != 0 && decide ((15 : BitVec 6).toNat < 16)) false 31 0 [1]) ∧
    lab.issues x0 (insTable true (oddReg 30) 31 0 (pairRegs 30)) ∧ lab.reaches 0 1 4 4 true false := by
  unfold State.reaches; decide +kernel
theorem witness_SystemRegionAccessesGoToLedger :
    (let s : State := { lab.setWords [(tSeg 0 1 4, 0x1000)] with
       ledgerQ := [⟨.access .posted, 0, 0x100000000000, 4, none, none, 0, false⟩] }
     let m : MemOp := ⟨31, 0, 1, 4, false, false⟩
     (s.desc 0 1).base + 4 = 0x100000000004 ∧ s.det 0 = false ∧ s.ledgerQ ≠ [] ∧ (s.thread 0).stores = [] ∧ s.bit (fSysCache 0) = false ∧
       s.bit (fFlushBusy 0) = false ∧ s.reaches 0 1 4 4 true false ∧ s.reaches 0 1 4 4 false true ∧
       s.issuesAlone x0 (s.insLoad 0 m 4) ∧
       s.issuesAlone x0 { odd := false, reads := m.a :: memRegs m.d 4, access := true }) := by
  unfold State.reaches; decide +kernel
theorem witness_MessagesAreSentAndReceived :
    lab.issuesAlone x0 { odd := oddReg 30, writes := pairRegs 30, wrFlags := true, pairOk := false, via := true } ∧
    (let s := (labT (fun t => { t with inbox := [5], waiting := some (.recv 30) })).put [(fState 0, stWait)]
     let u := s.thread 0
     u.inbox = [5] ∧ u.waiting = some (.recv 30) ∧ oddReg 30 = false ∧ u.twin = none ∧
       u.delayed = [] ∧ u.stopReq = false ∧ s.mayComplete 0 = true) := by decide +kernel
/-- SEND to the own core, another core, and another die; the word's destination is bits [10:0]. -/
theorem witness_MessagesAreSentAndReceived_send :
    (let ins (long : Bool) : Ins :=
      { odd := oddReg 30, reads := 2 :: pairRegs 30, writes := [31], pairOk := false, long := long }
     lab.issuesAlone x0 (ins false) ∧ lab.issuesAlone x0 (ins true)) ∧
    (bitsOf (63 : Word) 10 0).toNat / 64 = 0 ∧ (bitsOf (0x7FF : Word) 10 0).toNat / 64 = 31 ∧
    lab.memberOk 0 63 = true ∧ lab.fld (fRoleGen 63) = bitsOf 0 27 16 ∧ lab.fld (fRoleGen 63) ≠ bitsOf 0x10000 27 16 ∧
    (0x2000 : Word).getLsbD 13 = true ∧ (bitsOf (0x3800 : Word) 12 11).toNat ≠ lab.selfDie ∧ lab.route 3 = none ∧
    (({ lab with routes := [(3, 1)] } : State).route 3 = some 0) ∧
    (({ lab with routes := [(3, 1)] } : State).link 0).messages < 16 ∧
    16 ≤ (({ lab with links := [(0, { wait := List.replicate 16 (.message 0 0) })] } : State).link 0).messages := by
  decide +kernel
theorem witness_MessagesAreSentAndReceived_accept :
    (let m : Nat × Nat × Word × BitVec 64 := (0, 7, 0x7FF, 1)
     let s : State := { lab with msgs := [(0, 6, 0, 2), m], msgTurn := [(31, 30)] }
     let sends (q : GT) : Bool := s.msgs.any (fun m => m.1 == q.val && decide ((bitsOf m.2.2.1 10 0).toNat / 64 = 31))
     let turn (j : Nat) : Nat := (Map.get 31 s.msgTurn 31 + 1 + j) % 32
     turn 0 = 31 ∧ turn 1 = 0 ∧ (∀ q ∈ [(0 : GT), 64], sends q = true → q.val / 64 ≠ turn 0) ∧
       ([(0 : GT), 64].find? (fun q => sends q && decide (q.val / 64 = turn 1)) = some 0) ∧
       s.msgs.find? (fun m => m.1 == 0 && decide ((bitsOf m.2.2.1 10 0).toNat / 64 = 31)) = some m ∧
       s.corePresent 31 = true ∧
       s.memberOk 0 2047 = true ∧ s.fld (fRoleGen 2047) = bitsOf m.2.2.1 27 16 ∧ (s.thread 2047).inbox.length < 8 ∧
       8 ≤ ((s.modThread 2047 (fun t => { t with inbox := List.replicate 8 0 })).thread 2047).inbox.length ∧
       (s.put [(fRoleGen 2047, 1)]).fld (fRoleGen 2047) ≠ bitsOf m.2.2.1 27 16 ∧
       (s.setReg 0x10000310 1).corePresent 31 = false) := by decide +kernel
/-! ## Witnesses: core control and the register fabric -/

theorem witness_ThreadCommands : lab.corePresent 0 = true ∧
    (let s := lab.put [(fState 0, stIdle)]
     s.fld (fState 0) = stIdle ∧ s.ownerFree 0 = false ∧ s.fld fMode ≠ modeStart) ∧
    ¬ (lab.fld (fState 0) = stIdle) ∧
    (let u := lab.thread 0
     lab.fld (fState 0) = stReady ∧ u.boundary = true ∧ u.longDone = true ∧ u.stopReq = false ∧ u.raised = none ∧
       u.twinStop = none ∧ u.late = [] ∧ u.broke = none ∧ u.freezeReq = false ∧ u.haltReq = none ∧ u.twin = none) ∧
    (let s := (labT (fun t => { t with late := [(7, precise 9 0)] })).put [(fState 0, stHalted)]
     (s.thread 0).late = [(7, precise 9 0)] ∧ (s.thread 0).twin = none ∧ (s.thread 0).boundary = true ∧
       s.fld (fState 0) = stHalted) ∧
    ((labT (fun t => { t with inDelay := true })).thread 0).boundary = false ∧
    (lab.put [(fState 0, stFrozen)]).fld (fState 0) = stFrozen ∧
    (lab.put [(fState 0, stHalted)]).fld (fState 0) = stHalted ∧ lab.fld (fState 0) ≠ stIdle ∧
    lab.fld (fState 0) ≠ stFrozen := by decide +kernel
theorem witness_SlotTablesAndInstructionCache_slots :
    (let own := ownedSlots (lab.pendingTable 0)
     (∀ p ∈ own, (own.filter (fun q => q.2 == p.2)).length ≤ 16 ∧
       ∀ q ∈ own, q.1 ≠ p.1 → q.2 = p.2 → 4 ≤ slotDistance p.1 q.1)) ∧
    lab.owner (ownThread 0) = none ∧
    (let s := (lab.setPend (slotTable 0 0) 0x80000000).setPend (slotTable 0 1) 0x80000000
     let own := ownedSlots (s.pendingTable 0)
     ¬ (∀ p ∈ own, (own.filter (fun q => q.2 == p.2)).length ≤ 16 ∧
       ∀ q ∈ own, q.1 ≠ p.1 → q.2 = p.2 → 4 ≤ slotDistance p.1 q.1)) ∧
    lab.bit (fSlotPending 0) = false ∧ (lab.put [(fSlotPending 0, 1)]).bit (fSlotPending 0) = true ∧
    (∀ k < 64, ((lab.put [(fSlotPending 0, 1)]).thread (64 * 0 + k)).stopReq = false) := by decide +kernel
theorem witness_SlotTablesAndInstructionCache_cache :
    (let s := labT (fun t => { t with lineBuf := [] })
     let u := s.thread 0
     (lab.fld (fLockWays 0)).getLsbD 3 = false ∧ u.fetching = none ∧ lab.fld (fState 0) = stReady ∧ lab.det 0 = false ∧
       u.raised = none ∧ lab.checkAccess 0 7 .fetch u.pc.toNat 4 = .ok 0 ∧ lineOf (underlying 0) = 0 ∧
       s.lineHit 0 0 = false ∧ lab.drainingAt 0 = false ∧ farAt 0 = false) ∧
    (let s : State := { lab.setWords [(tSeg 0 7 4, 0x1000)] with
       ledgerQ := [⟨.access .posted, 0, 0x100000000000, 4, none, none, 0, false⟩] }
     s.checkAccess 0 7 .fetch 0 4 = .ok 0x100000000000 ∧ lineOf (underlying 0x100000000000) = 0x4000000000 ∧
       s.lineHit 0 0x4000000000 = false ∧ s.drainingAt 0x100000000000 = false ∧ s.ledgerQ ≠ []) ∧
    (let u := (labT (fun t => { t with fetching := some (0x4000000000, 7), fetched := some 1 })).thread 0
     u.fetching = some (0x4000000000, 7) ∧ u.fetched = some 1) ∧
    (let s := labT (fun t => { t with pc := 0x20, npc := 0x24, lineBuf := [0, 1] })
     s.issues x0 {} ∧ s.det 0 = false ∧ s.checkAccess 0 7 .fetch 0x20 4 = .ok 0x20 ∧ lineOf (underlying 0x20) = 0) := by decide +kernel
theorem witness_RegisterAndDescriptorWrites_descriptors :
    (let s := (lab.put [(fState 0, stHalted)]).setWords [(tSeg 0 15 8, 0xFFFFFFFF), (tSeg 0 15 0xC, 0xF)]
     s.fld (fState 0) = stHalted ∧ (1 : Word) ≠ s.reg (tSeg 0 7 0) ∧ (0 : Word) = s.reg (tSeg 0 7 0) ∧
       (let d : Desc := { s.desc 0 7 with rights := 1 }
        let c := s.desc 0 15
        d.base + d.limit < 2 ^ 48 ∧ c.valid = true ∧ c.base ≤ d.base ∧ d.base + d.limit ≤ c.base + c.limit ∧
          (d.r = true → c.r = true) ∧ (c.lead = true → d.lead = true)) ∧
       ({ s.desc 0 7 with rights := 1 } : Desc).base + ({ s.desc 0 7 with rights := 1 } : Desc).limit < 2 ^ 48) ∧
    (lab.desc 0 15).valid = false ∧ lab.fld (fState 0) = stReady ∧
    (let u := ((lab.put [(fState 0, stHalted)]).setWords [(tSeg 0 15 4, 0xFFFF), (tSeg 0 15 0, 0xFFFFFFFF),
        (tSeg 0 15 8, 1)]).setReg (tSeg 0 15 0xC) 1
     2 ^ 48 ≤ (u.desc 0 15).base + (u.desc 0 15).limit ∧ (u.desc 0 7).valid = true ∧
       (u.desc 0 7).within (u.desc 0 15) = false) := by decide +kernel
theorem witness_RegisterAndDescriptorWrites_registers : lab.bayPresent 31 = true ∧
    lab.fld (fSeqState 31 7) = sqStopped ∧ (lab.put [(fSeqState 31 7, sqRunning)]).fld (fSeqState 31 7) = sqRunning ∧
    (1 : Word) ≠ lab.reg (seqReg 31 7 0x14) ∧ lab.timerPresent 31 = true ∧ lab.powered 44 = true ∧
    (lab.setReg 0x10000314 1).bayPresent 31 = false ∧ blockOf 0xFFFFFFFFFFFF = none ∧ 1 % 4 ≠ 0 := by decide +kernel
theorem witness_CrossingsAndSynchronisersDeliver :
    (let q : Crossing := .toBay 0
     let s (it : XItem) : State := { lab with xq := [(q, it)] }
     (∀ it ∈ [XItem.edge 0 0x3FFFFFF 31 3, .data .posted [1], .write .manager (bayReg 0 0x114) 1 none .posted,
         .read .manager (bayReg 0 0x114) false (.host 0)],
       (s it).xq.find? (fun p => p.1 == q) = some (q, it)) ∧ lab.mode.clocks = [] ∧
       blockOf (bayReg 0 0x114) = some (.bay 0)) ∧
    (let it : XItem := .write .manager (bayReg 24 0x310) 1 none .posted
     ({ lab with xq := [(.epoch 3, it)] } : State).xq.find? (fun p => p.1 == Crossing.epoch 3) = some (.epoch 3, it)) ∧
    (let e : LEntry := ⟨.access (.host 3), 0, 0x100000000040, 4, none, some (5, 1), 0, false⟩
     let s : State := { lab with ledger := [(16383, some e)], xq := [(.toSip 1, .sip 16383)] }
     s.xq.find? (fun p => p.1 == Crossing.toSip 1) = some (.toSip 1, .sip 16383) ∧
       Map.get none ((s.xqTime (.toSip 1) 0).ledger) 16383 = some e) ∧
    (let it : BrItem := .message 1 2
     let s := lab.modLink 3 (fun l => { l with wait := [it] })
     (s.link 3).out.length < 204 ∧ (s.link 3).wait.find? (fun i => i.cls == it.cls) = some it ∧
       (∀ i ∈ (s.link 3).wait, it.cls ≤ i.cls) ∧ s.mode.clocks = []) ∧
    ({ lab with mode := { lab.mode with clocks := [(0, 400)] } } : State).mode.clocks ≠ [] ∧
    (let s : State := { lab with toggles := [(2 * 0x1FFF + 1, 8)] }
     Map.get 0 s.toggles (2 * 0x1FFF + 1) = 7 + 1 ∧ 7 < 8) := by decide +kernel
/-! ## Witnesses: lanes, sequencers, timers and events -/

theorem witness_StagingAndEdgeQueues_txw :
    lab.bayPresent 0 = true ∧ (lab.credit (txKey 0 7)).1 < 2 ∧ 2 ≤ ((lab.setCredit (txKey 0 7) 2 0).credit (txKey 0 7)).1 ∧
    (64 : GT).val / 64 ≠ 0 ∧ (lab.seq 0 7).rx = [] ∧ ((lab.modSeq 0 7 (fun x => { x with rx := [5, 6] })).seq 0 7).rx = [5, 6] ∧
    0 < ((lab.setCredit (edgeKey 31) 16 16).credit (edgeKey 31)).2 := by decide +kernel
theorem witness_StagingAndEdgeQueues_edge :
    lab.issuesAlone x0 { reads := [31], access := true } ∧ (lab.desc 0 1).base ≤ bayReg 0 0 ∧
    bayReg 0 0 - (lab.desc 0 1).base < 2 ^ 32 ∧ lab.reaches 0 1 (bayReg 0 0 - (lab.desc 0 1).base) 4 false true ∧
    (lab.credit (edgeKey 0)).1 < 16 ∧ 16 ≤ ((lab.setCredit (edgeKey 0) 16 0).credit (edgeKey 0)).1 := by
  unfold State.reaches; decide +kernel
theorem witness_StagingAndEdgeQueues_entries :
    (let e : EdgeE := ⟨31, 3, 4 * 0x800001, false⟩
     let s : State := lab.setEdgeQ 0 [⟨0, 0, 7, true⟩, e]
     s.bayPresent 0 = true ∧ s.bayHeld 0 = false ∧ (s.edgeQ 0)[1]? = some e ∧ e.checked = false ∧
       2 ^ 23 ≤ ptDistance (e.time / 4) 0 ∧ ¬ 2 ^ 23 ≤ ptDistance (e.time / 4) 1 ∧
       (∀ j < 1, ∀ p, (s.edgeQ 0)[j]? = some p → p.checked = true)) := by
  refine ⟨by decide +kernel, by decide +kernel, by decide +kernel, by decide +kernel, by decide +kernel,
    by decide +kernel, ?_⟩
  intro j hj p hp
  obtain rfl : j = 0 := by omega
  injection hp with hp
  rw [← hp]
theorem witness_SequencerAndBayCommands : lab.bayPresent 31 = true ∧ lab.fld (fSeqState 31 7) = sqStopped ∧
    lab.fld fMode ≠ modeStart ∧ (lab.put [(fSeqState 31 7, sqFaulted)]).fld (fSeqState 31 7) = sqFaulted ∧
    (let s := (lab.put [(fSeqState 0 0, sqRunning)]).setReg (seqReg 0 0 8) 0x3F00
     (∃ k < 8, s.inRange 0 k 63 = true ∧ s.fld (fSeqState 0 k) ≠ sqStopped ∧ s.fld (fSeqState 0 k) ≠ sqFaulted)) ∧
    (¬ ∃ k < 8, lab.inRange 0 k 63 = true ∧ lab.fld (fSeqState 0 k) ≠ sqStopped ∧
      lab.fld (fSeqState 0 k) ≠ sqFaulted) ∧
    Map.get 0 ({ lab with held := [(selSeq 31 7 1, 9)] } : State).held (selSeq 31 7 1) ≠ 0 ∧
    Map.get 0 ({ lab with latched := [(selSeq 31 7 1, 1)] } : State).latched (selSeq 31 7 1) ≠ 0 := by decide +kernel
/-- Sequencer 0 of bay 0 runs with one word at PC 0. -/
def labS (w : Word) : State := (lab.put [(fSeqState 0 0, sqRunning)]).setReg (bayReg 0 0) w
theorem witness_SequencerInstructions : lab.bayPresent 0 = true ∧
    (∀ i < 10, (bitsOf ((labS (BitVec.ofNat 32 (i * 4096))).seqWord 0 0) 15 12).toNat = i) ∧
    9 < (bitsOf ((labS 0xF000).seqWord 0 0) 15 12).toNat ∧ (labS 0).fld (fSeqState 0 0) = sqRunning ∧
    ((labS 0).put [(fSeqState 0 0, sqWaiting)]).fld (fSeqState 0 0) = sqWaiting ∧
    ((labS 0).put [(fSeqState 0 0, sqStalled)]).fld (fSeqState 0 0) = sqStalled ∧
    ptDistance 0x800001 0 = 2 ^ 23 ∧ ptDistance 1 0 = 0 := by decide +kernel
theorem witness_LaneInputsAndLatches : lab.lanePresent 31 = true ∧ (lab.lane 31).pad ≠ true ∧ (lab.lane 31).pad = false ∧
    lab.filtLen 31 = 0 ∧ lab.bit (fFast 31) = false ∧
    (let s := lab.put [(⟨laneReg 31 4, 7, 0⟩, 0x43)]
     s.filtLen 31 ≠ 0 ∧ (s.lane 31).filtFrom = none) ∧ lab.powered 44 = true ∧ lab.timerPresent 31 = true ∧ lab.timerPresent 1023 = false ∧ lab.pairPresent .tbNow = true ∧
    lab.linkedEven 30 = false ∧ (lab.put [(fLink 30, 1)]).linkedEven 30 = true ∧ (lab.tmr 31).caps = [] ∧
    ((lab.modTmr 31 (fun x => { x with caps := [(1, 2)] })).tmr 31).caps = [(1, 2)] := by decide +kernel
theorem witness_TimebaseAnchorsAndStarts : lab.powered 44 = true ∧ lab.following = false ∧
    (let s := (lab.put [(fFollow 0, 1)]).setPend (tbReg 0x2C) 1
     s.following = true ∧ s.pendReg (tbReg 0x2C) ≠ 0) ∧
    (let s := ({ lab with ppsEdge := true } : State).put [(⟨tbReg 0x50, 0, 0⟩, 1)]
     s.ppsEdge = true ∧ s.bit ⟨tbReg 0x50, 0, 0⟩ = true) ∧
    (let s := (lab.setReg (bayReg 24 0xF00) 0x10A).setReg (tbReg 0x24) 4
     s.quadPresent 3 = true ∧ (s.reg (bayReg 24 0xF00)).getLsbD 8 = true ∧
       ((s.tclk 256).tbPast.take 2).map (fun p => p.1 / 2 ^ 32 / 2 ^ 10) = [1, 0] ∧
       ((s.tclk 256).tbPast.take 2).map (fun p => p.2) = [0, 0] ∧
       Map.get 0 s.anchored 3 ≠ (s.tclk 256).tcycle + 1) ∧
    lab.fld fMode ≠ modeStart ∧ (lab.put [(fArm 1023, 1)]).bit (fArm 1023) = true ∧ lab.linkedOdd 1023 = false ∧
    (lab.put [(fGoAtEn, 1)]).bit fGoAtEn = true ∧ lab.goAt ≤ lab.tbAfter 0 / 2 ^ 32 ∧
    ({ lab with goLate := true } : State).goLate = true := by decide +kernel
theorem witness_TimersCountAndCapture_commands : lab.timerPresent 31 = true ∧ lab.linkedOdd 31 = false ∧
    lab.bit (fRunning 31) = false ∧ lab.fld fMode ≠ modeStart ∧
    (lab.put [(fLink 30, 1)]).linkedOdd 31 = true ∧ (lab.put [(fLink 30, 1)]).linkedEven 30 = true ∧
    (lab.put [(fRunning 31, 1)]).bit (fRunning 31) = true := by decide +kernel
theorem witness_TimersCountAndCapture_inputs :
    (let s := lab.put [(fRunning 31, 1)]
     s.bit (fRunning 31) = true ∧ s.fld ⟨tmrReg 31 0, 1, 0⟩ = 0 ∧ s.linkedOdd 31 = false ∧ s.tmrCount 31 = 0 ∧
       s.tickWaits 31 = false ∧ (s.setReg (tmrReg 31 0x18) 2).tmrCount 31 = 2) ∧
    (let s := ({ lab with held := [(selTimer 31 0, 1)] } : State).put [(fRunning 31, 1), (⟨tmrReg 31 0, 1, 0⟩, 1)]
     Map.get 0 s.held (selTimer 31 0) ≠ 0 ∧ s.fld ⟨tmrReg 31 0, 1, 0⟩ = 1 ∧ s.bit (fRunning 31) = true ∧
       s.fld ⟨tmrReg 31 0, 16, 9⟩ = 0) ∧
    (let s := (lab.put [(⟨tmrReg 31 0, 20, 19⟩, 1)])
     s.fld ⟨tmrReg 31 0, 20, 19⟩ = 1 ∧ (s.tmr 31).caps.length < 4 ∧ (s.tmr 31).capEdge = none) ∧
    Map.get 0 ({ lab with held := [(selTimer 31 1, 1)] } : State).held (selTimer 31 1) ≠ 0 ∧
    4 ≤ ((lab.modTmr 31 (fun x => { x with caps := List.replicate 4 (0, 0) })).tmr 31).caps.length ∧
    ((lab.modTmr 31 (fun x => { x with capEdge := some (some true) })).tmr 31).capEdge = some (some true) ∧
    2 ≤ ((lab.put [(⟨tmrReg 31 0, 20, 19⟩, 3)]).fld ⟨tmrReg 31 0, 20, 19⟩).toNat ∧
    (let s := (lab.put [(fRunning 31, 1), (⟨tmrReg 31 0, 1, 0⟩, 3), (⟨tmrReg 31 0, 16, 9⟩, 1)]).modTmr 31
        (fun x => { x with cntEdge := true })
     (s.tmr 31).cntEdge = true ∧ 2 ≤ (s.fld ⟨tmrReg 31 0, 1, 0⟩).toNat ∧ s.linkedOdd 31 = false ∧
       (s.tmr 31).presc + 1 ≤ (s.fld ⟨tmrReg 31 0, 16, 9⟩).toNat) := by decide +kernel
theorem witness_EventsReachInputs_selects : lab.inputPresent 0 = true ∧ lab.inputPresent (selTimer 31 1) = true ∧
    lab.inputPresent 11519 = true ∧ lab.inputPresent 11775 = true ∧ lab.inputPresent (selTimer 1023 1) = false ∧
    bitsOf (0x17AC : Word) 15 0 ≠ lab.fld ⟨selAddr 0, 15, 0⟩ ∧
    lab.signalPresent 0x17A2 (0 == 1) = true ∧ hasSignal 0x17A2 0 = true ∧ hasSignal 0x17FF 0 = false := by
  decide +kernel
theorem witness_EventsReachInputs_events :
    (let e : Routed := .event 0x17A2 true 7 [(8191, none)]
     let s : State := { lab with routed := [e] }
     s.routed.find? (fun r => match r with
       | .event p b' _ _ => decide ((0x17A2 : BitVec 13).toNat = p) && true == b'
       | _ => false) = some e ∧ s.inputPresent 8191 = true ∧ s.vecStale none = false) ∧
    (let s : State := { lab with routed := [.force 8191 3 none] }
     s.routed.find? (fun r => match r with
       | .force y _ _ => decide (8191 = y)
       | _ => false) = some (.force 8191 3 none)) ∧
    lab.vecResetting 11008 = false ∧
    ((labV vcResetting).setWords [(0x10D00000 + (ownVec 5) / 4 * 4, 0xBF00)]).vecResetting (11008 + 5) = true ∧
    lab.inputPresent 10240 = true ∧ lab.inputPresent 10751 = true ∧ lab.inputPresent 11008 = true ∧
    lab.inputPresent 8192 = true ∧ lab.inputPresent 10752 = true ∧ lab.vecStale (some (5, 1)) = true ∧
    ({ lab with routes := [(3, 1)] } : State).route 3 = some 0 ∧ lab.route 3 = none := by decide +kernel
theorem witness_EventsReachInputs_levels :
    (let s := lab.setWords [(selAddr 0, 0xC000), (selAddr 10240, 0xE000), (selAddr 11519, 0xE000), (selAddr 11775, 0xE000)]
     (s.reg (selAddr 0)).getLsbD 15 = true ∧ (s.reg (selAddr 0)).getLsbD 14 = true ∧
       (s.portLevel 0 != (s.reg (selAddr 0)).getLsbD 13) = false ∧
       (s.portLevel 0 != (s.reg (selAddr 10240)).getLsbD 13) = true ∧
       (s.portLevel 0 != (s.reg (selAddr 11775)).getLsbD 13) = true ∧ Map.get false s.outLevels 255 = false) := by
  decide +kernel

/-! ## Witnesses: bins, granary and coherence -/

/-- Bank 0 of no owner, in a power state. -/
def bankAt (ps power : Word) : State := lab.put [(fOwnerKind 0, 0), (fPstate 0, ps), (fPower 0, power)]
theorem witness_BanksChangeOwnerAndPower :
    lab.powered 44 = true ∧ lab.bankPresent 0 = true ∧ lab.fld (fOwnerKind 0) = 1 ∧ (lab.put [(fPstate 0, psOn)]).fld (fPstate 0) = psOn ∧
    (lab.setReg 0x10000318 0x700).enginePresent 3 = false ∧
    (lab.put [(fDraining 0, 1)]).bit (fDraining 0) = true ∧ (lab.put [(fDraining 0, 1)]).drained 0 = true ∧
    (2 : Word) ≠ (bankAt psOn psOn).fld (fPower 0) ∧ (bankAt psOn psOn).fld (fOwnerKind 0) = 0 ∧
    (bankAt psEntering psRetention).fld (fPower 0) ≠ psOff ∧ (bankAt psEntering psOff).fld (fPower 0) = psOff ∧
    (let s := bankAt psWaking psOn
     s.fld (fPstate 0) = psWaking ∧ 0 ∈ s.offBanks ∧ 0 ∉ ({ s with offBanks := [] } : State).offBanks ∧
       ¬ (s.bit (fClearOnWake 0) = true ∨ s.fld fLc = lcField) ∧
       (s.put [(fClearOnWake 0, 1)]).bit (fClearOnWake 0) = true) ∧
    (bankAt psClearing psOn).fld (fPstate 0) = psClearing ∧ bankOf 0x1000000 = some 128 ∧
    (let s : State := { lab with dir := [(0x40000, some ⟨[31, 32], true, none, 0⟩)] }
     isGwLine 0x40000 = false ∧ bankOf (0x40000 * 64) = some 128 ∧ s.fld (fOwnerKind 128) = 1 ∧ s.homeQ = [] ∧
       s.march = none) := by decide +kernel
theorem witness_MarchAndLoft :
    (let s := (lab.put [(fOwnerKind 1, 4), (fPstate 1, psOn)]).setReg (marchReg 0) 0x10006
     s.bit fMarchBusy = false ∧ (bitsOf (s.reg (marchReg 0)) 24 16).toNat = 1 ∧ s.fld (fOwnerKind 1) = 4 ∧
       s.fld (fPstate 1) = psOn ∧ s.bankPresent 1 = true ∧
       (got (exec (.marchGo .manager) s)).march = some (1, true, true)) ∧
    lab.fld (fOwnerKind 0) ≠ 4 ∧
    (let s : State := { lab with march := some (319, false, false) }
     s.march = some (319, false, false) ∧ s.bit (fDraining 319) = false ∧
       (s.put [(fDraining 319, 1)]).bit (fDraining 319) = true ∧
     [((5 : BitVec 11), (3 : BitVec 9))].filter (fun f => decide (f.1.toNat < bankSize 319 / 64)) ≠ []) ∧
    lab.bit fLoftBusy = false ∧ lab.bit (fRecSecret 2047) = false ∧
    (lab.put [(fRecSecret 2047, 1)]).bit (fRecSecret 2047) = true ∧
    (let s : State := { lab with store := some (2047, true, 5) }
     s.store = some (2047, true, 5) ∧ s.start.digest = [] ∧
       ({ s with start := { digest := [1] } } : State).start.digest ≠ []) := by decide +kernel
/-- The first line of the granary, in bank 128, with a directory entry and one message under way. -/
def gLine : Nat := 0x40000
def labH (ms : List CohMsg) (e : Option DEntry) : State :=
  { lab with coh := ms, dir := if e = none then [] else [(gLine, e)] }
def gMsg (k : CohKind) (c : Nat) : CohMsg := ⟨k, c, gLine, 0⟩
theorem witness_HomesTakeRequests : isGwLine gLine = false ∧
    (∀ k ∈ [CohKind.rdShared, .rdUnique, .upgrade],
      (labH [gMsg k 31] none).homeOpen gLine = some true ∧
      (labH [gMsg k 31] none).takeMsg k 31 gLine = some (gMsg k 31, labH [] none)) ∧
    (labH [] none).takeMsg .rdShared 32 gLine = none ∧ isGranaryLine gLine = true ∧ lab.reqQueued 32 < 8 ∧
    (labH [] none).dentry gLine = none ∧
    ((labH [] none).setEntries (setOf gLine)).length < 8 ∧ (labH [] none).promises = [] ∧ (labH [] none).homeQ = [] ∧
    lab.wayAwaited gLine = false ∧ lab.leaving = [] ∧ lab.mode.goal = none ∧
    (∀ e ∈ [(⟨[31], true, none, 0⟩ : DEntry), ⟨[31, 0], false, none, 0⟩, ⟨[0], true, none, 0⟩,
      ⟨[0], true, some { kind := .unique, req := 0, fill := true }, 0⟩], (labH [] (some e)).dentry gLine = some e) := by
  decide +kernel
/-- A directory set whose eight ways hold other lines. -/
def labFull (x : Option Txn) : State :=
  { lab with dir := (List.range 8).map (fun i => (gLine + 256 * (i + 1), some ⟨[3], true, x, 0⟩)) }
theorem witness_HomesTakeRequests_full :
    (labFull none).dentry gLine = none ∧ 8 ≤ ((labFull none).setEntries (setOf gLine)).length ∧
    (labFull none).lruVictim (setOf gLine) = some (gLine + 256, ⟨[3], true, none, 0⟩) ∧
    8 ≤ ((labFull (some { kind := .unique, fill := true })).setEntries (setOf gLine)).length ∧
    (labFull (some { kind := .unique, fill := true })).lruVictim (setOf gLine) = none ∧
    isGwLine 0x4000000000 = true ∧ lab.homeOpen 0x4000000000 = some true ∧ lab.wayAwaited 0x4000000000 = false ∧
    ({ lab with coh := [⟨.rdUnique, 31, 0x4000000000, 0⟩] } : State).takeMsg .rdUnique 31 0x4000000000 =
      some (⟨.rdUnique, 31, 0x4000000000, 0⟩, lab) := by decide +kernel
/-- An open transaction that waits for the answer of these holders. -/
def txn (k : TxnKind) (wait : List Nat) : Txn := { kind := k, req := 3, wait := wait }
def opened (k : TxnKind) (wait : List Nat) : DEntry := ⟨wait, true, some (txn k wait), 0⟩
theorem witness_HomesTakeAnswers : isGwLine gLine = false ∧ lab.homeQ = [] ∧ lab.promises = [] ∧ lab.leaving = [] ∧
    lab.mode.goal = none ∧ (txn .shared [31]).fetch = false ∧ (txn .shared [31]).snoop = none ∧
    ({ txn .unique [31] with invWb := [31] } : Txn).invWb = [31] ∧
    (labH [] (some (opened .shared [32]))).takeMsg .ackShared 32 gLine = none ∧
    (labH [] (some (opened .shared [32]))).hostSnooped gLine = true ∧
    (∀ k ∈ [TxnKind.shared, .unique, .upgrade, .access], ∀ w ∈ [[31], [31, 4]],
      (labH [] (some (opened k w))).dentry gLine = some (opened k w) ∧ (31 ∈ (txn k w).wait) ∧ (txn k w).fill = false) ∧
    (∀ k ∈ [CohKind.ackShared, .ackInv, .snpDataS, .snpDataI, .invWb, .wbData, .evictClean, .compAck],
      (labH [gMsg k 31] (some ⟨[31], true, none, 0⟩)).takeMsg k 31 gLine =
        some (gMsg k 31, labH [] (some ⟨[31], true, none, 0⟩))) ∧
    ({ txn .access [31] with acc := some ⟨.host 5, 0x1000000, .read 4⟩ } : Txn).inv = false ∧
    ({ txn .unique [31] with wbGot := [31] } : Txn).wbGot = [31] ∧
    ([31, 4] : List Nat).filter (fun h => h != 31) ≠ [] ∧ ([31] : List Nat).filter (fun h => h != 31) = [] := by
  decide +kernel
/-- The line in core 0's data cache. -/
def labC (k : CohKind) (y : Option CLine) : State :=
  { lab with coh := [gMsg k 0], caches := if y = none then [] else [(cacheKey 0 gLine, y)] }
theorem witness_DataCachesAnswer_messages :
    (∀ k ∈ [CohKind.snpShared, .snpInv, .fillS, .fillE, .grantE, .wbAck, .retry, .proceed],
      ∀ y ∈ [none, some (⟨1, 0, false⟩ : CLine), some ⟨2, 0, false⟩, some ⟨3, 7, false⟩, some ⟨3, 7, true⟩],
      (labC k y).coh = [gMsg k 0] ∧ ((labC k y).takeMsg k 0 gLine).isSome = true ∧ (labC k y).cline 0 gLine = y) := by
  decide +kernel
theorem witness_DataCachesAnswer_flushes :
    (labC .fillS none).dwait = [] ∧ Map.get {} (labC .fillS none).flush 0 = {} ∧
    (labC .fillS none).bit (fFlushBusy 0) = false ∧
    (let a : MemAcc := ⟨.host 4, 0x1000010, .read 4⟩
     lineOf a.addr = gLine ∧ ({ labC .fillS none with dwait := [(0, a)] } : State).dwait = [(0, a)]) ∧
    (let s : State := ({ labC .wbAck none with flush := [(0, ⟨64, 64, [gLine], true⟩)] } : State).put [(fFlushBusy 0, 1)]
     s.flushS 0 = ⟨64, 64, [gLine], true⟩ ∧ s.bit (fFlushBusy 0) = true) ∧
    ({ lab with creq := [(0, gLine, .rdShared)] } : State).creq.find? (fun r => r.1 == 0 && r.2.1 == gLine) =
      some (0, gLine, .rdShared) ∧
    lab.corePresent 0 = true ∧ (lab.put [(fFlushBusy 0, 1)]).bit (fFlushBusy 0) = true ∧
    (lab.put [(fDcEnable 0, 1)]).bit (fDcEnable 0) = true ∧ (lab.put [(fSysCache 0, 1)]).bit (fSysCache 0) = true ∧
    (lab.put [(fDcEnable 0, 0)]).bit (fDcEnable 0) = false ∧ lab.bit (fSysCache 0) = false ∧ lab.linesOf 0 = [] ∧
    (∀ y ∈ [(⟨3, 7, false⟩ : CLine), ⟨2, 0, false⟩], (labC .retry (some y)).linesOf 0 = [(gLine, y)] ∧
      (labC .retry (some y)).cline 0 gLine = some y ∧ (labC .retry (some y)).requested 0 gLine = false) ∧
    isGwLine gLine = false ∧ isGwLine 0x4000000000 = true := by decide +kernel
/-- A ledger entry for core 0, for a complex or for none. -/
def lEnt (vc : Option (Nat × Nat)) (limbo : Bool) : LEntry :=
  ⟨.access (.host 3), 0, 0x800000000000, 4, none, vc, 0, limbo⟩
theorem witness_LedgerWaitsAndFences_ledger :
    (let e := lEnt none false
     let s : State := { lab.setReg 0x106C0008 16 with ledgerQ := [e] }
     s.ledgerQ[0]? = some e ∧ isRemote e.addr = false ∧ s.lineHeld e = false ∧ freeIndex s.ledger 0 < 16384 ∧
       s.sipRoom (sipPort e.addr) = true ∧ s.ledgerQ.take 0 = [] ∧ s.reqTag e.reqr = none ∧
       s.fld fNovcUsed < s.fld ⟨0x106C0008, 13, 0⟩) ∧
    lab.fld ⟨0x106C0008, 13, 0⟩ = 0x3C00 ∧ (lab.setReg 0x106C0008 0).fld ⟨0x106C0008, 13, 0⟩ ≤ lab.fld fNovcUsed ∧
    (let s := (labV vcActive).put [(fQuota 63, 8)]
     s.reqTag 64 = some (63, 0) ∧ (s.fld (fCount 63)).toNat + 1 < (s.fld (fQuota 63)).toNat ∧
       ((s.put [(fCount 63, 7)]).fld (fCount 63)).toNat + 1 = ((s.put [(fCount 63, 7)]).fld (fQuota 63)).toNat ∧
       (s.put [(fCount 63, 8)]).fld (fQuota 63) ≤ (s.put [(fCount 63, 8)]).fld (fCount 63)) ∧
    Map.get none lab.ledger 16383 = none ∧
    (∀ e ∈ [lEnt none false, lEnt none true, lEnt (some (5, 0)) false, lEnt (some (5, 1)) false],
      Map.get none ({ lab with ledger := [(16383, some e)] } : State).ledger 16383 = some e ∧
      ({ lab with ledger := [(16383, some e)] } : State).sipSent 16383 = true ∧
      ({ lab with ledger := [(16383, some e)], xq := [(.toSip 0, .sip 16383)] } : State).sipSent 16383 = false) ∧
    (0 : Nat) = (lab.fld (vcGen 5)).toNat ∧ (1 : Nat) ≠ (lab.fld (vcGen 5)).toNat ∧
    [(1 : Word), 4, 5].map (fun w => (lab.put [(vcState 5, w)]).fld (vcState 5)) = [1, 4, 5] := by decide +kernel
theorem witness_LedgerWaitsAndFences_fence :
    (∀ a ∈ [(⟨.posted, 0x10, .read 4⟩ : MemAcc), ⟨.posted, 0x10, .write [1, 2]⟩],
      ({ lab with portB := [a] } : State).portB[0]? = some a ∧
      ¬ ∃ b ∈ ({ lab with portB := [a] } : State).portB.take 0, a.sameThread b = true) ∧
    lab.powered 44 = true ∧ lab.bit fFenceBusy = false ∧ (lab.put [(fFenceBusy, 1)]).bit fFenceBusy = true ∧
    lab.fence = [] ∧ lab.fenceAcc = [] ∧ lab.fenceReq = [] ∧ lab.dir = [] ∧
    ({ lab with fence := [3] } : State).fence ≠ [] := by
  decide +kernel

/-! ## Witnesses: transfers, buffers and windows -/

theorem witness_ChannelCommandsAndRings_commands : lab.chanPresent 0 = true ∧ lab.enginePresent 0 = true ∧
    lab.fld (fChState 0) = chIdle ∧ lab.unreleased = false ∧ (lab.put [(fMode, modeStart)]).unreleased = true ∧
    dmaOk (lab.reg (chReg 0 8)) (lab.reg (chReg 0 0xC)).toNat (lab.reg64 (chReg 0 0x10)) (lab.reg64 (chReg 0 0x18)) = true ∧
    lab.reg (chReg 0 0xC) = 0 ∧
    (let s := lab.setReg (chReg 0 0xC) 8
     s.reg (chReg 0 0xC) ≠ 0 ∧ dmaOk (s.reg (chReg 0 8)) 8 0 0 = true ∧ s.bit (fRing 0) = false) ∧
    dmaOk 0xC000 8 0 0 = false ∧ (lab.put [(fRing 0, 1)]).bit (fRing 0) = true ∧
    [chActive, chAborting, chReserved].map (fun w => (lab.put [(fChState 0, w)]).fld (fChState 0)) = [1, 2, 3] ∧
    lab.owner (ownChan 0) = none ∧
    (∀ i ∈ [0, 1], Map.get 0 ({ lab with held := [(Machine.selChan 0 i, 8)] } : State).held (Machine.selChan 0 i) ≠ 0) := by
  decide +kernel
/-- Channel 0 ACTIVE or ABORTING on its ring at an address, with its own part. -/
def ringAt (lo hi : Word) (st : Word) (x : ChanS) : State :=
  ((lab.put [(fChState 0, st), (fRing 0, 1)]).setWords [(chReg 0 0x28, lo), (chReg 0 0x2C, hi)]).setChan 0 x
def ringOk (st : Word) (ph : ChanPhase) : Bool :=
  let s := ringAt 0 0x8000 st { phase := ph }
  s.region (s.descAddr 0) == .system && s.region (s.descAddr 0 + 16) == .system && s.owner (ownChan 0) == none &&
    (s.chan 0).phase == ph && s.bit (fRing 0) && s.fld (fChState 0) == st && (s.chan 0).out.isEmpty
/-- The descriptor of a transfer of 8 bytes to 0x100 that the channel owns. -/
def desc8 : List Byte := (toBytes 4 0x80000000) ++ List.replicate 12 0 ++ toBytes 4 0x100 ++ toBytes 4 0 ++ toBytes 4 8 ++
  List.replicate 4 0
theorem witness_ChannelCommandsAndRings_rings :
    ringOk chActive .load = true ∧ ringOk chActive .back = true ∧ ringOk chAborting .load = true ∧
    ringOk chAborting .back = true ∧
    (∀ ans ∈ [none, some none, some (some desc8)], ∀ job ∈ [0, 1, 2],
      ((ringAt 0 0x8000 chActive { phase := .load, out := [⟨job, 0, 0, 32, ans⟩] }).chan 0).out.find?
        (fun r => r.job == job) = some ⟨job, 0, 0, 32, ans⟩) ∧
    (let w (i : Nat) : Word := (wordsOf desc8 8).getD i 0
     (w 0).getLsbD 31 = true ∧ bitsOf (w 0) 28 25 = 0 ∧ dmaOk (w 1) (w 6).toNat 0 (w 4).toNat = true ∧ w 6 ≠ 0 ∧
       (w 4).toNat = 0x100) ∧
    (let s := ringAt 0xFFE0 0 chActive { phase := .back }
     s.descAddr 0 % 32 = 0 ∧ s.descAddr 0 < 0x800000 ∧ s.bankServes (s.descAddr 0 / 0x10000) (.gleaner 0) = true ∧
       s.bit (fDraining (s.descAddr 0 / 0x10000)) = false ∧ s.openSlot 0 = true ∧ (s.chan 0).tail = false ∧ s.homeQ = [] ∧
       s.fld (fChResult 0) ≠ rsDone ∧ (s.put [(fChResult 0, rsDone)]).fld (fChResult 0) = rsDone) := by decide +kernel
/-- Channel 0 moving 64 bytes from one line of bank 0 to another. -/
def labMove (st : Word) : State := (lab.put [(fChState 0, st)]).setChan 0
  { phase := .move, count := 64, src := 0x40, dst := 0xFFC0, hop := 7 }
theorem witness_ChannelsMoveBytes :
    (let s := labMove chActive
     s.chanPresent 0 = true ∧ (s.chan 0).hop < 8 ∧ (s.chan 0).phase = .move ∧ s.bit (fRing 0) = false ∧ s.homeQ = [] ∧
       (s.chan 0).bad = none ∧ (s.chan 0).stage = [] ∧ (s.chan 0).close = 0 ∧ (s.chan 0).out = [] ∧
       s.stagingUsed 0 + 64 ≤ 2048 ∧
       s.fld (fChState 0) = chActive ∧ bitsOf (s.chan 0).cfg 27 14 = 0 ∧ bankOf 0x40 = some 0 ∧ bankOf 0xFFC0 = some 0 ∧
       s.bankServes 0 (.gleaner 0) = true ∧ s.bit (fDraining 0) = false ∧ s.openSlot 0 = true) ∧
    (labMove chAborting).fld (fChState 0) = chAborting ∧ ((labMove chAborting).chan 0).late = false ∧
    (let q : ChanReq := ⟨0, 3, 0x800000000000, 8, some none⟩
     let s := (lab.put [(fChState 0, chActive)]).setChan 0
      { phase := .move, count := 8, src := 0x800000000000, dst := 0x800000001000, out := [q], rd := 8 }
     (s.chan 0).out = [q] ∧ q.ans = some none ∧ q.addr < 2 ^ 48 ∧ cfgSwap (s.chan 0).cfg = 0 ∧
       (∀ p < 8, s.inBanks ((s.chan 0).dstS.at p) = false ∧ inCtl ((s.chan 0).dstS.at p) = false)) ∧
    lab.enginePresent 3 = true ∧ (∀ j < 32, lab.fld (fChState (96 + j)) = chIdle) ∧
    (let s := (lab.put [(fChState 0, chActive)]).setChan 0 { phase := .load }
     (s.chan 0).phase = .load ∧ (∀ j < 32, j ≠ 0 → s.fld (fChState j) = chIdle)) := by decide +kernel
/-- Pool 63 enabled, with 16 blocks of 256 bytes at 0, and the accesses of channel 0 under way. -/
def labP (x : PoolS) : State :=
  ((lab.setWords [(poolReg 63 4, 16)]).put [(fPoolOn 63, 1)]).setPool 63 x
def labPJ (x : PoolS) (q : ChanReq) : State := (labP x).setChan 0 { out := [q] }
theorem witness_PoolsAndSilo_pools : lab.powered 45 = true ∧ lab.bit (fPoolOn 63) = false ∧
    (labP {}).bit (fPoolOn 63) = true ∧ lab.poolMayEnable 63 = false ∧ ((labP {}).pool 63).ops = [] ∧
    ((lab.setWords [(poolReg 63 4, 1)]).put [(fBmValid, 1)]).poolMayEnable 63 = true ∧
    lab.poolLevel 63 = 0 ∧ (labP {}).poolLevel 63 ≠ 0 ∧ ((labP {}).pool 63).cache = [] ∧
    (let s := labP { cache := [0xFC000000] }
     (s.pool 63).cache = [0xFC000000] ∧ s.poolLevel 63 ≠ 0 ∧
       ((s.setReg (poolReg 63 0x20) 16).poolLevel 63 - 1 =
         ((s.setReg (poolReg 63 0x20) 16).fld ⟨poolReg 63 0x20, 25, 0⟩).toNat)) ∧
    (let s := (labP { sp := 16, fresh := 16 }).setReg (poolReg 63 0x14) 0x8000
     16 ≤ (s.pool 63).sp ∧ (s.pool 63).moving = [] ∧ (s.fld fBmChannel).toNat = 0 ∧
       (s.chan 0).out.find? (fun r => r.job == poolRead 63) = none ∧
       s.region (s.reg64 (poolReg 63 0x10) + 4 * ((s.pool 63).sp - 16)) = .system) ∧
    (let q : ChanReq := ⟨poolRead 63, 0, 0, 64, some (some (List.replicate 64 0))⟩
     ((labPJ {} q).chan 0).out.find? (fun r => r.job == poolRead 63) = some q) ∧
    (let q : ChanReq := ⟨poolWrite 63, 0, 0, 64, some (some [])⟩
     ((labPJ { moving := [1] } q).chan 0).out.find? (fun r => r.job == poolWrite 63) = some q) ∧
    (let s := labP { cache := List.replicate 25 1, fresh := 16 }
     24 < (s.pool 63).cache.length ∧ s.reg64 (poolReg 63 0x10) % 64 = 0 ∧ s.bankServes 0 (.gleaner 0) = true ∧
       s.bit (fDraining 0) = false ∧ s.openSlot 0 = true ∧
       (s.setReg (poolReg 63 0x14) 0x8000).region 0x800000000000 = .system) ∧
    (bitsOf (0xFC000003 : Word) 31 26).toNat = 63 ∧
    (let s := labP { cache := [1, 2], fresh := 9 }
     (bitsOf (0xFC000003 : Word) 25 0).toNat < (s.pool 63).fresh ∧ s.poolLevel 63 ≠ s.poolCount 63) ∧
    ¬ ((labP { cache := List.replicate 32 1 }).pool 63).cache.length < 32 := by decide +kernel
/-- The silo on channel 0, with its record ring at an address. -/
def labSilo (x : SiloS) (hi : Word) : State :=
  { (lab.put [(fSiloOn, 1)]).setReg (siloReg 0xC) hi with silo := x }
theorem witness_PoolsAndSilo_silo : lab.bit fSiloOn = false ∧ lab.mayReserve 0 = true ∧
    (lab.put [(fChState 0, chReserved)]).mayReserve 0 = false ∧ (labSilo {} 0).bit fSiloOn = true ∧
    lab.bit fSiloStopped = false ∧ lab.bit fTriggered = false ∧ (lab.put [(fTriggered, 1)]).bit fTriggered = true ∧
    putOk 0x7FFFF8 0x00E00000 = true ∧ putOk 1 0 = false ∧
    (let p : Put := ⟨0x20, 0x00200000, 0, [(5, 6)], 0, 1, false⟩
     let s := labSilo { queue := [p] } 0
     s.silo.queue = [p] ∧ s.bit ⟨siloReg 0, 30, 30⟩ = false ∧ p.addr % 64 + (bitsOf p.hi 23 16).toNat ≤ 64 ∧
       p.after = false ∧ s.silo.writing = [] ∧ (s.chan 0).out = [] ∧
       s.bankServes 0 (.gleaner 0) = true ∧ s.bit (fDraining 0) = false ∧ s.openSlot 0 = true ∧
       s.reg64 (siloReg 8) % 256 = 0 ∧
       (s.put [(⟨siloReg 0, 30, 30⟩, 1)]).bit ⟨siloReg 0, 30, 30⟩ = true ∧
       ((s.setWords [(siloReg 0x10, BitVec.ofNat 32 s.siloRing)]).reg (siloReg 0x10) - s.reg (siloReg 0x14)).toNat = s.siloRing ∧
       (labSilo { queue := [p] } 0x8000).region (2 ^ 32 * 0x8000) = .system) ∧
    (labSilo { writing := [⟨5, 0, [], []⟩] } 0).silo.writing = [⟨5, 0, [], []⟩] := by decide +kernel
/-- The burst buffers of two other contexts hold posted writes. -/
def labBufs : State := (lab.setBulk 1 { posted := [(0, [1])] }).setBulk 2 { posted := [(0, [1])] }
theorem witness_BulkPortBeats :
    lab.bulkBad 64 0xFFF0 16 = none ∧ lab.bulkBad 64 0x5FFFF 1 = some 0x5FFFF ∧ lab.bulks = [] ∧ lab.bulkWait = [] ∧
    ((lab.setBulk 64 { bad := true }).bulk 64).bad = true ∧ (lab.bulk 64).bad = false ∧ (lab.bulk 64).rst = false ∧
    lab.bulkDraining 0xFFF0 16 = false ∧ (lab.put [(fDraining 0, 1)]).bulkDraining 0xFFF0 16 = true ∧
    (∀ acc ∈ [HostAccess.write64 5 6, .writeBytes [1]], (accessForm acc).2 ≠ none) ∧ (accessForm .read64).2 = none ∧
    (labBufs.bulks.filter (fun p => p.1 != 64 && p.2.holds)).length = 2 ∧
    (∀ p ∈ labBufs.bulks, p.2.posted ≠ []) ∧
    lab.bit (fPrefetch 64) = false ∧ (lab.put [(fPrefetch 64, 1)]).bit (fPrefetch 64) = true ∧
    (let s := lab.setBulk 64 { pre := [1, 2, 3, 4, 5, 6, 7, 8] }
     (accessForm .read64).1 ≤ (s.bulk 64).pre.length ∧ (s.bulk 64).preAt = (s.fld (fBulkAddr 64)).toNat) ∧
    (lab.setBulk 64 { posted := [(0x3C, [1, 2, 3, 4])] }).bulk 64 = { posted := [(0x3C, [1, 2, 3, 4])] } ∧
    (lab.bulk 64).posted = [] ∧ (lab.bulk 64).reads = [] := by decide +kernel
theorem witness_WindowsAndMailboxes : lab.powered 44 = true ∧
    (lab.vc 63).select = 1 ∧ lab.fld (fMaxRev 63) ≠ 2 ∧ (lab.put [(fMaxRev 63, 2)]).fld (fMaxRev 63) = 2 ∧
    (let s := ((labV vcActive).modVc 63 (fun y => { y with select := 2 })).setWords
        [(vcwReg 63 0x2000, BitVec.ofNat 32 (tReg 64 0x08))]
     (s.vc 63).select = 2 ∧ s.aptAddr 63 = tReg 64 0x08 ∧ s.owner (ownThread 64) = some 63 ∧ s.corePresent 1 = true ∧
       s.fld (fState 64) = stIdle) ∧
    lab.aptReach 63 (lab.aptAddr 63) = false ∧ (lab.vc 63).fromHost.length < 64 ∧
    (let s := ((labV vcActive).put [(fMbxDestValid 63, 1), (fMbxDest 63, 64)]).modVc 63
        (fun y => { y with fromHost := [9] })
     s.bit (fMbxDestValid 63) = true ∧ (s.fld (fMbxDest 63)).toNat = 64 ∧ s.fld (vcState 63) = vcActive ∧
       (s.thread 64).inbox.length < 8 ∧ (s.vc 63).fromHost = [9]) ∧
    [vcResetting, vcRemoving, vcFrozen, vcFree].map (fun w => (labV w).fld (vcState 63)) = [4, 5, 3, 0] ∧
    64 ≤ ((lab.modVc 63 (fun y => { y with toHost := List.replicate 64 0 })).vc 63).toHost.length ∧
    (let s := ((labV vcActive).put [(fMbxVecValid 63, 1), (fMbxVector 63, 5)]).setWords
        [(0x10D00000 + (ownVec 5) / 4 * 4, 0xBF00)]
     (s.vc 63).toHost = [] ∧ s.bit (fMbxVecValid 63) = true ∧ s.owner (ownVec 5) = some 63) := by decide +kernel

/-! ## Witnesses: virtual complexes, twins and the winnower -/

theorem witness_VirtualComplexCommands :
    isManager (.thread 0) = false ∧ isManager .manager = true ∧ lab.fld (vcState 63) = vcFree ∧
    (let s := lab.put [(vcState 63, vcActive)]
     s.fld (vcState 63) = vcActive ∧ s.vcThreads 63 = [] ∧ s.vcTimers 63 = [] ∧ s.vcBays 63 = [] ∧ s.vcLanes 63 = [] ∧
       s.vcChans 63 = [] ∧ s.vcVecs 63 = [] ∧ s.vcOuts 63 = []) ∧
    (let s := (labV vcFrozen).put [(fState 64, stFrozen)]
     s.fld (vcState 63) = vcFrozen ∧ s.vcThreads 63 = [64] ∧ s.vcTimers 63 = [] ∧ s.vcBays 63 = [] ∧
       s.vcLanes 63 = [] ∧ s.vcChans 63 = [] ∧ s.vcVecs 63 = [] ∧ s.vcOuts 63 = [] ∧ (s.thread 64).stores = [] ∧
       (s.thread 64).delayed = [] ∧ (s.thread 64).twin = none ∧ s.fld (fState 64) ≠ stIdle) ∧
    (let s := (lab.put [(vcState 63, vcActive)]).setWords [(0x10D00000 + ownTimer 0, 0xBF)]
     s.vcThreads 63 = [] ∧ s.vcTimers 63 = [0]) ∧
    lab.quarantine 63 = false ∧ (lab.put [(fOldCount 63, 1), (fOldGen 63, 1)]).quarantine 63 = true ∧
    [vcResetting, vcRemoving].map (fun w => (lab.put [(vcState 63, w)]).fld (vcState 63)) = [4, 5] ∧
    (∀ p < 64, lab.bit (fPoolVcValid p) = false) ∧
    (labV vcRemoving).ownedBy 63 0x2000 0x1A00 = [0x40] ∧
    isOwnByte 0x2040 = true ∧ isBankByte 0x2040 = false ∧ lab.reg 0x10D02040 &&& 0x40404040 = 0 ∧
    bitsOf (0xBF : Word) 31 8 = bitsOf (lab.reg 0x10D02040) 31 8 ∧ (0xBF : Word) &&& 0x40 = 0 ∧
    (0xBF : Word) ≠ lab.ownByte 0x2040 ∧ lab.ownedThere 0x2040 = true ∧ lab.ownedStopped 0x2040 = true ∧
    (lab.ownByte 0x2040).getLsbD 7 = false := by decide +kernel
theorem witness_FreezesAndImages :
    (let s := (labV vcActive).put [(fState 64, stReady)]
     let u := s.thread 64
     s.fld (vcState 63) = vcActive ∧ s.vcThreads 63 = [64] ∧ s.fld (fState 64) = stReady ∧ u.boundary = true ∧
       u.ops = [] ∧ u.stores = [] ∧ u.raised = none ∧ u.twinStop = none ∧ u.late = [] ∧ u.broke = none ∧ u.twin = none ∧ u.stopReq = false ∧
       u.freezeReq = false ∧ u.haltReq = none) ∧
    (let s := (((lab.put [(vcState 63, vcActive), (fRunning 0, 1)]).setWords [(0x10D00000 + ownTimer 0, 0xBF)])).modTmr 0
        (fun x => { x with wasRun := true })
     s.vcTimers 63 = [0] ∧ s.vcThreads 63 = [] ∧ s.bit (fRunning 0) = true ∧ (s.tmr 0).wasRun = true) ∧
    (lab.put [(vcState 63, vcFreezing)]).vcThreads 63 = [] ∧ lab.vcChans 63 = [] ∧ lab.fld (fCount 63) = 0 ∧
    (lab.put [(fCount 63, 1)]).fld (fCount 63) ≠ 0 ∧ (lab.vc 63).capture = false ∧ lab.ledger = [] ∧
    (lab.vc 63).job = none ∧ lab.imageReach 63 64 = false ∧
    (let j (restore : Bool) (k : Nat) (a : Option (Option (List Byte))) : ImageJob := ⟨restore, k, [], [(0, a)], false⟩
     ((lab.modVc 63 (fun y => { y with job := some (j true 2 none) })).vc 63).job = some (j true 2 none) ∧
       (j true 2 none).waits = true ∧ (j true 2 (some (some []))).waits = false ∧
       (j true 2 (some (some []))).failed = false ∧ (j true 0 (some none)).failed = true ∧
       (j true 2 (some none)).bad = false ∧ (wordAt (List.replicate 64 2) 0).toNat % 256 = 2 ∧
       528 ≤ ((j true 2 (some (some (List.replicate 592 0)))).bytes.drop 64).length ∧
       lab.imageOk 63 ([] ++ (j true 1 (some (some (List.replicate 64 0)))).bytes) = false) ∧
    (let s := (lab.put [(⟨vctReg 63 0x28, 7, 4⟩, 2)]).setWords [(vctReg 63 0x24, 0x8000), (0x1000011C, 0x100)]
     s.imageReach 63 64 = true ∧ s.imageOk 63 [] = false ∧ s.imageOk 63 (s.image 63) = true ∧
       (wordAt (s.image 63) 0).toNat % 256 = 2 ∧ (wordAt (s.image 63) 1).toNat = (s.image 63).length) := by decide +kernel
/-- Pair 0 of threads 0 and 64, its members in a state. -/
def labT2 (tw st : Word) : State := (lab.put [(fTwinState 0, tw), (fState 0, st), (fState 64, st)]).setWords
  [(twinReg 0 0, 0x400000), (0x10000100, 0x80), (0x10800000, 0xFF00)]
/-- Both with the same regions. -/
def labSeed : State :=
  (labT2 twOff stIdle).setWords
    [(tSeg 0 7 0xC, 0), (tSeg 0 7 8, 0), (tSeg 0 1 0xC, 0), (tSeg 0 1 8, 0), (tReg 64 4, 0)]
def rep1 : Report := ⟨0x1234, 0, 8, 0⟩
theorem witness_TwinPairs_seed : lab.powered 47 = true ∧ (labT2 twOff stIdle).twinFeat = true ∧
    labSeed.maySeed 0 = true ∧ (labT2 twOff stReady).maySeed 0 = false ∧
    (labT2 twBroken stIdle).fld (fTwinState 0) = twBroken ∧
    (let s := labT2 twStopped stFaulted
     s.fld (fTwinState 0) ≠ twOff ∧ s.fld (fTwinState 0) ≠ twBroken ∧ s.fld (fState (s.twinShadow 0)) ≠ stReady ∧
       s.fld (fState (s.twinShadow 0)) ≠ stWait ∧
       (s.thread (s.twinPrimary 0)).twin = none ∧ (s.thread (s.twinShadow 0)).twin = none) ∧
    (let s := (labT2 twRunning stReady).modThread 64 (fun t => { t with inDelay := true })
     (s.thread (s.twinShadow 0)).boundary = false) ∧
    (let t := (labT (fun t => { t with twin := some (255, true), winEnd := true })).thread 0
     t.twin = some (255, true) ∧ t.winEnd = true ∧ t.boundary = true ∧ t.raised = none) ∧ (lab.pair 255).repS.length < 2 ∧
    2 ≤ ((lab.modPair 255 (fun q => { q with repS := [rep1, rep1] })).pair 255).repS.length := by decide +kernel
theorem witness_TwinPairs_reports :
    (let s := (labT2 twRunning stReady).modPair 0 (fun q => { q with repP := [rep1], repS := [{ rep1 with sig := 0xFFFFEDCB }] })
     s.serveUnit 0 = some 0 ∧ (s.pair 0).repP = [rep1] ∧ (s.pair 0).repS = [{ rep1 with sig := 0xFFFFEDCB }] ∧
       reportsMatch rep1 { rep1 with sig := 0xFFFFEDCB } = true ∧ reportsMatch rep1 rep1 = false ∧
       s.fld (fTwinState 0) = twRunning ∧ (s.put [(fTwinState 0, twRerun)]).fld (fTwinState 0) = twRerun ∧
       ¬ (s.fld fMode = modeRun ∧ s.bit ⟨twinReg 0 4, 20, 20⟩ = true) ∧
       (s.put [(⟨twinReg 0 4, 20, 20⟩, 1)]).bit ⟨twinReg 0 4, 20, 20⟩ = true ∧ s.fld fMode = modeRun ∧
       s.twinPrimary 0 / 64 ≠ s.twinShadow 0 / 64 ∧ s.bit ⟨twinReg 0 4, 21, 21⟩ = false ∧ s.selfTest = [] ∧
       s.bit (fDet 64) = false ∧ s.testedFor 0 0 = none ∧ s.testedFor 0 1 = none) ∧
    (let s := (((labT2 twRunning stReady).setWords [(twinReg 1 0, 0x800001)]).put [(fTwinState 1, twSelftest)]).modPair 1
        (fun q => { q with coreP := some true })
     s.testedFor 0 0 = some true ∧ s.testedFor 0 1 = none) ∧
    (let s := (labT2 twRunning stReady).modPair 0 (fun q => { q with repP := [rep1] })
     (s.pair 0).repP ≠ [] ∧ (s.pair 0).repS = [] ∧ s.twinPrimary 0 / 64 ∉ s.selfTest ∧
       s.twinShadow 0 / 64 ∉ s.selfTest) := by decide +kernel
theorem witness_TwinPairs_det : ∀ j < 64, (labT2 twRunning stReady).det j = false ∧
    (labT2 twRunning stReady).det (64 + j) = false ∧ ((labT2 twRunning stReady).thread j).stopReq = false ∧
    ((labT2 twRunning stReady).thread (64 + j)).stopReq = false := by decide +kernel
theorem witness_WinnowerTests : (labT2 twOff stIdle).bit fInjectBusy = false ∧
    (lab.put [(fInjectBusy, 1)]).bit fInjectBusy = true ∧ lab.unitBusy 7 = false ∧
    ({ lab with inject := some 7 } : State).inject = some 7 ∧ (∀ k < 256, lab.fld (fTwinState k) ≠ twSelftest) ∧
    (31 : Nat) ∉ lab.selfTest ∧ ({ lab with selfTest := [31] } : State).selfTest = [31] ∧
    (let s : State := { labT2 twSelftest stFaulted with selfTest := [0] }
     s.fld (fTwinState 0) = twSelftest ∧ s.twinPrimary 0 / 64 = 0 ∧ s.twinShadow 0 / 64 = 1 ∧
       (s.pair 0).coreP = none ∧ (s.pair 0).coreS = none ∧
       (∀ k < 256, k ≠ 0 → s.fld (fTwinState k) ≠ twSelftest) ∧
       ∀ b ∈ [some true, some false], ((s.modPair 0 (fun q => { q with coreS := b })).pair 0).coreS = b) := by
  decide +kernel

/-! ## Witnesses: start-up, modes and power -/

def labM (m : Word) : State := lab.put [(fMode, m)]
theorem witness_StartsAndResets :
    [modeOff, modeDormant, modeStart, modeRun, modeLimp, modeService].map (fun m => (labM m).fld fMode) = [0, 1, 2, 3, 4, 5] ∧
    (let s := (labM modeRun).put [(fLc, lcField)]
     s.lcSeen (s.fld fLc).toNat ≠ s.mode.cleared ∧
       (let u : State := { s with mode := { s.mode with cleared := 2 } }
        u.lcSeen (u.fld fLc).toNat = u.mode.cleared ∧ u.mode.cleared < 5 ∧ u.lcSeen 0 = 5 ∧ u.lcSeen 4 = 4 ∧
          (u.lcSeen 4 ≠ (u.fld fLc).toNat))) ∧
    lab.lcSeen (lab.fld fLc).toNat = lab.mode.cleared ∧ lab.lcSeen 0 = 0 ∧
    ((labM modeDormant).put [(fLc, Machine.lcVoid)]).fld fLc = Machine.lcVoid ∧ lab.fld fLc ≠ Machine.lcVoid ∧
    (∀ p < 4, lab.linkIsUp p = false) := by decide +kernel
/-- START at a step. -/
def labStep (k : Word) : State := lab.put [(fMode, modeStart), (fStep, k)]
theorem witness_StartSteps : [(1 : Word), 2, 3, 4, 5, 6].all (fun k => (labStep k).atStep k) = true ∧
    lab.atStep 1 = false ∧ (labStep 1).ranksUp = true ∧ ((labStep 1).setReg 0x10900018 1).ranksUp = false ∧
    (labStep 1).start.cores = [] ∧ (labStep 1).fld fKind ≠ kindWarm ∧
    (let s := labStep 2
     bitsOf (wordAt (s.loftBytes 0) 0) 15 0 ≠ 1) ∧
    (labStep 4).twinFeat = false ∧ ((labStep 4).setReg 0x10000100 0x80).twinFeat = true ∧
    (labStep 6).start.loaded = false ∧ ({ labStep 6 with start := { loaded := true } } : State).start.loaded = true ∧
    bitsOf (wordAt (labStep 5).start.hdr 2) 31 16 = 0 ∧
    bitsOf (wordAt ({ labStep 5 with start := { hdr := List.replicate 252 1 } } : State).start.hdr 2) 31 16 ≠ 0 ∧
    (labStep 5).bit fHeld = false ∧ ((labStep 5).put [(fHeld, 1)]).bit fHeld = true := by decide +kernel
theorem witness_StartSteps_header :
    (let body : List Byte := [1] ++ List.replicate 251 0
     let d := BitVec.ofNat 2048 (ofBytes (body ++ toBytes 4 (checkCode body).toNat))
     let s : State := { labStep 2 with loft := [(0, { a := d, b := d })] }
     wordAt (s.loftBytes 0) 63 = checkCode ((s.loftBytes 0).take 252) ∧ bitsOf (wordAt (s.loftBytes 0) 0) 15 0 = 1) := by
  decide +kernel
theorem witness_StartSteps_banks :
    (let s := (((labStep 3).put [(fPstate 0, psOn)]).setWords (List.range 10 |>.map (fun i => (0x10781000 + 4 * i, 0)))).setReg
        0x10781000 1
     s.atStep 3 = true ∧ s.bankPresent 0 = true ∧ ∀ g < 320, s.bankPresent g = true → s.fld (fPstate g) = psOn) ∧
    (let s := (labStep 6).setWords (List.range 10 |>.map (fun i => (0x10781000 + 4 * i, 0)))
     s.atStep 6 = true ∧ (∀ g < 320, s.bankPresent g = false)) := by decide +kernel
theorem test_header_word (x : Word) : wordAt (List.replicate 16 0 ++ toBytes 4 x.toNat) 4 = x := by
  have h : (List.replicate 16 (0 : Byte) ++ toBytes 4 x.toNat).drop (4 * 4) = toBytes 4 x.toNat := rfl
  rw [wordAt, h]
  apply BitVec.eq_of_toNat_eq
  simp only [toBytes, ofBytes, List.take, BitVec.toNat_ofNat]
  have := x.isLt
  omega
theorem witness_StartSteps_lanes : ∃ hdr : List Byte,
    ({ labStep 6 with start := { hdr := hdr } } : State).atStep 6 = true ∧
    wordAt hdr 4 = checkCode ((labStep 6).loftBytes 1) :=
  ⟨_, by decide +kernel, test_header_word _⟩
/-- A manifest of one chunk that stores nothing, and its header. -/
def labMan : List Byte :=
  toBytes 4 0x43495441 ++ toBytes 4 1 ++ toBytes 4 1 ++ toBytes 4 0x190 ++ toBytes 4 4 ++ List.replicate 300 0 ++
    List.replicate 32 0 ++ sha384 [] ++ List.replicate 4 9
def labB (x : StartS) : State := { labStep 5 with start := x }
theorem witness_BootAndRelease :
    (labB {}).atStep 5 = true ∧ (labB {}).start.sec = none ∧ (labB {}).bootWaits = false ∧
    (labB { booted := true, hdr := List.replicate 252 1 }).bootWaits = true ∧
    (labB { booted := true }).manifestCheck [] = some 1 ∧
    (labB { booted := true }).manifestCheck labMan = none ∧ (labB {}).trusts (manDigest labMan) = false ∧
    (let img : BootImage := ⟨labMan, [[]], false, []⟩
     let s := labB { booted := true, sec := some img }
     s.start.sec = some img ∧ (s.hdrWord 8).getLsbD 2 = false ∧ s.chunksOk (chunksOf labMan) = true ∧
       chunksOf labMan = [⟨0, 0, 0, false, false, sha384 []⟩]) ∧
    (labB {}).chunksOk [⟨0x900000, 4, 4, false, false, []⟩] = false ∧
    (let s : State := { ((labStep 7).put [(fAuth, 1)]) with start := { cores := [0], reserved := [0] } }
     s.bootWriter (.thread 0) = true ∧ s.bit fAuth = true ∧ s.fld fStep = 7 ∧ s.bit fFaultSafe = false ∧
       s.reg 0x10808008 = 0) ∧
    lab.bootWriter .manager = false ∧ lab.slotsOwned 0 ≠ 0 ∧ (lab.setReg 0x10000900 1).reg 0x10000900 = 1 ∧
    lab.start.release = false := by decide +kernel
theorem witness_RenameModeTakesTheCore :
    (let s := ((labM modeService).put [(fState 0, stIdle)]).setReg 0x10000100 0x200
     s.renameFeat = true ∧ s.det (64 * 0 + s.renameThread 0) = false ∧ (∀ j < 64, s.fld (fState j) = stIdle) ∧ s.thawed = true ∧
       s.bit (fRenameEnable 0) = false ∧ (s.put [(fRenameEnable 0, 1)]).bit (fRenameEnable 0) = true) ∧
    lab.thawed = false ∧ lab.renameFeat = false := by decide +kernel
theorem witness_ModesChangeOnRequest : lab.bit fModeBusy = false ∧ (lab.put [(fModeBusy, 1)]).bit fModeBusy = true ∧
    (∀ v < 64, lab.fld (vcState v) = vcFree) ∧ lab.bit fLoftBusy = false ∧ lab.fld (vcState 0) = vcFree ∧
    lab.bit fFaultSafe = false ∧ lab.reg 0x10808008 = 0 ∧
    lab.dir = [] ∧ lab.caches = [] ∧ lab.dwait = [] ∧ lab.flush = [] ∧
    ((labM modeLimp).put [(fFaultSafe, 1)]).bit fFaultSafe = true ∧
    (let s := (labM modeLimp).put [(⟨0x10900010, 15, 0⟩, 800), (fCclk, 800), (⟨0x10900010, 31, 16⟩, 400)]
     s.fld fCclk = s.fld ⟨0x10900010, 15, 0⟩ ∧ s.fld fCclk ≠ s.fld ⟨0x10900010, 31, 16⟩ ∧
       (s.put [(fCclk, 400)]).fld fCclk = (s.put [(fCclk, 400)]).fld ⟨0x10900010, 31, 16⟩) ∧
    fLcService lcDevelop = true ∧ fLcService lcField = false ∧ fLcService lcFieldService = true := by decide +kernel
theorem witness_ClocksAndDomainsAnswer :
    (let s := (lab.put [(fCclk, 800)]).setPend 0x10900010 1600
     (bitsOf (s.pendReg 0x10900010) 15 0).toNat = 1600 ∧ bitsOf (s.pendReg 0x10900010) 15 0 ≠ s.fld fCclk) ∧
    (∀ q < 4, bitsOf (lab.pendReg 0x10900014) (8 * q + 7) (8 * q) = lab.fld (fPclk q)) ∧ lab.mode.clocks = [] ∧
    (let s : State := { lab with mode := { lab.mode with clocks := [(4, 250)], goal := some 0 } }
     s.mode.clocks = [(4, 250)] ∧ s.mode.goal = some 0) ∧
    (let f : Fld := ⟨0x10900020, 31, 31⟩
     lab.bit f = true ∧ (lab.put [(f, 0)]).bit f = false ∧ (lab.reg 0x10900018).getLsbD 31 = true ∧
       ((lab.setReg 0x10900018 0).reg 0x10900018).getLsbD 31 = false ∧ lab.bit (fFlushBusy 31) = false) ∧
    (let down (l : List (Nat × Word)) : State := { lab.setWords l with mode := { lab.mode with goal := some 1 } }
     -- rank 3 goes first; the last domain of rank 1 takes the complex into DORMANT
     let one := down [(0x10900020, 0), (0x10900024, 0x30000 + 2 ^ 12)]
     let two := down [(0x10900020, 0), (0x10900024, 0x30000 + 2 ^ 12 + 2 ^ 13)]
     lab.dormantQuiet = true ∧ one.dormantQuiet = true ∧ rankOf 44 ≠ 0 ∧ one.powered 44 = true ∧
       (∀ j < 50, rankOf j ≠ 0 → one.powered j = true → j = 44) ∧
       (∀ j < 50, rankOf 44 < rankOf j → one.powered j = false) ∧
       two.powered 45 = true ∧ (∃ j < 50, rankOf j ≠ 0 ∧ two.powered j = true ∧ j ≠ 45) ∧
       (∀ j < 50, rankOf 45 < rankOf j → two.powered j = false)) ∧
    lab.dieHas 0 = true ∧ (lab.setReg 0x10000310 0).dieHas 0 = false ∧ lab.mayPowerDown 0 = false ∧ lab.mayPowerDown 46 = true ∧ (lab.put [(fFenced 31, 1)]).bit (fFenced 31) = true ∧
    lab.reg 0x10900018 = lab.reg 0x10900020 ∧ lab.reg 0x1090001C = lab.reg 0x10900024 := by decide +kernel
theorem witness_WakesBeginStart :
    (let s := (labM modeDormant).setWords [(0x10900040, 7), (0x1090004C, 0x80000000)]
     s.fld fMode = modeDormant ∧ (∀ k < 3, (s.reg 0x10900040).getLsbD k = true) ∧ (s.reg 0x1090004C).getLsbD 31 = true ∧
       (s.reg 0x10900048).getLsbD 0 = false ∧ s.lcSeen (s.fld fLc).toNat = s.mode.cleared ∧ s.mode.cleared < 5 ∧
       s.reg 0x10900068 = 0 ∧ s.reg 0x1090006C = 0 ∧ s.reg 0x10900060 = 0 ∧ s.reg 0x10900064 = 0) ∧
    (lab.reg 0x10900040).getLsbD 2 = false := by decide +kernel
theorem witness_FaultSafeAndWatchdog : lab.blkPresent .win = true ∧ lab.fld fSafeCause = 0 ∧
    (let s := lab.put [(fCclk, 400), (⟨0x10900010, 31, 16⟩, 400)]
     s.fld fMode = modeRun ∧ s.bit fModeBusy = false ∧ s.fld fCclk = s.fld ⟨0x10900010, 31, 16⟩) ∧
    lab.bit fPwrLost = false ∧ (lab.put [(fPwrLost, 1)]).bit fPwrLost = true ∧ lab.mode.expired = false ∧
    ((labM modeLimp).put [(⟨0x10808010, 16, 16⟩, 1)]).bit ⟨0x10808010, 16, 16⟩ = true ∧ lab.powered 47 = true ∧
    (lab.setReg 0x10900024 0).powered 47 = false := by decide +kernel

/-! ## Witnesses: debug, the bridge and the boundary -/

theorem witness_DebugCommandsActOnThreads :
    (let need : Word := if lab.owner (ownThread 0) = some (lab.fld fDbgVc).toNat then 2 else 3
     need = 3 ∧ (lab.put [(fDbgClass, 0)]).dbgClass < need) ∧
    (let s := (lab.put [(fLc, lcDevelop), (fDbgClass, 3)])
     s.dbgClass = 3) ∧
    lab.corePresent 0 = true ∧ (lab.setReg 0x10000310 1).corePresent 31 = false ∧
    [stIdle, stReady, stWait, stHalted, stFrozen, stFaulted].all (fun w => (lab.put [(fState 0, w)]).fld (fState 0) == w) = true ∧
    (let u := lab.thread 0
     u.twin = none ∧ u.boundary = true ∧ u.longDone = true ∧ u.stopReq = false ∧ u.haltReq = none ∧ u.ops = [] ∧ u.raised = none ∧ u.twinStop = none ∧ u.late = [] ∧
       u.broke = none ∧ u.freezeReq = false) := by decide +kernel
theorem witness_HostAndDebugRequests : lab.powered 44 = true ∧ (lab.setReg 0x10900024 0).powered 44 = false ∧
    bankOf (0x12000000 - 0x11000000) = some 128 ∧ lab.coresBank 128 = true ∧ lab.bit (fDraining 128) = false ∧
    lab.dir = [] ∧ lab.homeQ = [] ∧ bankOf (0x30000000 - 0x30000000) = some 0 ∧ lab.coresBank 0 = true ∧
    lab.bit (fDraining 0) = false ∧ (lab.put [(fDbgClass, 1)]).dbgClass < 2 ∧
    (lab.put [(fLc, lcDevelop), (fDbgClass, 3)]).dbgClass = 3 ∧ (labM modeOff).fld fMode = modeOff ∧
    0x11000000 + 0x10000 * 63 < 0x11400000 := by decide +kernel
/-- Port 3 in a link state, enabled, with lock. -/
def labL (st : Word) : State :=
  ((lab.put [(fBrEnable 3, 1), (fLinkState 3, st), (⟨brReg 3 0, 1, 1⟩, 1)])).modLink 3 (fun l => { l with locked := true })
theorem witness_LinksTrainAndFall : lab.portPresent 3 = true ∧ (lab.setReg 0x10000318 0).portPresent 3 = false ∧
    lab.bit (fBrEnable 3) = false ∧ (labL linkUpSt).linkIsUp 3 = true ∧ (labL linkTraining).linkIsUp 3 = false ∧
    [linkDownSt, linkTraining, linkFailed].all (fun w => (labL w).fld (fLinkState 3) == w) = true ∧
    ((labL linkTraining).link 3).locked = true ∧ (labL linkTraining).selfDie = 0 ∧ lab.route 3 = none ∧
    (let offered := ((labL linkTraining).put [(⟨brReg 3 8, 9, 8⟩, 3)]).fld ⟨brReg 3 8, 9, 8⟩
     offered &&& 2 ≠ 0 ∧ offered &&& 1 ≠ 0 ∧ offered &&& 0 = 0) ∧
    (({ labL linkTraining with routes := [(3, 1)] } : State).route 3 = some 0) ∧
    (labL linkDownSt).bit (fBrEnable 3) = true ∧ (labL linkDownSt).bit ⟨brReg 3 0, 1, 1⟩ = true := by decide +kernel
theorem witness_FlitsAndTime :
    (let s := (labL linkUpSt).modLink 3 (fun l => { l with out := [(5, 7, .notice), (6, 0, .notice)], exch := some (9, 0) })
     s.linkIsUp 3 = true ∧ (s.link 3).out = [(5, 7, .notice), (6, 0, .notice)] ∧ (s.link 3).exch = some (9, 0) ∧
       (s.fld fEpoch).toNat = 0) ∧
    ((labL linkUpSt).link 3).out = [] ∧ lab.bit (fFollow 3) = false ∧
    (lab.put [(fFollow 3, 1)]).bit (fFollow 3) = true ∧
    ((lab.put [(⟨brReg 3 0, 15, 12⟩, 15)]).fld ⟨brReg 3 0, 15, 12⟩).toNat - 3 = 12 := by decide +kernel
theorem witness_PartnersRequestsAndMessages :
    (let s := (labL linkUpSt).setWords [(brReg 3 0x100, 0xFFFFFFFF)]
     (s.link 3).req = none ∧ s.homeQ = [] ∧ (s.put [(fDraining 0, 1)]).bit (fDraining 0) = true ∧
       ((s.modLink 3 (fun l => { l with req := some (0, .read32) })).link 3).req ≠ none ∧ s.inMask 3 0 = true ∧ s.inMask 3 0x1000000 = false ∧ s.coresBank 0 = true ∧ s.bit (fDraining 0) = false ∧
       (s.put [(fOwnerKind 0, 3)]).fld (fOwnerKind 0) ≠ 1 ∧ bankOf 0 = some 0) ∧
    (let s := lab.put [(fAnyVc 2047, 1), (fRoleGen 2047, 0xFFF)]
     s.corePresent 31 = true ∧ s.bit (fAnyVc 2047) = true ∧ s.fld (fRoleGen 2047) = (0xFFF : BitVec 12).setWidth 32 ∧
       (s.thread 2047).inbox.length < 8 ∧
       8 ≤ ((s.modThread 2047 (fun t => { t with inbox := List.replicate 8 0 })).thread 2047).inbox.length) ∧
    lab.bit (fAnyVc 2047) = false ∧ ((labL linkUpSt).put [(fLinkVer 3, 2)]).fld (fLinkVer 3) = 2 := by decide +kernel
/-- A snoop filter entry. -/
def labG (e : Option DEntry) : State := { lab with dir := if e = none then [] else [(0x4000000000, e)] }
theorem witness_SnoopsAndScan : lab.powered 44 = true ∧ isGwLine 0x4000000000 = true ∧ isGwLine 0x40000 = false ∧
    lab.homeQ = [] ∧ lab.wayAwaited 0x4000000000 = false ∧
    (∀ e ∈ [none, some (⟨[31], true, none, 0⟩ : DEntry), some ⟨[31], false, none, 0⟩, some (opened .recall [31]),
        some ⟨[31], true, some { kind := .shared, req := 3, fetch := true }, 0⟩],
      (labG e).dentry 0x4000000000 = e) ∧
    (txn .recall [31]).ready = false ∧ (txn .recall [31]).fetch = false ∧
    ({ kind := .shared, req := 3, fetch := true } : Txn).ready = false ∧
    lab.fld fMode ≠ modeOff ∧
    lab.fld fLc = 0 ∧ (lab.put [(fLc, lcField)]).fld fLc ≠ 0 ∧ (lab.put [(fLc, lcField)]).fld fLc ≠ lcReturned ∧
    ({ lab.put [(fLc, lcReturned)] with mode := { lab.mode with cleared := 4 } } : State).mode.cleared = 4 := by
  decide +kernel
end Sys2Proof.Machine
end

section
/-!
SUPPORT. Memory stays canonical (R40, R301): each command's own lemma, put together for the step.
-/
namespace Sys2Proof.Machine

/-- Every command answers a next state; memory's form and the queue are kept. -/
theorem exec_good (i : Instr) (s : State) {p : List Instr} (hg : Good s.kept p) :
    ∃ t, exec i s = .next t ∧ Good t.kept p :=
  match i with
  | .registerWrite who addr data => execRegisterWrite_good who addr data s hg
  | .crossingQueueDelivery q t => execCrossingQueueDelivery_good q t s hg
  | .eventSynchroniserDelivery port b => execEventSynchroniserDelivery_good port b s hg
  | .slotCommit who n => execSlotCommit_good who n s hg
  | .slotTableApply n => execSlotTableApply_good n s hg
  | .threadStart who gt => execThreadStart_good who gt s hg
  | .threadHalt who gt => execThreadHalt_good who gt s hg
  | .threadResume who gt => execThreadResume_good who gt s hg
  | .threadStop who gt => execThreadStop_good who gt s hg
  | .handlerEntry gt => execHandlerEntry_good gt s hg
  | .faultEntry gt => execFaultEntry_good gt s hg
  | .icacheRefill gt line way lost => execIcacheRefill_good gt line way lost s hg
  | .icacheInvAll who n => execIcacheInvAll_good who n s hg
  | .longOpRetire gt j late => execLongOpRetire_good gt j late s hg
  | .storeCompletion gt late => execStoreCompletion_good gt late s hg
  | .add x f d a b => execAdd_good x f d a b s hg
  | .addc x f d a b => execAddc_good x f d a b s hg
  | .sub x f d a b => execSub_good x f d a b s hg
  | .subc x f d a b => execSubc_good x f d a b s hg
  | .and x f d a b => execAnd_good x f d a b s hg
  | .or x f d a b => execOr_good x f d a b s hg
  | .xor x f d a b => execXor_good x f d a b s hg
  | .sll x f d a b => execSll_good x f d a b s hg
  | .srl x f d a b => execSrl_good x f d a b s hg
  | .sra x f d a b => execSra_good x f d a b s hg
  | .ror x f d a b => execRor_good x f d a b s hg
  | .slt x f d a b => execSlt_good x f d a b s hg
  | .sltu x f d a b => execSltu_good x f d a b s hg
  | .cmp x a b => execCmp_good x a b s hg
  | .addi x d a imm => execAddi_good x d a imm s hg
  | .andi x d a imm => execAndi_good x d a imm s hg
  | .ori x d a imm => execOri_good x d a imm s hg
  | .xori x d a imm => execXori_good x d a imm s hg
  | .slli x d a cnt => execSlli_good x d a cnt s hg
  | .srli x d a cnt => execSrli_good x d a cnt s hg
  | .srai x d a cnt => execSrai_good x d a cnt s hg
  | .rori x d a cnt => execRori_good x d a cnt s hg
  | .cmpi x a imm => execCmpi_good x a imm s hg
  | .lui x d imm => execLui_good x d imm s hg
  | .mul x d a b => execMul_good x d a b s hg
  | .mulh x d a b => execMulh_good x d a b s hg
  | .mulhu x d a b => execMulhu_good x d a b s hg
  | .mulw x d a b => execMulw_good x d a b s hg
  | .mulwu x d a b => execMulwu_good x d a b s hg
  | .div x d a b => execDiv_good x d a b s hg
  | .divu x d a b => execDivu_good x d a b s hg
  | .rem x d a b => execRem_good x d a b s hg
  | .remu x d a b => execRemu_good x d a b s hg
  | .addp x f d a b => execAddp_good x f d a b s hg
  | .subp x f d a b => execSubp_good x f d a b s hg
  | .shasig x d a which => execShasig_good x d a which s hg
  | .ldb x m => execLdb_good x m s hg
  | .ldbu x m => execLdbu_good x m s hg
  | .ldh x m => execLdh_good x m s hg
  | .ldhu x m => execLdhu_good x m s hg
  | .ldw x m => execLdw_good x m s hg
  | .ldd x m => execLdd_good x m s hg
  | .stb x m => execStb_good x m s hg
  | .sth x m => execSth_good x m s hg
  | .stw x m => execStw_good x m s hg
  | .std x m => execStd_good x m s hg
  | .agree x m => execAgree_good x m s hg
  | .tli x d a b seg w n clash => execTli_good x d a b seg w n clash s hg
  | .tli2 x d a b seg w n clash => execTli2_good x d a b seg w n clash s hg
  | .crc x d a b w n => execCrc_good x d a b w n s hg
  | .crcr x d a b w n => execCrcr_good x d a b w n s hg
  | .b x cond disp => execB_good x cond disp s hg
  | .call x disp => execCall_good x disp s hg
  | .br x a => execBr_good x a s hg
  | .callr x a => execCallr_good x a s hg
  | .ret x => execRet_good x s hg
  | .eret x => execEret_good x s hg
  | .fret x => execFret_good x s hg
  | .trapi x n => execTrapi_good x n s hg
  | .loop x k a imm => execLoop_good x k a imm s hg
  | .lprd x d k f => execLprd_good x d k f s hg
  | .lpwr x k f a => execLpwr_good x k f a s hg
  | .nop x => execNop_good x s hg
  | .wait x d mask => execWait_good x d mask s hg
  | .waitComplete gt => execWaitComplete_good gt s hg
  | .recv x d wt => execRecv_good x d wt s hg
  | .recvComplete gt => execRecvComplete_good gt s hg
  | .send x d a b => execSend_good x d a b s hg
  | .settle x => execSettle_good x s hg
  | .settleComplete gt => execSettleComplete_good gt s hg
  | .isync x => execIsync_good x s hg
  | .seal x => execSeal_good x s hg
  | .rdfeat x d n => execRdfeat_good x d n s hg
  | .totask x => execTotask_good x s hg
  | .rspush x a => execRspush_good x a s hg
  | .rspop x d => execRspop_good x d s hg
  | .mvfl x d => execMvfl_good x d s hg
  | .mvtf x a => execMvtf_good x a s hg
  | .setseg x si a b rights => execSetseg_good x si a b rights s hg
  | .getseg x d si w => execGetseg_good x d si w s hg
  | .edge x a seg lane act => execEdge_good x a seg lane act s hg
  | .segDescriptorWrite who gt j w data => execSegDescriptorWrite_good who gt j w data s hg
  | .ceilingWrite who gt j w data => execCeilingWrite_good who gt j w data s hg
  | .latchingRead gt r dt => execLatchingRead_good gt r dt s hg
  | .shadowHiRead gt r => execShadowHiRead_good gt r s hg
  | .widePairRead who r dt => execWidePairRead_good who r dt s hg
  | .laneInputTransition l accepted level time => execLaneInputTransition_good l accepted level time s hg
  | .laneLastRead who l => execLaneLastRead_good who l s hg
  | .bayCommit who n pt => execBayCommit_good who n pt s hg
  | .progWrite who n j data => execProgWrite_good who n j data s hg
  | .seqStart who n k => execSeqStart_good who n k s hg
  | .seqStop who n k => execSeqStop_good who n k s hg
  | .seqContinue who n k => execSeqContinue_good who n k s hg
  | .seqFlush who n k => execSeqFlush_good who n k s hg
  | .seqJmp n k pt => execSeqJmp_good n k pt s hg
  | .seqWait n k pt => execSeqWait_good n k pt s hg
  | .seqIn n k pt => execSeqIn_good n k pt s hg
  | .seqOut n k pt => execSeqOut_good n k pt s hg
  | .seqPush n k pt => execSeqPush_good n k pt s hg
  | .seqPull n k pt => execSeqPull_good n k pt s hg
  | .seqMov n k pt => execSeqMov_good n k pt s hg
  | .seqSet n k pt => execSeqSet_good n k pt s hg
  | .seqEvt n k pt => execSeqEvt_good n k pt s hg
  | .seqStamp n k pt => execSeqStamp_good n k pt s hg
  | .seqStallRelease n k pt => execSeqStallRelease_good n k pt s hg
  | .seqEventLatch n k j => execSeqEventLatch_good n k j s hg
  | .txwWrite who n k data => execTxwWrite_good who n k data s hg
  | .rxwRead who n k => execRxwRead_good who n k s hg
  | .creditReturn n c => execCreditReturn_good n c s hg
  | .edgeEntryCheck n pt => execEdgeEntryCheck_good n pt s hg
  | .edgeEntryApply n pt => execEdgeEntryApply_good n pt s hg
  | .anchorTake q dt time => execAnchorTake_good q dt time s hg
  | .tbRate who dt => execTbRate_good who dt s hg
  | .tbStep who dt => execTbStep_good who dt s hg
  | .tbSnap who dt => execTbSnap_good who dt s hg
  | .tbAdjEnd => execTbAdjEnd_good s hg
  | .ppsRecord dt => execPpsRecord_good dt s hg
  | .gsGo who dt => execGsGo_good who dt s hg
  | .goAtDue dt => execGoAtDue_good dt s hg
  | .tmrStart who m => execTmrStart_good who m s hg
  | .tmrStop who m => execTmrStop_good who m s hg
  | .tmrCommit who m => execTmrCommit_good who m s hg
  | .tmrForceReload who m => execTmrForceReload_good who m s hg
  | .tmrSnap who m => execTmrSnap_good who m s hg
  | .timerCount m dt => execTimerCount_good m dt s hg
  | .timerZero m dt => execTimerZero_good m dt s hg
  | .timerInputSeen m j dt => execTimerInputSeen_good m j dt s hg
  | .timerCapture m => execTimerCapture_good m s hg
  | .tmrCapRead who m wide => execTmrCapRead_good who m wide s hg
  | .evselWrite who x data => execEvselWrite_good who x data s hg
  | .forceWrite who x data => execForceWrite_good who x data s hg
  | .eventDelivery e coincide => execEventDelivery_good e coincide s hg
  | .levelDelivery x => execLevelDelivery_good x s hg
  | .msgAccept n here => execMsgAccept_good n here s hg
  | .portBRetry j clash => execPortBRetry_good j clash s hg
  | .bankHandover who g kind engine => execBankHandover_good who g kind engine s hg
  | .drainComplete g => execDrainComplete_good g s hg
  | .bankPowerRequest who g p => execBankPowerRequest_good who g p s hg
  | .bankEnterDone g => execBankEnterDone_good g s hg
  | .bankWakeDone g => execBankWakeDone_good g s hg
  | .bankClearDone g => execBankClearDone_good g s hg
  | .marchGo who => execMarchGo_good who s hg
  | .marchDone fails again => execMarchDone_good fails again s hg
  | .loftStoreGo who r secret => execLoftStoreGo_good who r secret s hg
  | .loftStoreDone ok => execLoftStoreDone_good ok s hg
  | .rdShared c line => execRdShared_good c line s hg
  | .rdUnique c line => execRdUnique_good c line s hg
  | .upgrade c line => execUpgrade_good c line s hg
  | .snpShared c line => execSnpShared_good c line s hg
  | .snpInv c line => execSnpInv_good c line s hg
  | .ackShared c line => execAckShared_good c line s hg
  | .ackInv c line => execAckInv_good c line s hg
  | .snpData c line inv data => execSnpData_good c line inv data s hg
  | .invWbInflight c line => execInvWbInflight_good c line s hg
  | .wbData c line data => execWbData_good c line data s hg
  | .evictClean c line => execEvictClean_good c line s hg
  | .wbAck c line => execWbAck_good c line s hg
  | .compAck c line => execCompAck_good c line s hg
  | .fillS c line => execFillS_good c line s hg
  | .fillE c line => execFillE_good c line s hg
  | .grantE c line => execGrantE_good c line s hg
  | .retry c line => execRetry_good c line s hg
  | .proceed c line => execProceed_good c line s hg
  | .dcacheFlushAll who n => execDcacheFlushAll_good who n s hg
  | .dcacheDisable who n => execDcacheDisable_good who n s hg
  | .sysCacheDisable who n => execSysCacheDisable_good who n s hg
  | .dirFenceGo who => execDirFenceGo_good who s hg
  | .fenceComplete => execFenceComplete_good s hg
  | .ledgerIssue j => execLedgerIssue_good j s hg
  | .sipResponse tag err data => execSipResponse_good tag err data s hg
  | .ledgerTimeout tag => execLedgerTimeout_good tag s hg
  | .chCommit who c => execChCommit_good who c s hg
  | .chGo who c => execChGo_good who c s hg
  | .chAbort who c => execChAbort_good who c s hg
  | .chTrigger c j => execChTrigger_good c j s hg
  | .dmaTransferDone c n => execDmaTransferDone_good c n s hg
  | .descriptorLoad c => execDescriptorLoad_good c s hg
  | .descriptorWriteback c => execDescriptorWriteback_good c s hg
  | .dmaAccessFail c => execDmaAccessFail_good c s hg
  | .engineError e => execEngineError_good e s hg
  | .poolEnable who p => execPoolEnable_good who p s hg
  | .poolDisable who p => execPoolDisable_good who p s hg
  | .poolAlloc who p => execPoolAlloc_good who p s hg
  | .poolRefill p => execPoolRefill_good p s hg
  | .poolSpill p => execPoolSpill_good p s hg
  | .bmFree who h => execBmFree_good who h s hg
  | .siloEnable who => execSiloEnable_good who s hg
  | .siloPut who lo hi => execSiloPut_good who lo hi s hg
  | .siloRecordWrite lag => execSiloRecordWrite_good lag s hg
  | .siloRecordDone => execSiloRecordDone_good s hg
  | .siloTrigger who => execSiloTrigger_good who s hg
  | .siloRearm who => execSiloRearm_good who s hg
  | .bulkWindowAccess k acc clash => execBulkWindowAccess_good k acc clash s hg
  | .bulkAddrWrite k data => execBulkAddrWrite_good k data s hg
  | .bulkStatusRead k addr => execBulkStatusRead_good k addr s hg
  | .bulkWritePerform k clash => execBulkWritePerform_good k clash s hg
  | .twinSeed who p => execTwinSeed_good who p s hg
  | .twinBreak who p => execTwinBreak_good who p s hg
  | .windowEnd gt => execWindowEnd_good gt s hg
  | .twinCompare p brk => execTwinCompare_good p brk s hg
  | .twinReportTimeout p brk => execTwinReportTimeout_good p brk s hg
  | .coreSelftestDone n pass => execCoreSelftestDone_good n pass s hg
  | .winInjectGo who u => execWinInjectGo_good who u s hg
  | .injectionTestDone u pass => execInjectionTestDone_good u pass s hg
  | .ownerByteWrite who off data => execOwnerByteWrite_good who off data s hg
  | .vcCreate who v => execVcCreate_good who v s hg
  | .vcReset who v => execVcReset_good who v s hg
  | .vcGenAdvance v => execVcGenAdvance_good v s hg
  | .vcRemove who v => execVcRemove_good who v s hg
  | .vcFreeze who v => execVcFreeze_good who v s hg
  | .vcFreezeComplete v => execVcFreezeComplete_good v s hg
  | .vcThaw who v => execVcThaw_good who v s hg
  | .vcSave who v => execVcSave_good who v s hg
  | .vcRestore who v => execVcRestore_good who v s hg
  | .imageDone v => execImageDone_good v s hg
  | .ifaceSelect v data => execIfaceSelect_good v data s hg
  | .apertureAccess v write => execApertureAccess_good v write s hg
  | .mbxTx v lo hi => execMbxTx_good v lo hi s hg
  | .mbxMove v => execMbxMove_good v s hg
  | .vcMbxPost who v lo hi => execVcMbxPost_good who v lo hi s hg
  | .mbxRx v => execMbxRx_good v s hg
  | .vcrReq v => execVcrReq_good v s hg
  | .coldReset boardDie => execColdReset_good boardDie s hg
  | .warmReset => execWarmReset_good s hg
  | .supplyUp boardDie lc => execSupplyUp_good boardDie lc s hg
  | .supplyLoss => execSupplyLoss_good s hg
  | .fuseLoad words parityOk => execFuseLoad_good words parityOk s hg
  | .repairAndHeader => execRepairAndHeader_good s hg
  | .bankWakeAndMarch fails => execBankWakeAndMarch_good fails s hg
  | .comparatorInjection pass => execComparatorInjection_good pass s hg
  | .bootAuthentication rom man stored placed busErr => execBootAuthentication_good rom man stored placed busErr s hg
  | .bootDoorbellReady who => execBootDoorbellReady_good who s hg
  | .bootDoorbellRecovery who => execBootDoorbellRecovery_good who s hg
  | .secDone pass => execSecDone_good pass s hg
  | .loftConfiguration => execLoftConfiguration_good s hg
  | .bootRelease who => execBootRelease_good who s hg
  | .releaseStart => execReleaseStart_good s hg
  | .startTimeout => execStartTimeout_good s hg
  | .renameEnter who n t => execRenameEnter_good who n t s hg
  | .renameExit who n => execRenameExit_good who n s hg
  | .modeReqDormant who => execModeReqDormant_good who s hg
  | .modeReqRun who => execModeReqRun_good who s hg
  | .modeReqLimp who => execModeReqLimp_good who s hg
  | .modeReqService who => execModeReqService_good who s hg
  | .clockChange who => execClockChange_good who s hg
  | .clkAck j => execClkAck_good j s hg
  | .pdReqWrite who hi data => execPdReqWrite_good who hi data s hg
  | .pdAck j => execPdAck_good j s hg
  | .fcSafe who => execFcSafe_good who s hg
  | .fcRelease who => execFcRelease_good who s hg
  | .safeReq => execSafeReq_good s hg
  | .wdogKick who key => execWdogKick_good who key s hg
  | .wdogExpire => execWdogExpire_good s hg
  | .safetyPowerLost => execSafetyPowerLost_good s hg
  | .laneWake j also => execLaneWake_good j also s hg
  | .aonTimerWake count also => execAonTimerWake_good count also s hg
  | .socWake also => execSocWake_good also s hg
  | .lifecycleChange lc => execLifecycleChange_good lc s hg
  | .debugAccess off acc => execDebugAccess_good off acc s hg
  | .dbgHalt who gt => execDbgHalt_good who gt s hg
  | .dbgResume who gt => execDbgResume_good who gt s hg
  | .dbgStep who gt => execDbgStep_good who gt s hg
  | .brEnable who p => execBrEnable_good who p s hg
  | .brDisable who p => execBrDisable_good who p s hg
  | .linkUp p partner offer id => execLinkUp_good p partner offer id s hg
  | .trainingTimeout p => execTrainingTimeout_good p s hg
  | .linkDown p cause => execLinkDown_good p cause s hg
  | .serdesLockLost p => execSerdesLockLost_good p s hg
  | .flitReceive p good seq ack => execFlitReceive_good p good seq ack s hg
  | .flitNak p seq => execFlitNak_good p seq s hg
  | .ackTimeout p => execAckTimeout_good p s hg
  | .downNotice p => execDownNotice_good p s hg
  | .retrain p => execRetrain_good p s hg
  | .inboundRequest p addr acc => execInboundRequest_good p addr acc s hg
  | .inboundBridgeEvent p j hop level => execInboundBridgeEvent_good p j hop level s hg
  | .inboundMessage p dst role data => execInboundMessage_good p dst role data s hg
  | .msgNack p full => execMsgNack_good p full s hg
  | .timeExchangeStart p t1 => execTimeExchangeStart_good p t1 s hg
  | .timeExchangeReply p t2 t3 t4 stepped => execTimeExchangeReply_good p t2 t3 t4 stepped s hg
  | .htpRequest off acc clash => execHtpRequest_good off acc clash s hg
  | .gwSnoop line inv => execGwSnoop_good line inv s hg
  | .testAccessUpdate write off data => execTestAccessUpdate_good write off data s hg
  | .testScan => execTestScan_good s hg
  | .pdLate => execPdLate_good s hg
  | .safetyPowerReturn => execSafetyPowerReturn_good s hg
  | .serdesLockGained p => execSerdesLockGained_good p s hg
  | .dbgClassChange cls v => execDbgClassChange_good cls v s hg

theorem exec_inv {i : Instr} {s t : State} (hs : s.Inv) (h : exec i s = .next t) : t.Inv := by
  obtain ⟨u, hu, hg⟩ := exec_good i s (good_of_inv hs)
  cases hu.symm.trans h
  exact hg.inv

/-- Settles O3: an idle step changes nothing, and a command keeps memory's form by `exec_inv`. -/
theorem stepKeepsMemoryCanonical : Obligations.StepKeepsMemoryCanonical := by
  unfold Obligations.StepKeepsMemoryCanonical
  intro s t hs h
  unfold step at h
  cases hp : s.pending with
  | nil =>
    rw [hp] at h
    cases h
    exact hs
  | cons c rest =>
    rw [hp] at h
    exact exec_inv (s := { s with pending := rest }) hs h

end Sys2Proof.Machine
end

section
/-!
SUPPORT. Messages between threads (R194 to R196, R287 to R291): what receiving leaves of a thread, how a message is
judged, and how SEND issues.
-/
namespace Sys2Proof.Machine

/-! ## RECV (R194) -/

/-- A thread that has taken message m into the pair of d, with inbox r left. -/
def Thread.received (u : Thread) (d : Reg) (m : BitVec 64) (r : List (BitVec 64)) : Thread :=
  (({ u with inbox := r } : Thread).wrPair d m).setFlags { u.flags with z := false }

theorem Thread.received_placed (u : Thread) (d : Reg) (m : BitVec 64) (r : List (BitVec 64)) :
    u.Placed (u.received d m r) :=
  Thread.Placed.trans (v := { u with inbox := r }) (Thread.Placed.refl u)
    ((Thread.wrPair_placed _ d m).trans (Thread.setFlags_placed _ _))
theorem Thread.received_sameRest (u : Thread) (d : Reg) (m : BitVec 64) (r : List (BitVec 64)) :
    ({ u with inbox := r } : Thread).sameRest (u.received d m r) :=
  Thread.sameRest_trans (Thread.wrPair_sameRest _ d m) (Thread.setFlags_sameRest _ _)
theorem Thread.flags_received (u : Thread) (d : Reg) (m : BitVec 64) (r : List (BitVec 64)) :
    (u.received d m r).flags = { u.flags with z := false } := Thread.flags_setFlags _ _
theorem Thread.rd_received (u : Thread) (d q : Reg) (m : BitVec 64) (r : List (BitVec 64)) (h : oddReg d = false) :
    (u.received d m r).rd q = if q = d + 1 then Word.hi m else if q = d ∧ d ≠ 0 then Word.lo m else u.rd q :=
  (Thread.rd_setFlags _ _ q).trans (Thread.rd_wrPair { u with inbox := r } d q m h)

/-- The operation of RECV, and its columns. -/
def recvBody (gt : Nat) (d : Reg) (wt : Bool) (s : State) : Exec :=
  match s.recvTake gt d with
  | some s' => .done s' .seq
  | none => if wt then .wait s (.recv d) else .done (s.modThread gt (fun t => t.setFlags { t.flags with z := true })) .seq
def insRecv (d : Reg) : Ins :=
  { odd := oddReg d, writes := pairRegs d, wrFlags := true, pairOk := false, via := true }

theorem execRecv_eq (x : Issue) (d : Reg) (wt : Bool) (s : State) :
    execRecv x d wt s = .next (s.issue x (insRecv d) (recvBody x.gt.val d wt)) := rfl

theorem State.recvTake_cons {s : State} {gt : Nat} {m : BitVec 64} {r : List (BitVec 64)} (d : Reg)
    (h : (s.thread gt).inbox = m :: r) :
    s.recvTake gt d = some (s.setThread gt ((s.thread gt).received d m r)) := by
  unfold State.recvTake
  simp only [h, Thread.received, Thread.flags_wrPair]
  rfl

section
variable {s : State} {gt : Nat}
theorem recvBody_cons {m : BitVec 64} {r : List (BitVec 64)} (d : Reg) (wt : Bool)
    (h : (s.thread gt).inbox = m :: r) :
    recvBody gt d wt s = .done (s.setThread gt ((s.thread gt).received d m r)) .seq := by
  simp only [recvBody, State.recvTake_cons d h]
theorem recvBody_nil_wait (d : Reg) (h : (s.thread gt).inbox = []) : recvBody gt d true s = .wait s (.recv d) := by
  simp [recvBody, State.recvTake, h]
theorem recvBody_nil (d : Reg) (h : (s.thread gt).inbox = []) : recvBody gt d false s =
    .done (s.setThread gt ((s.thread gt).setFlags { (s.thread gt).flags with z := true })) .seq := by
  simp [recvBody, State.recvTake, h, State.modThread]
end

/-- A written register read back: g0 reads zero (R111). -/
theorem Thread.rd_written (u : Thread) (d : Reg) (v : Word) :
    (if d = d ∧ d ≠ 0 then v else u.rd d) = if d = 0 then 0 else v := by
  by_cases h : d = 0
  · rw [if_neg (fun k => k.2 h), if_pos h, h, Thread.rd_zero]
  · rw [if_pos ⟨rfl, h⟩, if_neg h]

/-- The outcome is that the thread has taken message m, with inbox r left. -/
def State.receives (s : State) (o : Host.Outcome State Fault Refusal) (gt : Nat) (d : Reg) (m : BitVec 64)
    (r : List (BitVec 64)) : Prop :=
  let u := s.thread gt
  ∃ t, o = .next t ∧ s.stepped t gt ∧ u.wentOn (t.thread gt) ∧ u.sameRegsBut (t.thread gt) [d, d + 1] ∧
    (t.thread gt).rd d = (if d = 0 then 0 else m.extractLsb' 0 32) ∧
    (t.thread gt).rd (d + 1) = m.extractLsb' 32 32 ∧ (t.thread gt).flags = { u.flags with z := false } ∧
    ({ u with inbox := r } : Thread).sameRest (t.thread gt)

/-- A thread w like the one of s took the message, and completed. -/
theorem State.receives_of {s t : State} {gt : Nat} {d : Reg} {m : BitVec 64} {r : List (BitVec 64)} {w : Thread}
    (he : oddReg d = false) (h1 : s.stepped t gt) (h2 : (s.thread gt).wentOn (t.thread gt))
    (hw : (s.thread gt).keptBut w []) (h3 : Thread.Same (w.received d m r) (t.thread gt)) :
    s.receives (.next t) gt d m r := by
  obtain ⟨hr, hf, hrest⟩ := hw
  have rd (q : Reg) : (t.thread gt).rd q =
      if q = d + 1 then Word.hi m else if q = d ∧ d ≠ 0 then Word.lo m else (s.thread gt).rd q := by
    rw [h3.rd, Thread.rd_received w d q m r he, hr q (by simp)]
  have hne : d ≠ d + 1 := by bv_omega
  refine ⟨t, rfl, h1, h2, fun q hq => ?_, ?_, ?_, ?_, ?_⟩
  · simp only [List.mem_cons, List.not_mem_nil, or_false, not_or] at hq
    rw [rd, if_neg hq.2, if_neg (fun k => hq.1 k.1)]
  · rw [rd, if_neg hne, Thread.rd_written]; rfl
  · rw [rd, if_pos rfl]; rfl
  · rw [h3.flags, Thread.flags_received, hf]
  · refine Thread.sameRest_trans ?_ (Thread.sameRest_trans (Thread.received_sameRest w d m r) h3.rest)
    obtain ⟨a1, a2, a3, a4, -, a6, a7, a8, a9⟩ := hrest
    exact ⟨a1, a2, a3, a4, rfl, a6, a7, a8, a9⟩

theorem State.fetchAhead_keptBut (s : State) (gt : Nat) : (s.thread gt).keptBut ((s.fetchAhead gt).thread gt) [] :=
  (State.fetchAhead_unmoved s gt).2.1

section
variable {x : Issue} {d : Reg} {s : State} (h : s.issuesAlone x (insRecv d))
include h

theorem execRecv_takes {m : BitVec 64} {r : List (BitVec 64)} (wt : Bool) (hi : (s.thread x.gt.val).inbox = m :: r) :
    s.receives (execRecv x d wt s) x.gt.val d m r := by
  obtain ⟨his, htw⟩ := h
  have hb := recvBody_cons (s := s.fetchAhead x.gt.val) d wt ((State.fetchAhead_inbox s _).trans hi)
  obtain ⟨h1, h2, h3⟩ := State.issue_thread his (.inr htw) hb
    ((State.fetchAhead_placed s _).trans (Thread.received_placed _ d m r))
  exact State.receives_of (State.issues_even his) h1 h3 (State.fetchAhead_keptBut s _) h2

/-- With an empty inbox the waiting form waits. -/
theorem execRecv_waits (hi : (s.thread x.gt.val).inbox = []) :
    ∃ t, execRecv x d true s = .next t ∧ s.stepped t x.gt.val ∧ (s.thread x.gt.val).keptBut (t.thread x.gt.val) [] ∧
      (t.thread x.gt.val).pc = (s.thread x.gt.val).pc ∧ (t.thread x.gt.val).waiting = some (.recv d) ∧
      t.fld (fState x.gt.val) = stWait := by
  obtain ⟨his, htw⟩ := h
  have hb := recvBody_nil_wait (s := s.fetchAhead x.gt.val) d ((State.fetchAhead_inbox s _).trans hi)
  obtain ⟨q1, q2, -⟩ := State.beat_quiet (s.fetchAhead x.gt.val) x.gt.val (s.pairAfter x.gt.val x (insRecv d))
  have hk := Thread.keptBut_same (State.fetchAhead_keptBut s x.gt.val) q2.toSame
  rw [execRecv_eq, State.issue_wait his (.inr htw) hb]
  refine ⟨_, rfl, ?_, ?_⟩
  · exact State.stepped_trans (State.fetchAhead_stepped s _) (State.stepped_trans q1
      (State.stepped_trans (State.stepped_modThread _ _ _) (State.stepped_setFld _ _ _ _ (by simp [fState]))))
  · rw [State.thread_setFld, State.thread_modThread_same]
    exact ⟨⟨hk.1, hk.2.1, hk.2.2⟩, q2.pc.trans (State.fetchAhead_pc s _), rfl,
      State.fld_setFld_same _ _ _ (by simp [Fld.ok, fState]) (by simp [fState, stWait])⟩

/-- With an empty inbox the other form sets Z. -/
theorem execRecv_empty (hi : (s.thread x.gt.val).inbox = []) :
    ∃ t, execRecv x d false s = .next t ∧ s.ran t x.gt.val [] ∧
      (t.thread x.gt.val).flags = { (s.thread x.gt.val).flags with z := true } := by
  obtain ⟨his, htw⟩ := h
  have hb := recvBody_nil (s := s.fetchAhead x.gt.val) d ((State.fetchAhead_inbox s _).trans hi)
  obtain ⟨kr, kf, ks⟩ := State.fetchAhead_keptBut s x.gt.val
  obtain ⟨h1, h2, h3⟩ := State.issue_thread his (.inr htw) hb
    ((State.fetchAhead_placed s _).trans (Thread.setFlags_placed _ _))
  rw [execRecv_eq]
  refine ⟨_, rfl, ⟨h1, h3, ?_, fun q hq => (h2.rd q).trans (kr q hq), h2.line⟩, ?_⟩
  · exact Thread.sameRest_trans ks (Thread.sameRest_trans (Thread.setFlags_sameRest _ _) h2.rest)
  · rw [h2.flags, Thread.flags_setFlags, kf]
end

/-- A waiting instruction of a thread that is no twin member completes: it no longer waits, and goes on. -/
theorem State.completeWait_alone {s : State} {gt : Nat} (ws : List Reg) (z via : Bool) (h : (s.thread gt).twin = none) :
    s.completeWait gt ws z via = ((s.modThread gt (fun t => { t with waiting := none })).setFld (fState gt) stReady).complete
      gt .seq (s.thread gt).pairOpen := by
  simp [State.completeWait, State.agreeDone, State.agreeAdd, Thread.primaryOf, h]

/-- A RECV that waits completes with the first message. -/
theorem execRecvComplete_takes {gt : GT} {d : Reg} {s : State} {m : BitVec 64} {r : List (BitVec 64)}
    (hi : (s.thread gt.val).inbox = m :: r) (hw : (s.thread gt.val).waiting = some (.recv d))
    (he : oddReg d = false) (htw : (s.thread gt.val).twin = none) (hd : (s.thread gt.val).noneDue)
    (hs : (s.thread gt.val).stopReq = false) (hc : s.mayComplete gt.val = true) :
    s.receives (execRecvComplete gt s) gt.val d m r := by
  let u := (s.thread gt.val).received d m r
  let v := { u with waiting := none }
  let s0 := s.setThread gt.val u
  let s1 := (s0.modThread gt.val (fun t => { t with waiting := none })).setFld (fState gt.val) stReady
  have hu : s0.thread gt.val = u := State.thread_setThread_same _ _ _
  have hv : s1.thread gt.val = v := by
    simp only [s1, v, State.thread_setFld, State.thread_modThread_same, hu]
  have hp : (s.thread gt.val).Placed v := Thread.received_placed (s.thread gt.val) d m r
  have ht : u.twin = none := (Thread.received_sameRest _ d m r).2.2.2.2.2.2.2.2.trans htw
  have e : execRecvComplete gt s = .next (s1.complete gt.val .seq (s0.thread gt.val).pairOpen) := by
    unfold execRecvComplete
    simp only [hw, hc, State.recvTake_cons d hi, Bool.not_true, Bool.false_eq_true, if_false]
    exact congrArg _ (State.completeWait_alone (pairRegs d) true true (by rw [hu]; exact ht))
  obtain ⟨q1, q2, -⟩ := State.complete_quiet s1 gt.val .seq (s0.thread gt.val).pairOpen
    (by rw [hv]; exact hp.none hd) (by rw [hv]; exact hp.2.2.2.2.2.trans hs)
  rw [hv] at q2
  rw [e]
  refine State.receives_of he ?_ (Thread.wentOn_still hp.wentOn q2) (Thread.keptBut_refl _ _) ?_
  · exact State.stepped_trans (State.stepped_trans (State.stepped_setThread _ _ _) (State.stepped_trans
      (State.stepped_modThread _ _ _) (State.stepped_setFld _ _ _ _ (by simp [fState])))) q1
  · exact Thread.Same.trans (Thread.Same.trans
      (v := v) ⟨rfl, rfl, rfl, rfl, rfl, rfl, rfl, rfl, rfl, rfl, rfl, rfl, rfl, rfl, rfl, rfl⟩
      (Thread.advance_same v .seq)) q2.toSame
/-! ## How a message is judged (R289, R290) -/

/-- The destination thread of a message's destination word, and whether the word reaches the role it names. -/
def dstOf (w : Word) : Nat := (bitsOf w 10 0).toNat
def State.reachesRole (s : State) (sender : Nat) (w : Word) : Prop :=
  s.memberOk sender (dstOf w) = true ∧ s.fld (fRoleGen (dstOf w)) = bitsOf w 27 16

section
variable {s : State} {g : Nat} {w : Word} (data : BitVec 64)

theorem State.acceptMessage_absent (hc : s.corePresent (dstOf w / 64) = false) :
    s.acceptMessage g w data = (2, s.countUp ⟨0x1051C014, 15, 0⟩) := by
  unfold dstOf at hc
  simp [State.acceptMessage, State.judgeMessage, hc]

variable (hc : s.corePresent (dstOf w / 64) = true)
include hc

theorem State.acceptMessage_stale (hp : ¬ s.reachesRole g w) :
    s.acceptMessage g w data = (2, s.countUp (fStaleCount (dstOf w))) := by
  unfold dstOf at *
  unfold State.reachesRole dstOf at hp
  have : (!s.memberOk g (bitsOf w 10 0).toNat ||
      (s.fld (fRoleGen (bitsOf w 10 0).toNat)).toNat != (bitsOf w 27 16).toNat) = true := by
    simp only [Bool.or_eq_true, Bool.not_eq_true', bne_iff_ne, ne_eq]
    by_contra hn
    simp only [not_or, Bool.not_eq_false, not_not] at hn
    exact hp ⟨hn.1, BitVec.eq_of_toNat_eq hn.2⟩
  simp [State.acceptMessage, State.judgeMessage, hc, this]

variable (hp : s.reachesRole g w)
include hp

theorem State.acceptMessage_full (hl : 8 ≤ (s.thread (dstOf w)).inbox.length) :
    s.acceptMessage g w data = (1, s.countUp (fFullCount (dstOf w))) := by
  obtain ⟨h1, h2⟩ := hp
  unfold dstOf at *
  simp [State.acceptMessage, State.judgeMessage, hc, h1, h2, hl]

theorem State.acceptMessage_taken (hl : (s.thread (dstOf w)).inbox.length < 8) : s.acceptMessage g w data =
    (0, s.modThread (dstOf w) (fun t => { t with inbox := t.inbox ++ [data] })) := by
  obtain ⟨h1, h2⟩ := hp
  unfold dstOf at *
  simp [State.acceptMessage, State.judgeMessage, hc, h1, h2, Nat.not_le.2 hl]
end

/-! ## SEND (R195, R196, R561) -/

theorem Thread.record_alone {t : Thread} (h : t.twin = none) (bs : List Byte) : t.record bs = t := by
  simp [Thread.record, h]

/-- A thread that is no twin member forms no record. -/
theorem State.recorded_alone {s s' : State} {gt : Nat} {ws : List Reg} {rec : List Byte} {body : State → Exec}
    {nx : Next} (hb : body s = .done s' nx) :
    s.recorded gt false ws rec body = .done (s'.modThread gt (fun t => t.record rec)) nx := by
  simp [State.recorded, hb]

/-- SEND's columns. -/
def insSend (d a b : Reg) (long : Bool) : Ins :=
  { odd := oddReg a, reads := b :: pairRegs a, writes := [d], pairOk := false, long := long }

section
variable {x : Issue} {d a b : Reg} {s s' : State}

/-- What SEND leaves when its operation came to s', in which the thread stands where it stood. -/
theorem execSend_done (long : Bool) (h : s.issuesAlone x (insSend d a b long))
    (hl : long = !(s.sendHere ((s.thread x.gt.val).rd b) && dstOf ((s.thread x.gt.val).rd b) / 64 == x.gt.val / 64))
    (hb : (s.fetchAhead x.gt.val).sendBody x.gt.val d ((s.thread x.gt.val).rd b) ((s.thread x.gt.val).rdPair a) =
      .done s' .seq)
    (ht : (s'.thread x.gt.val).twin = none) (hp : (s.thread x.gt.val).Placed (s'.thread x.gt.val)) :
    ∃ t, execSend x d a b s = .next t ∧ s'.stepped t x.gt.val ∧ Thread.Same (s'.thread x.gt.val) (t.thread x.gt.val) ∧
      (s.thread x.gt.val).wentOn (t.thread x.gt.val) := by
  obtain ⟨his, htw⟩ := h
  let gt := x.gt.val
  let w := (s.thread gt).rd b
  let rec' (s : State) : List Byte := [4, 0, 0, 0] ++ toBytes 4 w.toNat ++ toBytes 8 ((s.thread gt).rdPair a).toNat
  let body (s : State) : Exec := s.recorded gt (s.thread gt).twin.isSome [d] (rec' s)
    (fun s' => s'.sendBody gt d w ((s.thread gt).rdPair a))
  have e : execSend x d a b s = .next (s.issue x (insSend d a b long) body) := by
    have hsh : (s.thread gt).isShadow = false := by simp [Thread.isShadow, gt, htw]
    unfold execSend
    simp only [hsh, hl, Bool.not_false, Bool.and_true, gt] 
    rfl
  have hb' : body (s.fetchAhead gt) = .done (s'.modThread gt (fun t => t.record (rec' (s.fetchAhead gt)))) .seq := by
    simp only [body, gt, State.fetchAhead_twin, htw, Option.isSome_none]
    exact State.recorded_alone (by rw [State.fetchAhead_rdPair]; exact hb)
  have hth : (s'.modThread gt (fun t => t.record (rec' (s.fetchAhead gt)))).thread gt = s'.thread gt := by
    rw [State.thread_modThread_same, Thread.record_alone ht]
  obtain ⟨q1, q2, q3⟩ := State.issue_ran his (.inr htw) hb' (by rw [hth]; exact hp)
  rw [hth] at q2
  exact ⟨_, e, State.stepped_trans (State.stepped_modThread _ _ _) q1, q2, q3⟩

end

/-! ## Registers outside a thread's own survive its instruction -/

theorem State.stepped_reg {s t : State} (gt : GT) (h : s.stepped t gt.val) {a : Nat} (ha : 0x10320000 ≤ a) :
    t.reg a = s.reg a := by
  refine h.2.2 a fun b hb => ?_
  have hg := gt.isLt
  rw [canon_id (.inr ha)]
  simp only [List.mem_cons, List.not_mem_nil, or_false] at hb
  rcases hb with rfl | rfl | rfl <;> rw [canon_tReg gt (by omega)] <;> (unfold tReg coreBase; omega)

theorem State.stepped_fld {s t : State} (gt : GT) (h : s.stepped t gt.val) {x : Fld} (hx : 0x10320000 ≤ x.addr) :
    t.fld x = s.fld x := by
  simp only [State.fld, State.stepped_reg gt h hx]

theorem State.corePresent_congr {s t : State} (h : t.regs = s.regs) (n : Nat) : t.corePresent n = s.corePresent n := by
  simp only [State.corePresent, State.powered, State.reg_congr h]
theorem State.owner_congr {s t : State} (h : t.regs = s.regs) (off : Nat) : t.owner off = s.owner off := by
  have hb : t.ownByte off = s.ownByte off := by simp only [State.ownByte, State.reg_congr h]
  unfold State.owner
  simp only [hb, State.fld_congr h]
theorem State.reachesRole_congr {s t : State} (h : t.regs = s.regs) (g : Nat) (w : Word) :
    t.reachesRole g w ↔ s.reachesRole g w := by
  simp only [State.reachesRole, State.memberOk, State.owner_congr h, State.bit_congr h, State.fld_congr h]
theorem State.sendHere_congr {s t : State} (h : t.regs = s.regs) (w : Word) : t.sendHere w = s.sendHere w := by
  simp only [State.sendHere, State.selfDie, State.fld_congr h]
theorem State.fld_countUp_congr {s t : State} (h : t.regs = s.regs) (x y : Fld) :
    (t.countUp x).fld y = (s.countUp x).fld y := by
  refine State.fld_congr ?_ y
  simp only [State.countUp, State.setFld, State.setReg, State.fld_congr h, State.reg_congr h, h]

theorem State.issues_corePresent {s : State} {x : Issue} {i : Ins} (h : s.issues x i) :
    s.corePresent (x.gt.val / 64) = true := by
  have h1 := h.2.1
  simp only [State.canIssue, State.hasBeats, Bool.and_eq_true] at h1
  tauto

theorem State.fetchAhead_inbox_any (s : State) (gt g : Nat) :
    ((s.fetchAhead gt).thread g).inbox = (s.thread g).inbox := by
  by_cases h : g = gt
  · subst h; exact State.fetchAhead_inbox s g
  · rw [(State.fetchAhead_stepped s gt).2.1 g h]

/-- A message appended to an inbox changes no more of any thread than its inbox. -/
theorem State.thread_append_inbox (s : State) (dst q : Nat) (data : BitVec 64) : ∃ i,
    (s.modThread dst (fun t => { t with inbox := t.inbox ++ [data] })).thread q = { s.thread q with inbox := i } := by
  by_cases h : q = dst
  · exact ⟨_, by rw [h, State.thread_modThread_same]⟩
  · exact ⟨_, State.thread_modThread_other s _ h⟩

theorem State.inbox_append (s : State) (dst : Nat) (data : BitVec 64) :
    ((s.modThread dst (fun t => { t with inbox := t.inbox ++ [data] })).thread dst).inbox =
      (s.thread dst).inbox ++ [data] := by
  rw [State.thread_modThread_same]

section
variable {s : State} {k p : Nat} (w : Word) (data : BitVec 64)
theorem State.sendToDie_none (h : s.route k = none) : s.sendToDie k w data = (2, s) := by
  simp [State.sendToDie, h]
theorem State.sendToDie_full (h : s.route k = some p) (hl : 16 ≤ (s.link p).messages) :
    s.sendToDie k w data = (1, s) := by
  simp [State.sendToDie, h, hl]
theorem State.sendToDie_room (h : s.route k = some p) (hl : (s.link p).messages < 16) :
    s.sendToDie k w data = (0, s.linkPush p (.message w data)) := by
  simp [State.sendToDie, h, Nat.not_le.2 hl]
end

theorem State.stepped_msgs {s t : State} {gt : Nat} (h : s.stepped t gt) : t.msgs = s.msgs := by rw [h.1]
theorem State.stepped_links {s t : State} {gt : Nat} (h : s.stepped t gt) : t.links = s.links := by rw [h.1]
theorem State.stepped_routes {s t : State} {gt : Nat} (h : s.stepped t gt) : t.routes = s.routes := by rw [h.1]
theorem State.fetchAhead_route (s : State) (gt k : Nat) : (s.fetchAhead gt).route k = s.route k := by
  have hd : (s.fetchAhead gt).selfDie = s.selfDie := by simp only [State.selfDie, State.fetchAhead_fld]
  simp only [State.route, State.stepped_routes (State.fetchAhead_stepped s gt), hd]
theorem State.link_congr {s t : State} (h : t.links = s.links) (p : Nat) : t.link p = s.link p := by
  simp only [State.link, h]
theorem State.linkPush_links_congr {s t : State} (h : t.links = s.links) (p : Nat) (it : BrItem) :
    (t.linkPush p it).links = (s.linkPush p it).links := by
  simp only [State.linkPush, State.modLink, State.link_congr h, h]

/-! ## The three ways of SEND -/

/-- The long operation of a SEND. -/
def Thread.sendOp (t : Thread) (d : Reg) (need : Nat) (r : Option OpResult) : LongOp :=
  ⟨0, t.pc, d, false, 0, 0, .zext 4, need, [], r, t.primaryOf.isSome, false⟩

section
variable {s : State} {gt : Nat} {d : Reg} {w : Word} {data : BitVec 64}

theorem State.sendBody_own {c : Nat} {r : State} (hs : s.sendHere w = true) (ho : dstOf w / 64 = gt / 64)
    (ha : s.acceptMessage gt w data = (c, r)) : s.sendBody gt d w data =
      .done (r.modThread gt (fun t => t.wr d (BitVec.ofNat 32 c))) .seq := by
  unfold dstOf at ho
  simp [State.sendBody, hs, ho, ha]
theorem State.sendBody_core (hs : s.sendHere w = true) (ho : dstOf w / 64 ≠ gt / 64) : s.sendBody gt d w data =
    .done { (s.setThread gt ((s.thread gt).addOp ((s.thread gt).sendOp d 1 none))) with
      msgs := s.msgs ++ [(gt, (s.thread gt).nextOp, w, data)] } .seq := by
  unfold dstOf at ho
  simp [State.sendBody, hs, ho, Thread.sendOp]
theorem State.sendBody_die {c : Nat} {r : State} (hs : s.sendHere w = false)
    (hr : s.sendToDie (bitsOf w 12 11).toNat w data = (c, r)) : s.sendBody gt d w data =
      .done (r.modThread gt (fun t => t.addOp ((s.thread gt).sendOp d 0 (some (.value (BitVec.ofNat 32 c) 0))))) .seq := by
  simp [State.sendBody, hs, hr, Thread.sendOp]
end

/-- The instruction went on, and of registers and flags it wrote d alone. -/
def State.wroteOnly (s t : State) (gt : Nat) (d : Reg) (v : Word) : Prop :=
  (s.thread gt).wentOn (t.thread gt) ∧ (s.thread gt).sameRegsBut (t.thread gt) [d] ∧
  (t.thread gt).flags = (s.thread gt).flags ∧ (t.thread gt).rd d = (if d = 0 then 0 else v)

section
variable {x : Issue} {d a b : Reg} {s : State}

/-- A message to a thread of the own core: the outcome c of its judgement, which left r, is written to d. -/
theorem execSend_own {c : Nat} {r : State} (h : s.issuesAlone x (insSend d a b false))
    (hs : s.sendHere ((s.thread x.gt.val).rd b) = true) (ho : dstOf ((s.thread x.gt.val).rd b) / 64 = x.gt.val / 64)
    (hr : (s.fetchAhead x.gt.val).acceptMessage x.gt.val ((s.thread x.gt.val).rd b) ((s.thread x.gt.val).rdPair a) =
      (c, r))
    (hi : ∃ i, r.thread x.gt.val = { (s.fetchAhead x.gt.val).thread x.gt.val with inbox := i }) :
    ∃ t, execSend x d a b s = .next t ∧ s.wroteOnly t x.gt.val d (BitVec.ofNat 32 c) ∧ r.stepped t x.gt.val ∧
      ∀ q, (t.thread q).inbox = (r.thread q).inbox := by
  obtain ⟨i, hi⟩ := hi
  obtain ⟨kr, kf, ks⟩ := State.fetchAhead_keptBut s x.gt.val
  have hp : (s.thread x.gt.val).Placed { (s.fetchAhead x.gt.val).thread x.gt.val with inbox := i } :=
    State.fetchAhead_placed s x.gt.val
  have hth : (r.modThread x.gt.val (fun t => t.wr d (BitVec.ofNat 32 c))).thread x.gt.val =
      ({ (s.fetchAhead x.gt.val).thread x.gt.val with inbox := i } : Thread).wr d (BitVec.ofNat 32 c) := by
    rw [State.thread_modThread_same, hi]
  have htw : ({ (s.fetchAhead x.gt.val).thread x.gt.val with inbox := i } : Thread).twin = none :=
    (State.fetchAhead_twin s _).trans h.2
  obtain ⟨t, e, q1, q2, q3⟩ := execSend_done false h (by simp [hs, ho])
    (State.sendBody_own (by rw [State.sendHere_congr (State.fetchAhead_regs s _)]; exact hs) ho hr)
    (by rw [hth]; exact (Thread.wr_sameRest _ _ _).2.2.2.2.2.2.2.2.trans htw)
    (by rw [hth]; exact hp.trans (Thread.wr_placed _ _ _))
  rw [hth] at q2
  have hrd (q : Reg) : (t.thread x.gt.val).rd q =
      if q = d ∧ d ≠ 0 then BitVec.ofNat 32 c else (s.thread x.gt.val).rd q := by
    rw [q2.rd, Thread.rd_wr]
    exact if_congr Iff.rfl rfl (kr q (by simp))
  have hst := State.stepped_trans (State.stepped_modThread r x.gt.val (fun t => t.wr d (BitVec.ofNat 32 c))) q1
  refine ⟨t, e, ⟨q3, fun q hq => ?_, ?_, ?_⟩, hst, fun q => ?_⟩
  · rw [hrd, if_neg (fun k => hq (by simp [k.1]))]
  · rw [q2.flags, Thread.flags_wr]; exact kf
  · rw [hrd, Thread.rd_written]
  · by_cases hq : q = x.gt.val
    · rw [hq, hi]
      exact q2.rest.2.2.2.2.1.trans (Thread.wr_sameRest _ _ _).2.2.2.2.1
    · rw [hst.2.1 q hq]

section
variable (h : s.issuesAlone x (insSend d a b true))
include h

/-- A message that leaves the core is a long operation of SEND. -/
theorem execSend_long {n : Nat} {res : Option OpResult} {s' : State}
    (hl : (s.sendHere ((s.thread x.gt.val).rd b) && dstOf ((s.thread x.gt.val).rd b) / 64 == x.gt.val / 64) = false)
    (hb : (s.fetchAhead x.gt.val).sendBody x.gt.val d ((s.thread x.gt.val).rd b) ((s.thread x.gt.val).rdPair a) =
      .done s' .seq)
    (hth : s'.thread x.gt.val = ((s.fetchAhead x.gt.val).thread x.gt.val).addOp
      (((s.fetchAhead x.gt.val).thread x.gt.val).sendOp d n res)) :
    ∃ t, execSend x d a b s = .next t ∧ s'.stepped t x.gt.val ∧
      ∃ o, s.longIssued t x.gt.val o ∧ o.d = d ∧ o.pair = false ∧ o.need = n ∧ o.result = res := by
  obtain ⟨ls, ah, hf⟩ := State.fetchAhead_thread s x.gt.val
  rw [hf] at hth
  obtain ⟨t, e, q1, q2, q3⟩ := execSend_done true h (by rw [hl]; rfl) hb (by rw [hth]; exact h.2)
    (by rw [hth]; exact ⟨rfl, rfl, rfl, ⟨rfl, rfl, rfl⟩, rfl, rfl⟩)
  rw [hth] at q2
  have hk : (({ s.thread x.gt.val with lineBuf := ls, ahead := ah } : Thread).addOp
      (({ s.thread x.gt.val with lineBuf := ls, ahead := ah } : Thread).sendOp d n res)).keptBut (t.thread x.gt.val) [] :=
    Thread.keptBut_same (Thread.keptBut_refl _ _) q2
  exact ⟨t, e, q1, { (s.thread x.gt.val).sendOp d n res with id := (s.thread x.gt.val).nextOp },
    ⟨q3, hk, rfl, rfl⟩, rfl, rfl, rfl, rfl⟩

/-- A message to another die: the outbound path's outcome c is the operation's result at once. -/
theorem execSend_die {c : Nat} {r : State} (hs : s.sendHere ((s.thread x.gt.val).rd b) = false)
    (hr : (s.fetchAhead x.gt.val).sendToDie (bitsOf ((s.thread x.gt.val).rd b) 12 11).toNat ((s.thread x.gt.val).rd b)
      ((s.thread x.gt.val).rdPair a) = (c, r))
    (ht : r.thread x.gt.val = (s.fetchAhead x.gt.val).thread x.gt.val) :
    ∃ t, execSend x d a b s = .next t ∧
      (∃ o, s.longIssued t x.gt.val o ∧ o.d = d ∧ o.need = 0 ∧ o.result = some (.value (BitVec.ofNat 32 c) 0)) ∧
      t.links = r.links := by
  obtain ⟨t, e, q, o, ho, hd, -, hn, hres⟩ := execSend_long h (by rw [hs]; rfl)
    (State.sendBody_die (by rw [State.sendHere_congr (State.fetchAhead_regs s _)]; exact hs) hr)
    (by rw [State.thread_modThread_same, ht])
  exact ⟨t, e, ⟨o, ho, hd, hn, hres⟩, State.stepped_links (State.stepped_trans (State.stepped_modThread _ _ _) q)⟩
end
end

/-! ## MSG_ACCEPT (R31, R290 to R292) -/

/-- The sender has a message for core n. -/
def State.sendsTo (s : State) (n g : Nat) : Bool :=
  s.msgs.any (fun m => m.1 == g && decide ((bitsOf m.2.2.1 10 0).toNat / 64 = n))

theorem State.messageOf_isSome (s : State) (n g : Nat) : (s.messageOf n g).isSome = s.sendsTo n g :=
  List.isSome_find?

/-- The first core in rotating order that a sender belongs to. -/
theorem nextInTurn_eq {last k : Nat} {gs : List Nat} (hk : k < 32) {g : Nat} (hg : g ∈ gs)
    (ht : g / 64 = (last + 1 + k) % 32) (hn : ∀ j < k, ∀ q ∈ gs, q / 64 ≠ (last + 1 + j) % 32) :
    nextInTurn last gs = some (g / 64) := by
  have hf : (List.range 32).find? ((fun c => gs.any (fun g => g / 64 == c)) ∘ fun i => (last + 1 + i) % 32) = some k := by
    rw [List.find?_range_eq_some]
    refine ⟨?_, List.mem_range.2 hk, fun j hj => ?_⟩
    · simpa using ⟨g, hg, ht⟩
    · simpa using fun q hq => hn j hj q hq
  rw [nextInTurn, List.find?_map, hf, Option.map_some, ht]

section
variable {n : Core} {here : List GT} {g : GT} {k : Nat} {m : Nat × Nat × Word × BitVec 64} {s : State}
  (hk : k < 32)
  (hn : ∀ j < k, ∀ q ∈ here, s.sendsTo n.val q.val = true → q.val / 64 ≠ (Map.get 31 s.msgTurn n.val + 1 + j) % 32)
  (hg : here.find? (fun q => s.sendsTo n.val q.val && decide (q.val / 64 = (Map.get 31 s.msgTurn n.val + 1 + k) % 32)) =
    some g)
  (hm : s.messageOf n.val g.val = some m)
include hk hn hg hm

/-- The core's next message is taken off the way. -/
theorem execMsgAccept_judges {c : Nat} {r : State}
    (hr : ({ s with msgs := s.msgs.erase m, msgTurn := Map.set 31 s.msgTurn n.val (g.val / 64) } : State).acceptMessage
      m.1 m.2.2.1 m.2.2.2 = (c, r)) :
    execMsgAccept n here s = .next (r.modOp m.1 m.2.1 (fun o =>
      { o with need := 0, result := some (.value (BitVec.ofNat 32 c) 0) })) := by
  have hs := List.find?_some hg
  simp only [Bool.and_eq_true, decide_eq_true_eq] at hs
  obtain ⟨hs, ht⟩ := hs
  let gs := (here.map (fun g => g.val)).filter (fun g => (s.messageOf n.val g).isSome)
  have hmem : g.val ∈ gs := List.mem_filter.2
    ⟨List.mem_map_of_mem (List.mem_of_find?_eq_some hg), by rw [State.messageOf_isSome]; exact hs⟩
  have hturn : nextInTurn (Map.get 31 s.msgTurn n.val) gs = some (g.val / 64) := by
    refine nextInTurn_eq hk hmem ht fun j hj q hq => ?_
    obtain ⟨hq, hsome⟩ := List.mem_filter.1 hq
    obtain ⟨q', hq', rfl⟩ := List.mem_map.1 hq
    exact hn j hj q' hq' ((State.messageOf_isSome s _ _).symm.trans hsome)
  have hfirst : gs.find? (fun q => q / 64 == g.val / 64) = some g.val := by
    have e : ((fun q => decide (s.sendsTo n.val q = true ∧ (q / 64 == g.val / 64) = true)) ∘ fun q : GT => q.val) =
        fun q => s.sendsTo n.val q.val && decide (q.val / 64 = (Map.get 31 s.msgTurn n.val + 1 + k) % 32) := by
      funext q
      simp [ht]
    simp only [gs, State.messageOf_isSome, List.find?_filter, List.find?_map]
    rw [e, hg, Option.map_some]
  unfold execMsgAccept
  simp only [show nextInTurn (Map.get 31 s.msgTurn n.val) ((here.map (fun g => g.val)).filter
    (fun g => (s.messageOf n.val g).isSome)) = some (g.val / 64) from hturn]
  simp only [show ((here.map (fun g => g.val)).filter (fun g => (s.messageOf n.val g).isSome)).find?
    (fun q => q / 64 == g.val / 64) = some g.val from hfirst, Option.bind_some, hm, hr]
end

/-- Settles O15: RECV by the cases of the inbox, SEND by where its destination lies, MSG_ACCEPT by how the message is
judged. -/
theorem messagesAreSentAndReceived : Obligations.MessagesAreSentAndReceived := by
  unfold Obligations.MessagesAreSentAndReceived
  refine ⟨?recv, ?send, ?accept⟩
  case recv =>
    intro x d wt s gt u took
    refine ⟨fun h => ?_, fun m r hi hw he htw hd hs hc => execRecvComplete_takes hi hw he htw hd hs hc⟩
    cases hi : u.inbox with
    | cons m r => exact execRecv_takes h wt hi
    | nil =>
      cases wt with
      | true => exact execRecv_waits h hi
      | false => exact execRecv_empty h hi
  case send =>
    intro x d a b s gt u w data dst die here ins own
    have hs : here ↔ s.sendHere w = true := by
      simp [here, die, State.sendHere]
    refine ⟨?own, ?core, ?die⟩
    case own =>
      intro hh ho h pass inbox
      have hreg := State.fetchAhead_regs s gt
      have hc : (s.fetchAhead gt).corePresent (dst / 64) = true := by
        rw [State.corePresent_congr hreg, ho]; exact State.issues_corePresent h.1
      have hrole : (s.fetchAhead gt).reachesRole gt w ↔ pass := State.reachesRole_congr hreg gt w
      have hin : ((s.fetchAhead gt).thread dst).inbox = inbox := State.fetchAhead_inbox_any s gt dst
      have hcount (x : Fld) : ((s.fetchAhead gt).countUp x).fld x = (s.countUp x).fld x :=
        State.fld_countUp_congr hreg x x
      refine ⟨fun hp hl => ?_, fun hp hl => ?_, fun hp => ?_⟩
      · obtain ⟨t, e, ht, -, hi⟩ := execSend_own h (hs.1 hh) ho (State.acceptMessage_taken data hc (hrole.2 hp)
          (by rw [← hin] at hl; exact hl)) (State.thread_append_inbox _ _ _ _)
        exact ⟨t, e, ht, (hi dst).trans
          ((State.inbox_append _ dst data).trans (congrArg (· ++ [data]) hin))⟩
      · obtain ⟨t, e, ht, hst, hi⟩ := execSend_own h (hs.1 hh) ho (State.acceptMessage_full data hc (hrole.2 hp)
          (by rw [← hin] at hl; exact hl)) ⟨_, rfl⟩
        exact ⟨t, e, ht, (hi dst).trans hin, (State.stepped_fld x.gt hst (by simp [fFullCount, msgRole]; omega)).trans (hcount _)⟩
      · obtain ⟨t, e, ht, hst, hi⟩ := execSend_own h (hs.1 hh) ho (State.acceptMessage_stale data hc
          (fun k => hp (hrole.1 k))) ⟨_, rfl⟩
        exact ⟨t, e, ht, (hi dst).trans hin, (State.stepped_fld x.gt hst (by simp [fStaleCount, msgRole]; omega)).trans (hcount _)⟩
    case core =>
      intro hh ho h
      have hb := State.sendBody_core (s := s.fetchAhead gt) (gt := gt) (d := d) (data := data)
        (by rw [State.sendHere_congr (State.fetchAhead_regs s gt)]; exact hs.1 hh) ho
      obtain ⟨t, e, ht, o, ho1, ho2, ho3, ho4, ho5⟩ := execSend_long (n := 1) (res := none) h
        (by simp only [Bool.and_eq_false_iff, beq_eq_false_iff_ne]; exact .inr ho) hb (State.thread_setThread_same _ _ _)
      have hop : ((s.fetchAhead gt).thread gt).nextOp = u.nextOp := (State.fetchAhead_sameRest s gt).2.2.2.1
      refine ⟨t, e, o, ho1, ho2, ho3, ho4, ho5, (State.stepped_msgs ht).trans ?_⟩
      simp only [State.stepped_msgs (State.fetchAhead_stepped s gt), hop]
    case die =>
      intro hh h res
      have hf : s.sendHere w = false := Bool.eq_false_iff.2 fun k => hh (hs.2 k)
      have hl := State.stepped_links (State.fetchAhead_stepped s gt)
      have hroute := State.fetchAhead_route s gt die
      refine ⟨fun hr => ?_, fun p hr hm => ?_, fun p hr hm => ?_⟩ <;> rw [← hroute] at hr
      · obtain ⟨t, e, ho, ht⟩ := execSend_die h hf (State.sendToDie_none w data hr) rfl
        exact ⟨t, e, ho, ht.trans hl⟩
      · obtain ⟨t, e, ho, ht⟩ := execSend_die h hf
          (State.sendToDie_full w data hr (by rw [State.link_congr hl]; exact hm)) rfl
        exact ⟨t, e, ho, ht.trans hl⟩
      · obtain ⟨t, e, ho, ht⟩ := execSend_die h hf
          (State.sendToDie_room w data hr (by rw [State.link_congr hl]; exact hm)) rfl
        exact ⟨t, e, ho, ht.trans (State.linkPush_links_congr hl p _)⟩
  case accept =>
    intro n here g k m s w dst sends turn hk hn hg hm u ends pass inbox
    have hj := @execMsgAccept_judges n here g k m s hk hn hg hm
    have hcore : dst / 64 = n.val := by
      have := List.find?_some hm
      simp only [Bool.and_eq_true, decide_eq_true_eq] at this
      exact this.2
    refine ⟨fun hc => ?_, fun hc hp => ?_, fun hc hp hl => ?_, fun hc hp hl => ?_⟩ <;> rw [← hcore] at hc
    · exact hj (State.acceptMessage_absent (s := u) _ hc)
    · exact hj (State.acceptMessage_stale (s := u) _ hc hp)
    · exact hj (State.acceptMessage_full (s := u) _ hc hp hl)
    · exact hj (State.acceptMessage_taken (s := u) _ hc hp hl)

end Sys2Proof.Machine
end

section
/-!
SUPPORT. Stores to the bins (R42, R123, R127, R177, R309): the checks and the path of a part that lies in the own core's
bins or in an aliased range of them, and what a store leaves in memory.
-/
namespace Sys2Proof.Machine

/-! ## Bytes of bank memory -/

theorem State.byte_setByte (s : State) (a x : Nat) (v : Byte) :
    (s.setByte a v).byte x = if x = a then v else s.byte x := by
  unfold State.byte State.setByte
  split
  · rename_i h; rw [h, Map.get_set_same]
  · rename_i h; exact Map.get_set_other _ _ _ _ h

theorem State.byte_setBytes (s : State) (a x : Nat) (bs : List Byte) : (s.setBytes a bs).byte x =
    if a ≤ x ∧ x < a + bs.length then bs.getD (x - a) 0 else s.byte x := by
  induction bs generalizing s a with
  | nil => rw [if_neg (by simp)]; rfl
  | cons b r ih =>
    rw [State.setBytes, ih, State.byte_setByte, List.length_cons]
    by_cases h : x = a
    · rw [if_neg (by omega), if_pos h, if_pos (by omega), h, Nat.sub_self]; rfl
    · by_cases h1 : a + 1 ≤ x ∧ x < a + 1 + r.length
      · rw [if_pos h1, if_pos (by omega), show x - a = (x - (a + 1)) + 1 by omega]; rfl
      · rw [if_neg h1, if_neg h, if_neg (by omega)]

theorem State.setBytes_near (s : State) (a : Nat) (bs : List Byte) :
    s.setBytes a bs = { s with mem := (s.setBytes a bs).mem } := by
  induction bs generalizing s a with
  | nil => rfl
  | cons b r ih => rw [State.setBytes, ih]; rfl

/-- Of memory, the bytes from address b on have become f of what they were and of what is stored; nothing else
changed but lines of the instruction cache (R83). -/
def State.merged (s t : State) (b : Nat) (bs : List Byte) (f : Byte → Byte → Byte) : Prop :=
  t = { s with mem := t.mem, icache := t.icache } ∧ s.sameMemBut t b bs.length ∧
  ∀ k < bs.length, t.byte (b + k) = f (s.byte (b + k)) (bs.getD k 0)

theorem State.merged_append {s t u : State} {b : Nat} {xs ys : List Byte} {f : Byte → Byte → Byte}
    (h : s.merged t b xs f) (k : t.merged u (b + xs.length) ys f) : s.merged u b (xs ++ ys) f := by
  obtain ⟨h1, h2, h3⟩ := h
  obtain ⟨k1, k2, k3⟩ := k
  refine ⟨by rw [k1, h1], fun x hx => ?_, fun j hj => ?_⟩
  · rw [List.length_append] at hx
    rw [k2 x (by omega), h2 x (by omega)]
  · rw [List.length_append] at hj
    by_cases hl : j < xs.length
    · rw [k2 _ (by omega), h3 j hl, List.getD_append _ _ _ _ hl]
    · have := k3 (j - xs.length) (by omega)
      rw [show b + xs.length + (j - xs.length) = b + j by omega] at this
      rw [this, h2 _ (by omega), List.getD_append_right _ _ _ _ (by omega)]

/-- An access for which nobody waits is performed at its bank. -/
theorem State.performAt_merged (s : State) (b : Nat) (act : MemAct) (bs : List Byte) (f : Byte → Byte → Byte)
    (hw : act.isWrite = true) (hl : act.size = bs.length) 
    (hf : act.apply (s.bytes b bs.length) = List.zipWith f (s.bytes b bs.length) bs) :
    s.merged (s.performAt ⟨.posted, b, act⟩) b bs f := by
  have e : s.performAt ⟨.posted, b, act⟩ =
      (s.setBytes b (List.zipWith f (s.bytes b bs.length) bs)).icacheDrop (lineOf b) := by
    simp only [State.performAt, hw, if_true, State.bankWrite, State.deliver, hl, hf]
  have hlen : (List.zipWith f (s.bytes b bs.length) bs).length = bs.length := by simp [State.bytes]
  have hby (x : Nat) : (s.performAt ⟨.posted, b, act⟩).byte x =
      (s.setBytes b (List.zipWith f (s.bytes b bs.length) bs)).byte x := by rw [e]; rfl
  refine ⟨?_, fun x hx => ?_, fun k hk => ?_⟩
  · rw [e, State.setBytes_near]; rfl
  · rw [hby, State.byte_setBytes, if_neg (by omega)]
  · rw [hby, State.byte_setBytes, if_pos (by omega), show b + k - b = k by omega]
    simp [State.bytes, hk, List.getD_eq_getElem?_getD]

/-! ## Ways of a store -/

/-- What a store leaves of a byte; a shadow stores complements, and through an aliased range does the other's work (R423). -/
def StoreWay.merge (w : StoreWay) (sh : Bool) (old data : Byte) : Byte :=
  if sh && w == .plain then ~~~ data
  else if sh then (if w == .setAlias then StoreWay.clearAlias else StoreWay.setAlias).leaves old data
  else w.leaves old data

/-- The region of an address x of the bins, or of its aliased one. -/
def StoreWay.region (w : StoreWay) (x : Nat) : Region :=
  match w with
  | .plain => .bank (x / 0x10000)
  | .setAlias => .aliasSet x
  | .clearAlias => .aliasClr x

/-- Address x is one of the own core's bins, of a bank that CORES owns and that is not DRAINING (R304, R305). -/
def State.ownByteAt (s : State) (gt x : Nat) : Prop :=
  x / 0x40000 = gt / 64 ∧ s.coresBank (x / 0x10000) = true ∧ s.bit (fDraining (x / 0x10000)) = false

theorem State.ownBins_byte {s : State} {gt a n x : Nat} (h : s.ownBins gt a n) (hn : n ≤ 8) (h1 : a ≤ x)
    (h2 : x < a + n) : s.ownByteAt gt x := by
  obtain ⟨ha, hb, hbank⟩ := h
  have hx : x / 0x10000 = a / 0x10000 ∨ x / 0x10000 = (a + n - 1) / 0x10000 := by omega
  exact ⟨by omega, hbank _ hx⟩

theorem StoreWay.shift_cases (w : StoreWay) : w = .plain ∧ w.shift = 0 ∨ w = .setAlias ∧ w.shift = 0x4000000 ∨
    w = .clearAlias ∧ w.shift = 0x8000000 := by
  cases w
  · exact .inl ⟨rfl, rfl⟩
  · exact .inr (.inl ⟨rfl, rfl⟩)
  · exact .inr (.inr ⟨rfl, rfl⟩)

theorem checkRights_store {s : State} {gt i off l : Nat} (w : StoreWay) (k : AccKind) (o : BitVec 48) (hk : k ≠ .fetch)
    (hr : s.reaches gt i off l (w != .plain) true) :
    checkRights (s.desc gt i) (s.bit (fCurLead gt)) k (w != .plain) true o = none := by
  obtain ⟨hv, hl, hrd, hwr, -⟩ := hr
  unfold checkRights
  cases hw : (w != .plain) <;> cases hlead : (s.desc gt i).lead <;> simp_all

section
variable {s : State} {gt : GT} {x : Nat} (h : s.ownByteAt gt.val x) (w : StoreWay)
include h

theorem State.ownByteAt_lt : x < 0x800000 := by
  have := h.1
  have := gt.isLt
  omega

theorem StoreWay.addr_lt : x + w.shift < 0x8800000 := by
  have := State.ownByteAt_lt h
  have := w.shift_cases
  omega

theorem State.region_ownByte : s.region (x + w.shift) = w.region x := by
  have hx := State.ownByteAt_lt h
  have hm : s.bankMapped (x / 0x10000) = true := by
    have := h.2.1
    simp only [State.coresBank, Bool.and_eq_true] at this
    exact this.1
  have hr : s.memRegion x = .bank (x / 0x10000) := by
    simp [State.memRegion, bankOf, hx, hm]
  have hc := w.shift_cases
  generalize w.shift = k at hc
  unfold State.region
  rcases hc with ⟨rfl, hk⟩ | ⟨rfl, hk⟩ | ⟨rfl, hk⟩
  · rw [if_pos (by omega), show x + k = x by omega, hr]; rfl
  · rw [if_neg (by omega), if_pos (by omega), show x + k - 0x4000000 = x by omega, hr]; rfl
  · rw [if_neg (by omega), if_neg (by omega), if_pos (by omega), show x + k - 0x8000000 = x by omega, hr]; rfl

theorem State.threadRegion_ownByte : s.threadRegion (x + w.shift) = w.region x := by
  have hx := State.ownByteAt_lt h
  unfold State.threadRegion
  rw [State.region_ownByte h w]
  cases w <;> simp [StoreWay.region, h.2.1, bankOf, hx]

theorem underlying_ownByte : underlying (x + w.shift) = x := by
  have hx := State.ownByteAt_lt h
  have hc := w.shift_cases
  have hlt := StoreWay.addr_lt h w
  generalize w.shift = k at hc hlt
  unfold underlying
  rw [if_pos (by omega)]
  omega

theorem ownBin_ownByte : ownBin gt.val (x + w.shift) = true := by
  have hx := State.ownByteAt_lt h
  have hu := underlying_ownByte h w
  unfold underlying at hu
  simp [ownBin, hu, hx, h.1]

theorem nearAt_ownByte : nearAt gt.val (x + w.shift) = true := by simp [nearAt, ownBin_ownByte h w]

theorem State.drainingAt_ownByte : s.drainingAt (x + w.shift) = false := by
  have hx := State.ownByteAt_lt h
  unfold State.drainingAt
  rw [underlying_ownByte h w]
  simp [bankOf, hx, h.2.2]

theorem State.flushHolds_ownByte (c : Nat) : s.flushHolds c (x + w.shift) = false := by
  have hx := State.ownByteAt_lt h
  have hc := w.shift_cases
  have hlt := StoreWay.addr_lt h w
  generalize w.shift = k at hc hlt
  unfold State.flushHolds
  rw [if_neg (by omega), decide_eq_false (by omega)]
  simp

theorem ownTxw_ownByte : ownTxw gt.val (x + w.shift) = none := by
  have hlt := StoreWay.addr_lt h w
  generalize w.shift = k at hlt
  unfold ownTxw blockOf
  rw [if_pos (by omega)]

theorem aliasAt_ownByte : aliasAt (x + w.shift) = (w != .plain) := by
  have hx := State.ownByteAt_lt h
  have hc := w.shift_cases
  generalize w.shift = k at hc
  unfold aliasAt
  rcases hc with ⟨rfl, hk⟩ | ⟨rfl, hk⟩ | ⟨rfl, hk⟩
  · rw [decide_eq_false (by omega)]; rfl
  · rw [decide_eq_true (by omega), decide_eq_true (by omega)]; rfl
  · rw [decide_eq_true (by omega), decide_eq_true (by omega)]; rfl

theorem farAt_ownByte : farAt (x + w.shift) = false := by
  have hlt := StoreWay.addr_lt h w
  exact decide_eq_false (by omega)

/-- R123 passes for l bytes at an offset whose address is x, or its aliased one. -/
theorem State.checkAccess_ownByte {i off l : Nat} (hr : s.reaches gt.val i off l (w != .plain) true)
    (hx : (s.desc gt.val i).base + off = x + w.shift) :
    s.checkAccess gt.val i .store off l = .ok (x + w.shift) := by
  have hlt := StoreWay.addr_lt h w
  have hlim := hr.2.2.2.2
  have ht := State.threadRegion_ownByte h w
  have ha := aliasAt_ownByte h w
  have hc (k : AccKind) (hk : k ≠ .fetch) := checkRights_store w k (BitVec.ofNat 48 off) hk hr
  generalize hy : x + w.shift = y at *
  unfold State.checkAccess
  simp only [hx, ht, ha, reduceCtorEq, decide_false, decide_true, Bool.false_or, Bool.true_and, or_true, and_true]
  rw [hc _ (by split <;> decide)]
  simp only []
  rw [if_neg (by omega), if_neg (by omega)]
  cases w <;> rfl
end

theorem State.coresBank_congr {s t : State} (h : t.regs = s.regs) (b : Nat) : t.coresBank b = s.coresBank b := by
  simp only [State.coresBank, State.bankMapped, State.bankPresent, State.powered, State.reg_congr h, State.fld_congr h]
theorem State.ownByteAt_congr {s t : State} (h : t.regs = s.regs) {gt x : Nat} (hx : s.ownByteAt gt x) :
    t.ownByteAt gt x := by
  obtain ⟨h1, h2, h3⟩ := hx
  exact ⟨h1, (State.coresBank_congr h _).trans h2, (State.bit_congr h _).trans h3⟩

theorem zipWith_right {α β γ : Type} (g : β → γ) (xs : List α) (ys : List β) (h : xs.length = ys.length) :
    List.zipWith (fun _ y => g y) xs ys = ys.map g := by
  apply List.ext_getElem <;> simp [h]

/-! ## A part of a store -/

theorem State.bytes_length (s : State) (a n : Nat) : (s.bytes a n).length = n := by simp [State.bytes]

section
variable {s : State} {gt : GT} {x : Nat} (h : s.ownByteAt gt.val x)
include h

theorem State.bankPart_ownByte (act : MemAct) (cached clash : Bool) :
    s.bankPart gt.val ⟨.posted, x, act⟩ cached clash = s.performAt ⟨.posted, x, act⟩ := by
  have ho : ownBin gt.val x = true := ownBin_ownByte h .plain
  simp [State.bankPart, ho]

omit h in
theorem StoreWay.add_shift_plain (x : Nat) : x + StoreWay.plain.shift = x := rfl

/-- A part that begins at x, or at its aliased address, is merged into memory at x. -/
theorem State.storePart_merged (w : StoreWay) (bs : List Byte) (clash : Bool) :
    s.merged (s.storePart gt.val (x + w.shift) bs .posted clash) x bs (w.merge (s.thread gt.val).isShadow) := by
  have hl := State.bytes_length s x bs.length
  unfold State.storePart
  simp only [State.threadRegion_ownByte h w]
  cases w <;> cases (s.thread gt.val).isShadow <;>
    simp only [StoreWay.region, StoreWay.add_shift_plain, State.bankPart_ownByte h, Bool.false_eq_true, if_false, if_true]
  · exact State.performAt_merged s x (.write bs) bs _ rfl rfl
      ((List.map_id bs).symm.trans (zipWith_right id _ bs hl).symm)
  · exact State.performAt_merged s x (.write (bs.map (fun b => ~~~ b))) bs _ rfl (List.length_map _)
      (zipWith_right (fun b => ~~~ b) _ bs hl).symm
  · exact State.performAt_merged s x _ bs _ rfl rfl rfl
  · exact State.performAt_merged s x _ bs _ rfl rfl rfl
  · exact State.performAt_merged s x _ bs _ rfl rfl rfl
  · exact State.performAt_merged s x _ bs _ rfl rfl rfl

theorem State.storeOne_merged (w : StoreWay) (seg : Fin 8) (bs : List Byte) (rest : Option (Nat × List Byte))
    (second split clash : Bool) : s.merged (s.storeOne gt.val seg (x + w.shift) bs rest second split clash) x bs
      (w.merge (s.thread gt.val).isShadow) := by
  unfold State.storeOne
  rw [if_pos (nearAt_ownByte h w)]
  exact State.storePart_merged h w bs clash
end

/-! ## The parts of a store (R127) -/

/-- An access is one part, or two that divide its bytes. -/
theorem partsOf_cases (base off n : Nat) (hn : 0 < n) : partsOf base off n = [(base + off, off, n)] ∨
    ∃ d, 0 < d ∧ d < n ∧ partsOf base off n = [(base + off, off, d), (base + off + d, off + d, n - d)] := by
  unfold partsOf splitParts
  by_cases hm : (base + off) % n = 0
  · left
    simp [hm]
  · right
    have h1 := Nat.div_add_mod (base + off) n
    have h2 := Nat.mod_lt (base + off) hn
    rw [Nat.mul_comm] at h1
    generalize (base + off) / n * n = q at *
    refine ⟨q + n - (base + off), by omega, by omega, ?_⟩
    simp only [hm, ne_eq, not_false_eq_true, if_true, List.map_cons, List.map_nil]
    rw [show base + off - base = off by omega, show q + n - base = off + (q + n - (base + off)) by omega,
      show base + off + (q + n - (base + off)) = q + n by omega]

/-- A store of n bytes at an offset of segment i goes to address a of the own core's bins, or to its aliased address of way w,
and nothing stands in its way. -/
structure State.Fits (s : State) (gt i off a n : Nat) (w : StoreWay) : Prop where
  small : n ≤ 8
  addr : (s.desc gt i).base + off = a + w.shift
  reach : s.reaches gt i off n (w != .plain) true
  own : s.ownBins gt a n
  clear : (s.thread gt).clearOf (a + w.shift) n
  free : w ≠ .plain → ∀ p ∈ s.dwait, p.2.ref.ofThread gt = true → a + n ≤ p.2.addr ∨ p.2.addr + p.2.act.size ≤ a

/-- The part of l bytes, j bytes on. -/
def partAt (a off : Nat) (w : StoreWay) (j l : Nat) : Part := (a + j + w.shift, off + j, l)

section
variable {s : State} {gt : GT} {i off a n : Nat} {w : StoreWay} (h : s.Fits gt.val i off a n w)
include h

theorem State.Fits.parts (hn : 0 < n) : partsOf (s.desc gt.val i).base off n = [partAt a off w 0 n] ∨ ∃ d, 0 < d ∧ d < n ∧
    partsOf (s.desc gt.val i).base off n = [partAt a off w 0 d, partAt a off w d (n - d)] := by
  have := partsOf_cases (s.desc gt.val i).base off n hn
  rw [h.addr] at this
  refine this.imp id fun ⟨d, h0, hd, e⟩ => ⟨d, h0, hd, ?_⟩
  rw [e, show a + w.shift + d = a + d + w.shift by omega]
  rfl

section
variable {j l : Nat} (hl : 0 < l) (hj : j + l ≤ n)
include hl hj

theorem State.Fits.byteAt : s.ownByteAt gt.val (a + j) :=
  State.ownBins_byte h.own h.small (by omega) (by omega)

theorem State.Fits.check : s.checkAccess gt.val i .store (off + j) l = .ok (a + j + w.shift) := by
  obtain ⟨h1, h2, h3, h4, h5⟩ := h.reach
  exact State.checkAccess_ownByte (h.byteAt hl hj) w ⟨h1, h2, h3, h4, by omega⟩ (by have := h.addr; omega)

theorem State.Fits.overtakes : s.overtakes gt.val (partAt a off w j l) = false := by
  have hs : ((s.thread gt.val).stores.any fun o => match o.rest with
      | some (b, bs) => overlap (a + j + w.shift) l b bs.length
      | none => false) = false := by
    rw [List.any_eq_false]
    intro o ho
    cases hr : o.rest with
    | none => simp
    | some p =>
      have := h.clear o ho p hr
      simp only [overlap, Bool.and_eq_true, decide_eq_true_eq]
      omega
  have hd : (decide (0x4000000 ≤ a + j + w.shift) && decide (a + j + w.shift < 0xC000000) &&
      s.dwait.any (fun q => q.2.ref.ofThread gt.val && overlap (a + j) l q.2.addr q.2.act.size)) = false := by
    have ha : _ = (w != .plain) := aliasAt_ownByte (h.byteAt hl hj) w
    unfold aliasAt at ha
    rw [ha, Bool.and_eq_false_iff]
    by_cases hw : w = .plain
    · left; simp [hw]
    · right
      rw [List.any_eq_false]
      intro q hq
      simp only [overlap, Bool.and_eq_true, decide_eq_true_eq]
      rintro ⟨ht, h1, h2⟩
      have := h.free hw q hq ht
      omega
  have hu : underlying (partAt a off w j l).1 = a + j := underlying_ownByte (h.byteAt hl hj) w
  unfold State.overtakes
  rw [hu]
  exact Bool.or_eq_false_iff.2 ⟨hd, hs⟩
end

/-! ## The operation of a store -/

/-- Any part of the store. -/
theorem State.Fits.part (hn : 0 < n) {p : Part} (hp : p ∈ partsOf (s.desc gt.val i).base off n) :
    ∃ j l, 0 < l ∧ j + l ≤ n ∧ p = partAt a off w j l := by
  rcases h.parts hn with e | ⟨d, h0, hd, e⟩ <;> rw [e] at hp
  · exact ⟨0, n, hn, by omega, by simpa using hp⟩
  · simp only [List.mem_cons, List.not_mem_nil, or_false] at hp
    rcases hp with rfl | rfl
    · exact ⟨0, d, h0, by omega, rfl⟩
    · exact ⟨d, n - d, by omega, by omega, rfl⟩

theorem State.Fits.checkParts {ps : List Part} (hp : ∀ p ∈ ps, ∃ j l, 0 < l ∧ j + l ≤ n ∧ p = partAt a off w j l)
    (split second : Bool) : s.checkParts gt.val i .store ps split second = none := by
  induction ps generalizing second with
  | nil => rfl
  | cons p r ih =>
    obtain ⟨j, l, hl, hj, rfl⟩ := hp p (by simp)
    have hr : s.threadRegion (a + j + w.shift) ≠ .ctl := by
      rw [State.threadRegion_ownByte (h.byteAt hl hj) w]
      cases w <;> simp [StoreWay.region]
    unfold State.checkParts
    simp only [partAt, h.check hl hj, beq_eq_false_iff_ne.2 hr, Bool.and_false, Bool.false_eq_true, if_false]
    exact ih (fun q hq => hp q (by simp [hq])) true

theorem State.Fits.accessHeld (hn : 0 < n) : s.accessHeld gt.val true (partsOf (s.desc gt.val i).base off n) = none := by
  have hp := fun p hp => h.part hn (p := p) hp
  generalize partsOf (s.desc gt.val i).base off n = ps at hp
  have none_of {f : Part → Bool} (hf : ∀ j l, 0 < l → j + l ≤ n → f (partAt a off w j l) = false) :
      ¬ ps.any f = true := by
    rw [Bool.not_eq_true, List.any_eq_false]
    intro p hps
    obtain ⟨j, l, hl, hj, rfl⟩ := hp p hps
    simp [hf j l hl hj]
  have hq : ps.filter (fun p => !nearAt gt.val p.1 && decide (p.1 < 0xC000000)) = [] := by
    rw [List.filter_eq_nil_iff]
    intro p hps
    obtain ⟨j, l, hl, hj, rfl⟩ := hp p hps
    simp [partAt, nearAt_ownByte (h.byteAt hl hj) w]
  unfold State.accessHeld
  simp only [hq, Bool.true_and]
  refine (if_neg ?_).trans ((if_neg ?_).trans ((if_neg ?_).trans ((if_neg ?_).trans (if_neg ?_))))
  · exact none_of fun j l hl hj => State.drainingAt_ownByte (h.byteAt hl hj) w
  · exact none_of fun j l hl hj => h.overtakes hl hj
  · exact none_of fun j l hl hj => State.flushHolds_ownByte (h.byteAt hl hj) w _
  · simp
  · exact none_of fun j l hl hj => by simp only [partAt, ownTxw_ownByte (h.byteAt hl hj) w]

theorem State.Fits.accessBreak (hn : 0 < n) :
    s.accessBreak gt.val ((partsOf (s.desc gt.val i).base off n).map (fun p => p.1)) = s := by
  unfold State.accessBreak
  rw [if_pos]
  rw [List.all_map, List.all_eq_true]
  intro p hps
  obtain ⟨j, l, hl, hj, rfl⟩ := h.part hn hps
  simp [contractFree, partAt, nearAt_ownByte (h.byteAt hl hj) w]

/-- The parts of the store merge its bytes into memory at a. -/
theorem State.Fits.storeParts (seg : Fin 8) (bs : List Byte) (hl : bs.length = n) (hn : 0 < n) (c1 c2 : Bool) :
    s.merged (s.storeParts gt.val seg (partsOf (s.desc gt.val i).base off n) bs c1 c2) a bs
      (w.merge (s.thread gt.val).isShadow) := by
  rcases h.parts hn with e | ⟨d, h0, hd, e⟩ <;> rw [e]
  · exact State.storeOne_merged (h.byteAt hn (Nat.le_of_eq (Nat.zero_add n))) w seg bs none false false c1
  · have m1 := State.storeOne_merged (h.byteAt h0 (j := 0) (by omega)) w seg (bs.take d) none false true c1
    have b2 := State.ownByteAt_congr (congrArg State.regs m1.1) (h.byteAt (l := n - d) (by omega) (j := d) (by omega))
    have m2 := State.storeOne_merged b2 w seg (bs.drop d) none true true c2
    rw [State.thread_congr (congrArg State.threads m1.1)] at m2
    have hfar : farAt (partAt a off w 0 d).1 = false := farAt_ownByte (h.byteAt h0 (j := 0) (by omega)) w
    simp only [State.storeParts, hfar, Bool.false_eq_true, if_false]
    have hd' : (bs.take d).length = d := by simp; omega
    have m := State.merged_append m1 (by rw [hd']; exact m2)
    rwa [List.take_append_drop] at m

/-- The operation of the store. -/
theorem State.Fits.storeBody (hn : 0 < n) (m : MemOp) (hm : m.seg.val = i) (ho : s.memOff gt.val m = off)
    (bs : List Byte) (hl : bs.length = n) :
    ∃ t, s.storeBody gt.val m n bs = .done t .seq ∧ s.merged t a bs (w.merge (s.thread gt.val).isShadow) := by
  subst hm ho
  refine ⟨_, ?_, h.storeParts m.seg bs hl hn m.clash m.clash2⟩
  unfold State.storeBody
  simp only [State.memParts, State.memBase, h.checkParts (fun p hp => h.part hn hp), h.accessHeld hn, h.accessBreak hn]
end

/-! ## A store as an instruction -/

/-- A store within memory has no form VIA in a twin. -/
theorem State.Fits.memVia {s : State} {gt : GT} {a n : Nat} {w : StoreWay} {m : MemOp} (hn : 0 < n)
    (h : s.Fits gt.val m.seg.val (s.memOff gt.val m) a n w) : s.memVia gt.val m n = false := by
  have hr := State.region_ownByte (h.byteAt hn (j := 0) (by omega)) w
  rw [Nat.add_zero, ← h.addr] at hr
  unfold State.memVia State.memBase
  simp only [hr]
  cases w <;> simp [StoreWay.region]

/-- The line buffer aside, an issuing thread finds its store as it was. -/
theorem State.Fits.fetchAhead {s : State} {gt : GT} {i off a n : Nat} {w : StoreWay} (h : s.Fits gt.val i off a n w) :
    (s.fetchAhead gt.val).Fits gt.val i off a n w := by
  have hreg := State.fetchAhead_regs s gt.val
  have hd : (s.fetchAhead gt.val).desc gt.val i = s.desc gt.val i := by
    simp only [State.desc, State.fetchAhead_reg]
  have hw : (s.fetchAhead gt.val).dwait = s.dwait := by rw [(State.fetchAhead_stepped s gt.val).1]
  obtain ⟨h1, h2, h3, h4, h5, h6⟩ := h
  refine ⟨h1, by rw [hd]; exact h2, ?_, ?_, ?_, by rw [hw]; exact h6⟩
  · unfold State.reaches at *
    rwa [hd, State.fetchAhead_bit]
  · obtain ⟨h7, h8, h9⟩ := h4
    exact ⟨h7, h8, fun b hb => by rw [State.coresBank_congr hreg, State.fetchAhead_bit]; exact h9 b hb⟩
  · unfold Thread.clearOf at *
    rwa [State.fetchAhead_stores]

theorem Thread.storeBytes_length (t : Thread) (d : Reg) (n : Nat) : (t.storeBytes d n).length = n := by
  have hl (k v : Nat) : (toBytes k v).length = k := by
    induction k generalizing v with
    | zero => rfl
    | succ k ih => simp [toBytes, ih]
  unfold Thread.storeBytes
  split
  · rename_i e; rw [hl, e]
  · exact hl n _

/-- Of the state an instruction of the thread changed its own, and bytes of memory as f says. -/
def State.stored (s t : State) (gt a : Nat) (bs : List Byte) (f : Byte → Byte → Byte) : Prop :=
  t = { s with regs := t.regs, threads := t.threads, mem := t.mem, icache := t.icache } ∧ s.sameThreadsBut t gt ∧
  s.sameRegsBut t [tReg gt 0x04, tReg gt 0x24, tReg gt 0x2C] ∧ s.sameMemBut t a bs.length ∧
  ∀ k < bs.length, t.byte (a + k) = f (s.byte (a + k)) (bs.getD k 0)

theorem State.stored_of {s u v t : State} {gt a : Nat} {bs : List Byte} {f : Byte → Byte → Byte}
    (h : s.stepped u gt) (hm : u.merged v a bs f) (k : v.stepped t gt) : s.stored t gt a bs f := by
  obtain ⟨h1, h2, h3⟩ := h
  obtain ⟨m1, m2, m3⟩ := hm
  obtain ⟨k1, k2, k3⟩ := k
  have hb := State.sameMem_of_near h1
  have kb := State.sameMem_of_near k1
  have mr : v.regs = u.regs := by rw [m1]
  have mt : v.threads = u.threads := by rw [m1]
  refine ⟨by rw [k1, m1, h1], fun g hg => ?_, fun x hx => ?_, fun x hx => ?_, fun j hj => ?_⟩
  · rw [k2 g hg, State.thread_congr mt, h2 g hg]
  · rw [k3 x hx, State.reg_congr mr, h3 x hx]
  · rw [kb, m2 x hx, hb]
  · rw [kb, m3 j hj, hb]

/-- The operation of a store with its record (R433). -/
def storeRecorded (gt : Nat) (m : MemOp) (n : Nat) (s : State) : Exec :=
  let bs := (s.thread gt).storeBytes m.d n
  s.recorded gt (s.memVia gt m n) [] (recStore n (s.memBase gt m + s.memOff gt m) (s.memOff gt m) m.seg bs)
    (fun s => s.storeBody gt m n bs)

theorem execStore_eq (x : Issue) (m : MemOp) (n : Nat) (s : State) :
    execStore x m n s = s.issue x (insStore m n) (storeRecorded x.gt.val m n) := rfl

/-- A store that fits its bins completes at once: it goes on, and its bytes are in memory. -/
theorem execStore_stored {x : Issue} {m : MemOp} {n a : Nat} {w : StoreWay} {s : State} (hn : 0 < n)
    (h : s.Fits x.gt.val m.seg.val (s.memOff x.gt.val m) a n w) (hi : s.issues x (insStore m n)) :
    s.stored (execStore x m n s) x.gt.val a ((s.thread x.gt.val).storeBytes m.d n)
      (w.merge (s.thread x.gt.val).isShadow) ∧
    (s.thread x.gt.val).wentOn ((execStore x m n s).thread x.gt.val) ∧
    (s.thread x.gt.val).keptBut ((execStore x m n s).thread x.gt.val) [] := by
  let F := s.fetchAhead x.gt.val
  have hoff : F.memOff x.gt.val m = s.memOff x.gt.val m := by simp only [State.memOff, F, State.fetchAhead_rd]
  have hbs : (F.thread x.gt.val).storeBytes m.d n = (s.thread x.gt.val).storeBytes m.d n := by
    simp only [Thread.storeBytes, F, State.fetchAhead_rd, State.fetchAhead_rdPair]
  have hF : F.Fits x.gt.val m.seg.val (F.memOff x.gt.val m) a n w := by rw [hoff]; exact h.fetchAhead
  obtain ⟨v, hv, hm⟩ := hF.storeBody hn m rfl rfl _ (Thread.storeBytes_length (F.thread x.gt.val) m.d n)
  have hth : v.thread x.gt.val = F.thread x.gt.val := State.thread_congr (congrArg State.threads hm.1) _
  let rec' := recStore n (F.memBase x.gt.val m + F.memOff x.gt.val m) (F.memOff x.gt.val m) m.seg
    ((F.thread x.gt.val).storeBytes m.d n)
  have hbody : storeRecorded x.gt.val m n F = .done (v.modThread x.gt.val (fun t => t.record rec')) .seq := by
    unfold storeRecorded
    simp only [hF.memVia hn]
    exact State.recorded_alone hv
  have hrec := Thread.record_still (F.thread x.gt.val) rec'
  have hmod : (v.modThread x.gt.val (fun t => t.record rec')).thread x.gt.val = (F.thread x.gt.val).record rec' := by
    rw [State.thread_modThread_same, hth]
  obtain ⟨q1, q2, q3⟩ := State.issue_ran hi (.inl rfl) hbody
    (by
      rw [hmod]
      refine (State.fetchAhead_placed s _).trans ⟨hrec.pc, hrec.npc, hrec.inDelay, hrec.loops, ?_, hrec.stop⟩
      exact Thread.record_delayed _ _)
  rw [hmod] at q2
  rw [execStore_eq]
  refine ⟨?_, q3, ?_⟩
  · rw [← hbs, ← State.fetchAhead_isShadow s x.gt.val]
    exact State.stored_of (State.fetchAhead_stepped s _) hm (State.stepped_trans (State.stepped_modThread _ _ _) q1)
  · exact Thread.keptBut_same (Thread.keptBut_same (State.fetchAhead_keptBut s _) hrec.toSame) q2

theorem toBytes_getD (n v : Nat) {k : Nat} (h : k < n) : (toBytes n v).getD k 0 = BitVec.ofNat 8 (v / 256 ^ k) := by
  induction n generalizing v k with
  | zero => omega
  | succ n ih =>
    cases k with
    | zero => simp [toBytes]
    | succ k =>
      have := ih (v / 256) (k := k) (by omega)
      rw [toBytes, List.getD_cons_succ, this, Nat.div_div_eq_div_mul, Nat.pow_succ, Nat.mul_comm]

/-- A little-endian byte of a 64-bit value (R6). -/
theorem toBytes_extract (n : Nat) (v : BitVec 64) {k : Nat} (h : k < n) :
    (toBytes n v.toNat).getD k 0 = v.extractLsb' (8 * k) 8 := by
  rw [toBytes_getD n _ h]
  apply BitVec.eq_of_toNat_eq
  rw [BitVec.extractLsb'_toNat, BitVec.toNat_ofNat, Nat.shiftRight_eq_div_pow, Nat.pow_mul]

/-! ## The response of a store (R93, R94, R130, R151) -/

theorem State.touched_setFld (s : State) (gt : Nat) {as : List Nat} (x : Fld) (v : Word) (hx : x.addr ∈ as) :
    s.touched (s.setFld x v) gt as :=
  ⟨rfl, fun _ _ => rfl, State.sameRegsBut_mono (State.sameRegsBut_setFld s x v) (by
    intro a ha
    rw [List.mem_singleton.1 ha]
    exact List.mem_append_right _ hx)⟩

/-- The counting register of a thread is none of those its step writes. -/
theorem contract_ne_state (gt : GT) : canon (tReg gt.val 0x14) ≠ canon (tReg gt.val 0x04) := by
  rw [canon_tReg gt (by omega), canon_tReg gt (by omega)]; unfold tReg; omega

/-- What a counted contract break leaves: the count, and its mark in the thread's status (R94). -/
def State.Counted (s t : State) (gt : GT) : Prop :=
  s.touched t gt.val [tReg gt.val 0x14] ∧ t.fld (fContract gt.val) = (s.countUp (fContract gt.val)).fld (fContract gt.val) ∧
    t.fld (fState gt.val) = s.fld (fState gt.val)

theorem State.fld_countUp_addr (s : State) {x y : Fld} (h : canon y.addr ≠ canon x.addr) :
    (s.countUp x).fld y = s.fld y := State.fld_setFld_addr s _ h
theorem State.touched_countUp (s : State) (gt : Nat) {as : List Nat} (x : Fld) (hx : x.addr ∈ as) :
    s.touched (s.countUp x) gt as := State.touched_setFld s gt x _ hx

theorem State.countBreak_counted (s : State) (gt : GT) : s.Counted (s.countBreak gt.val) gt := by
  have ha : (fContract gt.val).addr = tReg gt.val 0x14 := rfl
  have hs : (fState gt.val).addr = tReg gt.val 0x04 := rfl
  have hb : (fBroken gt.val).addr = tReg gt.val 0x04 := rfl
  have hsb : (fState gt.val).hi < (fBroken gt.val).lo := by simp [fState, fBroken]
  unfold State.Counted State.countBreak
  generalize fContract gt.val = x at *
  generalize fBroken gt.val = y at *
  generalize fState gt.val = z at *
  have hne := contract_ne_state gt
  refine ⟨State.touched_trans (State.touched_countUp s gt.val x (by rw [ha]; exact List.mem_singleton_self _))
    (State.stepped_setBit _ gt.val y true (by rw [hb]; exact List.mem_cons_self)), ?_, ?_⟩
  · exact State.fld_setBit_addr _ _ (by rw [ha, hb]; exact hne)
  · rw [State.fld_setBit_bits _ _ (hs.trans hb.symm) (.inl hsb), State.fld_countUp_addr s (by rw [ha, hs]; exact hne.symm)]

theorem State.thread_countBreak (s : State) (gt g : Nat) : (s.countBreak gt).thread g = s.thread g := by
  unfold State.countBreak
  rw [State.thread_setBit, State.thread_countUp]

/-- A contract break of a deterministic thread is counted; at most a fault to come is noted (R94, R95). -/
theorem State.contractBreak_counted {s : State} {gt : GT} (w : Option Word) (hd : s.det gt.val = true) :
    s.Counted (s.contractBreak gt.val w) gt ∧
      ∃ b, (s.contractBreak gt.val w).thread gt.val = { s.thread gt.val with broke := b } := by
  obtain ⟨h1, h2, h3⟩ := State.countBreak_counted s gt
  have ht := State.thread_countBreak s gt.val gt.val
  have e : s.contractBreak gt.val w = (if (s.countBreak gt.val).bit (fTrap gt.val) then
      (s.countBreak gt.val).modThread gt.val (fun t => if t.broke.isSome then t else { t with broke := some w })
    else s.countBreak gt.val) := by
    unfold State.contractBreak
    exact if_pos hd
  rw [e]
  clear e
  unfold State.Counted
  generalize s.countBreak gt.val = v at *
  generalize s.thread gt.val = u at *
  split
  · have hr := State.fld_modThread v gt.val
    refine ⟨⟨State.touched_trans h1 (State.stepped_modThread v gt.val _), (hr _ _).trans h2, (hr _ _).trans h3⟩, ?_⟩
    rw [State.thread_modThread_same, ht]
    by_cases hb : u.broke.isSome = true
    · exact ⟨u.broke, if_pos hb⟩
    · exact ⟨some (w), if_neg hb⟩
  · exact ⟨⟨h1, h2, h3⟩, u.broke, ht⟩

/-- What a late response of a bay or timer register counts (R94). -/
theorem State.padBreak_counts (s : State) (gt : GT) (padded late : Bool) (pc : Word) :
    s.touched (s.padBreak gt.val padded late pc) gt.val [tReg gt.val 0x14] ∧
    (∃ b, (s.padBreak gt.val padded late pc).thread gt.val = { s.thread gt.val with broke := b }) ∧
    (s.padBreak gt.val padded late pc).fld (fContract gt.val) =
      (if padded = true ∧ late = true ∧ s.det gt.val = true then s.countUp (fContract gt.val) else s).fld
        (fContract gt.val) ∧
    (s.padBreak gt.val padded late pc).fld (fState gt.val) = s.fld (fState gt.val) := by
  have none (u : State) (e : u = s) (hn : ¬ (padded = true ∧ late = true ∧ s.det gt.val = true)) :
      s.touched u gt.val [tReg gt.val 0x14] ∧ (∃ b, u.thread gt.val = { s.thread gt.val with broke := b }) ∧
      u.fld (fContract gt.val) = (if padded = true ∧ late = true ∧ s.det gt.val = true then s.countUp (fContract gt.val)
        else s).fld (fContract gt.val) ∧ u.fld (fState gt.val) = s.fld (fState gt.val) := by
    rw [if_neg hn, e]
    exact ⟨State.stepped_touched (State.stepped_refl _ _), ⟨_, rfl⟩, rfl, rfl⟩
  unfold State.padBreak
  by_cases hp : (padded && late) = true
  · rw [if_pos hp]
    rw [Bool.and_eq_true] at hp
    by_cases hd : s.det gt.val = true
    · obtain ⟨⟨h1, h2, h3⟩, hb⟩ := State.contractBreak_counted (some pc) hd
      rw [if_pos ⟨hp.1, hp.2, hd⟩]
      exact ⟨h1, hb, h2, h3⟩
    · exact none _ (by unfold State.contractBreak; exact if_neg hd) (fun h => hd h.2.2)
  · rw [if_neg hp]
    exact none s rfl (fun h => hp (by rw [h.1, h.2.1]; rfl))

/-- At no boundary nothing falls due but a freeze. -/
theorem State.atBoundary_still (s : State) (gt : Nat)
    (h : (s.thread gt).stopReq = false ∨ (s.thread gt).boundary = false) : s.Quiet (s.atBoundary gt) gt := by
  rcases h with h | h
  · exact State.atBoundary_quiet s gt h
  · unfold State.atBoundary
    simp only [h]
    split
    · split
      · exact State.freezeNow_quiet _ _
      · exact State.Quiet.refl _ _
    · exact State.Quiet.refl _ _

/-- The one late error of a thread that runs is raised at its boundary. -/
theorem State.atBoundary_late {s : State} {gt id : Nat} {r : FaultRec}
    (hs : s.fld (fState gt) = stReady ∨ s.fld (fState gt) = stWait) (hb : (s.thread gt).boundary = true)
    (hstop : (s.thread gt).stopReq = false) (hr : (s.thread gt).raised = none) (ht : (s.thread gt).twinStop = none)
    (hl : (s.thread gt).late = [(id, r)]) (htw : (s.thread gt).twin = none) :
    ∃ q, ((s.atBoundary gt).thread gt).raised = some q ∧ q.cls = r.cls ∧ q.detail = r.detail ∧ q.imprecise = true ∧
      q.partialSt = r.partialSt ∧ q.second = r.second ∧ q.addr = r.addr ∧ q.oppc = r.oppc := by
  have hrun : (s.fld (fState gt) == stReady || s.fld (fState gt) == stWait) = true := by
    rcases hs with h | h <;> simp [h]
  have e : s.atBoundary gt = (s.setThread gt { s.thread gt with late := [] }).raise gt
      (lateFault r [] (decide ((s.thread gt).waiting = some .settle))) := by
    unfold State.atBoundary
    simp [hrun, hb, hstop, hr, ht, hl, htw]
  refine ⟨{ lateFault r [] (decide ((s.thread gt).waiting = some .settle)) with
      pc := (s.thread gt).pc, npc := ({ s.thread gt with late := [] } : Thread).successor
      inDelay := (s.thread gt).inDelay }, ?_, rfl, rfl, rfl, rfl, rfl, rfl, rfl⟩
  rw [e]
  unfold State.raise
  simp only [State.thread_setThread_same]
  split <;> simp

/-- The thread without an outstanding store; a break noted and the late errors are any. -/
def Thread.storeOff (u : Thread) (o : StoreOp) (b : Option (Option Word)) (l : Map FaultRec) : Thread :=
  { u with stores := u.stores.filter (fun p => p.id != o.id), broke := b, late := l }

theorem Thread.storeOff_keptBut (u : Thread) (o : StoreOp) (b : Option (Option Word)) (l : Map FaultRec) :
    ({ u with stores := u.stores.filter (fun p => p.id != o.id) } : Thread).keptBut (u.storeOff o b l) [] :=
  ⟨fun _ _ => rfl, rfl, rfl, rfl, rfl, rfl, rfl, rfl, rfl, rfl, rfl⟩

/-- The thread's part when the response of a store has been taken. -/
theorem State.storeOff_boundary {s v : State} {gt : GT} {o : StoreOp} {b : Option (Option Word)} {l : Map FaultRec}
    (hv : s.touched v gt.val [tReg gt.val 0x14]) (ht : v.thread gt.val = (s.thread gt.val).storeOff o b l)
    (hq : (s.thread gt.val).stopReq = false ∨ (s.thread gt.val).boundary = false) :
    s.touched (v.atBoundary gt.val) gt.val [tReg gt.val 0x14] ∧
    ({ s.thread gt.val with stores := (s.thread gt.val).stores.filter (fun p => p.id != o.id) } : Thread).keptBut
      ((v.atBoundary gt.val).thread gt.val) [] ∧
    ((v.atBoundary gt.val).thread gt.val).pc = (s.thread gt.val).pc ∧
    (v.atBoundary gt.val).fld (fContract gt.val) = v.fld (fContract gt.val) := by
  obtain ⟨hst, hstill, -⟩ := State.atBoundary_still v gt.val (by rw [ht]; exact hq)
  rw [ht] at hstill
  refine ⟨State.touched_trans hv hst, Thread.keptBut_same (Thread.storeOff_keptBut _ o b l) hstill.toSame, hstill.pc, ?_⟩
  have hne := contract_ne_state gt
  have h24 : canon (tReg gt.val 0x14) ≠ canon (tReg gt.val 0x24) := by
    rw [canon_tReg gt (by omega), canon_tReg gt (by omega)]; unfold tReg; omega
  have h2c : canon (tReg gt.val 0x14) ≠ canon (tReg gt.val 0x2C) := by
    rw [canon_tReg gt (by omega), canon_tReg gt (by omega)]; unfold tReg; omega
  have hreg : (v.atBoundary gt.val).reg (tReg gt.val 0x14) = v.reg (tReg gt.val 0x14) := hst.2.2 _ (by
    intro a ha
    simp only [List.mem_cons, List.not_mem_nil, or_false] at ha
    rcases ha with rfl | rfl | rfl
    · exact hne
    · exact h24
    · exact h2c)
  have hx : (fContract gt.val).addr = tReg gt.val 0x14 := rfl
  generalize fContract gt.val = x at hx
  unfold State.fld
  rw [hx, hreg]

/-- The state when a response of the thread's store comes: its late break is counted. -/
theorem execStoreCompletion_eq {s : State} {g : GT} {late : Bool} {o : StoreOp}
    (hf : (s.thread g.val).stores.find? (fun p => p.answer.isSome) = some o) (hq : o.quiet = false) :
    execStoreCompletion g late s =
      .next ((s.padBreak g.val (paddedAt g.val o.addr.toNat) late o.pc).storeDone g.val o (o.answer.getD true)) := by
  unfold execStoreCompletion
  rw [hf]
  simp only [hq]
  rfl

/-- A store that succeeded is dropped (R130). -/
theorem State.storeDone_ok {s : State} {gt : Nat} {o : StoreOp} (hr : o.rest = none) :
    s.storeDone gt o true =
      (s.setThread gt ((s.thread gt).storeOff o (s.thread gt).broke (s.thread gt).late)).atBoundary gt := by
  unfold State.storeDone
  rw [hr]
  rfl

/-- A store that failed is dropped and its error awaits a boundary (R151). -/
theorem State.storeDone_error {s : State} {gt : Nat} {o : StoreOp} (hq : o.quiet = false) :
    s.storeDone gt o false =
      ((s.setThread gt ((s.thread gt).storeOff o (s.thread gt).broke (s.thread gt).late)).setThread gt
        ((s.thread gt).storeOff o (s.thread gt).broke (Map.insert (s.thread gt).late o.id o.lateRec))).atBoundary gt := by
  unfold State.storeDone
  simp only [hq, State.modThread, State.thread_setThread_same]
  rfl

/-- The response of a store (R93, R94, R130, R151). -/
theorem execStoreCompletion_answers (g : GT) (late : Bool) (o : StoreOp) (s : State) :
    let gt := g.val
    let u := s.thread gt
    let breaks : Prop := paddedAt gt o.addr.toNat = true ∧ late = true ∧ s.det gt = true
    u.stores.find? (fun p => p.answer.isSome) = some o → o.quiet = false → (u.stopReq = false ∨ u.boundary = false) →
    let left : Thread := { u with stores := u.stores.filter (fun p => p.id != o.id) }
    (o.answer = some true → o.rest = none →
      ∃ t, exec (.storeCompletion g late) s = .next t ∧ s.touched t gt [tReg gt 0x14] ∧
        left.keptBut (t.thread gt) [] ∧ (t.thread gt).pc = u.pc ∧
        t.fld (fContract gt) = (if breaks then s.countUp (fContract gt) else s).fld (fContract gt)) ∧
    (o.answer = some false →
      ∃ t, exec (.storeCompletion g late) s = .next t ∧ s.touched t gt [tReg gt 0x14] ∧
        left.keptBut (t.thread gt) [] ∧ (t.thread gt).pc = u.pc ∧
        (u.twin = none → u.boundary = true → u.raised = none → u.twinStop = none → u.late = [] →
          (s.fld (fState gt) = stReady ∨ s.fld (fState gt) = stWait) →
          ∃ r, (t.thread gt).raised = some r ∧ r.cls = 4 ∧ r.detail = 4 ∧ r.imprecise = true ∧
            r.partialSt = o.second ∧ r.second = o.second ∧ r.addr = o.addr ∧ r.oppc = o.pc)) := by
  intro gt u breaks hf hq hstop left
  have hexec := execStoreCompletion_eq (late := late) hf hq
  obtain ⟨hv, ⟨b, hb⟩, hc, hst⟩ := State.padBreak_counts s g (paddedAt g.val o.addr.toNat) late o.pc
  have drop (w : State) (hw : s.touched w g.val [tReg g.val 0x14]) (l : Map FaultRec) := State.storeOff_boundary (o := o) (b := b) (l := l)
    (State.touched_trans hw (State.stepped_setThread w g.val ((s.thread g.val).storeOff o b l)))
    (State.thread_setThread_same _ _ _) hstop
  constructor
  · intro ha hr
    rw [ha, Option.getD_some, State.storeDone_ok hr, hb] at hexec
    obtain ⟨h1, h2, h3, h4⟩ := drop _ hv u.late
    exact ⟨_, hexec, h1, h2, h3, h4.trans ((State.fld_setThread _ _ _ _).trans hc)⟩
  · intro ha
    rw [ha, Option.getD_some, State.storeDone_error hq, hb] at hexec
    obtain ⟨h1, h2, h3, -⟩ := drop _ (State.touched_trans hv (State.stepped_setThread _ g.val _)) (Map.insert u.late o.id o.lateRec)
    refine ⟨_, hexec, h1, h2, h3, fun htw hbd hra hts hl hs => ?_⟩
    have hno : u.stopReq = false := hstop.resolve_right (by rw [hbd]; decide)
    rw [← hst] at hs
    obtain ⟨q, e, e1, e2, e3, e4, e5, e6, e7⟩ := State.atBoundary_late
      (s := ((s.padBreak g.val (paddedAt g.val o.addr.toNat) late o.pc).setThread g.val (u.storeOff o b u.late)).setThread g.val
        (u.storeOff o b (Map.insert u.late o.id o.lateRec))) (gt := g.val) (id := o.id) (r := o.lateRec)
      hs (by rw [State.thread_setThread_same]; exact hbd) (by rw [State.thread_setThread_same]; exact hno)
      (by rw [State.thread_setThread_same]; exact hra) (by rw [State.thread_setThread_same]; exact hts)
      (by rw [State.thread_setThread_same]; show Map.insert u.late _ _ = _; rw [hl]; rfl)
      (by rw [State.thread_setThread_same]; exact htw)
    exact ⟨q, e, e1, e2, e3, e4, e5, e6, e7⟩

/-- What a store of n bytes of v to its own bins answers. -/
theorem execStore_ownBins {x : Issue} {m : MemOp} {n : Nat} {w : StoreWay} {s : State} {v : BitVec 64} (hn : 0 < n) (hs : n ≤ 8)
    (hv : (s.thread x.gt.val).storeBytes m.d n = toBytes n v.toNat) :
    let gt := x.gt.val
    let u := s.thread gt
    let off := (u.rd m.a + m.imm.signExtend 32).toNat
    let a := (s.desc gt m.seg.val).base + off - w.shift
    w.shift ≤ (s.desc gt m.seg.val).base + off →
    s.reaches gt m.seg.val off n (w != .plain) true → s.ownBins gt a n → u.clearOf (a + w.shift) n →
    (w ≠ .plain → ∀ p ∈ s.dwait, p.2.ref.ofThread gt = true → a + n ≤ p.2.addr ∨ p.2.addr + p.2.act.size ≤ a) →
    s.issues x { odd := n == 8 && oddReg m.d, reads := m.a :: memRegs m.d n, access := true } →
    let t := execStore x m n s
    t = { s with regs := t.regs, threads := t.threads, mem := t.mem, icache := t.icache } ∧
      s.sameThreadsBut t gt ∧ s.sameRegsBut t [tReg gt 0x04, tReg gt 0x24, tReg gt 0x2C] ∧
      u.wentOn (t.thread gt) ∧ u.keptBut (t.thread gt) [] ∧ s.sameMemBut t a n ∧
      ∀ k, k < n → t.byte (a + k) = w.merge u.isShadow (s.byte (a + k)) (v.extractLsb' (8 * k) 8) := by
  intro gt u off a hsh hr ho hc hf hi t
  obtain ⟨⟨h1, h2, h3, h4, h5⟩, h6, h7⟩ := execStore_stored (a := a) (w := w) hn
    ⟨hs, (Nat.sub_add_cancel hsh).symm, hr, ho, hc, hf⟩ hi
  have hl : (toBytes n v.toNat).length = n := by rw [← hv]; exact Thread.storeBytes_length _ _ _
  rw [hv, hl] at h4 h5
  refine ⟨h1, h2, h3, h6, h7, h4, fun k hk => ?_⟩
  rw [← toBytes_extract n v hk]
  exact h5 k hk

/-- The bytes of a store of less than a pair. -/
theorem Thread.storeBytes_word (t : Thread) (d : Reg) {n : Nat} (h : n ≠ 8) :
    t.storeBytes d n = toBytes n ((t.rd d).setWidth 64).toNat := by
  rw [BitVec.toNat_setWidth_of_le (by decide)]
  exact if_neg h

/-- Settles O18: a store that fits its bins performs its bytes at once (`execStore_ownBins`), and a response drops the
store and raises its error at the boundary (`execStoreCompletion_answers`). -/
theorem storesToOwnBins : Obligations.StoresToOwnBins := by
  unfold Obligations.StoresToOwnBins
  refine ⟨fun x m w s => ?_, execStoreCompletion_answers⟩
  have word (n : Nat) (h : n ≠ 8) := Thread.storeBytes_word (s.thread x.gt.val) m.d h
  refine ⟨?_, ?_, ?_, ?_⟩
  · exact fun h1 h2 h3 h4 h5 h6 => ⟨_, rfl, execStore_ownBins (by decide) (by decide) (word 1 (by decide)) h1 h2 h3 h4 h5 h6⟩
  · exact fun h1 h2 h3 h4 h5 h6 => ⟨_, rfl, execStore_ownBins (by decide) (by decide) (word 2 (by decide)) h1 h2 h3 h4 h5 h6⟩
  · exact fun h1 h2 h3 h4 h5 h6 => ⟨_, rfl, execStore_ownBins (by decide) (by decide) (word 4 (by decide)) h1 h2 h3 h4 h5 h6⟩
  · exact fun h1 h2 h3 h4 h5 h6 => ⟨_, rfl, execStore_ownBins (by decide) (by decide) rfl h1 h2 h3 h4 h5 h6⟩

end Sys2Proof.Machine
end

section
/-!
SUPPORT. Crossing queues and event synchronisers (R34 to R39, R554): what the oldest item of a queue does in its
destination domain, case by case.
-/
namespace Sys2Proof.Machine

/-! ## Which queues stand still (R38) -/

/-- The clocks on the two sides of a crossing queue, by number. -/
def crossingClocks (q : Crossing) : List Nat :=
  match q with
  | .toBay n => [0, n.val / 8 + 1]
  | .fromBay n => [0, n.val / 8 + 1]
  | .epoch k => [k.val + 1]
  | _ => [0]

theorem State.xqStopped_iff (s : State) (q : Crossing) :
    s.xqStopped q = true ↔ ∃ c ∈ s.mode.clocks, c.1 ∈ crossingClocks q := by
  have one (i : Nat) : s.mode.clocks.any (fun c => c.1 == i) = true ↔ ∃ c ∈ s.mode.clocks, c.1 ∈ [i] := by simp
  have two (i j : Nat) : (s.mode.clocks.any (fun c => c.1 == i) || s.mode.clocks.any (fun c => c.1 == j)) = true ↔
      ∃ c ∈ s.mode.clocks, c.1 ∈ [i, j] := by
    rw [Bool.or_eq_true, one, one]
    simp only [List.mem_cons, List.not_mem_nil, or_false]
    rw [← exists_or]
    exact exists_congr fun c => and_or_left.symm
  cases q with
  | toBay n => exact two _ _
  | fromBay n => exact two _ _
  | epoch k => exact one _
  | _ => exact one 0

/-! ## The oldest item -/

theorem execCrossing_stopped {s : State} {q : Crossing} (d : BitVec 32) (h : s.xqStopped q = true) :
    execCrossingQueueDelivery q d s = .next s := by
  unfold execCrossingQueueDelivery
  rw [if_pos h]

/-- The oldest item of a queue whose clocks run leaves it and arrives. -/
theorem execCrossing_arrives {s : State} {q : Crossing} {it : XItem} (d : BitVec 32)
    (hf : s.xq.find? (fun p => p.1 == q) = some (q, it)) (h : ¬ s.xqStopped q = true) (hq : ∀ p, q ≠ .toLink p) :
    execCrossingQueueDelivery q d s =
      .next ((({ s with xq := s.xq.erase (q, it) } : State).xqTime q d.toNat).xqArrive q it) := by
  have ht : s.xqTake q = some (it, { s with xq := s.xq.erase (q, it) }) := by
    unfold State.xqTake
    rw [hf]
  unfold execCrossingQueueDelivery
  rw [if_neg h]
  split
  · exact absurd rfl (hq _)
  · rw [ht]

/-! ## What an item does (R49, R231, R237, R576) -/

section
variable (s : State) (q : Crossing)

/-- The number of the port that an address leaves by. -/
theorem sipPort_val (a : Nat) : (sipPort a).val = if a / 64 % 2 = 0 then 0 else 1 := by
  unfold sipPort
  split <;> rfl

/-- The port, the address and the stream identifier of a ledger entry's request (R576). -/
theorem State.xqArrive_sip {tag : Nat} {e : LEntry} (h : Map.get none s.ledger tag = some e) :
    s.xqArrive q (.sip tag) = { s with sip := s.sip ++ [e.request tag] } := by
  show s.sipPresent tag = _
  unfold State.sipPresent
  rw [h]

theorem State.xqArrive_epoch (k : Fin 4) (who : Agent) (a : Nat) (w : Word) (hi : Option Word) (ref : ReqRef) :
    s.xqArrive (.epoch k) (.write who a w hi ref) = s.put [(fPtEpoch (8 * k.val), w)] := rfl

/-- No access but one of the debug unit needs a debug class. -/
theorem State.dbgDenied_none {who : Agent} (hw : who ≠ .debug) (need : Word) : s.dbgDenied who need = none :=
  if_neg fun h => hw h.1

theorem State.dbgPeek_false {who : Agent} (hw : who ≠ .debug) : s.dbgPeek who = false := by
  unfold State.dbgPeek
  rw [beq_eq_false_iff_ne.2 hw, Bool.false_and]

theorem State.xqArrive_write {who : Agent} {a : Nat} {b : Blk} (w : Word) (hi : Option Word) (ref : ReqRef)
    (hq : ∀ k, q ≠ .epoch k) (hw : who ≠ .debug) (hb : blockOf a = some b) :
    s.xqArrive q (.write who a w hi ref) = (s.writeWords who b (a - b.base) w hi).xqAnswer q ref [] := by
  have hj : s.judgedWrite who b (a - b.base) w hi = .ok (s.writeWords who b (a - b.base) w hi) := by
    unfold State.judgedWrite
    rw [s.dbgDenied_none hw]
  unfold State.xqArrive
  simp only [hb, hj]

theorem State.xqArrive_read {who : Agent} {a : Nat} {b : Blk} (wide : Bool) (ref : ReqRef)
    (hw : who ≠ .debug) (hb : blockOf a = some b) :
    s.xqArrive q (.read who a wide ref) = (s.readWords who b (a - b.base) wide false).2.xqAnswer q ref
      (s.readWords who b (a - b.base) wide false).1 := by
  have hj : s.judgedRead who b (a - b.base) wide = .ok (s.readWords who b (a - b.base) wide false) := by
    unfold State.judgedRead
    rw [s.dbgDenied_none hw, s.dbgPeek_false hw]
  unfold State.xqArrive
  simp only [hb, hj]

end

/-! ## The outbound path of a bridge port (R554) -/

theorem BrItem.cls_le (it : BrItem) : it.cls ≤ 2 := by
  unfold BrItem.cls
  split <;> decide

/-- Of a list of flits the oldest of the first class that has one. -/
theorem findSome_class {l : List BrItem} {it : BrItem} (hf : l.find? (fun i => i.cls == it.cls) = some it)
    (hmin : ∀ i ∈ l, it.cls ≤ i.cls) :
    [0, 1, 2].findSome? (fun k => l.find? (fun i => i.cls == k)) = some it := by
  have none (k : Nat) (h : k < it.cls) : l.find? (fun i => i.cls == k) = none :=
    List.find?_eq_none.2 fun i hi he => by
      have := hmin i hi
      have := of_decide_eq_true he
      omega
  have := it.cls_le
  generalize it.cls = c at *
  obtain rfl | rfl | rfl : c = 0 ∨ c = 1 ∨ c = 2 := by omega
  · simp only [List.findSome?_cons, hf]
  · simp only [List.findSome?_cons, none 0 (by decide), hf]
  · simp only [List.findSome?_cons, none 0 (by decide), none 1 (by decide), hf]

theorem State.linkSend_first {s : State} {p : Nat} {it : BrItem} (hroom : (s.link p).out.length < 204)
    (hf : (s.link p).wait.find? (fun i => i.cls == it.cls) = some it) (hmin : ∀ i ∈ (s.link p).wait, it.cls ≤ i.cls) :
    s.linkSend p = s.modLink p (fun l =>
      { l with wait := l.wait.erase it, out := l.out ++ [(l.seq, 0, it)], seq := l.seq + 1 }) := by
  unfold State.linkSend
  simp only [findSome_class hf hmin, if_pos hroom]

/-! ## The three parts of the statement -/

theorem execCrossing_delivers (q : Crossing) (d : BitVec 32) (it : XItem) (s : State)
    (hf : s.xq.find? (fun p => p.1 == q) = some (q, it)) (h : ¬ s.xqStopped q = true) (hq : ∀ p, q ≠ .toLink p) :
    let u := ({ s with xq := s.xq.erase (q, it) } : State).xqTime q d.toNat
    let run (v : State) : Prop := exec (.crossingQueueDelivery q d) s = .next v
    (∀ tag e, it = .sip tag → Map.get none u.ledger tag = some e →
      run { u with sip := u.sip ++ [e.request tag] }) ∧
    (∀ n req lane act, it = .edge n req lane act →
      run (u.setEdgeQ n (u.edgeQ n ++ [⟨lane, act, (bitsOf req 25 0).toNat, false⟩]))) ∧
    (∀ ref bs, it = .data ref bs → run (u.deliver ref bs)) ∧
    (∀ who a w hi ref k, it = .write who a w hi ref → q = .epoch k → run (u.put [(fPtEpoch (8 * k.val), w)])) ∧
    (∀ who a w hi ref b, it = .write who a w hi ref → (∀ k, q ≠ .epoch k) → who ≠ .debug → blockOf a = some b →
      run ((u.writeWords who b (a - b.base) w hi).xqAnswer q ref [])) ∧
    (∀ who a wide ref b, it = .read who a wide ref → who ≠ .debug → blockOf a = some b →
      let r := u.readWords who b (a - b.base) wide false
      run (r.2.xqAnswer q ref r.1)) := by
  intro u run
  have arrives {t : State} (e : u.xqArrive q it = t) : run t :=
    (execCrossing_arrives d hf h hq).trans (congrArg Host.Outcome.next e)
  refine ⟨?_, ?_, ?_, ?_, ?_, ?_⟩
  · rintro tag e rfl he
    exact arrives (u.xqArrive_sip q he)
  · rintro n req lane act rfl
    exact arrives rfl
  · rintro ref bs rfl
    exact arrives rfl
  · rintro who a w hi ref k rfl rfl
    exact arrives (u.xqArrive_epoch k who a w hi ref)
  · rintro who a w hi ref b rfl hk hw hb
    exact arrives (u.xqArrive_write q w hi ref hk hw hb)
  · rintro who a wide ref b rfl hw hb
    exact arrives (u.xqArrive_read q wide ref hw hb)

theorem execCrossing_toLink (p : Fin 4) (d : BitVec 32) {s : State} (h : ∀ c ∈ s.mode.clocks, c.1 ≠ 0) :
    execCrossingQueueDelivery (.toLink p) d s = .next (s.linkSend p.val) := by
  have hs : ¬ s.xqStopped (.toLink p) = true := by
    rw [State.xqStopped_iff]
    rintro ⟨c, hc, h0⟩
    exact h c hc (List.mem_singleton.1 h0)
  unfold execCrossingQueueDelivery
  rw [if_neg hs]

/-- The selects and the tags of an event do not look at the synchronisers. -/
theorem State.selectsOf_toggles (s : State) (ts : Map Nat) (port : Nat) (b : Bool) :
    ({ s with toggles := ts } : State).selectsOf port b = s.selectsOf port b := by
  unfold State.selectsOf
  rfl
theorem State.vecTag_toggles (s : State) (ts : Map Nat) (x : Nat) :
    ({ s with toggles := ts } : State).vecTag x = s.vecTag x := by
  generalize ht : ({ s with toggles := ts } : State) = t
  have hr : t.regs = s.regs := by rw [← ht]
  unfold State.vecTag
  simp only [State.owner_congr hr, State.fld_congr hr]

/-- What an event leaves when it is routed (R274, R275). -/
theorem State.routeEvent_toggles (s : State) (ts : Map Nat) (port : Nat) (b : Bool) (h : Nat) :
    ({ s with toggles := ts } : State).routeEvent port b h = { s with
      toggles := ts
      routed := s.routed ++ [.event port b h ((s.selectsOf port b).map (fun x => (x, s.vecTag x)))] } := by
  unfold State.routeEvent
  simp only [State.selectsOf_toggles, State.vecTag_toggles]

theorem execEventSynchroniser_routes (port : BitVec 13) (b : Bool) {h : Nat} {s : State}
    (ht : Map.get 0 s.toggles (2 * port.toNat + (if b then 1 else 0)) = h + 1) (hh : h < 8) :
    execEventSynchroniserDelivery port b s = .next { s with
      toggles := Map.erase s.toggles (2 * port.toNat + (if b then 1 else 0))
      routed := s.routed ++
        [.event port.toNat b h ((s.selectsOf port.toNat b).map (fun x => (x, s.vecTag x)))] } := by
  unfold execEventSynchroniserDelivery State.routeIn
  simp only [ht, if_pos hh]
  rw [State.routeEvent_toggles]

/-- Settles O24: an item leaves a queue whose clocks run and acts as its kind says (`execCrossing_delivers`), a bridge
port sends by class (`State.linkSend_first`), and a synchronised event is routed. -/
theorem crossingsAndSynchronisersDeliver : Obligations.CrossingsAndSynchronisersDeliver := by
  unfold Obligations.CrossingsAndSynchronisersDeliver
  refine ⟨fun q d it s hf => ⟨fun hst => ?_, fun hst hq => ?_⟩, fun p d it s hc hroom hw hmin => ?_,
    fun port b h s ht hh => execEventSynchroniser_routes port b ht hh⟩
  · exact execCrossing_stopped d ((s.xqStopped_iff q).2 hst)
  · obtain ⟨h1, h2⟩ := execCrossing_delivers q d it s hf (fun h => hst ((s.xqStopped_iff q).1 h)) hq
    refine ⟨?_, h2⟩
    rintro tag ⟨use, reqr, addr, n, wr, vc, tmo, limbo⟩ hi he
    have := h1 tag _ hi he
    unfold LEntry.request LEntry.sid at this
    rw [sipPort_val] at this
    cases use with
    | access r =>
      cases vc with
      | none => exact this
      | some v => exact this
    | _ => exact this
  · exact (execCrossing_toLink p d hc).trans (by rw [State.linkSend_first hroom hw hmin])

end Sys2Proof.Machine
end

section
/-!
SUPPORT. The bulk port (R415 to R421): its registers, one line of the bins read and written, the beats of its window and
the performance of a posted write.
-/
namespace Sys2Proof.Machine

/-! ## The registers and the context -/

theorem canon_bulkReg (k off : Nat) : canon (bulkReg k off) = bulkReg k off :=
  canon_id (by unfold bulkReg; omega)
theorem bulkReg_ne (k : Nat) {i j : Nat} (h : i ≠ j) : canon (bulkReg k i) ≠ canon (bulkReg k j) := by
  rw [canon_bulkReg, canon_bulkReg]
  unfold bulkReg
  omega

@[simp] theorem State.bulk_setBulk (s : State) (k : Nat) (x : BulkS) : (s.setBulk k x).bulk k = x :=
  Map.get_set_same _ _ _ _
theorem State.bulk_congr {s t : State} (h : t.bulks = s.bulks) (k : Nat) : t.bulk k = s.bulk k := by
  unfold State.bulk
  rw [h]

/-- What a context holds shows in its status only. -/
theorem State.fld_setBulk (s : State) (k : Nat) (x : BulkS) {y : Fld} (h : canon y.addr ≠ canon (bulkReg k 8)) :
    (s.setBulk k x).fld y = s.fld y := by
  unfold State.setBulk
  rw [State.fld_setBit_addr _ _ h, State.fld_setBit_addr _ _ h]
  rfl

theorem State.setBulk_pending (s : State) (k : Nat) (x : BulkS) :
    (s.setBulk k x).bit ⟨bulkReg k 8, 0, 0⟩ = !x.posted.isEmpty :=
  State.bit_setBit_same _ _ _ ⟨Nat.le_refl 0, show 0 < 32 by decide⟩

/-! ## One piece of a line -/

theorem linePieces_zero (f a : Nat) : linePieces (f + 1) a 0 0 = [] := rfl

theorem linePieces_one (f a pos : Nat) {n : Nat} (hn : 0 < n) (h : a % 64 + n ≤ 64) :
    linePieces (f + 2) a pos n = [(a, pos, n)] := by
  have hk : min n (64 - a % 64) = n := by omega
  unfold linePieces
  simp only [if_neg (show n ≠ 0 by omega), hk, Nat.sub_self]
  rfl

theorem binBusy_one {a n : Nat} (busy : BitVec 8) (ha : a + n ≤ 0x800000) (h : a % 64 + n ≤ 64) :
    binBusy a n busy = if n = 0 then 0 else busy.toNat := by
  unfold binBusy touchesBins
  by_cases hn : n = 0
  · subst hn
    rfl
  · rw [linePieces_one 68 a 0 (by omega) h, if_neg hn]
    have : a % 0x4000000 < 0x800000 := by omega
    simp [this]

/-! ## A read beat from the bins (R416) -/

theorem bankOf_bin {a : Nat} (ha : a < 0x800000) : bankOf a = some (a / 0x10000) := by
  unfold bankOf
  exact if_pos ha

/-- A byte of the bins that a context may reach lies in a bank that serves the port. -/
theorem State.bulkByteOk_serves {s : State} {k a : Nat} (ha : a < 0x800000) (h : s.bulkByteOk k a = true) :
    s.bankServes (a / 0x10000) .bulk = true := by
  unfold State.bulkByteOk at h
  have hb := bankOf_bin ha
  simp only [show a < 0x4000000 by omega, if_true, hb] at h
  exact (Bool.and_eq_true_iff.1 h).2

theorem State.bulkBad_none {s : State} {k a n : Nat} (h : s.bulkBad k a n = none) {i : Nat} (hi : i < n) :
    s.bulkByteOk k (a + i) = true := by
  unfold State.bulkBad at h
  have := List.find?_eq_none.1 h (a + i) (List.mem_map.2 ⟨i, List.mem_range.2 hi, rfl⟩)
  simpa using this

theorem State.memRegion_bin {s : State} {a : Nat} (ha : a < 0x800000) (h : s.bankMapped (a / 0x10000) = true) :
    s.memRegion a = .bank (a / 0x10000) := by
  unfold State.memRegion
  simp only [bankOf_bin ha, h, if_true]

theorem State.region_bin {s : State} {a : Nat} (ha : a < 0x800000) (h : s.bankMapped (a / 0x10000) = true) :
    s.region a = .bank (a / 0x10000) := by
  have hlt : a < 0x4000000 := by omega
  rw [← State.memRegion_bin ha h]
  unfold State.region
  exact if_pos hlt

/-- A read of a line of the bins by the port is performed at once. -/
theorem State.memAccess_bin {s : State} {w a n : Nat} (hn : 0 < n) (ha : a + n ≤ 0x800000) (hl : a % 64 + n ≤ 64)
    (hs : s.bankServes (a / 0x10000) .bulk = true) (hd : s.bit (fDraining (a / 0x10000)) = false) :
    s.memAccess .bulk w a n none = .done s (s.bytes a n) := by
  have hm : s.bankMapped (a / 0x10000) = true := by
    unfold State.bankServes at hs
    exact (Bool.and_eq_true_iff.1 hs).1
  have hline : (lineOf a != lineOf (a + n - 1)) = false := by
    unfold lineOf
    rw [bne_eq_false_iff_eq]
    omega
  have hg : a / 0x10000 < 128 := by omega
  unfold State.memAccess
  rw [State.region_bin (by omega) hm]
  unfold State.bankAccess
  simp only [MemAct.size, hs, hline, hd, hg]
  rfl

theorem State.bulkDraining_one {s : State} {a n : Nat} (hn : 0 < n) (ha : a + n ≤ 0x800000) (hl : a % 64 + n ≤ 64)
    (h : s.bulkDraining a n = false) : s.bit (fDraining (a / 0x10000)) = false := by
  unfold State.bulkDraining at h
  have hb : bankOf (a % 0x4000000) = some (a / 0x10000) := by
    rw [Nat.mod_eq_of_lt (by omega)]
    exact bankOf_bin (by omega)
  rw [linePieces_one 68 a 0 hn hl] at h
  simpa only [List.any_cons, List.any_nil, Bool.or_false, hb] using h

theorem State.bulkRead_bin {s : State} {k a n : Nat} (ha : a + n ≤ 0x800000) (hl : a % 64 + n ≤ 64)
    (hok : s.bulkBad k a n = none) (hd : s.bulkDraining a n = false) :
    s.bulkRead k a n = .done s (s.bytes a n) := by
  unfold State.bulkRead
  rcases Nat.eq_zero_or_pos n with rfl | hn
  · rfl
  · rw [linePieces_one 68 a 0 hn hl, List.map_cons, List.map_nil]
    unfold State.memList
    rw [State.memAccess_bin hn ha hl (State.bulkByteOk_serves (by omega) (State.bulkBad_none hok hn))
      (State.bulkDraining_one hn ha hl hd)]
    simp only [State.memList, List.append_nil]

/-! ## A beat of the window (R416 to R420) -/

section
variable (s : State) (k : Nat) (acc : HostAccess) (beat : Beat)

/-- A beat that follows a failed one of its burst is not performed (R417). -/
theorem State.bulkAccess_cont (hb : (s.bulk k).bad = true) (hc : beat.cont = true) :
    s.bulkAccess k acc beat = s.bulkError := by
  unfold State.bulkAccess
  exact if_pos ⟨hc, hb⟩

/-- Before the first beat of a burst, the failure of an earlier one is forgotten (R417). -/
theorem State.bulkAccess_first (hc : beat.cont = false) (hb : (s.bulk k).bad = true) :
    s.bulkAccess k acc beat = (s.setBulk k { s.bulk k with bad := false }).bulkAccess k acc beat := by
  have ha := State.fld_setBulk s k { s.bulk k with bad := false } (y := fBulkAddr k) (bulkReg_ne k (by decide))
  unfold State.bulkAccess
  simp only [ha, State.bulk_setBulk, hc, hb]
  rfl

variable {s k acc}

/-- A beat with a byte the context may not reach, in no burst that failed before (R417). -/
theorem State.bulkAccess_fails (hb : (s.bulk k).bad = false) {b : Nat}
    (h : s.bulkBad k (s.fld (fBulkAddr k)).toNat (accessForm acc).1 = some b) :
    s.bulkAccess k acc beat = s.bulkFail k b := by
  unfold State.bulkAccess
  simp only [hb, h, Bool.false_eq_true, and_false, if_false]

section
variable (hb : (s.bulk k).bad = false) (hok : s.bulkBad k (s.fld (fBulkAddr k)).toNat (accessForm acc).1 = none)
include hb hok

/-- A beat waits while its bank drains or the context is being reset (R305). -/
theorem State.bulkAccess_waits
    (h : s.bulkDraining (s.fld (fBulkAddr k)).toNat (accessForm acc).1 = true ∨ (s.bulk k).rst = true) :
    s.bulkAccess k acc beat = s := by
  unfold State.bulkAccess
  simp only [hb, hok, if_pos h, Bool.false_eq_true, and_false, if_false]

variable (hd : s.bulkDraining (s.fld (fBulkAddr k)).toNat (accessForm acc).1 = false) (hr : (s.bulk k).rst = false)
include hd hr

theorem State.bulkAccess_read (h : (accessForm acc).2 = none) :
    s.bulkAccess k acc beat = s.bulkReadBeat k (s.fld (fBulkAddr k)).toNat (accessForm acc).1 beat := by
  unfold State.bulkAccess
  simp only [hb, hok, hd, hr, h, Bool.false_eq_true, and_false, or_self, if_false]

theorem State.bulkAccess_write {bs : List Byte} (h : (accessForm acc).2 = some bs) :
    s.bulkAccess k acc beat = s.bulkWriteBeat k (s.fld (fBulkAddr k)).toNat bs := by
  unfold State.bulkAccess
  simp only [hb, hok, hd, hr, h, Bool.false_eq_true, and_false, or_self, if_false]

end

/-- A read beat that the prefetched data serve (R419). -/
theorem State.bulkReadBeat_prefetched {a n : Nat} (hp : s.bit (fPrefetch k) = true) (ha : (s.bulk k).preAt = a)
    (hn : n ≤ (s.bulk k).pre.length) :
    s.bulkReadBeat k a n beat =
      ((s.setBulk k { s.bulk k with pre := (s.bulk k).pre.drop n, preAt := a + n }).bulkNext k a n).answer
        ((s.bulk k).pre.take n ++ [0]) := by
  unfold State.bulkReadBeat
  simp only [hp, Bool.not_true, Bool.false_eq_true, if_false]
  exact if_pos ⟨ha, hn⟩

/-- A read beat within a line of the bins, with no prefetch (R416, R421). -/
theorem State.bulkReadBeat_bin {a n : Nat} (hp : s.bit (fPrefetch k) = false) (ha : a + n ≤ 0x800000)
    (hl : a % 64 + n ≤ 64) (hok : s.bulkBad k a n = none) (hd : s.bulkDraining a n = false) :
    s.bulkReadBeat k a n beat =
      ((s.bulkBusyHits k (if n = 0 then 0 else beat.busy.toNat)).bulkNext k a n).answer
        (s.bytes a n ++ [if (if n = 0 then 0 else beat.busy.toNat) = 0 then 0 else 1]) := by
  unfold State.bulkReadBeat
  simp only [hp, Bool.not_false, if_true]
  unfold State.bulkFetch
  rw [State.bulkRead_bin ha hl hok hd]
  simp only [binBusy_one beat.busy ha hl]
  rfl

/-! ## Burst buffers (R418, R420) -/

theorem BulkS.holds_iff (x : BulkS) : x.holds = true ↔ x.posted ≠ [] ∨ x.pre ≠ [] := by
  unfold BulkS.holds
  rw [Bool.or_eq_true, Bool.not_eq_true', Bool.not_eq_true', List.isEmpty_eq_false_iff, List.isEmpty_eq_false_iff]

/-- A context that holds a buffer keeps it; with nothing held or waiting there is a free one. -/
theorem State.bulkBuffer_self (h : ((s.bulk k).posted ≠ [] ∨ (s.bulk k).pre ≠ []) ∨ (s.bulks = [] ∧ s.bulkWait = [])) :
    s.bulkBuffer k = some s := by
  unfold State.bulkBuffer
  by_cases hh : (s.bulk k).holds = true
  · exact if_pos hh
  · obtain ⟨hs, hw⟩ := h.resolve_left (fun h => hh ((BulkS.holds_iff _).2 h))
    have e : ({ s with bulkWait := [] } : State) = s := by rw [← hw]
    have ho : s.bulks.filter (fun p => p.1 != k && p.2.holds) = [] := by rw [hs]; rfl
    refine (if_neg hh).trans ?_
    simp only [ho, hw, List.isEmpty_nil, Bool.true_or, Bool.not_true, Bool.false_eq_true, if_false, List.filter_nil,
      List.length_nil, Nat.zero_lt_two, if_true]
    rw [e]

/-- No buffer is free while two others hold posted writes (R420). -/
theorem State.bulkBuffer_none (h : ¬ ((s.bulk k).posted ≠ [] ∨ (s.bulk k).pre ≠ [])) (hw : s.bulkWait = [])
    (h2 : 2 ≤ (s.bulks.filter (fun p => p.1 != k && p.2.holds)).length)
    (hp : ∀ p ∈ s.bulks, p.1 ≠ k → p.2.pre = [] ∨ p.2.posted ≠ []) : s.bulkBuffer k = none := by
  have hf : (s.bulks.filter (fun p => p.1 != k && p.2.holds)).find? (fun p => p.2.posted.isEmpty) = none :=
    List.find?_eq_none.2 fun p hm he => by
      obtain ⟨hm, hk⟩ := List.mem_filter.1 hm
      obtain ⟨hk, hh⟩ := Bool.and_eq_true_iff.1 hk
      have hpost := List.isEmpty_iff.1 he
      rcases (BulkS.holds_iff _).1 hh with hh | hh
      · exact hh hpost
      · exact (hp p hm (bne_iff_ne.1 hk)).elim hh (fun hne => hne hpost)
  unfold State.bulkBuffer
  refine (if_neg (fun hh => h ((BulkS.holds_iff _).1 hh))).trans ?_
  simp only [hw, hf, List.isEmpty_nil, Bool.true_or, Bool.not_true, Bool.false_eq_true, if_false,
    if_neg (Nat.not_lt.2 h2)]

/-- A write beat with its buffer: posted where there is room, and else it waits (R49, R418). -/
theorem State.bulkWriteBeat_self {a : Nat} {bs : List Byte} (h : s.bulkBuffer k = some s) :
    s.bulkWriteBeat k a bs =
      if ((s.bulk k).posted.map (fun w => w.2.length)).sum + bs.length ≤ 4096 then
        ((s.setBulk k { s.bulk k with posted := (s.bulk k).posted ++ [(a, bs)], pre := [] }).bulkNext k a bs.length).answer []
      else s := by
  unfold State.bulkWriteBeat
  rw [h]
  simp only []
  split
  · rw [if_neg (by omega)]
  · rw [if_pos (by omega)]

theorem State.bulkWriteBeat_waits {a : Nat} {bs : List Byte} (h : s.bulkBuffer k = none) (hw : s.bulkWait = []) :
    s.bulkWriteBeat k a bs = { s with bulkWait := [k] } := by
  unfold State.bulkWriteBeat
  rw [h]
  unfold State.bulkHold
  rw [hw]
  rfl

end

theorem State.setBulk_answers (s : State) (k : Nat) (x : BulkS) : (s.setBulk k x).answers = s.answers := rfl
theorem State.setBulk_reqCtr (s : State) (k : Nat) (x : BulkS) : (s.setBulk k x).reqCtr = s.reqCtr := rfl
theorem State.put_one (s : State) (x : Fld) (v : Word) : s.put [(x, v)] = s.setFld x v := rfl
theorem State.setWords_one (s : State) (a : Nat) (v : Word) : s.setWords [(a, v)] = s.setReg a v := rfl

/-- The state after the failing beat of a burst (R417). -/
theorem State.bulkFail_eq (s : State) (k b : Nat) : s.bulkFail k b =
    { ((((s.put [(fBulkErr k, 1)]).setWords [(bulkReg k 0xC, BitVec.ofNat 32 b)]).put
        [(fBulkAddr k, BitVec.ofNat 32 b)]).setBulk k { s.bulk k with bad := true }) with
      answers := s.answers ++ [(s.reqCtr, none)], reqCtr := s.reqCtr + 1 } := by
  have hk : (((s.setFld (fBulkErr k) 1).setReg (bulkReg k 0xC) (BitVec.ofNat 32 b))).bulk k = s.bulk k :=
    State.bulk_congr rfl k
  have h1 : boolWord true = 1 := rfl
  unfold State.bulkFail State.bulkError State.setBit
  simp only [State.put_one, State.setWords_one, State.setBulk_answers, State.setBulk_reqCtr, State.setFld_answers,
    State.setFld_reqCtr, State.setReg_answers, State.setReg_reqCtr, h1, hk]

/-- The counting of BUSY retries (R421). -/
theorem State.bulkBusyHits_eq (s : State) (k h : Nat) : s.bulkBusyHits k h =
    if h = 0 then s else s.put [(fBulkBusy k, 1),
      (⟨bulkReg k 0x18, 31, 0⟩, BitVec.ofNat 32 (min 0xFFFFFFFF ((s.fld ⟨bulkReg k 0x18, 31, 0⟩).toNat + h)))] := rfl

/-! ## Reads that wait for posted writes (R418) -/

theorem State.deliver_bulks (s : State) (ref : ReqRef) (bs : List Byte) : (s.deliver ref bs).bulks = s.bulks := by
  unfold State.deliver
  split <;> rfl

/-- Answers delivered in turn leave what the contexts hold. -/
theorem State.deliverEach_bulks (l : List (ReqRef × Nat)) (s : State) :
    (l.foldl (fun s r => s.deliver r.1 (toBytes 4 (s.reg r.2).toNat)) s).bulks = s.bulks := by
  induction l generalizing s with
  | nil => rfl
  | cons r l ih => exact (ih _).trans (State.deliver_bulks _ _ _)

theorem State.deliver_regs (s : State) (ref : ReqRef) (bs : List Byte) : (s.deliver ref bs).regs = s.regs := by
  unfold State.deliver
  split <;> rfl

theorem State.deliverEach_regs (l : List (ReqRef × Nat)) (s : State) :
    (l.foldl (fun s r => s.deliver r.1 (toBytes 4 (s.reg r.2).toNat)) s).regs = s.regs := by
  induction l generalizing s with
  | nil => rfl
  | cons r l ih => exact (ih _).trans (State.deliver_regs _ _ _)

section
variable {s : State} {k : Nat}

theorem State.bulkReads_waits (h : (s.bulk k).posted ≠ []) : s.bulkReads k = s := by
  unfold State.bulkReads
  exact if_neg (by rw [List.isEmpty_iff]; exact h)

theorem State.bulkReads_all (h : (s.bulk k).posted = []) : s.bulkReads k =
    (s.bulk k).reads.foldl (fun s r => s.deliver r.1 (toBytes 4 (s.reg r.2).toNat))
      (s.setBulk k { s.bulk k with reads := [] }) := by
  unfold State.bulkReads
  exact if_pos (List.isEmpty_iff.2 h)

/-- With no write pending every read returns. -/
theorem State.bulkReads_context (h : (s.bulk k).posted = []) : (s.bulkReads k).bulk k = { s.bulk k with reads := [] } := by
  rw [State.bulkReads_all h, State.bulk_congr (State.deliverEach_bulks _ _), State.bulk_setBulk]

theorem State.bulkReads_pending (h : (s.bulk k).posted = []) : (s.bulkReads k).bit ⟨bulkReg k 8, 0, 0⟩ = false := by
  have hr := State.deliverEach_regs (s.bulk k).reads (s.setBulk k { s.bulk k with reads := [] })
  rw [← State.bulkReads_all h] at hr
  unfold State.bit
  rw [State.fld_congr hr]
  refine (State.setBulk_pending s k { s.bulk k with reads := [] }).trans ?_
  rw [h]
  rfl

/-! ## The oldest posted write (R418) -/

theorem State.bulkSettle_context (s : State) (k : Nat) :
    ((s.bulkSettle k).bulk k).posted = (s.bulk k).posted ∧ ((s.bulkSettle k).bulk k).reads = (s.bulk k).reads := by
  unfold State.bulkSettle
  simp only []
  split
  · rw [State.bulk_setBulk]
    exact ⟨rfl, rfl⟩
  · exact ⟨rfl, rfl⟩

theorem State.bulkSettle_pending (hp : (s.bulk k).posted = []) (h : s.bit ⟨bulkReg k 8, 0, 0⟩ = false) :
    (s.bulkSettle k).bit ⟨bulkReg k 8, 0, 0⟩ = false := by
  unfold State.bulkSettle
  simp only []
  split
  · rw [State.setBulk_pending, hp]
    rfl
  · exact h

/-- The context when its oldest posted write has been performed; `r` are those that follow. -/
def State.postedDone (s : State) (k : Nat) (r : List (Nat × List Byte)) : State :=
  ((s.setBulk k { s.bulk k with posted := r }).bulkReads k).bulkSettle k

theorem State.byte_postedDone (s : State) (k : Nat) (r : List (Nat × List Byte)) (a : Nat) :
    (s.postedDone k r).byte a = s.byte a :=
  State.byte_congr (by
    unfold State.postedDone
    rw [State.bulkSettle_kept, State.bulkReads_kept, State.setBulk_kept]) a

theorem State.postedDone_posted (s : State) (k : Nat) (r : List (Nat × List Byte)) :
    ((s.postedDone k r).bulk k).posted = r := by
  refine (State.bulkSettle_context _ k).1.trans ?_
  have hp : ((s.setBulk k { s.bulk k with posted := r }).bulk k).posted = r := by rw [State.bulk_setBulk]
  by_cases hr : r = []
  · rw [State.bulkReads_context (hp.trans hr)]
    exact hp
  · rw [State.bulkReads_waits (by rw [hp]; exact hr)]
    exact hp

theorem State.postedDone_last (s : State) (k : Nat) :
    ((s.postedDone k []).bulk k).reads = [] ∧ (s.postedDone k []).bit ⟨bulkReg k 8, 0, 0⟩ = false := by
  have hp : ((s.setBulk k { s.bulk k with posted := [] }).bulk k).posted = [] := by rw [State.bulk_setBulk]
  have hc := State.bulkReads_context hp
  constructor
  · refine (State.bulkSettle_context _ k).2.trans ?_
    rw [hc]
  · exact State.bulkSettle_pending (by rw [hc]; exact hp) (State.bulkReads_pending hp)

theorem State.byte_bankWrite (s : State) (a : Nat) (bs : List Byte) (x : Nat) : (s.bankWrite a bs).byte x =
    if a ≤ x ∧ x < a + bs.length then bs.getD (x - a) 0 else s.byte x :=
  (State.byte_congr (State.icacheDrop_kept _ _) x).trans (State.byte_setBytes s a x bs)

theorem State.bytes_getElem (s : State) (a n : Nat) {i : Nat} (h : i < (s.bytes a n).length) :
    (s.bytes a n)[i] = s.byte (a + i) := by simp [State.bytes]

theorem State.bytes_bankWrite (s : State) (a : Nat) (bs : List Byte) : (s.bankWrite a bs).bytes a bs.length = bs := by
  refine List.ext_getElem (State.bytes_length _ _ _) fun i h _ => ?_
  have hi : i < bs.length := by rwa [State.bytes_length] at h
  rw [State.bytes_getElem, State.byte_bankWrite, if_pos ⟨by omega, by omega⟩, Nat.add_sub_cancel_left,
    List.getD_eq_getElem _ _ hi]

/-- A posted line of the bins is written at once. -/
theorem State.postedLine_bin {a : Nat} (bs : List Byte) (ha : a < 0x800000) :
    s.postedLine k a bs = (true, s.bankWrite a bs) := by
  have h1 : a < 0x4000000 := by omega
  have h2 : a % 0x4000000 = a := Nat.mod_eq_of_lt h1
  unfold State.postedLine
  simp only [h2, if_pos h1, if_pos ha, MemAct.apply]

theorem State.postedPerform_bin {a : Nat} {bs : List Byte} {r : List (Nat × List Byte)} (ha : a < 0x800000)
    (hn : 0 < bs.length) (hl : a % 64 + bs.length ≤ 64) :
    s.postedPerform k a bs r (linePieces 70 a 0 bs.length) = ((s.bankWrite a bs).setBulk k
      { (s.bankWrite a bs).bulk k with posted := (a + bs.length, []) :: r }).postedDone k r := by
  rw [linePieces_one 68 a 0 hn hl]
  unfold State.postedPerform
  simp only [List.drop_zero, List.take_length, State.postedLine_bin bs ha, Nat.zero_add, List.drop_length, if_true]
  rfl

end

/-! ## The parts of the statement -/

/-- The oldest posted write performed, within a line of the bins. -/
theorem execBulkWritePerform_bin (ctx : Fin 65) (clash : Bool) {s : State} {p : Nat} {bs : List Byte}
    {r : List (Nat × List Byte)} (hx : (s.bulk ctx.val).posted = (p, bs) :: r) (hp : p < 0x800000) (hn : 0 < bs.length)
    (hl : p % 64 + bs.length ≤ 64) : exec (.bulkWritePerform ctx clash) s =
      .next (if clash then s.bulkBusyHits ctx.val 1 else ((s.bankWrite p bs).setBulk ctx.val
        { (s.bankWrite p bs).bulk ctx.val with posted := (p + bs.length, []) :: r }).postedDone ctx.val r) := by
  have ht : touchesBins p (min bs.length 1) = true := by
    unfold touchesBins
    rw [linePieces_one 68 p 0 (by omega) (by omega)]
    have : p % 0x4000000 < 0x800000 := by omega
    simp only [List.any_cons, List.any_nil, Bool.or_false, decide_eq_true this]
  show execBulkWritePerform ctx clash s = _
  unfold execBulkWritePerform
  simp only [hx, ht, and_true, State.postedPerform_bin hp hn hl]

/-- What the performed write leaves in memory. -/
theorem State.byte_posted (s : State) (k p : Nat) (bs : List Byte) (x : BulkS) (r : List (Nat × List Byte)) (a : Nat) :
    (((s.bankWrite p bs).setBulk k x).postedDone k r).byte a = (s.bankWrite p bs).byte a :=
  (State.byte_postedDone _ k r a).trans (State.byte_congr (State.setBulk_kept _ k x) a)

theorem State.deliver_host_answers (s : State) (id : Nat) (bs : List Byte) :
    (s.deliver (.host id) bs).answers = s.answers ++ [(id, some bs)] := rfl

/-- A read of a context's status or address (R418). -/
theorem State.bulkRegRead_returns {s : State} {k : Nat} (off id : Nat) (hp : (s.bulk k).posted = [])
    (hr : (s.bulk k).reads = []) : ∃ v, (s.bulkRegRead k off (.host id)).answers = s.answers ++ [(id, some (toBytes 4 v))] ∧
      v = ((s.bulkRegRead k off (.host id)).reg (bulkReg k off)).toNat := by
  have e : s.bulkRegRead k off (.host id) =
      (s.setBulk k { s.bulk k with reads := [(.host id, bulkReg k off)] }).bulkReads k := by
    unfold State.bulkRegRead
    rw [hr, List.nil_append]
  rw [e, State.bulkReads_all (by rw [State.bulk_setBulk]; exact hp), State.bulk_setBulk, List.foldl_cons, List.foldl_nil]
  have ha := (State.setBulk_answers (s.setBulk k { s.bulk k with reads := [(.host id, bulkReg k off)] }) k
    { s.bulk k with reads := [] }).trans (State.setBulk_answers s k _)
  generalize (s.setBulk k { s.bulk k with reads := [(.host id, bulkReg k off)] }).setBulk k
    { s.bulk k with reads := [] } = u at ha ⊢
  rw [← ha]
  have hreg := State.reg_congr (u.deliver_regs (.host id) (toBytes 4 (u.reg (bulkReg k off)).toNat)) (bulkReg k off)
  exact ⟨(u.reg (bulkReg k off)).toNat, State.deliver_host_answers u id _, by rw [hreg]⟩

theorem State.bulkRegRead_waits {s : State} {k : Nat} (off : Nat) (ref : ReqRef) (hp : (s.bulk k).posted ≠ []) :
    (s.bulkRegRead k off ref).answers = s.answers ∧
      ((s.bulkRegRead k off ref).bulk k).reads = (s.bulk k).reads ++ [(ref, bulkReg k off)] := by
  have e : s.bulkRegRead k off ref =
      s.setBulk k { s.bulk k with reads := (s.bulk k).reads ++ [(ref, bulkReg k off)] } := by
    unfold State.bulkRegRead
    exact State.bulkReads_waits (by rw [State.bulk_setBulk]; exact hp)
  rw [e, State.bulk_setBulk]
  exact ⟨rfl, rfl⟩

/-- Settles O41: the beats of the window by `bulkAccess`'s cases, the posted writes by `execBulkWritePerform_bin`. -/
theorem bulkPortBeats : Obligations.BulkPortBeats := by
  unfold Obligations.BulkPortBeats
  intro ctx acc beat clash addr data s k x a n wr at' run errs off busy room holds
  have win {t : State} (e : s.bulkAccess k acc beat = t) : run t := congrArg Host.Outcome.next e
  refine ⟨fun hb => ⟨fun hc => win (State.bulkAccess_cont s k acc beat hb hc),
    fun hc => congrArg Host.Outcome.next (State.bulkAccess_first s k acc beat hc hb)⟩,
    fun hb => ⟨fun b hbad => win ((State.bulkAccess_fails beat hb hbad).trans (s.bulkFail_eq k b)), fun hok =>
      ⟨fun hw => win (State.bulkAccess_waits beat hb hok hw), fun hd hr => ⟨?_, ?_, ?_, ?_⟩⟩⟩, ?_, ?_, ?_, ?_, ?_⟩
  · intro bs hbs hhold
    have e := (State.bulkAccess_write beat hb hok hd hr hbs).trans (State.bulkWriteBeat_self (State.bulkBuffer_self hhold))
    have hl : (wr.getD []).length = bs.length := by rw [hbs]; rfl
    refine ⟨fun hroom => win (e.trans (if_pos ?_)), fun hroom => win (e.trans (if_neg fun h => hroom ?_))⟩
    · rw [← hl]
      exact hroom
    · show (x.posted.map (fun w => w.2.length)).sum + (wr.getD []).length ≤ 4096
      rw [hl]
      exact h
  · intro hsome hhold hw h2 hp
    obtain ⟨bs, hbs⟩ := Option.isSome_iff_exists.1 hsome
    exact win ((State.bulkAccess_write beat hb hok hd hr hbs).trans
      (State.bulkWriteBeat_waits (State.bulkBuffer_none hhold hw h2 hp) hw))
  · intro hrd hpre ha hn
    exact win ((State.bulkAccess_read beat hb hok hd hr hrd).trans (State.bulkReadBeat_prefetched beat hpre ha hn))
  · intro hrd hpre ha hl
    exact win ((State.bulkAccess_read beat hb hok hd hr hrd).trans (State.bulkReadBeat_bin beat hpre ha hl hok hd))
  · intro p bs r hx hp hn hl
    have e := execBulkWritePerform_bin ctx clash hx hp hn hl
    refine ⟨fun hc => ?_, fun hc => ?_⟩
    · rw [e, hc]
      rfl
    · replace e := e.trans (congrArg Host.Outcome.next (if_neg (by rw [hc]; exact Bool.false_ne_true)))
      have hbyte := s.byte_posted ctx.val p bs
        { (s.bankWrite p bs).bulk ctx.val with posted := (p + bs.length, []) :: r } r
      refine ⟨_, e, ?_, fun b hb => ?_, State.postedDone_posted _ _ _, ?_⟩
      · exact (List.map_congr_left fun i _ => hbyte (p + i)).trans (s.bytes_bankWrite p bs)
      · rw [hbyte, State.byte_bankWrite, if_neg (by omega)]
      · rintro rfl
        exact State.postedDone_last _ _
  · exact fun hp hr => ⟨_, rfl, State.bulkRegRead_returns off s.reqCtr hp hr⟩
  · exact fun hp => ⟨_, rfl, State.bulkRegRead_waits off _ hp⟩
  · exact fun h => congrArg Host.Outcome.next (if_pos h)
  · exact fun h => congrArg Host.Outcome.next (if_neg (Nat.not_lt.2 h))

end Sys2Proof.Machine
end

section
/-!
SUPPORT. Returns, traps and undefined encodings (R101, R158, R163, R181, R182).
-/
namespace Sys2Proof.Machine

theorem State.Unmoved.refl (s : State) (gt : Nat) : s.Unmoved s gt :=
  ⟨State.stepped_refl s gt, Thread.keptBut_refl _ _, ⟨rfl, rfl, rfl⟩, rfl, rfl, rfl⟩

/-- A word that is no defined encoding raises ILLEGAL with DETAIL 0x00 in its beat, whatever row presents it. -/
theorem State.issue_undefined {s : State} {x : Issue} {i : Ins} {body : State → Exec} (hu : x.undef = true)
    (hf : s.fetchFault x.gt.val = none) (hc : s.canIssue x.gt.val x { i with wf := false } = true) :
    s.raisedAt (s.issue x i body) x.gt.val 2 0 := by
  have he : s.earlyFault x.gt.val { i with wf := false } = some (precise 2 0) := by simp [State.earlyFault]
  have e : s.issue x i body = ((s.beat x.gt.val (s.pairAfter x.gt.val x { i with wf := false })).countWindow
      x.gt.val).raiseOwn x.gt.val (precise 2 0) := by
    unfold State.issue
    simp only [hu, if_true, hc, hf, he, Bool.not_true, Bool.false_eq_true, if_false]
  rw [e]
  exact State.raiseOwn_at (((State.Unmoved.refl s _).quiet (State.beat_quiet _ _ _)).quiet
    (State.countWindow_quiet _ _)) (by rw [State.countWindow_late, State.beat_thread])

/-! ## ERET (R101, R182) -/

/-- The operation of ERET, and what it leaves of the instruction: no handler entry before the next one. -/
def eretBody (gt : Nat) (s : State) : Exec :=
  match s.pop gt with
  | some (v, s') => .done (s'.setBit (fInHandler gt) false) (.goto v (v + 4) false true)
  | none => .fault s (precise 5 2)
def State.eretEnds (s t : State) (gt : Nat) : State :=
  if (t.thread gt).rs.length < (s.thread gt).rs.length ∧ (t.thread gt).raised.isNone then
    t.modThread gt (fun u => { u with noEntry := true })
  else t

theorem execEret_eq (x : Issue) (s : State) :
    execEret x s = .next (s.eretEnds (s.issue x (insXfer []) (eretBody x.gt.val)) x.gt.val) := rfl

theorem State.eretEnds_quiet (s t : State) (gt : Nat) : t.Quiet (s.eretEnds t gt) gt := by
  unfold State.eretEnds
  split
  · exact State.Quiet.setThread _ _ _
      ⟨⟨rfl, rfl, rfl, rfl, rfl, rfl, rfl, rfl, rfl, rfl, rfl, rfl, rfl, rfl, rfl, rfl⟩, rfl, rfl, rfl, rfl, rfl, rfl⟩
  · exact State.Quiet.refl _ _
theorem State.eretEnds_raised (s : State) {t : State} {gt : Nat} {r : FaultRec} (h : (t.thread gt).raised = some r) :
    s.eretEnds t gt = t := by
  simp [State.eretEnds, h]

/-- A thread without its newest return address. -/
theorem eretBody_cons {s : State} {gt : Nat} {v : Word} {r : List Word} (h : (s.thread gt).rs = v :: r) :
    eretBody gt s = .done ((s.setThread gt { s.thread gt with rs := r }).setBit (fInHandler gt) false)
      (.goto v (v + 4) false true) := by
  simp [eretBody, State.pop, h]
theorem eretBody_nil {s : State} {gt : Nat} (h : (s.thread gt).rs = []) :
    eretBody gt s = .fault s (precise 5 2) := by
  simp [eretBody, State.pop, h]

section
variable {x : Issue} {s : State}

theorem execEret_empty (h : s.issues x (insXfer [])) (hr : (s.thread x.gt.val).rs = []) :
    ∃ t, execEret x s = .next t ∧ s.raisedAt t x.gt.val 5 2 := by
  have hb := eretBody_nil (s := s.fetchAhead x.gt.val) ((State.fetchAhead_rs s _).trans hr)
  have ht := State.raisedAt_of s x.gt.val (s.pairAfter x.gt.val x (insXfer [])) 5 2
  rw [← State.issue_fault h (.inl rfl) hb] at ht
  have hraised := ht
  obtain ⟨-, -, -, -, -, q, hq, -⟩ := hraised
  exact ⟨_, (execEret_eq x s).trans (congrArg _ (State.eretEnds_raised s hq)), ht⟩

theorem execEret_returns {v : Word} {r : List Word} (h : s.issues x (insXfer []))
    (hr : (s.thread x.gt.val).rs = v :: r) :
    ∃ t, execEret x s = .next t ∧ s.stepped t x.gt.val ∧
      ({ s.thread x.gt.val with rs := r } : Thread).keptBut (t.thread x.gt.val) [] ∧
      (s.thread x.gt.val).sameLoops (t.thread x.gt.val) ∧ (t.thread x.gt.val).pc = v ∧
      (t.thread x.gt.val).npc = v + 4 ∧ (t.thread x.gt.val).inDelay = false ∧
      t.bit (fInHandler x.gt.val) = false := by
  have hb := eretBody_cons (s := s.fetchAhead x.gt.val) ((State.fetchAhead_rs s _).trans hr)
  obtain ⟨ls, ah, hf⟩ := State.fetchAhead_thread s x.gt.val
  generalize hs' : ((s.fetchAhead x.gt.val).setThread x.gt.val
    { (s.fetchAhead x.gt.val).thread x.gt.val with rs := r }).setBit (fInHandler x.gt.val) false = s' at hb
  have hth : s'.thread x.gt.val = { s.thread x.gt.val with rs := r, lineBuf := ls, ahead := ah } := by
    rw [← hs', State.thread_setBit, State.thread_setThread_same, hf]
  have hst : s.stepped s' x.gt.val := by
    rw [← hs']
    exact State.stepped_trans (State.fetchAhead_stepped s _) (State.stepped_trans (State.stepped_setThread _ _ _)
      (State.stepped_setBit _ _ _ _ (by simp [fInHandler])))
  obtain ⟨q1, q2, q3⟩ := State.issue_quiet h (.inl rfl) hb (by rw [hth]; exact h.2.2.2.2.1)
    (by rw [hth]; exact h.2.2.2.2.2)
  obtain ⟨e1, e2, e3⟩ := State.eretEnds_quiet s (s.issue x (insXfer []) (eretBody x.gt.val)) x.gt.val
  have hgo := Thread.advance_goto (s'.thread x.gt.val) v (v + 4) false true
  have hstill := q2.trans e2
  have hkept : ({ s.thread x.gt.val with rs := r } : Thread).keptBut (s'.thread x.gt.val) [] := by
    rw [hth]; exact ⟨fun _ _ => rfl, rfl, rfl, rfl, rfl, rfl, rfl, rfl, rfl, rfl, rfl⟩
  have hloops : (s.thread x.gt.val).sameLoops (s'.thread x.gt.val) := by rw [hth]; exact ⟨rfl, rfl, rfl⟩
  refine ⟨_, execEret_eq x s, State.stepped_trans hst (State.stepped_trans q1 e1),
    Thread.keptBut_same hkept ((Thread.advance_same _ _).trans hstill.toSame),
    Thread.sameLoops_trans hloops (Thread.sameLoops_trans (Thread.advance_goto_loops _ _ _ _ _) hstill.loops),
    hstill.pc.trans hgo.1, hstill.npc.trans hgo.2.1, hstill.inDelay.trans hgo.2.2, ?_⟩
  rw [e3 x.gt.isLt, q3, ← hs']
  exact State.bit_setBit_same _ _ _ (by simp [Fld.ok, fInHandler])
end

/-! ## FRET and TRAPI (R158, R181) -/

theorem execTrapi_raises {x : Issue} {s : State} (n : BitVec 7) (h : s.issues x (insXfer [])) :
    ∃ t, execTrapi x n s = .next t ∧ s.raisedAt t x.gt.val 2 (0x80 + n.setWidth 8) := by
  refine ⟨_, rfl, ?_⟩
  rw [State.issue_fault h (.inl rfl) rfl]
  exact State.raisedAt_of s _ _ _ _

theorem State.touched_touched {s t u : State} {gt : Nat} {as : List Nat} (h : s.touched t gt as)
    (k : t.touched u gt as) : s.touched u gt as :=
  ⟨State.near_trans h.1 k.1, fun g hg => (k.2.1 g hg).trans (h.2.1 g hg), State.sameRegsBut_trans h.2.2 k.2.2⟩

/-- What FRET writes of its thread's registers: IN_FAULT is cleared, and CUR_LEAD is what the record says. -/
def State.leaveFault (s : State) (gt : Nat) : State :=
  (s.setBit (fInFault gt) false).setBit (fCurLead gt) ((s.reg (tReg gt 0x30)).getLsbD 23)

section
variable (s : State) (gt : Nat)
theorem State.leaveFault_thread (g : Nat) : (s.leaveFault gt).thread g = s.thread g := by
  simp [State.leaveFault]
theorem State.leaveFault_touched : s.touched (s.leaveFault gt) gt [tCfg gt 0] := by
  have ha : (fInFault gt).addr = tCfg gt 0 := by rw [fInFault]
  have hb : (fCurLead gt).addr = tCfg gt 0 := by rw [fCurLead]
  unfold State.leaveFault
  generalize fInFault gt = a at *
  generalize fCurLead gt = b at *
  generalize tCfg gt 0 = c at *
  exact State.touched_touched (State.touched_setFld s gt a _ (by rw [ha]; exact List.mem_singleton_self _))
    (State.touched_setFld _ gt b _ (by rw [hb]; exact List.mem_singleton_self _))

/-- Two bits of one register, the second written last. -/
theorem State.bits_setBit_setBit (s : State) {x y : Fld} (v w : Bool) (hx : x.ok) (hy : y.ok) (ha : x.addr = y.addr)
    (h : x.hi < y.lo ∨ y.hi < x.lo) :
    ((s.setBit x v).setBit y w).bit x = v ∧ ((s.setBit x v).setBit y w).bit y = w :=
  ⟨(State.bit_setBit_bits _ _ ha h).trans (State.bit_setBit_same s x v hx), State.bit_setBit_same _ y w hy⟩

theorem State.leaveFault_bits : (s.leaveFault gt).bit (fInFault gt) = false ∧
    (s.leaveFault gt).bit (fCurLead gt) = (s.reg (tReg gt 0x30)).getLsbD 23 := by
  have ha : (fInFault gt).addr = (fCurLead gt).addr := rfl
  have hx : (fInFault gt).ok := by simp [Fld.ok, fInFault]
  have hy : (fCurLead gt).ok := by simp [Fld.ok, fCurLead]
  have hd : (fInFault gt).hi < (fCurLead gt).lo ∨ (fCurLead gt).hi < (fInFault gt).lo := by simp [fInFault, fCurLead]
  unfold State.leaveFault
  generalize fInFault gt = a at *
  generalize fCurLead gt = b at *
  exact State.bits_setBit_setBit s _ _ hx hy ha hd
end

theorem State.stepped_bit_tCfg {s t : State} (g : GT) (h : s.stepped t g.val) {x : Fld} {o : Nat}
    (hx : x.addr = tCfg g.val o) (ho : o < 0x20) : t.bit x = s.bit x := by
  simp only [State.bit, State.fld, hx, State.stepped_tCfg g h ho]

/-- The operation of FRET. -/
def fretBody (gt : Nat) (s : State) : Exec :=
  .done (s.leaveFault gt) (.goto (s.reg (tReg gt 0x34) &&& ~~~ 3) (s.reg (tCfg gt 8) &&& ~~~ 3)
    ((s.reg (tReg gt 0x30)).getLsbD 28) true)
theorem execFret_eq (x : Issue) (s : State) :
    execFret x s = .next (s.issue x { insXfer [] with priv := true } (fretBody x.gt.val)) := rfl

theorem execFret_resumes {x : Issue} {s : State} (h : s.issues x { insXfer [] with priv := true }) :
    ∃ t, execFret x s = .next t ∧ s.touched t x.gt.val [tCfg x.gt.val 0] ∧
      (s.thread x.gt.val).keptBut (t.thread x.gt.val) [] ∧ (s.thread x.gt.val).sameLoops (t.thread x.gt.val) ∧
      t.bit (fInFault x.gt.val) = false ∧
      t.bit (fCurLead x.gt.val) = (s.reg (tReg x.gt.val 0x30)).getLsbD 23 ∧
      (t.thread x.gt.val).pc = s.reg (tReg x.gt.val 0x34) &&& ~~~ 3 ∧
      (t.thread x.gt.val).npc = s.reg (tCfg x.gt.val 8) &&& ~~~ 3 ∧
      (t.thread x.gt.val).inDelay = (s.reg (tReg x.gt.val 0x30)).getLsbD 28 := by
  obtain ⟨f1, f2, f3, -⟩ := State.fetchAhead_unmoved s x.gt.val
  let w := (s.fetchAhead x.gt.val).leaveFault x.gt.val
  have hth : w.thread x.gt.val = (s.fetchAhead x.gt.val).thread x.gt.val := State.leaveFault_thread _ _ _
  obtain ⟨q1, q2, q3, q4, q5, q6⟩ := State.issue_goto (s' := w) (body := fretBody x.gt.val) h (.inl rfl) rfl
    (by rw [hth, State.fetchAhead_delayed]) (by rw [hth, State.fetchAhead_stopReq])
  rw [hth] at q2 q6
  simp only [State.fetchAhead_reg] at q3 q4 q5
  refine ⟨_, execFret_eq x s, ?_, Thread.keptBut_same f2 q2, Thread.sameLoops_trans f3 q6, ?_, ?_, q3, q4, q5⟩
  · have h1 := State.leaveFault_touched (s.fetchAhead x.gt.val) x.gt.val
    refine State.touched_trans (t := w) ⟨State.near_trans f1.1 h1.1, fun g hg => (h1.2.1 g hg).trans (f1.2.1 g hg), ?_⟩ q1
    exact State.sameRegsBut_trans (State.sameRegsBut_mono f1.2.2 (by intro a ha; simp at ha ⊢; tauto)) h1.2.2
  · exact (State.stepped_bit_tCfg x.gt q1 rfl (by omega)).trans (State.leaveFault_bits _ _).1
  · refine (State.stepped_bit_tCfg x.gt q1 rfl (by omega)).trans ((State.leaveFault_bits _ _).2.trans ?_)
    rw [State.fetchAhead_reg]

/-- Settles O12: an undefined word faults before its operation (`State.issue_undefined`), ERET by the cases of the
return stack, TRAPI by its fault, and FRET by the record. -/
theorem returnsAndTraps : Obligations.ReturnsAndTraps := by
  unfold Obligations.ReturnsAndTraps
  intro x n s gt u
  refine ⟨fun hu hf _ _ => ⟨fun hc => ⟨_, rfl, State.issue_undefined hu hf hc⟩,
    fun hc => ⟨_, rfl, State.issue_undefined hu hf hc⟩⟩, fun h => ⟨?_, execTrapi_raises n h⟩, execFret_resumes⟩
  cases hr : u.rs with
  | nil => exact execEret_empty h hr
  | cons v r => exact execEret_returns h hr

end Sys2Proof.Machine
end

section
/-!
SUPPORT. Completion up to the thread's own writes (R105, R126), and SETSEG, SETTLE, ISYNC and SEAL (R108, R125, R126,
R151, R199, R432).
-/
namespace Sys2Proof.Machine

/-! ## What the boundary leaves of a thread's writes and its window -/

/-- A thread's own writes under way, and the end of its window, are as before. -/
def Thread.sameDue (u v : Thread) : Prop := v.delayed = u.delayed ∧ v.winEnd = u.winEnd

theorem Thread.sameDue_refl (u : Thread) : u.sameDue u := ⟨rfl, rfl⟩
theorem Thread.sameDue_trans {u v w : Thread} (h : u.sameDue v) (k : v.sameDue w) : u.sameDue w :=
  ⟨k.1.trans h.1, k.2.trans h.2⟩

theorem State.raise_sameDue (s : State) (gt : Nat) (r : FaultRec) :
    (s.thread gt).sameDue ((s.raise gt r).thread gt) := by
  unfold State.raise
  simp only []
  split <;> simp [Thread.sameDue]
theorem State.freezeNow_sameDue (s : State) (gt : Nat) : (s.thread gt).sameDue ((s.freezeNow gt).thread gt) := by
  simp [State.freezeNow, Thread.sameDue]
theorem State.haltNow_sameDue (s : State) (gt : Nat) (d : Bool) :
    (s.thread gt).sameDue ((s.haltNow gt d).thread gt) := by
  simp [State.haltNow, Thread.sameDue]
theorem State.stepDue_sameDue (s : State) (gt : Nat) : (s.thread gt).sameDue ((s.stepDue gt).thread gt) := by
  unfold State.stepDue
  simp only []
  split <;> simp [Thread.sameDue]

/-- With no STOP awaited, what falls due at a boundary settles no write. -/
theorem State.atBoundary_sameDue (s : State) (gt : Nat) (h : (s.thread gt).stopReq = false) :
    (s.thread gt).sameDue ((s.atBoundary gt).thread gt) := by
  have raised (u : Thread) (hu : (s.thread gt).sameDue u) (r : FaultRec) :
      (s.thread gt).sameDue (((s.setThread gt u).raise gt r).thread gt) :=
    Thread.sameDue_trans (by rw [State.thread_setThread_same]; exact hu) (State.raise_sameDue _ _ _)
  unfold State.atBoundary
  simp only []
  split
  · split
    · exact State.freezeNow_sameDue s gt
    · exact Thread.sameDue_refl _
  · split
    · exact Thread.sameDue_refl _
    · rw [if_neg (by simp [h])]
      split
      · exact Thread.sameDue_refl _
      · split
        · exact State.raise_sameDue _ _ _
        · split
          · exact raised { s.thread gt with late := [] } ⟨rfl, rfl⟩ _
          · split
            · exact raised { s.thread gt with broke := none } ⟨rfl, rfl⟩ _
            · split
              · exact State.freezeNow_sameDue s gt
              · split
                · split
                  · exact State.haltNow_sameDue s gt _
                  · exact Thread.sameDue_refl _
                · exact Thread.sameDue_refl _

theorem Thread.record_winEnd (t : Thread) (bs : List Byte) : (t.record bs).winEnd = t.winEnd := by
  unfold Thread.record
  split
  · induction bs generalizing t with
    | nil => rfl
    | cons b r ih =>
      rename_i h
      exact ih (t.sigByte b) h
  · rfl
theorem Thread.setLoop_winEnd (t : Thread) (k : Nat) (l : Loop) : (t.setLoop k l).winEnd = t.winEnd := by
  unfold Thread.setLoop
  (repeat' split) <;> rfl
theorem Thread.loopBack_winEnd (t : Thread) (pc : Word) (ks : List Nat) :
    (t.loopBack pc ks).1.winEnd = t.winEnd := by
  induction ks generalizing t with
  | nil => rfl
  | cons k r ih =>
    have h := (ih (t.setLoop k { t.loop k with count := 0, active := false })).trans (Thread.setLoop_winEnd _ _ _)
    unfold Thread.loopBack
    simp only []
    split
    · split
      · exact Thread.setLoop_winEnd _ _ _
      · split <;> (rename_i e; rw [e] at h; exact h)
    · exact ih t
theorem Thread.advance_winEnd (t : Thread) : (t.advance .seq).winEnd = t.winEnd := by
  have h := Thread.loopBack_winEnd t t.pc [2, 1, 0]
  unfold Thread.advance
  simp only []
  split
  · rfl
  · split
    · rename_i e
      rw [e] at h
      split
      · exact h
      · exact (Thread.record_winEnd _ _).trans h
    · rfl

/-! ## Completion, up to the thread's own writes -/

theorem State.heldBreak_winEnd (s : State) (gt : Nat) :
    ((s.heldBreak gt).thread gt).winEnd = (s.thread gt).winEnd := by
  unfold State.heldBreak
  simp only []
  split <;> simp
theorem State.countWindow_winEnd {s : State} {gt : Nat} (h : (s.thread gt).winEnd = true) :
    ((s.countWindow gt).thread gt).winEnd = true := by
  unfold State.countWindow
  split
  · simp [h]
  · exact h

/-- An instruction that is no transfer completes: the thread goes on, its own writes come nearer, and what falls due
at a boundary is taken. -/
theorem State.complete_seq (s : State) (gt : Nat) (after : Option PairInfo) : ∃ v,
    s.complete gt .seq after = ((v.tickDelayed gt).stepDue gt).atBoundary gt ∧ s.stepped v gt ∧
    Thread.Still ((s.thread gt).advance .seq) (v.thread gt) ∧
    (v.thread gt).delayed = (s.thread gt).delayed ∧ ((s.thread gt).winEnd = true → (v.thread gt).winEnd = true) := by
  obtain ⟨hb, hbd⟩ := State.heldBreak_quiet s gt
  let f (t : Thread) : Thread := { t.advance .seq with pairOpen := after, held := false, noEntry := false }
  have hf : Thread.Still (((s.heldBreak gt).thread gt).advance .seq) (f ((s.heldBreak gt).thread gt)) :=
    ⟨⟨rfl, rfl, rfl, rfl, rfl, rfl, rfl, rfl, rfl, rfl, rfl, rfl, rfl, rfl, rfl, rfl⟩, rfl, rfl, rfl, rfl, rfl, rfl⟩
  have ht : ((s.heldBreak gt).modThread gt f).thread gt = f ((s.heldBreak gt).thread gt) :=
    State.thread_modThread_same _ _ _
  have hw := State.countWindow_quiet ((s.heldBreak gt).modThread gt f) gt
  refine ⟨((s.heldBreak gt).modThread gt f).countWindow gt, rfl, ?_, ?_, ?_, fun h => ?_⟩
  · exact State.stepped_trans hb.1 (State.stepped_trans (State.stepped_modThread _ _ _) hw.1)
  · exact (Thread.advance_still hb.2.1 .seq).trans (hf.trans (by rw [← ht]; exact hw.2.1))
  · rw [State.countWindow_delayed, ht]
    exact (Thread.advance_delayed _ .seq).trans hbd
  · refine State.countWindow_winEnd ?_
    rw [ht]
    exact (Thread.advance_winEnd _).trans ((State.heldBreak_winEnd s gt).trans h)

/-- What ends a completion, with no STOP awaited. -/
theorem State.ends_quiet (s : State) (gt : Nat) (h : (s.thread gt).stopReq = false) :
    s.Quiet ((s.stepDue gt).atBoundary gt) gt ∧ (s.thread gt).sameDue (((s.stepDue gt).atBoundary gt).thread gt) := by
  have q := State.stepDue_quiet s gt
  have hs := q.2.1.stop.trans h
  exact ⟨q.trans (State.atBoundary_quiet _ gt hs),
    Thread.sameDue_trans (State.stepDue_sameDue s gt) (State.atBoundary_sameDue _ gt hs)⟩

theorem State.tickDelayed_none {s : State} {gt : Nat} (h : (s.thread gt).noneDue) :
    ((s.tickDelayed gt).thread gt).delayed = (s.thread gt).delayed.map (fun p => (p.1 - 1, p.2)) ∧
      ((s.tickDelayed gt).thread gt).winEnd = (s.thread gt).winEnd := by
  have hd : (s.thread gt).delayed.filter (fun p => p.1 = 0) = [] := by
    rw [List.filter_eq_nil_iff]; intro p hp; simpa using h p hp
  have hr : (s.thread gt).delayed.filter (fun p => p.1 ≠ 0) = (s.thread gt).delayed :=
    List.filter_eq_self.2 fun p hp => by simpa using h p hp
  unfold State.tickDelayed
  rw [hd, hr]
  simp

/-- With no write due, the thread's writes are one instruction nearer, and the end of its window stays. -/
theorem State.complete_due (s : State) (gt : Nat) (after : Option PairInfo) (h : (s.thread gt).noneDue)
    (hs : (s.thread gt).stopReq = false) :
    ((s.complete gt .seq after).thread gt).delayed = (s.thread gt).delayed.map (fun p => (p.1 - 1, p.2)) ∧
    ((s.thread gt).winEnd = true → ((s.complete gt .seq after).thread gt).winEnd = true) := by
  obtain ⟨v, e, -, hstill, hd, hw⟩ := State.complete_seq s gt after
  have hn : (v.thread gt).noneDue := by unfold Thread.noneDue; rw [hd]; exact h
  have hv : (v.thread gt).stopReq = false := hstill.stop.trans ((Thread.advance_same _ _).stop.trans hs)
  obtain ⟨t1, t2⟩ := State.tickDelayed_none hn
  obtain ⟨-, k⟩ := State.ends_quiet (v.tickDelayed gt) gt ((State.tickDelayed_quiet v gt hn).2.1.stop.trans hv)
  rw [e]
  exact ⟨k.1.trans (t1.trans (congrArg _ hd)), fun hwin => k.2.trans (t2.trans (hw hwin))⟩

end Sys2Proof.Machine
end

section
/-!
SUPPORT. SETSEG, SETTLE, ISYNC and SEAL (R108, R125, R126, R151, R199, R432).
-/
namespace Sys2Proof.Machine

/-! ## Writing a segment (R119, R126) -/

theorem State.touched_setReg (s : State) (gt : Nat) {as : List Nat} {a : Nat} (v : Word) (h : a ∈ as) :
    s.touched (s.setReg a v) gt as :=
  ⟨rfl, fun _ _ => rfl, State.sameRegsBut_mono (State.sameRegsBut_setReg s a v) (by
    intro b hb
    rw [List.mem_singleton.1 hb]
    exact List.mem_append_right _ h)⟩

/-- The words of a descriptor written together. -/
def State.writeSeg (s : State) (gt i : Nat) (base : BitVec 48) (limit rights : Word) : State :=
  (((s.setReg (tSeg gt i 0) (base.setWidth 32)).setReg (tSeg gt i 4) (BitVec.ofNat 32 (base.toNat / 2 ^ 32))).setReg
    (tSeg gt i 8) limit).setReg (tSeg gt i 0xC) rights

/-- The addresses of a descriptor's words. -/
def segWords (gt i : Nat) : List Nat := [tSeg gt i 0, tSeg gt i 4, tSeg gt i 8, tSeg gt i 0xC]

theorem State.writeSeg_thread (s : State) (gt i : Nat) (base : BitVec 48) (limit rights : Word) (g : Nat) :
    (s.writeSeg gt i base limit rights).thread g = s.thread g := by
  simp only [State.writeSeg, State.thread_setReg]

theorem State.writeSeg_touched (s : State) (gt i : Nat) (base : BitVec 48) (limit rights : Word) :
    s.touched (s.writeSeg gt i base limit rights) gt (segWords gt i) := by
  unfold State.writeSeg segWords
  generalize tSeg gt i 0 = a
  generalize tSeg gt i 4 = b
  generalize tSeg gt i 8 = c
  generalize tSeg gt i 0xC = d
  exact State.touched_touched (State.touched_touched (State.touched_touched
    (State.touched_setReg s gt _ (by simp)) (State.touched_setReg _ gt _ (by simp)))
    (State.touched_setReg _ gt _ (by simp))) (State.touched_setReg _ gt _ (by simp))

theorem canon_tSeg_ne (g : GT) {i o p : Nat} (hi : i < 16) (ho : o < 0x10) (hp : p < 0x10) (h : o ≠ p) :
    canon (tSeg g.val i o) ≠ canon (tSeg g.val i p) := by
  rw [canon_tSeg g hi ho, canon_tSeg g hi hp]; unfold tSeg; omega
theorem canon_tSeg_ne_tReg (g : GT) {i o p : Nat} (hi : i < 16) (ho : o < 0x10) (hp : p < 0x40) :
    canon (tSeg g.val i o) ≠ canon (tReg g.val p) := by
  rw [canon_tSeg g hi ho, canon_tReg g hp]; unfold tSeg tReg; omega

theorem State.writeSeg_regs (s : State) (g : GT) {i : Nat} (hi : i < 16) (base : BitVec 48) (limit rights : Word) :
    let t := s.writeSeg g.val i base limit rights
    t.reg (tSeg g.val i 0) = base.setWidth 32 ∧ t.reg (tSeg g.val i 4) = BitVec.ofNat 32 (base.toNat / 2 ^ 32) ∧
      t.reg (tSeg g.val i 8) = limit ∧ t.reg (tSeg g.val i 0xC) = rights := by
  have ne {o p : Nat} (ho : o < 0x10) (hp : p < 0x10) (h : o ≠ p) := canon_tSeg_ne g hi ho hp h
  have h04 := ne (o := 0) (p := 4) (by decide) (by decide) (by decide)
  have h08 := ne (o := 0) (p := 8) (by decide) (by decide) (by decide)
  have h0C := ne (o := 0) (p := 0xC) (by decide) (by decide) (by decide)
  have h48 := ne (o := 4) (p := 8) (by decide) (by decide) (by decide)
  have h4C := ne (o := 4) (p := 0xC) (by decide) (by decide) (by decide)
  have h8C := ne (o := 8) (p := 0xC) (by decide) (by decide) (by decide)
  unfold State.writeSeg
  generalize tSeg g.val i 0 = a at *
  generalize tSeg g.val i 4 = b at *
  generalize tSeg g.val i 8 = c at *
  generalize tSeg g.val i 0xC = d at *
  refine ⟨?_, ?_, ?_, State.reg_setReg_same _ _ _⟩
  · rw [State.reg_setReg_other _ _ h0C, State.reg_setReg_other _ _ h08, State.reg_setReg_other _ _ h04,
      State.reg_setReg_same]
  · rw [State.reg_setReg_other _ _ h4C, State.reg_setReg_other _ _ h48, State.reg_setReg_same]
  · rw [State.reg_setReg_other _ _ h8C, State.reg_setReg_same]

/-- The segment set survives completion. -/
theorem State.stepped_tSeg {s t : State} (g : GT) (h : s.stepped t g.val) {i o : Nat} (hi : i < 16) (ho : o < 0x10) :
    t.reg (tSeg g.val i o) = s.reg (tSeg g.val i o) := by
  refine h.2.2 _ fun b hb => ?_
  simp only [List.mem_cons, List.not_mem_nil, or_false] at hb
  rcases hb with rfl | rfl | rfl <;> exact canon_tSeg_ne_tReg g hi ho (by decide)

/-! ## SETSEG (R125, R126) -/

/-- An operation's own precise fault, in a state in which the thread stands where it stood. -/
theorem State.raiseOwn_precise {s u : State} {gt : Nat} {r : FaultRec} (hr : r.imprecise = false)
    (h : s.Unmoved u gt) (hl : (u.thread gt).late = (s.thread gt).late) :
    s.raisedAt (u.raiseOwn gt r) gt r.cls r.detail := by
  have ht : (u.thread gt).twin = (s.thread gt).twin := h.2.1.2.2.2.2.2.2.2.2.2.2
  obtain ⟨k, hk⟩ := State.raise_unmoved r h
  have plain (hm : match (s.thread gt).late, (s.thread gt).twin with
      | _ :: _, none => False
      | _, _ => True) : s.raisedAt (u.raise gt r) gt r.cls r.detail := by
    refine ⟨k.1, k.2.1, k.2.2.1, k.2.2.2.1, k.2.2.2.2.1, _, hk, rfl, rfl, rfl, ?_⟩
    split
    · rename_i e1 e2; simp [e1, e2] at hm
    · exact ⟨hr, rfl, rfl⟩
  cases e : (s.thread gt).late with
  | nil =>
    have he : u.raiseOwn gt r = u.raise gt r := by simp only [State.raiseOwn, hl, e]
    rw [he]
    exact plain (by simp only [e])
  | cons q rest =>
    cases e2 : (s.thread gt).twin with
    | some p =>
      have he : u.raiseOwn gt r = u.raise gt r := by simp only [State.raiseOwn, hl, ht, e, e2]
      rw [he]
      exact plain (by simp only [e, e2])
    | none =>
      have he : u.raiseOwn gt r = u.raiseOwn gt (precise r.cls r.detail) := by
        simp only [State.raiseOwn, hl, ht, e, e2]
      rw [he]
      exact State.raiseOwn_at h hl

/-- Threads at the same addresses, in the same loops, go on alike. -/
theorem Thread.advance_wentOn {u v : Thread} (hp : v.pc = u.pc) (hn : v.npc = u.npc) (hd : v.inDelay = u.inDelay)
    (hl : u.sameLoops v) : u.wentOn (v.advance .seq) := by
  obtain ⟨w1, w2, w3, w4⟩ := Thread.advance_seq v
  have hs := Thread.successor_congr ⟨hp, hn, hd⟩ hl.1 hl.2.1 hl.2.2
  exact ⟨w1.trans hs, by rw [w2, hs], w3, Thread.sameLoops_trans (Thread.loopsAfter_congr hl hp hd) w4⟩

/-- The columns and the operation of SETSEG. -/
def insSetseg (si : Fin 8) (a b : Reg) : Ins :=
  { reads := [a, b], pairOk := false, priv := true, delayIll := si.val == 7 }
def setsegRecord (si : Fin 8) (v : Word) : FaultRec :=
  { precise 0 3 with seg := BitVec.ofNat 3 si.val, acc := 6, addr := v.setWidth 48 }
def setsegRights (c : Desc) (rights : BitVec 5) : Word :=
  1 ||| (boolWord (rights.getLsbD 1 && c.r) <<< 1) ||| (boolWord (rights.getLsbD 2 && c.w) <<< 2) |||
    (boolWord (rights.getLsbD 3 && c.x) <<< 3) ||| (boolWord (rights.getLsbD 4 || c.lead) <<< 5)
def setsegBody (gt : Nat) (si : Fin 8) (a b : Reg) (rights : BitVec 5) (s : State) : Exec :=
  let t := s.thread gt
  let c := s.desc gt (si.val + 8)
  let base := BitVec.ofNat 48 (c.base + (t.rd a).toNat)
  if !c.valid || decide (c.limit < (t.rd a).toNat + (t.rd b).toNat) then .fault s (setsegRecord si (t.rd a))
  else if si.val = 7 then
    .done (s.setThread gt { t with delayed := t.delayed ++ [(2, .seg7 base (t.rd b) (setsegRights c rights))] }) .seq
  else .done (s.writeSeg gt si.val base (t.rd b) (setsegRights c rights)) .seq

theorem execSetseg_eq (x : Issue) (si : Fin 8) (a b : Reg) (rights : BitVec 5) (s : State) :
    execSetseg x si a b rights s = .next (s.issue x (insSetseg si a b) (setsegBody x.gt.val si a b rights)) := rfl

theorem boolWords_append (r w x l : Bool) :
    (1 ||| (boolWord r <<< 1) ||| (boolWord w <<< 2) ||| (boolWord x <<< 3) ||| (boolWord l <<< 5) : Word) =
      (0 : BitVec 26) ++ BitVec.ofBool l ++ (0 : BitVec 1) ++ BitVec.ofBool x ++ BitVec.ofBool w ++ BitVec.ofBool r ++
        (1 : BitVec 1) := by
  cases r <;> cases w <;> cases x <;> cases l <;> decide

theorem bitsOf_low16 (w : Word) : (bitsOf w 15 0).toNat = w.toNat % 2 ^ 16 := by
  simp [bitsOf, bitMask]
  exact Nat.and_two_pow_sub_one_eq_mod w.toNat 16

theorem State.desc_fetchAhead (s : State) (gt i : Nat) : (s.fetchAhead gt).desc gt i = s.desc gt i := by
  simp only [State.desc, State.fetchAhead_reg]

/-- The base that SETSEG gives. -/
theorem State.desc_base (s : State) (gt i : Nat) :
    (s.desc gt i).base = (s.reg (tSeg gt i 0)).toNat + 2 ^ 32 * ((s.reg (tSeg gt i 4)).toNat % 2 ^ 16) := by
  simp only [State.desc, bitsOf_low16]

section
variable {x : Issue} {si : Fin 8} {a b : Reg} (rights : BitVec 5) {s : State} (h : s.issues x (insSetseg si a b))
include h

theorem execSetseg_faults (hc : (s.desc x.gt.val (si.val + 8)).valid = false ∨
      (s.desc x.gt.val (si.val + 8)).limit < ((s.thread x.gt.val).rd a).toNat + ((s.thread x.gt.val).rd b).toNat) :
    ∃ t, execSetseg x si a b rights s = .next t ∧ s.raisedAt t x.gt.val 0 3 := by
  have hb : setsegBody x.gt.val si a b rights (s.fetchAhead x.gt.val) =
      .fault (s.fetchAhead x.gt.val) (setsegRecord si ((s.thread x.gt.val).rd a)) := by
    unfold setsegBody
    simp only [State.desc_fetchAhead, State.fetchAhead_rd]
    exact if_pos (by simpa using hc)
  refine ⟨_, execSetseg_eq .., ?_⟩
  rw [State.issue_fault h (.inl rfl) hb]
  exact State.raiseOwn_precise rfl (((State.fetchAhead_unmoved s _).quiet (State.beat_quiet _ _ _)).quiet
    (State.countWindow_quiet _ _)) (by rw [State.countWindow_late, State.beat_thread, State.fetchAhead_late])

variable (hc : ¬ ((s.desc x.gt.val (si.val + 8)).valid = false ∨
  (s.desc x.gt.val (si.val + 8)).limit < ((s.thread x.gt.val).rd a).toNat + ((s.thread x.gt.val).rd b).toNat))
include hc

/-- SETSEG of a segment but s7 writes its words at once. -/
theorem execSetseg_writes (hi : si.val ≠ 7) :
    let u := s.thread x.gt.val
    let c := s.desc x.gt.val (si.val + 8)
    let base := BitVec.ofNat 48 (c.base + (u.rd a).toNat)
    let reg (t : State) (o : Nat) := t.reg (tSeg x.gt.val si.val o)
    ∃ t, execSetseg x si a b rights s = .next t ∧ s.touched t x.gt.val (segWords x.gt.val si.val) ∧
      u.wentOn (t.thread x.gt.val) ∧ u.keptBut (t.thread x.gt.val) [] ∧ reg t 0 = base.setWidth 32 ∧
      reg t 4 = BitVec.ofNat 32 (base.toNat / 2 ^ 32) ∧ reg t 8 = u.rd b ∧ reg t 0xC = setsegRights c rights := by
  intro u c base reg
  let s' := (s.fetchAhead x.gt.val).writeSeg x.gt.val si.val base (u.rd b) (setsegRights c rights)
  have hb : setsegBody x.gt.val si a b rights (s.fetchAhead x.gt.val) = .done s' .seq := by
    unfold setsegBody
    simp only [State.desc_fetchAhead, State.fetchAhead_rd]
    rw [if_neg (by simpa using hc), if_neg hi]
  have hth : s'.thread x.gt.val = (s.fetchAhead x.gt.val).thread x.gt.val := State.writeSeg_thread _ _ _ _ _ _ _
  obtain ⟨q1, q2, q3⟩ := State.issue_ran h (.inl rfl) hb (by rw [hth]; exact State.fetchAhead_placed s _)
  rw [hth] at q2
  have hlt : si.val < 16 := by omega
  obtain ⟨r0, r4, r8, rC⟩ := State.writeSeg_regs (s.fetchAhead x.gt.val) x.gt hlt base (u.rd b) (setsegRights c rights)
  have hk {o : Nat} (ho : o < 0x10) := State.stepped_tSeg x.gt q1 hlt ho
  exact ⟨_, execSetseg_eq .., State.touched_trans (State.touched_touched
      (State.stepped_touched (State.fetchAhead_stepped s _)) (State.writeSeg_touched _ _ _ _ _ _)) q1, q3,
    Thread.keptBut_same (State.fetchAhead_unmoved s _).2.1 q2, (hk (by decide)).trans r0, (hk (by decide)).trans r4,
    (hk (by decide)).trans r8, (hk (by decide)).trans rC⟩

/-- SETSEG of s7 leaves the segment for two further instructions. -/
theorem execSetseg_delays (hi : si.val = 7) :
    let u := s.thread x.gt.val
    let c := s.desc x.gt.val (si.val + 8)
    ∃ t, execSetseg x si a b rights s = .next t ∧ s.stepped t x.gt.val ∧
      u.wentOn (t.thread x.gt.val) ∧ u.keptBut (t.thread x.gt.val) [] ∧
      (t.thread x.gt.val).delayed = u.delayed.map (fun p => (p.1 - 1, p.2)) ++
        [(1, .seg7 (BitVec.ofNat 48 (c.base + (u.rd a).toNat)) (u.rd b) (setsegRights c rights))] := by
  intro u c
  let d : Delayed := .seg7 (BitVec.ofNat 48 (c.base + (u.rd a).toNat)) (u.rd b) (setsegRights c rights)
  let v : Thread := { (s.fetchAhead x.gt.val).thread x.gt.val with delayed := u.delayed ++ [(2, d)] }
  let s' := (s.fetchAhead x.gt.val).setThread x.gt.val v
  have hb : setsegBody x.gt.val si a b rights (s.fetchAhead x.gt.val) = .done s' .seq := by
    unfold setsegBody
    simp only [State.desc_fetchAhead, State.fetchAhead_rd, State.fetchAhead_delayed]
    rw [if_neg (by simpa using hc), if_pos hi]
  have hth : s'.thread x.gt.val = v := State.thread_setThread_same _ _ _
  have hdue : (s'.thread x.gt.val).noneDue := by
    rw [hth]
    intro p hp
    rcases List.mem_append.1 hp with hp | hp
    · exact h.2.2.2.2.1 p hp
    · rw [List.mem_singleton.1 hp]; exact (by decide : (2 : Nat) ≠ 0)
  have hstop : (s'.thread x.gt.val).stopReq = false := by
    rw [hth]; exact (State.fetchAhead_stopReq s _).trans h.2.2.2.2.2
  obtain ⟨q1, q2, -⟩ := State.issue_quiet h (.inl rfl) hb hdue hstop
  have hdel : ((s.issue x (insSetseg si a b) (setsegBody x.gt.val si a b rights)).thread x.gt.val).delayed =
      (s'.thread x.gt.val).delayed.map (fun p => (p.1 - 1, p.2)) := by
    rw [State.issue_done h (.inl rfl) hb]
    have hbt := State.beat_thread s' x.gt.val x.gt.val (s.pairAfter x.gt.val x (insSetseg si a b))
    rw [(State.complete_due _ x.gt.val _ (by rw [hbt]; exact hdue) (by rw [hbt]; exact hstop)).1, hbt]
  rw [hth] at q2 hdel
  obtain ⟨f1, f2, -⟩ := State.fetchAhead_unmoved s x.gt.val
  have hv : Thread.Same v (v.advance .seq) := Thread.advance_same _ _
  have hkv : u.keptBut v [] := ⟨f2.1, f2.2.1, f2.2.2⟩
  refine ⟨_, execSetseg_eq .., State.stepped_trans f1 (State.stepped_trans (State.stepped_setThread _ _ _) q1), ?_,
    Thread.keptBut_same hkv (hv.trans q2.toSame), ?_⟩
  · obtain ⟨a1, a2, a3, a4, -⟩ := State.fetchAhead_placed s x.gt.val
    exact Thread.wentOn_still (Thread.advance_wentOn (v := v) a1 a2 a3 a4) q2
  · rw [hdel]
    simp [v, d]
end

end Sys2Proof.Machine
end

section
/-!
SUPPORT. A SETSEG of s7 comes into force (R126), and the instructions that wait for earlier operations (R108, R151,
R199, R432).
-/
namespace Sys2Proof.Machine

/-! ## s7 comes into force (R126) -/

/-- An instruction that issues and acts, whatever of the thread's own writes falls due with it. -/
theorem State.issue_completes {s s' : State} {x : Issue} {i : Ins} {body : State → Exec} {nx : Next}
    (hu : x.undef = false) (hc : s.canIssue x.gt.val x i = true) (hf : s.fetchFault x.gt.val = none)
    (he : s.earlyFault x.gt.val i = none) (hv : i.via = false)
    (hb : body (s.fetchAhead x.gt.val) = .done s' nx) :
    s.issue x i body = (s'.beat x.gt.val (s.pairAfter x.gt.val x i)).complete x.gt.val nx
      (s.pairAfter x.gt.val x i) := by
  unfold State.issue
  simp only [hu, hc, hf, he, hv, hb, Bool.false_eq_true, if_false, Bool.not_true]

theorem State.tickDelayed_seg7 {s : State} {gt : Nat} {base : BitVec 48} {limit rights : Word}
    (h : (s.thread gt).delayed = [(0, .seg7 base limit rights)]) :
    s.tickDelayed gt = (s.modThread gt (fun t => { t with delayed := [] })).writeSeg gt 7 base limit rights := by
  unfold State.tickDelayed
  simp only [h]
  rfl

theorem extract_low (b : BitVec 48) : b.setWidth 32 = b.extractLsb' 0 32 := by
  apply BitVec.eq_of_toNat_eq
  simp [BitVec.extractLsb'_toNat]
theorem extract_high (b : BitVec 48) :
    BitVec.ofNat 32 (b.toNat / 2 ^ 32) = (b.extractLsb' 32 16).setWidth 32 := by
  apply BitVec.eq_of_toNat_eq
  have hb := b.isLt
  rw [BitVec.toNat_ofNat, BitVec.toNat_setWidth, BitVec.extractLsb'_toNat, Nat.shiftRight_eq_div_pow]
  omega

/-- With the s7 of an earlier SETSEG due, an instruction puts it in force as it completes. -/
theorem execNop_settles {x : Issue} {base : BitVec 48} {limit rights : Word} {s : State} (hu : x.undef = false)
    (hc : s.canIssue x.gt.val x {} = true) (hf : s.fetchFault x.gt.val = none)
    (he : s.earlyFault x.gt.val {} = none) (hs : (s.thread x.gt.val).stopReq = false)
    (hd : (s.thread x.gt.val).delayed = [(0, .seg7 base limit rights)]) :
    let reg (t : State) (o : Nat) := t.reg (tSeg x.gt.val 7 o)
    ∃ t, execNop x s = .next t ∧ s.touched t x.gt.val (segWords x.gt.val 7) ∧
      (s.thread x.gt.val).wentOn (t.thread x.gt.val) ∧ (s.thread x.gt.val).keptBut (t.thread x.gt.val) [] ∧
      (t.thread x.gt.val).delayed = [] ∧ reg t 0 = base.setWidth 32 ∧ reg t 4 = BitVec.ofNat 32 (base.toNat / 2 ^ 32) ∧
      reg t 8 = limit ∧ reg t 0xC = rights := by
  intro reg
  let after := s.pairAfter x.gt.val x {}
  let s' := (s.fetchAhead x.gt.val).beat x.gt.val after
  have e : execNop x s = .next (s'.complete x.gt.val .seq after) :=
    congrArg _ (State.issue_completes hu hc hf he rfl rfl)
  have f : s.Unmoved s' x.gt.val := (State.fetchAhead_unmoved s _).quiet (State.beat_quiet _ _ _)
  have ht : s'.thread x.gt.val = (s.fetchAhead x.gt.val).thread x.gt.val := State.beat_thread _ _ _ _
  obtain ⟨v, ev, v1, v2, v3, -⟩ := State.complete_seq s' x.gt.val after
  have vd : (v.thread x.gt.val).delayed = [(0, .seg7 base limit rights)] := by
    rw [v3, ht, State.fetchAhead_delayed, hd]
  have htick := State.tickDelayed_seg7 vd
  let w := v.modThread x.gt.val (fun t => { t with delayed := [] })
  have hw : w.thread x.gt.val = { v.thread x.gt.val with delayed := [] } := State.thread_modThread_same _ _ _
  have hwt : (w.writeSeg x.gt.val 7 base limit rights).thread x.gt.val = { v.thread x.gt.val with delayed := [] } :=
    (State.writeSeg_thread _ _ _ _ _ _ _).trans hw
  have hvs : Thread.Still (v.thread x.gt.val) { v.thread x.gt.val with delayed := [] } :=
    ⟨⟨rfl, rfl, rfl, rfl, rfl, rfl, rfl, rfl, rfl, rfl, rfl, rfl, rfl, rfl, rfl, rfl⟩, rfl, rfl, rfl, rfl, rfl, rfl⟩
  have hstop : (v.thread x.gt.val).stopReq = false := by
    rw [v2.stop, (Thread.advance_same _ _).stop, ht, State.fetchAhead_stopReq, hs]
  obtain ⟨q, qd⟩ := State.ends_quiet (w.writeSeg x.gt.val 7 base limit rights) x.gt.val (by rw [hwt]; exact hstop)
  have hstill := q.2.1
  rw [hwt] at hstill qd
  have hall := v2.trans (hvs.trans hstill)
  obtain ⟨r0, r4, r8, rC⟩ := State.writeSeg_regs w x.gt (i := 7) (by decide) base limit rights
  have hk {o : Nat} (ho : o < 0x10) := State.stepped_tSeg x.gt q.1 (i := 7) (by decide) ho
  rw [ev, htick] at e
  refine ⟨_, e, ?_, ?_, ?_, qd.1, (hk (by decide)).trans r0, (hk (by decide)).trans r4, (hk (by decide)).trans r8,
    (hk (by decide)).trans rC⟩
  · exact State.touched_trans (State.touched_touched (State.stepped_touched (State.stepped_trans f.1
      (State.stepped_trans v1 (State.stepped_modThread _ _ _)))) (State.writeSeg_touched _ _ _ _ _ _)) q.1
  · exact Thread.wentOn_still (Thread.advance_wentOn f.2.2.2.1 f.2.2.2.2.1 f.2.2.2.2.2 f.2.2.1) hall
  · exact Thread.keptBut_same f.2.1 ((Thread.advance_same _ _).trans hall.toSame)

/-! ## Waiting, going on, and the late error -/

/-- The thread waits in an instruction. -/
def State.waitsIn (s t : State) (gt : Nat) (w : Waiting) : Prop :=
  s.stepped t gt ∧ (s.thread gt).keptBut (t.thread gt) [] ∧ (t.thread gt).pc = (s.thread gt).pc ∧
    (t.thread gt).waiting = some w ∧ t.fld (fState gt) = stWait

/-- The thread goes on, with nothing else of it changed. -/
def State.goesOn (s t : State) (gt : Nat) : Prop :=
  s.stepped t gt ∧ (s.thread gt).wentOn (t.thread gt) ∧ (s.thread gt).keptBut (t.thread gt) []

/-- The first late error that the thread holds is raised, marked as one of a SETTLE or SEAL; no late error stays. -/
def State.raisesLate (s t : State) (gt : Nat) (r : Nat × FaultRec) (rest : Map FaultRec) : Prop :=
  (s.thread gt).keptBut (t.thread gt) [] ∧ (t.thread gt).pc = (s.thread gt).pc ∧ (t.thread gt).late = [] ∧
    (t.thread gt).raised = some { lateFault r.2 rest true with
      pc := (s.thread gt).pc, npc := (s.thread gt).successor, inDelay := (s.thread gt).inDelay }

section
variable {s : State} {x : Issue} {i : Ins} {body : State → Exec}
  (h : s.issues x i) (hv : i.via = false ∨ (s.thread x.gt.val).twin = none)
include h hv

theorem State.issue_waitsIn {w : Waiting} (hb : body (s.fetchAhead x.gt.val) = .wait (s.fetchAhead x.gt.val) w) :
    s.waitsIn (s.issue x i body) x.gt.val w := by
  have f := (State.fetchAhead_unmoved s x.gt.val).quiet
    (State.beat_quiet (s.fetchAhead x.gt.val) x.gt.val (s.pairAfter x.gt.val x i))
  rw [State.issue_wait h hv hb]
  generalize ((s.fetchAhead x.gt.val).beat x.gt.val (s.pairAfter x.gt.val x i)) = v at f
  obtain ⟨f1, ⟨k1, k2, k3⟩, -, f4, -⟩ := f
  refine ⟨State.stepped_trans f1 (State.stepped_trans (State.stepped_modThread _ _ _)
    (State.stepped_setFld _ _ _ _ (by simp [fState]))), ?_⟩
  rw [State.thread_setFld, State.thread_modThread_same]
  exact ⟨⟨k1, k2, k3⟩, f4, rfl, State.fld_setFld_same _ _ _ (by simp [Fld.ok, fState]) (by simp [fState, stWait])⟩

/-- The operation left no more than its thread changed, which stands where it stood. -/
theorem State.issue_goesOn {s' : State} (hb : body (s.fetchAhead x.gt.val) = .done s' .seq)
    (hst : (s.fetchAhead x.gt.val).stepped s' x.gt.val)
    (hp : ((s.fetchAhead x.gt.val).thread x.gt.val).Placed (s'.thread x.gt.val))
    (hk : ((s.fetchAhead x.gt.val).thread x.gt.val).keptBut (s'.thread x.gt.val) []) :
    s.goesOn (s.issue x i body) x.gt.val ∧ Thread.Same (s'.thread x.gt.val) ((s.issue x i body).thread x.gt.val) := by
  obtain ⟨f1, f2, -⟩ := State.fetchAhead_unmoved s x.gt.val
  obtain ⟨q1, q2, q3⟩ := State.issue_ran h hv hb ((State.fetchAhead_placed s _).trans hp)
  obtain ⟨a1, a2, a3⟩ := f2
  obtain ⟨b1, b2, b3⟩ := Thread.keptBut_same hk q2
  exact ⟨⟨State.stepped_trans f1 (State.stepped_trans hst q1), q3, fun r hr => (b1 r hr).trans (a1 r hr),
    b2.trans a2, Thread.sameRest_trans a3 b3⟩, q2⟩
end

theorem State.raise_thread (s : State) (gt : Nat) (r : FaultRec) : (s.raise gt r).thread gt =
    { s.thread gt with
      raised := some { r with
        pc := (s.thread gt).pc, npc := (s.thread gt).successor, inDelay := (s.thread gt).inDelay }
      waiting := none, pairOpen := none, held := false, noEntry := false } := by
  unfold State.raise
  simp only []
  split <;> simp

/-- The late errors are dropped, and the first is raised. -/
theorem State.raise_late {s u : State} {gt : Nat} {r : Nat × FaultRec} {rest : Map FaultRec}
    (hk : (s.thread gt).keptBut (u.thread gt) []) (hl : (s.thread gt).sameLoops (u.thread gt))
    (hp : (u.thread gt).pc = (s.thread gt).pc) (hn : (u.thread gt).npc = (s.thread gt).npc)
    (hd : (u.thread gt).inDelay = (s.thread gt).inDelay) (hlate : (u.thread gt).late = []) :
    s.raisesLate (u.raise gt (lateFault r.2 rest true)) gt r rest := by
  unfold State.raisesLate
  rw [State.raise_thread, ← hp, ← hd, ← Thread.successor_congr ⟨hp, hn, hd⟩ hl.1 hl.2.1 hl.2.2]
  exact ⟨⟨hk.1, hk.2.1, hk.2.2⟩, rfl, hlate, rfl⟩

theorem State.dropLate_thread (s : State) (gt : Nat) :
    (s.dropLate gt).thread gt = { s.thread gt with late := [] } := by
  have ha (l : Map FaultRec) : (s.agreeLate gt l).thread gt = s.thread gt := by
    unfold State.agreeLate
    split <;> rfl
  unfold State.dropLate
  rw [State.thread_modThread_same, ha]

/-- The same in the beat of an instruction. -/
theorem State.issue_raisesLate {s : State} {x : Issue} {i : Ins} {body : State → Exec} {r : Nat × FaultRec}
    {rest : Map FaultRec} (h : s.issues x i) (hv : i.via = false ∨ (s.thread x.gt.val).twin = none)
    (hb : body (s.fetchAhead x.gt.val) =
      .fault ((s.fetchAhead x.gt.val).dropLate x.gt.val) (lateFault r.2 rest true)) :
    s.raisesLate (s.issue x i body) x.gt.val r rest := by
  rw [State.issue_fault h hv hb]
  obtain ⟨-, f2, f3, f4, f5, f6⟩ := State.fetchAhead_unmoved s x.gt.val
  have ht := State.dropLate_thread (s.fetchAhead x.gt.val) x.gt.val
  generalize (s.fetchAhead x.gt.val).dropLate x.gt.val = d at ht
  have hb := State.beat_thread d x.gt.val x.gt.val (s.pairAfter x.gt.val x i)
  have q := (State.countWindow_quiet (d.beat x.gt.val (s.pairAfter x.gt.val x i)) x.gt.val).2.1
  have hl := State.countWindow_late (d.beat x.gt.val (s.pairAfter x.gt.val x i)) x.gt.val
  rw [hb, ht] at q hl
  generalize ((d.beat x.gt.val (s.pairAfter x.gt.val x i)).countWindow x.gt.val) = u at q hl
  have e : u.raiseOwn x.gt.val (lateFault r.2 rest true) = u.raise x.gt.val (lateFault r.2 rest true) := by
    simp only [State.raiseOwn, hl]
  rw [e]
  exact State.raise_late (Thread.keptBut_same (v := { (s.fetchAhead x.gt.val).thread x.gt.val with late := [] })
    ⟨f2.1, f2.2.1, f2.2.2⟩ q.toSame) (Thread.sameLoops_trans f3 q.loops)
    (q.pc.trans f4) (q.npc.trans f5) (q.inDelay.trans f6) hl

/-! ## A waiting instruction completes -/

theorem Thread.Placed.before {u v w : Thread} (h : u.Placed v) (k : v.wentOn w) : u.wentOn w := by
  obtain ⟨hp, hn, hd, hl, -, -⟩ := h
  have hs := Thread.successor_congr ⟨hp, hn, hd⟩ hl.1 hl.2.1 hl.2.2
  obtain ⟨k1, k2, k3, k4⟩ := k
  exact ⟨k1.trans hs, by rw [k2, hs], k3, Thread.sameLoops_trans (Thread.loopsAfter_congr hl hp hd) k4⟩

/-- The thread waits no more, and completes its instruction. -/
theorem State.completeWait_ran {s : State} {gt : Nat} (after : Option PairInfo) (hd : (s.thread gt).noneDue)
    (hs : (s.thread gt).stopReq = false) :
    let t := ((s.modThread gt (fun t => { t with waiting := none })).setFld (fState gt) stReady).complete gt .seq after
    s.stepped t gt ∧ (s.thread gt).wentOn (t.thread gt) ∧ Thread.Same (s.thread gt) (t.thread gt) := by
  intro t
  let v : Thread := { s.thread gt with waiting := none }
  let s1 := (s.modThread gt (fun t => { t with waiting := none })).setFld (fState gt) stReady
  have hv : s1.thread gt = v := by
    simp only [s1, v, State.thread_setFld, State.thread_modThread_same]
  obtain ⟨q1, q2, -⟩ := State.complete_quiet s1 gt .seq after (by rw [hv]; exact hd) (by rw [hv]; exact hs)
  rw [hv] at q2
  refine ⟨State.stepped_trans (State.stepped_trans (State.stepped_modThread _ _ _)
    (State.stepped_setFld _ _ _ _ (by simp [fState]))) q1, ?_, ?_⟩
  · exact Thread.wentOn_still (Thread.advance_wentOn (v := v) rfl rfl rfl ⟨rfl, rfl, rfl⟩) q2
  · exact Thread.Same.trans (v := v) ⟨rfl, rfl, rfl, rfl, rfl, rfl, rfl, rfl, rfl, rfl, rfl, rfl, rfl, rfl, rfl, rfl⟩
      ((Thread.advance_same v .seq).trans q2.toSame)

/-! ## SETTLE, ISYNC and SEAL -/

/-- The operations of SETTLE, ISYNC and SEAL, and their columns. -/
def settleBody (gt : Nat) (s : State) : Exec :=
  let t := s.thread gt
  if t.settled then
    match t.lateNow with
    | some r => .fault (s.dropLate gt) r
    | none => .done s .seq
  else .wait s .settle
def isyncBody (gt : Nat) (s : State) : Exec :=
  if (s.thread gt).stores.isEmpty then .done (s.dropLines gt) .seq else .wait s .isync
def sealBody (gt : Nat) (s : State) : Exec :=
  let t := s.thread gt
  if t.twin.isSome then
    match t.lateNow with
    | some r => .fault (s.dropLate gt) r
    | none => .done (s.setThread gt { t with winEnd := true }) .seq
  else .done s .seq
def insSync : Ins := { pairOk := false }

theorem execSettle_eq (x : Issue) (s : State) :
    execSettle x s = .next (s.issue x insSync (settleBody x.gt.val)) := rfl
theorem execIsync_eq (x : Issue) (s : State) :
    execIsync x s = .next (s.issue x insSync (isyncBody x.gt.val)) := rfl
theorem execSeal_eq (x : Issue) (s : State) :
    execSeal x s = .next (s.issue x insSync (sealBody x.gt.val)) := rfl

theorem Thread.settled_iff (t : Thread) : t.settled = true ↔ t.ops = [] ∧ t.stores = [] := by
  simp [Thread.settled]

section
variable {x : Issue} {s : State} (h : s.issues x insSync)
include h

theorem execSettle_settled (hs : (s.thread x.gt.val).ops = [] ∧ (s.thread x.gt.val).stores = []) :
    ((s.thread x.gt.val).late = [] → ∃ t, execSettle x s = .next t ∧ s.goesOn t x.gt.val) ∧
    (∀ r rest, (s.thread x.gt.val).late = r :: rest →
      ∃ t, execSettle x s = .next t ∧ s.raisesLate t x.gt.val r rest) := by
  have hset : ((s.fetchAhead x.gt.val).thread x.gt.val).settled = true := by
    rw [Thread.settled_iff, State.fetchAhead_ops, State.fetchAhead_stores]; exact hs
  refine ⟨fun hl => ⟨_, execSettle_eq x s, ?_⟩, fun r rest hl => ⟨_, execSettle_eq x s, ?_⟩⟩
  · exact (State.issue_goesOn h (.inl rfl) (by simp [settleBody, hset, Thread.lateNow, hl])
      (State.stepped_refl _ _) (Thread.Placed.refl _) (Thread.keptBut_refl _ _)).1
  · exact State.issue_raisesLate h (.inl rfl) (by simp [settleBody, hset, Thread.lateNow, hl])

theorem execSettle_waits (hs : ¬ ((s.thread x.gt.val).ops = [] ∧ (s.thread x.gt.val).stores = [])) :
    ∃ t, execSettle x s = .next t ∧ s.waitsIn t x.gt.val .settle := by
  have hset : ((s.fetchAhead x.gt.val).thread x.gt.val).settled = false := by
    rw [Bool.eq_false_iff, ne_eq, Thread.settled_iff, State.fetchAhead_ops, State.fetchAhead_stores]; exact hs
  exact ⟨_, execSettle_eq x s, State.issue_waitsIn h (.inl rfl) (by simp [settleBody, hset])⟩

theorem execIsync_syncs (hs : (s.thread x.gt.val).stores = []) :
    ∃ t, execIsync x s = .next t ∧ s.goesOn t x.gt.val ∧ (t.thread x.gt.val).lineBuf = [] := by
  have ht : ((s.fetchAhead x.gt.val).dropLines x.gt.val).thread x.gt.val =
      { (s.fetchAhead x.gt.val).thread x.gt.val with lineBuf := [], ahead := none, fetching := none, fetched := none } :=
    State.thread_modThread_same _ _ _
  have hb : isyncBody x.gt.val (s.fetchAhead x.gt.val) = .done ((s.fetchAhead x.gt.val).dropLines x.gt.val) .seq := by
    simp [isyncBody, State.fetchAhead_stores, hs]
  obtain ⟨q1, q2⟩ := State.issue_goesOn h (.inl rfl) hb
    (State.stepped_modThread _ _ _) (by rw [ht]; exact ⟨rfl, rfl, rfl, ⟨rfl, rfl, rfl⟩, rfl, rfl⟩)
    (by rw [ht]; exact ⟨fun _ _ => rfl, rfl, rfl, rfl, rfl, rfl, rfl, rfl, rfl, rfl, rfl⟩)
  exact ⟨_, execIsync_eq x s, q1, q2.line.trans (by rw [ht])⟩

theorem execIsync_waits (hs : (s.thread x.gt.val).stores ≠ []) :
    ∃ t, execIsync x s = .next t ∧ s.waitsIn t x.gt.val .isync :=
  ⟨_, execIsync_eq x s, State.issue_waitsIn h (.inl rfl) (by simp [isyncBody, hs])⟩

theorem execSeal_alone (ht : (s.thread x.gt.val).twin = none) :
    ∃ t, execSeal x s = .next t ∧ s.goesOn t x.gt.val :=
  ⟨_, execSeal_eq x s, (State.issue_goesOn h (.inl rfl) (by simp [sealBody, ht]) (State.stepped_refl _ _)
    (Thread.Placed.refl _) (Thread.keptBut_refl _ _)).1⟩

variable (ht : (s.thread x.gt.val).twin ≠ none)
include ht

theorem execSeal_ends (hl : (s.thread x.gt.val).late = []) :
    ∃ t, execSeal x s = .next t ∧ s.goesOn t x.gt.val ∧ (t.thread x.gt.val).winEnd = true := by
  let v : Thread := { (s.fetchAhead x.gt.val).thread x.gt.val with winEnd := true }
  let s' := (s.fetchAhead x.gt.val).setThread x.gt.val v
  have hv : s'.thread x.gt.val = v := State.thread_setThread_same _ _ _
  have hp : ((s.fetchAhead x.gt.val).thread x.gt.val).Placed v := ⟨rfl, rfl, rfl, ⟨rfl, rfl, rfl⟩, rfl, rfl⟩
  have hps := (State.fetchAhead_placed s x.gt.val).trans hp
  have hb : sealBody x.gt.val (s.fetchAhead x.gt.val) = .done s' .seq := by
    simp [sealBody, Option.isSome_iff_ne_none.2 ht, Thread.lateNow, hl, s', v]
  refine ⟨_, execSeal_eq x s, (State.issue_goesOn h (.inl rfl) hb (State.stepped_setThread _ _ _) (by rw [hv]; exact hp)
    (by rw [hv]; exact ⟨fun _ _ => rfl, rfl, rfl, rfl, rfl, rfl, rfl, rfl, rfl, rfl, rfl⟩)).1, ?_⟩
  have hbt := State.beat_thread s' x.gt.val x.gt.val (s.pairAfter x.gt.val x insSync)
  rw [State.issue_done h (.inl rfl) hb]
  refine (State.complete_due _ x.gt.val _ ?_ ?_).2 ?_ <;> rw [hbt, hv]
  · exact hps.none h.2.2.2.2.1
  · exact hps.2.2.2.2.2.trans h.2.2.2.2.2

theorem execSeal_late {r : Nat × FaultRec} {rest : Map FaultRec} (hl : (s.thread x.gt.val).late = r :: rest) :
    ∃ t, execSeal x s = .next t ∧ s.raisesLate t x.gt.val r rest :=
  ⟨_, execSeal_eq x s, State.issue_raisesLate h (.inl rfl)
    (by simp [sealBody, Option.isSome_iff_ne_none.2 ht, Thread.lateNow, hl])⟩
end

/-! ## SETTLE_COMPLETE (R108, R151) -/

section
variable {g : GT} {s : State} (hc : s.mayComplete g.val = true) (hs : (s.thread g.val).stopReq = false)
  (hd : (s.thread g.val).noneDue)
include hc

/-- The late error that a waiting SETTLE awaited. -/
theorem execSettleComplete_late {r : Nat × FaultRec} {rest : Map FaultRec}
    (hw : (s.thread g.val).waiting = some .settle) (ho : (s.thread g.val).ops = [])
    (hst : (s.thread g.val).stores = []) (hl : (s.thread g.val).late = r :: rest) :
    ∃ t, execSettleComplete g s = .next t ∧ s.raisesLate t g.val r rest := by
  have hset : (s.thread g.val).settled = true := (Thread.settled_iff _).2 ⟨ho, hst⟩
  have e : execSettleComplete g s =
      .next (((s.dropLate g.val).countWindow g.val).raise g.val (lateFault r.2 rest true)) := by
    unfold execSettleComplete
    simp [hc, hw, hset, Thread.lateNow, hl]
  have q := (State.countWindow_quiet (s.dropLate g.val) g.val).2.1
  have k := State.countWindow_late (s.dropLate g.val) g.val
  rw [State.dropLate_thread] at q k
  exact ⟨_, e, State.raise_late (Thread.keptBut_same (v := { s.thread g.val with late := [] })
    ⟨fun _ _ => rfl, rfl, rfl, rfl, rfl, rfl, rfl, rfl, rfl, rfl, rfl⟩ q.toSame) q.loops q.pc q.npc q.inDelay k⟩

include hs hd

theorem execSettleComplete_goes (hw : (s.thread g.val).waiting = some .settle) (ho : (s.thread g.val).ops = [])
    (hst : (s.thread g.val).stores = []) (hl : (s.thread g.val).late = []) :
    ∃ t, execSettleComplete g s = .next t ∧ s.goesOn t g.val := by
  have hset : (s.thread g.val).settled = true := (Thread.settled_iff _).2 ⟨ho, hst⟩
  have e : execSettleComplete g s = .next (s.completeWait g.val [] false false) := by
    unfold execSettleComplete
    simp [hc, hw, hset, Thread.lateNow, hl]
  obtain ⟨q1, q2, q3⟩ := State.completeWait_ran
    (((s.modThread g.val (fun t => { t with waiting := none })).setFld (fState g.val) stReady).thread g.val).pairOpen hd hs
  exact ⟨_, e, q1, q2, Thread.keptBut_same (Thread.keptBut_refl _ _) q3⟩

theorem execSettleComplete_syncs (hw : (s.thread g.val).waiting = some .isync) (hst : (s.thread g.val).stores = []) :
    ∃ t, execSettleComplete g s = .next t ∧ s.goesOn t g.val ∧ (t.thread g.val).lineBuf = [] := by
  let v : Thread := { s.thread g.val with lineBuf := [], ahead := none, fetching := none, fetched := none }
  have hv : (s.dropLines g.val).thread g.val = v := State.thread_modThread_same _ _ _
  have e : execSettleComplete g s = .next ((s.dropLines g.val).completeWait g.val [] false false) := by
    unfold execSettleComplete
    simp [hc, hw, hst]
  obtain ⟨q1, q2, q3⟩ := State.completeWait_ran (s := s.dropLines g.val)
    ((((s.dropLines g.val).modThread g.val (fun t => { t with waiting := none })).setFld (fState g.val) stReady).thread
      g.val).pairOpen (by rw [hv]; exact hd) (by rw [hv]; exact hs)
  rw [hv] at q2 q3
  have hp : (s.thread g.val).Placed v := ⟨rfl, rfl, rfl, ⟨rfl, rfl, rfl⟩, rfl, rfl⟩
  exact ⟨_, e, ⟨State.stepped_trans (State.stepped_modThread _ _ _) q1, hp.before q2,
    Thread.keptBut_same (v := v) ⟨fun _ _ => rfl, rfl, rfl, rfl, rfl, rfl, rfl, rfl, rfl, rfl, rfl⟩ q3⟩, q3.line⟩
end

end Sys2Proof.Machine
end

section
/-!
SUPPORT. The statement of SETSEG, SETTLE, ISYNC and SEAL, put together.
-/
namespace Sys2Proof.Machine

/-- A late error raised is a record as R151 gives it. -/
theorem State.raisesLate_record {s t : State} {gt : Nat} {r : Nat × FaultRec} {rest : Map FaultRec}
    (h : s.raisesLate t gt r rest) :
    ∃ rec, (s.thread gt).keptBut (t.thread gt) [] ∧ (t.thread gt).pc = (s.thread gt).pc ∧ (t.thread gt).late = [] ∧
      (t.thread gt).raised = some rec ∧ rec.cls = r.2.cls ∧ rec.detail = r.2.detail ∧ rec.oppc = r.2.oppc ∧
      rec.imprecise = true ∧ rec.atSettle = true ∧ rec.extra = !rest.isEmpty ∧ rec.pc = (s.thread gt).pc := by
  obtain ⟨hk, hp, hl, hr⟩ := h
  exact ⟨_, hk, hp, hl, hr, rfl, rfl, rfl, rfl, rfl, rfl, rfl⟩

/-- Settles O13: SETSEG by its three outcomes; a due s7 by the instruction that it completes with; the waiting
instructions by what is outstanding and by the late error. -/
theorem setsegSettleIsyncSeal : Obligations.SetsegSettleIsyncSeal := by
  unfold Obligations.SetsegSettleIsyncSeal
  refine ⟨?setseg, ?inForce, ?waits⟩
  case setseg =>
    intro x si a b rights s h gt u ceil cb at' base given
    have hbase : (s.desc gt (si.val + 8)).base = cb := State.desc_base _ _ _
    have hgiven : setsegRights (s.desc gt (si.val + 8)) rights = given := boolWords_append _ _ _ _
    have hnat : (BitVec.ofNat 48 (cb + (u.rd a).toNat)).toNat = base := BitVec.toNat_ofNat _ _
    split
    next hc => exact execSetseg_faults rights h hc
    next hc =>
    by_cases hi : si.val = 7
    · obtain ⟨t, e, st, hw, hk, hd⟩ := execSetseg_delays rights h hc hi
      refine ⟨t, e, State.stepped_touched st, hw, hk, ?_⟩
      rw [if_pos hi]
      refine ⟨?_, by rw [hd, hbase, hgiven, ← hnat, BitVec.ofNat_toNat, BitVec.setWidth_eq]⟩
      have hreg {o : Nat} (ho : o < 0x10) : t.reg (tSeg gt si.val o) = s.reg (tSeg gt si.val o) :=
        State.stepped_tSeg x.gt st (by omega) ho
      simp only [at', List.forall_mem_cons]
      exact ⟨hreg (by decide), hreg (by decide), hreg (by decide), hreg (by decide), by simp⟩
    · obtain ⟨t, e, st, hw, hk, r0, r4, r8, rC⟩ := execSetseg_writes rights h hc hi
      refine ⟨t, e, st, hw, hk, ?_⟩
      rw [if_neg hi]
      rw [hbase] at r0 r4
      refine ⟨r0.trans ?_, r4.trans (by rw [hnat]), r8, rC.trans hgiven⟩
      rw [← hnat, BitVec.ofNat_toNat]
  case inForce =>
    intro x base limit rights s gt u at' hu hc hf he hs hd
    obtain ⟨t, e, st, hw, hk, hdel, r0, r4, r8, rC⟩ := execNop_settles hu hc hf he hs hd
    exact ⟨t, e, st, hw, hk, hdel, r0.trans (extract_low base), r4.trans (extract_high base), r8, rC⟩
  case waits =>
    intro x s gt u waits goes syncs late settles
    have hlate {i : Instr} {r rest} (k : ∃ t, exec i s = .next t ∧ s.raisesLate t gt r rest) : late i r rest := by
      obtain ⟨t, e, k⟩ := k
      obtain ⟨rec, k⟩ := State.raisesLate_record k
      exact ⟨t, rec, e, k⟩
    have hsyncs {i : Instr} (k : ∃ t, exec i s = .next t ∧ s.goesOn t gt ∧ (t.thread gt).lineBuf = []) : syncs i := by
      obtain ⟨t, e, ⟨k1, k2, k3⟩, k4⟩ := k
      exact ⟨t, e, k1, k2, k3, k4⟩
    have hsettles {i : Instr} (k0 : u.late = [] → ∃ t, exec i s = .next t ∧ s.goesOn t gt)
        (k1 : ∀ r rest, u.late = r :: rest → ∃ t, exec i s = .next t ∧ s.raisesLate t gt r rest) : settles i := by
      simp only [settles]
      split
      next hl => exact k0 hl
      next r rest hl => exact hlate (k1 r rest hl)
    refine ⟨fun h => ⟨?settle, ?isync, execSeal_alone h, ?sealEnds, fun r rest ht hl => hlate (execSeal_late h ht hl)⟩,
      fun hc hs hd => ⟨fun hw ho hst => hsettles (execSettleComplete_goes hc hs hd hw ho hst)
        (fun r rest hl => execSettleComplete_late hc hw ho hst hl),
        fun hw hst => hsyncs (execSettleComplete_syncs hc hs hd hw hst)⟩⟩
    case settle =>
      split
      next hs => exact hsettles (execSettle_settled h hs).1 (execSettle_settled h hs).2
      next hs => exact execSettle_waits h hs
    case isync =>
      split
      next hs => exact hsyncs (execIsync_syncs h hs)
      next hs => exact execIsync_waits h hs
    case sealEnds =>
      intro ht hl
      obtain ⟨t, e, ⟨k1, k2, k3⟩, k4⟩ := execSeal_ends h ht hl
      exact ⟨t, e, k1, k2, k3, k4⟩

end Sys2Proof.Machine
end

section
/-!
SUPPORT. Inputs are consumed: WAIT and handler entry take the lowest pending one (R97 to R102, R192, R193, R280).
-/
namespace Sys2Proof.Machine

/-! ## The lowest pending input -/

/-- Of a mask that has an input, the lowest. -/
theorem lowestInput_spec {m : Word} {k : Nat} (hk : k < 4) (h : m.getLsbD k = true) :
    lowestInput m < 4 ∧ m.getLsbD (lowestInput m) = true ∧ ∀ j, j < lowestInput m → m.getLsbD j = false := by
  have below {n : Nat} (hn : ∀ j, j < n → j = 0 ∨ j = 1 ∨ j = 2) (h0 : 0 < n → m.getLsbD 0 = false)
      (h1 : 1 < n → m.getLsbD 1 = false) (h2 : 2 < n → m.getLsbD 2 = false) : ∀ j, j < n → m.getLsbD j = false := by
    intro j hj
    rcases hn j hj with rfl | rfl | rfl
    · exact h0 hj
    · exact h1 hj
    · exact h2 hj
  unfold lowestInput
  split
  · exact ⟨by decide, by assumption, by omega⟩
  split
  · exact ⟨by decide, by assumption, below (by omega) (by simp_all) (by omega) (by omega)⟩
  split
  · exact ⟨by decide, by assumption, below (by omega) (by simp_all) (by simp_all) (by omega)⟩
  · have h3 : k = 3 := by
      by_contra hne
      have : k = 0 ∨ k = 1 ∨ k = 2 := by omega
      rcases this with rfl | rfl | rfl <;> contradiction
    exact ⟨by decide, h3 ▸ h, below (by omega) (by simp_all) (by simp_all) (by simp_all)⟩

/-- A mask is a mask of inputs when it holds no other bit. -/
theorem exists_input {m : Word} (h : m ≠ 0) (hb : ∀ j, 4 ≤ j → m.getLsbD j = false) : ∃ k, k < 4 ∧ m.getLsbD k = true := by
  by_contra hn
  refine h (BitVec.eq_of_getLsbD_eq fun j _ => ?_)
  have hj : m.getLsbD j = false := by
    by_cases hj : 4 ≤ j
    · exact hb j hj
    · exact Bool.eq_false_iff.2 fun hj' => hn ⟨j, by omega, hj'⟩
  rw [hj]
  exact BitVec.getLsbD_zero.symm

theorem getLsbD_low4 (w : Word) (j : Nat) : (bitsOf w 3 0).getLsbD j = (decide (j < 4) && w.getLsbD j) := by
  rw [getLsbD_bitsOf, Nat.zero_add]
  exact congrArg (· && _) (decide_eq_decide.2 (by omega))

/-- Only the low bits of PEND count under a mask of WAIT. -/
theorem low4_and_mask (w : Word) (mask : BitVec 4) : bitsOf w 3 0 &&& mask.setWidth 32 = w &&& mask.setWidth 32 := by
  apply BitVec.eq_of_getLsbD_eq
  intro j _
  simp only [BitVec.getLsbD_and, getLsbD_low4, BitVec.getLsbD_setWidth]
  by_cases hj : j < 4
  · simp [hj]
  · simp [BitVec.getLsbD_of_ge mask j (by omega)]

/-- Clearing an input in PEND is clearing its bit in the register. -/
theorem putBits_clear (w : Word) {i : Nat} (hi : i < 4) :
    putBits w 3 0 (bitsOf w 3 0 &&& ~~~ ((1 : Word) <<< i)) = w &&& ~~~ ((1 : Word) <<< i) := by
  apply BitVec.eq_of_getLsbD_eq
  intro j hj
  rw [getLsbD_putBits]
  split
  next h =>
    have h4 : j < 4 := by omega
    simp [getLsbD_low4, h4]
  next h =>
    have hne : ¬ j < i := by omega
    have h1 : (1 : Word).getLsbD (j - i) = false := by
      rw [show (1 : Word) = BitVec.ofNat 32 1 from rfl, BitVec.getLsbD_ofNat]
      simp only [Bool.and_eq_false_imp]
      intro _
      exact Nat.testBit_eq_false_of_lt (Nat.one_lt_two_pow (by omega))
    rw [BitVec.getLsbD_and, BitVec.getLsbD_not, BitVec.getLsbD_shiftLeft, h1]
    simp [hj]

/-! ## An input consumed -/

/-- The registers of a thread's own set that no step writes are kept. -/
theorem State.stepped_tReg {s t : State} (g : GT) (h : s.stepped t g.val) {o : Nat} (ho : o < 0x40)
    (hn : o ≠ 0x04 ∧ o ≠ 0x24 ∧ o ≠ 0x2C) : t.reg (tReg g.val o) = s.reg (tReg g.val o) := by
  refine h.2.2 _ fun b hb => ?_
  simp only [List.mem_cons, List.not_mem_nil, or_false] at hb
  rcases hb with rfl | rfl | rfl <;> rw [canon_tReg g ho, canon_tReg g (by decide)] <;> unfold tReg <;> omega

/-- A thread with the hop count that an event on an input carries on (R280). -/
def Thread.hopped (u : Thread) (i : Nat) : Thread := { u with hop := min 8 (Map.get 0 u.evHop i + 1) }

theorem Thread.hopped_sameRest {u v : Thread} (i : Nat) (h : u.sameRest v) : (u.hopped i).sameRest (v.hopped i) := by
  obtain ⟨h1, h2, h3, h4, h5, -, h7, h8, h9⟩ := h
  refine ⟨h1, h2, h3, h4, h5, ?_, h7, h8, h9⟩
  simp only [Thread.hopped, h7]

section
variable (s : State) (gt : Nat) {i : Nat} (hi : i < 4)
theorem State.consume_thread (i : Nat) : (s.consume gt i).thread gt = (s.thread gt).hopped i := by
  unfold State.consume
  rw [State.thread_modThread_same, State.thread_setFld]
  rfl
theorem State.consume_touched (i : Nat) : s.touched (s.consume gt i) gt [tReg gt 0x1C] := by
  have ha : (fPend gt).addr = tReg gt 0x1C := by rw [fPend]
  unfold State.consume
  generalize fPend gt = a at *
  generalize tReg gt 0x1C = c at *
  exact State.touched_trans (State.touched_setFld s gt a _ (by rw [ha]; exact List.mem_singleton_self _))
    (State.stepped_modThread _ _ _)
include hi in
theorem State.consume_pend : (s.consume gt i).reg (tReg gt 0x1C) = s.reg (tReg gt 0x1C) &&& ~~~ ((1 : Word) <<< i) := by
  have ha : fPend gt = ⟨tReg gt 0x1C, 3, 0⟩ := by rw [fPend]
  unfold State.consume State.setFld State.fld
  rw [ha, State.reg_modThread]
  generalize tReg gt 0x1C = c
  rw [State.reg_setReg_same, putBits_clear _ hi]
end

/-! ## WAIT (R97 to R99, R192, R193) -/

/-- The pending inputs of a mask. -/
def State.awaited (s : State) (gt : Nat) (mask : BitVec 4) : Word := s.reg (tReg gt 0x1C) &&& mask.setWidth 32

/-- A thread that took an input and has its number. -/
def Thread.tookInput (u : Thread) (d : Reg) (i : Nat) : Thread := (u.hopped i).wr d (BitVec.ofNat 32 i)
def State.tookInput (s : State) (gt : Nat) (d : Reg) (i : Nat) : State :=
  (s.consume gt i).modThread gt (fun t => t.wr d (BitVec.ofNat 32 i))

theorem State.tookInput_thread (s : State) (gt : Nat) (d : Reg) (i : Nat) :
    (s.tookInput gt d i).thread gt = (s.thread gt).tookInput d i := by
  unfold State.tookInput
  rw [State.thread_modThread_same, State.consume_thread]
  rfl

theorem Thread.tookInput_placed (u : Thread) (d : Reg) (i : Nat) : u.Placed (u.tookInput d i) :=
  Thread.Placed.trans (v := u.hopped i) ⟨rfl, rfl, rfl, ⟨rfl, rfl, rfl⟩, rfl, rfl⟩ (Thread.wr_placed _ _ _)

theorem State.pend_and_mask (s : State) (gt : Nat) (mask : BitVec 4) :
    s.fld (fPend gt) &&& mask.setWidth 32 = s.awaited gt mask := low4_and_mask _ _
theorem State.waitTake_none {s : State} {gt : Nat} (d : Reg) {mask : BitVec 4} (h : s.awaited gt mask = 0) :
    s.waitTake gt d mask = none := by
  unfold State.waitTake
  simp only [State.pend_and_mask]
  exact if_pos h
theorem State.waitTake_some {s : State} {gt : Nat} (d : Reg) {mask : BitVec 4} (h : s.awaited gt mask ≠ 0) :
    s.waitTake gt d mask = some (s.tookInput gt d (lowestInput (s.awaited gt mask))) := by
  unfold State.waitTake
  simp only [State.pend_and_mask]
  exact if_neg h

theorem State.awaited_lowest {s : State} {gt : Nat} {mask : BitVec 4} (h : s.awaited gt mask ≠ 0) :
    let m := s.awaited gt mask
    lowestInput m < 4 ∧ m.getLsbD (lowestInput m) = true ∧ ∀ j, j < lowestInput m → m.getLsbD j = false := by
  obtain ⟨k, hk, hm⟩ := exists_input h fun j hj => by
    simp [State.awaited, BitVec.getLsbD_setWidth, BitVec.getLsbD_of_ge mask j hj]
  exact lowestInput_spec hk hm

/-- What a WAIT leaves that took an input. -/
def State.waited (s t : State) (gt : Nat) (d : Reg) (i : Nat) : Prop :=
  s.touched t gt [tReg gt 0x1C] ∧ (s.thread gt).wentOn (t.thread gt) ∧ (t.thread gt).flags = (s.thread gt).flags ∧
    (s.thread gt).sameRegsBut (t.thread gt) [d] ∧ (t.thread gt).rd d = (if d = 0 then 0 else BitVec.ofNat 32 i) ∧
    ((s.thread gt).hopped i).sameRest (t.thread gt) ∧
    t.reg (tReg gt 0x1C) = s.reg (tReg gt 0x1C) &&& ~~~ ((1 : Word) <<< i)

/-- The input is taken in a state in which the thread stands as it stood; completing leaves the rest. -/
theorem State.waited_of {s u t : State} {g : GT} {d : Reg} {i : Nat} (hi : i < 4) (hu : s.stepped u g.val)
    (hk : (s.thread g.val).keptBut (u.thread g.val) []) (ht : (u.tookInput g.val d i).stepped t g.val)
    (hw : (s.thread g.val).wentOn (t.thread g.val))
    (hs : Thread.Same ((u.thread g.val).tookInput d i) (t.thread g.val)) : s.waited t g.val d i := by
  obtain ⟨hr, hf, hrest⟩ := hk
  have hreg {r : Reg} (hr' : r ≠ d) : ((u.thread g.val).tookInput d i).rd r = (u.thread g.val).rd r :=
    Thread.rd_wr_other _ _ hr'
  have htouch : u.touched (u.tookInput g.val d i) g.val [tReg g.val 0x1C] :=
    State.touched_trans (State.consume_touched u g.val i) (State.stepped_modThread _ _ _)
  have hpend : (u.tookInput g.val d i).reg (tReg g.val 0x1C) = u.reg (tReg g.val 0x1C) &&& ~~~ ((1 : Word) <<< i) :=
    State.consume_pend u g.val hi
  refine ⟨State.touched_trans (State.touched_touched (State.stepped_touched hu) htouch) ht, hw, ?_, ?_, ?_, ?_, ?_⟩
  · rw [hs.flags, ← hf]
    exact Thread.flags_wr _ _ _
  · intro r hr'
    rw [hs.rd, hreg (by simpa using hr'), hr r (by simp)]
  · rw [hs.rd]
    split
    next h0 => rw [h0, Thread.rd_zero]
    next h0 => exact Thread.rd_wr_same _ _ _ h0
  · exact Thread.sameRest_trans (Thread.sameRest_trans (Thread.hopped_sameRest i hrest) (Thread.wr_sameRest _ _ _)) hs.rest
  · rw [State.stepped_tReg g ht (by decide) (by decide), hpend, State.stepped_tReg g hu (by decide) (by decide)]

/-- The columns of WAIT, and its operation. -/
def insWait (d : Reg) (mask : BitVec 4) : Ins := { wf := mask != 0, writes := [d], pairOk := false, via := true }
def waitBody (gt : Nat) (d : Reg) (mask : BitVec 4) (s : State) : Exec :=
  match s.waitTake gt d mask with
  | some s' => .done s' .seq
  | none => .wait s (.wait d mask)
theorem execWait_eq (x : Issue) (d : Reg) (mask : BitVec 4) (s : State) :
    execWait x d mask s = .next (s.issue x (insWait d mask) (waitBody x.gt.val d mask)) := rfl

theorem State.awaited_fetchAhead (s : State) (gt : Nat) (mask : BitVec 4) :
    (s.fetchAhead gt).awaited gt mask = s.awaited gt mask := by simp only [State.awaited, State.fetchAhead_reg]

section
variable {x : Issue} {d : Reg} {mask : BitVec 4} {s : State}

theorem execWait_waits (h : s.issuesAlone x (insWait d mask)) (hm : s.awaited x.gt.val mask = 0) :
    ∃ t, execWait x d mask s = .next t ∧ s.waitsIn t x.gt.val (.wait d mask) :=
  ⟨_, execWait_eq x d mask s, State.issue_waitsIn h.1 (.inr h.2) (by
    simp only [waitBody, State.waitTake_none d ((State.awaited_fetchAhead s _ mask).trans hm)])⟩

theorem execWait_takes (h : s.issuesAlone x (insWait d mask)) (hm : s.awaited x.gt.val mask ≠ 0) :
    ∃ t, execWait x d mask s = .next t ∧ s.waited t x.gt.val d (lowestInput (s.awaited x.gt.val mask)) := by
  obtain ⟨hi, -⟩ := State.awaited_lowest hm
  generalize hl : lowestInput (s.awaited x.gt.val mask) = i at hi
  have hb : waitBody x.gt.val d mask (s.fetchAhead x.gt.val) = .done ((s.fetchAhead x.gt.val).tookInput x.gt.val d i) .seq := by
    simp only [waitBody, State.waitTake_some d (s := s.fetchAhead x.gt.val) (mask := mask)
      (by rw [State.awaited_fetchAhead]; exact hm), State.awaited_fetchAhead, hl]
  obtain ⟨f1, f2, -⟩ := State.fetchAhead_unmoved s x.gt.val
  have hth := State.tookInput_thread (s.fetchAhead x.gt.val) x.gt.val d i
  obtain ⟨q1, q2, q3⟩ := State.issue_ran h.1 (.inr h.2) hb (by
    rw [hth]; exact (State.fetchAhead_placed s _).trans (Thread.tookInput_placed _ _ _))
  rw [hth] at q2
  exact ⟨_, execWait_eq x d mask s, State.waited_of hi f1 f2 q1 q3 q2⟩

theorem execWaitComplete_takes {g : GT} (hw : (s.thread g.val).waiting = some (.wait d mask))
    (ht : (s.thread g.val).twin = none) (hd : (s.thread g.val).noneDue) (hs : (s.thread g.val).stopReq = false)
    (hm : s.awaited g.val mask ≠ 0) (hc : s.mayComplete g.val = true) :
    ∃ t, execWaitComplete g s = .next t ∧ s.waited t g.val d (lowestInput (s.awaited g.val mask)) := by
  obtain ⟨hi, -⟩ := State.awaited_lowest hm
  generalize hl : lowestInput (s.awaited g.val mask) = i at hi
  have hth := State.tookInput_thread s g.val d i
  have hp := Thread.tookInput_placed (s.thread g.val) d i
  have hrest : (s.thread g.val).twin = ((s.thread g.val).tookInput d i).twin :=
    (Thread.wr_sameRest ((s.thread g.val).hopped i) d (BitVec.ofNat 32 i)).2.2.2.2.2.2.2.2.symm
  have e : execWaitComplete g s = .next ((s.tookInput g.val d i).completeWait g.val [d] false true) := by
    unfold execWaitComplete
    simp [hw, hc, State.waitTake_some d hm, hl]
  rw [State.completeWait_alone _ _ _ (by rw [hth, ← hrest, ht])] at e
  generalize ((s.tookInput g.val d i).thread g.val).pairOpen = after at e
  obtain ⟨q1, q2, q3⟩ := State.completeWait_ran (s := s.tookInput g.val d i) after (by rw [hth]; exact hp.none hd)
    (by rw [hth]; exact hp.2.2.2.2.2.trans hs)
  rw [hth] at q2 q3
  exact ⟨_, e, State.waited_of hi (State.stepped_refl _ _) (Thread.keptBut_refl _ _) q1 (hp.before q2) q3⟩
end

end Sys2Proof.Machine
end

section
/-!
SUPPORT. Handler entry (R100 to R102, R137), and the statement of waits and handlers.
-/
namespace Sys2Proof.Machine

/-! ## A push with room (R136, R137) -/

theorem State.push_room {s : State} {gt : Nat} (v : Word)
    (h : (s.thread gt).rs.length < 8 ∨ s.bit (fRsTrap gt) = false) :
    ∃ t, s.push gt v = some t ∧ s.touched t gt [tCfg gt 0x10] ∧ t.thread gt = (s.thread gt).pushed v := by
  have ha : (fWrapped gt).addr = tCfg gt 0x10 := by rw [fWrapped]
  unfold State.push
  by_cases hl : 8 ≤ (s.thread gt).rs.length
  · have hb : s.bit (fRsTrap gt) = false := h.resolve_left (by omega)
    simp only [hl, if_true, hb, Bool.false_eq_true, if_false]
    refine ⟨_, rfl, ?_, by rw [State.thread_setBit, State.thread_setThread_same]; rfl⟩
    generalize fWrapped gt = a at *
    generalize tCfg gt 0x10 = c at *
    exact State.touched_touched (State.stepped_touched (State.stepped_setThread _ _ _))
      (State.touched_setFld _ gt a _ (by rw [ha]; exact List.mem_singleton_self _))
  · simp only [hl, if_false]
    refine ⟨_, rfl, State.stepped_touched (State.stepped_setThread _ _ _), ?_⟩
    rw [State.thread_setThread_same, Thread.pushed, List.take_of_length_le (by omega)]

/-! ## The handler's status and address -/

theorem touched_mono {s t : State} {gt : Nat} {as bs : List Nat} (h : s.touched t gt as) (hs : ∀ a ∈ as, a ∈ bs) :
    s.touched t gt bs :=
  ⟨h.1, h.2.1, State.sameRegsBut_mono h.2.2 fun a ha => by
    rcases List.mem_append.1 ha with ha | ha
    · exact List.mem_append_left _ ha
    · exact List.mem_append_right _ (hs a ha)⟩

/-- The handler's address in the thread. -/
def Thread.entered (u : Thread) (pc : Word) : Thread :=
  { u with pc := pc, npc := pc + 4, waiting := none, pairOpen := none, held := false }

/-- IN_HANDLER is set with the input's number, the thread goes on READY at the handler, and a beat is counted. -/
def State.inHandler (s : State) (gt i : Nat) (pc : Word) : State :=
  ((((s.setBit (fInHandler gt) true).setFld (fHinput gt) (BitVec.ofNat 32 i)).modThread gt
    (fun t => t.entered pc)).setFld (fState gt) stReady).countWrap (fBeats gt)

theorem State.inHandler_stepped (s : State) (gt i : Nat) (pc : Word) : s.stepped (s.inHandler gt i pc) gt := by
  have ha : (fInHandler gt).addr ∈ [tReg gt 0x04, tReg gt 0x24, tReg gt 0x2C] := by simp [fInHandler]
  have hb : (fHinput gt).addr ∈ [tReg gt 0x04, tReg gt 0x24, tReg gt 0x2C] := by simp [fHinput]
  have hc : (fState gt).addr ∈ [tReg gt 0x04, tReg gt 0x24, tReg gt 0x2C] := by simp [fState]
  have hd : (fBeats gt).addr ∈ [tReg gt 0x04, tReg gt 0x24, tReg gt 0x2C] := by simp [fBeats]
  unfold State.inHandler
  generalize fInHandler gt = a at *
  generalize fHinput gt = b at *
  generalize fState gt = c at *
  generalize fBeats gt = d at *
  exact State.stepped_trans (State.stepped_trans (State.stepped_trans (State.stepped_trans
    (State.stepped_setBit _ _ a _ ha) (State.stepped_setFld _ _ b _ hb)) (State.stepped_modThread _ _ _))
    (State.stepped_setFld _ _ c _ hc)) (State.stepped_countWrap _ _ d _ hd)

theorem State.inHandler_thread (s : State) (gt i : Nat) (pc : Word) :
    (s.inHandler gt i pc).thread gt = (s.thread gt).entered pc := by
  unfold State.inHandler
  generalize fInHandler gt = a
  generalize fHinput gt = b
  generalize fState gt = c
  generalize fBeats gt = d
  rw [State.thread_countWrap, State.thread_setFld, State.thread_modThread_same, State.thread_setFld,
    State.thread_setBit]

theorem beats_ne_state (g : GT) : canon (tReg g.val 0x04) ≠ canon (tReg g.val 0x24) := by
  rw [canon_tReg g (by decide), canon_tReg g (by decide)]; unfold tReg; omega

theorem State.fld_countWrap_addr (s : State) {x y : Fld} (h : canon y.addr ≠ canon x.addr) :
    (s.countWrap x).fld y = s.fld y := State.fld_setFld_addr s _ h

theorem State.inHandler_fields (s : State) (g : GT) {i : Nat} (hi : i < 4) (pc : Word) :
    let t := s.inHandler g.val i pc
    t.bit (fInHandler g.val) = true ∧ t.fld (fHinput g.val) = BitVec.ofNat 32 i ∧ t.fld (fState g.val) = stReady := by
  have ha : (fInHandler g.val).addr = tReg g.val 4 := by rw [fInHandler]
  have hb : (fHinput g.val).addr = tReg g.val 4 := by rw [fHinput]
  have hc : (fState g.val).addr = tReg g.val 4 := by rw [fState]
  have hd : (fBeats g.val).addr = tReg g.val 0x24 := by rw [fBeats]
  have oka : (fInHandler g.val).ok := by simp [Fld.ok, fInHandler]
  have okb : (fHinput g.val).ok := by simp [Fld.ok, fHinput]
  have okc : (fState g.val).ok := by simp [Fld.ok, fState]
  have hab : (fInHandler g.val).hi < (fHinput g.val).lo := by simp [fInHandler, fHinput]
  have hca : (fState g.val).hi < (fInHandler g.val).lo := by simp [fInHandler, fState]
  have hcb : (fState g.val).hi < (fHinput g.val).lo := by simp [fHinput, fState]
  have hwb : (BitVec.ofNat 32 i).toNat < 2 ^ ((fHinput g.val).hi - (fHinput g.val).lo + 1) := by
    simp only [fHinput, BitVec.toNat_ofNat]; omega
  have hwc : stReady.toNat < 2 ^ ((fState g.val).hi - (fState g.val).lo + 1) := by simp [fState, stReady]
  have hne := beats_ne_state g
  unfold State.inHandler
  generalize fInHandler g.val = a at *
  generalize fHinput g.val = b at *
  generalize fState g.val = c at *
  generalize fBeats g.val = d at *
  generalize tReg g.val 4 = p at *
  generalize tReg g.val 0x24 = q at *
  have skip {y : Fld} (u : State) (hy : y.addr = p) : (u.countWrap d).fld y = u.fld y :=
    State.fld_countWrap_addr _ (by rw [hy, hd]; exact hne)
  refine ⟨?_, ?_, ?_⟩
  · rw [State.bit, skip _ ha, ← State.bit, State.bit_setFld_bits _ _ (ha.trans hc.symm) (.inr hca),
      State.bit_modThread, State.bit_setFld_bits _ _ (ha.trans hb.symm) (.inl hab), State.bit_setBit_same _ _ _ oka]
  · rw [skip _ hb, State.fld_setFld_bits _ _ (hb.trans hc.symm) (.inr hcb), State.fld_modThread,
      State.fld_setFld_same _ _ _ okb hwb]
  · rw [skip _ hc, State.fld_setFld_same _ _ _ okc hwc]

/-- A vector's field names a line of 64 bytes. -/
theorem vector_line (w : Word) : bitsOf w 31 6 * (64 : Word) = w &&& ~~~ 63 := by
  have h : bitsOf w 31 6 * (64 : Word) = bitsOf w 31 6 <<< 6 := by
    rw [BitVec.shiftLeft_eq_mul_twoPow]; rfl
  rw [h]
  apply BitVec.eq_of_getLsbD_eq
  intro j hj
  have h63 : (63 : Word).getLsbD j = decide (j < 6) := by
    rw [show (63 : Word) = BitVec.ofNat 32 (2 ^ 6 - 1) from rfl, BitVec.getLsbD_ofNat, Nat.testBit_two_pow_sub_one]
    simp [hj]
  rw [BitVec.getLsbD_and, BitVec.getLsbD_not, h63, BitVec.getLsbD_shiftLeft, getLsbD_bitsOf]
  by_cases h6 : j < 6
  · simp [h6]
  · simp [h6, hj, show 6 + (j - 6) = j by omega, show j ≤ 31 by omega]

/-! ## Entry -/

/-- The enabled inputs pending. -/
def State.enabledPend (s : State) (gt : Nat) : Word := s.fld (fPend gt) &&& s.fld (fHen gt)

/-- Below the fourth bit the fields read as their registers. -/
theorem State.enabledPend_bit (s : State) (gt : Nat) {j : Nat} (hj : j < 4) :
    (s.enabledPend gt).getLsbD j = (s.reg (tReg gt 0x1C) &&& s.reg (tReg gt 0x18)).getLsbD j := by
  have hp : s.fld (fPend gt) = bitsOf (s.reg (tReg gt 0x1C)) 3 0 := by rw [State.fld, fPend]
  have hh : s.fld (fHen gt) = bitsOf (s.reg (tReg gt 0x18)) 3 0 := by rw [State.fld, fHen]
  rw [State.enabledPend, hp, hh, BitVec.getLsbD_and, getLsbD_low4, getLsbD_low4, BitVec.getLsbD_and]
  simp [hj]

theorem State.enabledPend_lowest {s : State} {gt : Nat} (h : s.handlerDue gt = true) :
    let m := s.reg (tReg gt 0x1C) &&& s.reg (tReg gt 0x18)
    let i := lowestInput (s.enabledPend gt)
    i < 4 ∧ m.getLsbD i = true ∧ ∀ j, j < i → m.getLsbD j = false := by
  have hne : s.enabledPend gt ≠ 0 := by
    simp only [State.handlerDue, Bool.and_eq_true, bne_iff_ne, ne_eq] at h
    exact h.2
  obtain ⟨k, hk, hm⟩ := exists_input hne fun j hj => by
    simp only [State.enabledPend, State.fld, BitVec.getLsbD_and, fPend, getLsbD_low4]
    simp [show ¬ j < 4 by omega]
  obtain ⟨h4, hi, hlow⟩ := lowestInput_spec hk hm
  exact ⟨h4, (State.enabledPend_bit s gt h4).symm.trans hi,
    fun j hj => (State.enabledPend_bit s gt (by omega)).symm.trans (hlow j hj)⟩

theorem execHandlerEntry_eq {s : State} {g : GT} (hd : s.handlerDue g.val = true) (hr : (s.thread g.val).raised = none)
    (hh : (s.thread g.val).haltReq = none) (hf : (s.thread g.val).freezeReq = false)
    (hst : s.fld (fState g.val) = stReady ∨ s.fld (fState g.val) = stWait) (hb : s.hasBeats g.val = true) {t : State}
    (hp : s.push g.val (s.thread g.val).pc = some t) :
    execHandlerEntry g s = .next ((t.consume g.val (lowestInput (s.enabledPend g.val))).inHandler g.val (lowestInput (s.enabledPend g.val))
      ((s.reg (tReg g.val 0x20) &&& ~~~ 63) + BitVec.ofNat 32 (16 * lowestInput (s.enabledPend g.val)))) := by
  have hv : s.fld (fVector g.val) * 64 = s.reg (tReg g.val 0x20) &&& ~~~ 63 := by
    rw [State.fld, fVector]; exact vector_line _
  unfold execHandlerEntry
  simp only [hd, hr, hh, hf, hst, hb, hp, hv, Option.isNone_none, Bool.not_false, and_self, if_true]
  rfl

/-- A thread enters the handler of its lowest pending enabled input. -/
theorem execHandlerEntry_enters {s : State} {g : GT} (hd : s.handlerDue g.val = true)
    (hr : (s.thread g.val).raised = none) (hh : (s.thread g.val).haltReq = none)
    (hf : (s.thread g.val).freezeReq = false)
    (hst : s.fld (fState g.val) = stReady ∨ s.fld (fState g.val) = stWait) (hb : s.hasBeats g.val = true)
    (hroom : (s.thread g.val).rs.length < 8 ∨ s.bit (fRsTrap g.val) = false) :
    let u := s.thread g.val
    let i := lowestInput (s.enabledPend g.val)
    let pc := (s.reg (tReg g.val 0x20) &&& ~~~ 63) + BitVec.ofNat 32 (16 * i)
    ∃ t, execHandlerEntry g s = .next t ∧ s.touched t g.val [tReg g.val 0x1C, tCfg g.val 0x10] ∧
      t.thread g.val = ((u.pushed u.pc).hopped i).entered pc ∧ t.bit (fInHandler g.val) = true ∧
      t.fld (fHinput g.val) = BitVec.ofNat 32 i ∧ t.fld (fState g.val) = stReady ∧
      t.reg (tReg g.val 0x1C) = s.reg (tReg g.val 0x1C) &&& ~~~ ((1 : Word) <<< i) := by
  intro u i pc
  obtain ⟨hi, -⟩ := State.enabledPend_lowest hd
  obtain ⟨v, hv, htv, huv⟩ := State.push_room u.pc hroom
  have hpend : v.reg (tReg g.val 0x1C) = s.reg (tReg g.val 0x1C) := by
    refine htv.2.2 _ fun b hb => ?_
    simp only [List.mem_append, List.mem_cons, List.not_mem_nil, or_false] at hb
    rcases hb with (rfl | rfl | rfl) | rfl
    · rw [canon_tReg g (by decide), canon_tReg g (by decide)]; unfold tReg; omega
    · rw [canon_tReg g (by decide), canon_tReg g (by decide)]; unfold tReg; omega
    · rw [canon_tReg g (by decide), canon_tReg g (by decide)]; unfold tReg; omega
    · exact (canon_tCfg_ne_tReg g (by decide) (by decide)).symm
  have hstep := State.inHandler_stepped (v.consume g.val i) g.val i pc
  obtain ⟨h1, h2, h3⟩ := State.inHandler_fields (v.consume g.val i) g hi pc
  refine ⟨_, execHandlerEntry_eq hd hr hh hf hst hb hv, State.touched_trans (State.touched_touched
    (touched_mono htv (by simp)) (touched_mono (State.consume_touched v g.val i) (by simp))) hstep, ?_, h1, h2, h3, ?_⟩
  · rw [State.inHandler_thread, State.consume_thread, huv]
  · rw [State.stepped_tReg g hstep (by decide) (by decide), State.consume_pend v g.val hi, hpend]

/-- Settles O14: WAIT by whether an awaited input is pending; a WAIT that waits and handler entry by the lowest input
of the mask. -/
theorem waitsAndHandlersTakeLowestInput : Obligations.WaitsAndHandlersTakeLowestInput := by
  unfold Obligations.WaitsAndHandlersTakeLowestInput
  refine ⟨fun x d mask s => ?wait, fun g s => ?handler⟩
  case wait =>
    intro gt u m took
    have htook {o} (hm : m ≠ 0) (k : ∃ t, o = .next t ∧ s.waited t gt d (lowestInput m)) : took o := by
      obtain ⟨t, e, hw⟩ := k
      obtain ⟨hi, hb, hlow⟩ := State.awaited_lowest (s := s) (gt := gt) (mask := mask) hm
      exact ⟨t, lowestInput m, e, hi, hb, hlow, hw⟩
    refine ⟨fun h => ?_, fun hw ht hd hs hm hc => htook hm (execWaitComplete_takes hw ht hd hs hm hc)⟩
    split
    next hm => exact execWait_waits h hm
    next hm => exact htook hm (execWait_takes h hm)
  case handler =>
    intro gt u m hd hr hh hf hst hb hroom
    obtain ⟨hi, hbit, hlow⟩ := State.enabledPend_lowest hd
    obtain ⟨t, e, ht, hth, h1, h2, h3, h4⟩ := execHandlerEntry_enters hd hr hh hf hst hb hroom
    refine ⟨t, _, e, hi, hbit, hlow, ht, ?_, ?_, ?_, h1, h2, h3, h4, ?_, ?_⟩ <;> rw [hth]
    · exact Thread.keptBut_refl _ _
    · exact ⟨rfl, rfl, rfl⟩
    · rfl
    · rfl
    · rfl

end Sys2Proof.Machine
end

section
/-!
SUPPORT. Fields set in turn: independent fields keep each other's values, and a list of fields set is all that
changed.
-/
namespace Sys2Proof.Machine

/-! ## Independent fields -/

/-- Two fields share no bit of a register. -/
def Fld.indep (x y : Fld) : Prop := canon y.addr ≠ canon x.addr ∨ (y.addr = x.addr ∧ (y.hi < x.lo ∨ x.hi < y.lo))

theorem Fld.indep_symm {x y : Fld} (h : x.indep y) : y.indep x :=
  h.imp Ne.symm fun ⟨ha, hb⟩ => ⟨ha.symm, hb.symm⟩

theorem State.fld_setFld_indep (s : State) {x y : Fld} (v : Word) (h : x.indep y) : (s.setFld x v).fld y = s.fld y := by
  rcases h with h | ⟨ha, hb⟩
  · exact State.fld_setFld_addr s v h
  · exact State.fld_setFld_bits s v ha hb

theorem State.put_cons (s : State) (p : Fld × Word) (l : List (Fld × Word)) : s.put (p :: l) = (s.setFld p.1 p.2).put l := rfl

theorem State.put_thread (s : State) (l : List (Fld × Word)) (g : Nat) : (s.put l).thread g = s.thread g := by
  induction l generalizing s with
  | nil => rfl
  | cons p l ih => rw [State.put_cons, ih, State.thread_setFld]

theorem State.put_onlyRegs (s : State) (l : List (Fld × Word)) : s.put l = { s with regs := (s.put l).regs } := by
  induction l generalizing s with
  | nil => rfl
  | cons p l ih =>
    rw [State.put_cons]
    exact ih (s.setFld p.1 p.2)

/-- The registers after the fields were set depend on the registers alone. -/
theorem State.put_regs_congr {s t : State} (h : t.regs = s.regs) (l : List (Fld × Word)) :
    (t.put l).regs = (s.put l).regs := by
  induction l generalizing s t with
  | nil => exact h
  | cons p l ih =>
    rw [State.put_cons, State.put_cons]
    refine ih ?_
    simp only [State.setFld, State.setReg, State.reg_congr h, h]

theorem State.fld_put_indep (s : State) {l : List (Fld × Word)} {y : Fld} (h : ∀ p ∈ l, p.1.indep y) :
    (s.put l).fld y = s.fld y := by
  induction l generalizing s with
  | nil => rfl
  | cons p l ih =>
    rw [State.put_cons, ih _ fun q hq => h q (List.mem_cons_of_mem _ hq),
      State.fld_setFld_indep _ _ (h p List.mem_cons_self)]

/-- Of independent fields set in turn, each reads the value it was given, cut to its width. -/
theorem State.fld_put_bits (s : State) {l : List (Fld × Word)} (hp : l.Pairwise (fun p q => q.1.indep p.1)) {x : Fld}
    {v : Word} (hm : (x, v) ∈ l) (hx : x.ok) : (s.put l).fld x = bitsOf v (x.hi - x.lo) 0 := by
  induction l generalizing s with
  | nil => exact absurd hm List.not_mem_nil
  | cons p l ih =>
    rw [State.put_cons]
    obtain ⟨hhead, htail⟩ := List.pairwise_cons.1 hp
    rcases List.mem_cons.1 hm with rfl | hm
    · rw [State.fld_put_indep _ hhead, State.fld_setFld _ _ _ hx]
    · exact ih _ htail hm

theorem State.fld_put_mem (s : State) {l : List (Fld × Word)} (hp : l.Pairwise (fun p q => q.1.indep p.1)) {x : Fld}
    {v : Word} (hm : (x, v) ∈ l) (hx : x.ok) (hv : v.toNat < 2 ^ (x.hi - x.lo + 1)) : (s.put l).fld x = v := by
  rw [State.fld_put_bits s hp hm hx, bitsOf_zero_of_lt _ _ hv]

/-- Fields of registers that have no other address share no bit when their addresses or their bits differ. -/
theorem Fld.indep_of {x y : Fld} (hx : canon x.addr = x.addr) (hy : canon y.addr = y.addr)
    (h : y.addr ≠ x.addr ∨ y.hi < x.lo ∨ x.hi < y.lo) : x.indep y := by
  by_cases ha : y.addr = x.addr
  · exact .inr ⟨ha, h.resolve_left (not_not.2 ha)⟩
  · exact .inl (by rw [hx, hy]; exact ha)

theorem pairwise_indep {l : List (Fld × Word)} (hc : ∀ p ∈ l, canon p.1.addr = p.1.addr)
    (h : l.Pairwise (fun p q => p.1.addr ≠ q.1.addr ∨ p.1.hi < q.1.lo ∨ q.1.hi < p.1.lo)) :
    l.Pairwise (fun p q => q.1.indep p.1) :=
  h.imp_of_mem fun hp hq k => Fld.indep_of (hc _ hq) (hc _ hp) k

/-! ## Nothing but the listed fields changed -/

theorem State.keeps_of_regs {s t : State} (h : t.regs = s.regs) (fs : List Fld) : s.keeps t fs :=
  fun a _ _ => by rw [State.reg_congr h]
theorem State.keeps_trans {s t u : State} {fs : List Fld} (h : s.keeps t fs) (k : t.keeps u fs) : s.keeps u fs :=
  fun a i ha => (k a i ha).trans (h a i ha)
theorem State.keeps_mono {s t : State} {fs gs : List Fld} (h : s.keeps t fs) (k : ∀ f ∈ fs, f ∈ gs) : s.keeps t gs :=
  fun a i ha => h a i fun f hf => ha f (k f hf)

theorem State.reg_canon {s : State} {a b : Nat} (h : canon a = canon b) : s.reg a = s.reg b := by
  simp only [State.reg, h]

theorem State.keeps_setFld (s : State) {fs : List Fld} {x : Fld} (v : Word) (h : x ∈ fs) : s.keeps (s.setFld x v) fs := by
  intro a i ha
  rw [State.setFld, State.reg_setReg]
  split
  next hc =>
    rw [getLsbD_putBits, State.reg_canon hc, if_neg]
    rintro ⟨h1, h2, -⟩
    exact ha x h hc ⟨h1, h2⟩
  next => rfl

theorem State.keeps_put (s : State) {fs : List Fld} {l : List (Fld × Word)} (h : ∀ p ∈ l, p.1 ∈ fs) : s.keeps (s.put l) fs := by
  induction l generalizing s with
  | nil => exact State.keeps_of_regs rfl _
  | cons p l ih =>
    rw [State.put_cons]
    exact State.keeps_trans (State.keeps_setFld s _ (h p List.mem_cons_self))
      (ih _ fun q hq => h q (List.mem_cons_of_mem _ hq))

/-- A whole register written is a field of all its bits set. -/
theorem State.keeps_setReg (s : State) {fs : List Fld} (a : Nat) (v : Word) (h : (⟨a, 31, 0⟩ : Fld) ∈ fs) :
    s.keeps (s.setReg a v) fs := by
  intro b i hb
  rw [State.reg_setReg]
  split
  next hc =>
    have hi : ¬ i ≤ 31 := fun hi => hb _ h hc ⟨Nat.zero_le _, hi⟩
    rw [BitVec.getLsbD_of_ge _ i (by omega), BitVec.getLsbD_of_ge _ i (by omega)]
  next => rfl

/-! ## The fields of a thread's status -/

section
variable (gt : Nat)
theorem fState_ok : (fState gt).ok := by simp [Fld.ok, fState]
theorem fHaltCause_ok : (fHaltCause gt).ok := by simp [Fld.ok, fHaltCause]
theorem fPriorWait_ok : (fPriorWait gt).ok := by simp [Fld.ok, fPriorWait]
theorem fState_indep_fHaltCause : (fState gt).indep (fHaltCause gt) :=
  .inr ⟨by rw [fState, fHaltCause], by simp [fState, fHaltCause]⟩
theorem fState_indep_fPriorWait : (fState gt).indep (fPriorWait gt) :=
  .inr ⟨by rw [fState, fPriorWait], by simp [fState, fPriorWait]⟩
theorem fHaltCause_indep_fPriorWait : (fHaltCause gt).indep (fPriorWait gt) :=
  .inr ⟨by rw [fHaltCause, fPriorWait], by simp [fHaltCause, fPriorWait]⟩

/-- The three fields that HALT, RESUME and STOP write, in any state's status. -/
theorem status_pairwise (a b c : Word) :
    [(fState gt, a), (fHaltCause gt, b), (fPriorWait gt, c)].Pairwise (fun p q => q.1.indep p.1) := by
  simp only [List.pairwise_cons, List.mem_cons, List.not_mem_nil, or_false, forall_eq_or_imp, forall_eq,
    List.Pairwise.nil, and_true, IsEmpty.forall_iff, implies_true]
  exact ⟨⟨Fld.indep_symm (fState_indep_fHaltCause gt), Fld.indep_symm (fState_indep_fPriorWait gt)⟩,
    Fld.indep_symm (fHaltCause_indep_fPriorWait gt)⟩
end

end Sys2Proof.Machine
end

section
/-!
SUPPORT. HALT, RESUME, STOP and START of a thread, and the debug commands (R69 to R76, R105, R112, R288, R536 to R540).
-/
namespace Sys2Proof.Machine

/-! ## What falls due at a boundary -/

/-- The thread is READY or waits. -/
abbrev State.running (s : State) (gt : Nat) : Prop := s.fld (fState gt) = stReady ∨ s.fld (fState gt) = stWait

/-- No STOP, mismatch, contract break or freeze awaits the thread's boundary. -/
def Thread.unasked (u : Thread) : Prop :=
  u.stopReq = false ∧ u.twinStop = none ∧ u.broke = none ∧ u.freezeReq = false

section
variable {s : State} {gt : Nat} (hu : (s.thread gt).unasked)
include hu

theorem State.freezeDue_unasked : s.freezeDue gt = false := by
  obtain ⟨-, -, -, hf⟩ := hu
  simp only [State.freezeDue, hf, Bool.false_and]

theorem State.atBoundary_idle (hl : (s.thread gt).late = []) (hh : (s.thread gt).haltReq = none) :
    s.atBoundary gt = s := by
  have hfr := State.freezeDue_unasked hu
  obtain ⟨hs, ht, hb, -⟩ := hu
  unfold State.atBoundary
  simp only [hs, ht, hb, hl, hh, hfr, Bool.false_eq_true, and_false, if_false, Option.isSome_none, ite_self]

theorem State.atBoundary_halts {d : Bool} (hr : s.running gt) (hb : (s.thread gt).boundary = true)
    (hd : (s.thread gt).longDone = true) (hf : (s.thread gt).raised = none) (hl : (s.thread gt).late = [])
    (hh : (s.thread gt).haltReq = some d) : s.atBoundary gt = s.haltNow gt d := by
  have hfr := State.freezeDue_unasked hu
  have hrun : (s.fld (fState gt) == stReady || s.fld (fState gt) == stWait) = true := by
    rcases hr with h | h <;> simp [h]
  obtain ⟨hs, ht, hbr, -⟩ := hu
  unfold State.atBoundary
  simp only [hrun, hb, hd, hf, hs, ht, hbr, hl, hh, hfr, Bool.not_true, Bool.false_eq_true, if_false, if_true,
    Option.isSome_none]

/-- An error that arrived meanwhile is raised where the thread stands. -/
theorem State.atBoundary_raises {l : Nat × FaultRec} {rest : Map FaultRec} (hr : s.running gt)
    (hb : (s.thread gt).boundary = true) (hf : (s.thread gt).raised = none) (hl : (s.thread gt).late = l :: rest)
    (htw : (s.thread gt).twin = none) :
    ∃ st, s.atBoundary gt = (s.setThread gt { s.thread gt with late := [] }).raise gt (lateFault l.2 rest st) := by
  have hrun : (s.fld (fState gt) == stReady || s.fld (fState gt) == stWait) = true := by
    rcases hr with h | h <;> simp [h]
  obtain ⟨hs, ht, -, -⟩ := hu
  refine ⟨decide ((s.thread gt).waiting = some .settle), ?_⟩
  unfold State.atBoundary
  simp only [hrun, hb, hf, hs, ht, hl, htw, Bool.not_true, Bool.false_eq_true, if_false, Option.isSome_none]
end

/-! ## HALT (R73, R74) -/

/-- The thread that HALT stops. -/
def Thread.halted (t : Thread) : Thread :=
  { t with
    haltReq := none, waiting := none, stepping := false, held := false
    pairOpen := if t.waiting.isSome then none else t.pairOpen }
/-- The status that HALT gives. -/
def haltStatus (gt : Nat) (d w : Bool) : List (Fld × Word) :=
  [(fState gt, stHalted), (fHaltCause gt, if d then 2 else 1), (fPriorWait gt, boolWord w)]

theorem State.haltNow_eq (s : State) (gt : Nat) (d : Bool) :
    s.haltNow gt d = (s.modThread gt Thread.halted).put (haltStatus gt d (decide (s.fld (fState gt) = stWait))) := rfl

/-- What a HALT that is taken leaves: the thread stands where it stood, HALTED with its cause. -/
def State.haltedAs (s t : State) (gt : Nat) (cause : Word) : Prop :=
  t = { s with regs := t.regs, threads := t.threads } ∧ s.sameThreadsBut t gt ∧
    s.keeps t [fState gt, fHaltCause gt, fPriorWait gt] ∧ t.fld (fState gt) = stHalted ∧
    t.fld (fHaltCause gt) = cause ∧ (t.bit (fPriorWait gt) = true ↔ s.fld (fState gt) = stWait) ∧
    (t.thread gt).pc = (s.thread gt).pc ∧ (s.thread gt).keptBut (t.thread gt) []

theorem haltStatus_fields (s : State) (gt : Nat) (d w : Bool) :
    let t := s.put (haltStatus gt d w)
    t.fld (fState gt) = stHalted ∧ t.fld (fHaltCause gt) = (if d then 2 else 1) ∧ t.bit (fPriorWait gt) = w := by
  have hp := status_pairwise gt stHalted (if d then 2 else 1) (boolWord w)
  unfold haltStatus
  have h1 := State.fld_put_mem s hp (x := fState gt) (v := stHalted) (by simp) (fState_ok gt) (by simp [fState, stHalted])
  have h2 := State.fld_put_mem s hp (x := fHaltCause gt) (v := if d then 2 else 1) (by simp) (fHaltCause_ok gt)
    (by cases d <;> simp [fHaltCause])
  have h3 := State.fld_put_mem s hp (x := fPriorWait gt) (v := boolWord w) (by simp) (fPriorWait_ok gt)
    (by cases w <;> simp [fPriorWait, boolWord])
  exact ⟨h1, h2, by rw [State.bit, h3, boolWord_ne_zero]⟩

theorem State.haltNow_haltedAs (s : State) (gt : Nat) (d : Bool) : s.haltedAs (s.haltNow gt d) gt (if d then 2 else 1) := by
  obtain ⟨⟨hnear, hthreads, -⟩, hstill, -⟩ := State.haltNow_quiet s gt d
  refine ⟨hnear, hthreads, ?_⟩
  rw [State.haltNow_eq] at *
  obtain ⟨h1, h2, h3⟩ := haltStatus_fields (s.modThread gt Thread.halted) gt d (decide (s.fld (fState gt) = stWait))
  refine ⟨State.keeps_trans (State.keeps_of_regs rfl _) (State.keeps_put _ ?_), h1, h2, ?_, hstill.pc,
    Thread.keptBut_same (Thread.keptBut_refl _ _) hstill.toSame⟩
  · simp [haltStatus]
  · rw [h3, decide_eq_true_iff]

theorem State.cmdHalt_halts {s : State} {gt off : Nat} {d : Bool} (hu : (s.thread gt).unasked) (hr : s.running gt)
    (hb : (s.thread gt).boundary = true) (hd : (s.thread gt).longDone = true) (hf : (s.thread gt).raised = none)
    (hl : (s.thread gt).late = []) : s.haltedAs (s.cmdHalt gt off d) gt (if d then 2 else 1) := by
  let v : Thread := { s.thread gt with haltReq := some d }
  let s1 := s.setThread gt v
  have hv : s1.thread gt = v := State.thread_setThread_same _ _ _
  have e : s.cmdHalt gt off d = s1.haltNow gt d := by
    unfold State.cmdHalt
    simp only []
    rw [if_pos hr]
    exact State.atBoundary_halts (s := s1) (by rw [hv]; exact hu) hr (by rw [hv]; exact hb) (by rw [hv]; exact hd)
      (by rw [hv]; exact hf) (by rw [hv]; exact hl) (by rw [hv])
  obtain ⟨h1, h2, h3, h4, h5, h6, h7, h8⟩ := State.haltNow_haltedAs s1 gt d
  rw [e]
  have hother : s.sameThreadsBut s1 gt := fun g hg => State.thread_setThread_other s v hg
  rw [hv] at h7 h8
  exact ⟨State.near_trans (State.near_setThread s gt v) h1, fun g hg => (h2 g hg).trans (hother g hg),
    State.keeps_trans (State.keeps_of_regs rfl _) h3, h4, h5, h6, h7, h8⟩

theorem State.cmdHalt_refuses {s : State} {gt : Nat} (off : Nat) (d : Bool)
    (h : s.fld (fState gt) = stFrozen ∨ s.fld (fState gt) = stFaulted) :
    s.cmdHalt gt off d = s.refuse (.core (gt / 64)) off := by
  unfold State.cmdHalt
  simp only []
  rw [if_neg (by rcases h with h | h <;> rw [h] <;> decide), if_pos h]

/-! ## RESUME (R74) -/

/-- The status that RESUME gives. -/
def State.resumed (s : State) (gt : Nat) : State :=
  s.put [(fState gt, stReady), (fHaltCause gt, 0), (fPriorWait gt, 0)]

theorem State.resumed_ready (s : State) (gt : Nat) : (s.resumed gt).fld (fState gt) = stReady :=
  State.fld_put_mem s (status_pairwise gt stReady 0 0) (by simp) (fState_ok gt) (by simp [fState, stReady])
theorem State.resumed_running (s : State) (gt : Nat) : (s.resumed gt).running gt := .inl (State.resumed_ready s gt)

theorem State.resumed_thread (s : State) (gt g : Nat) : (s.resumed gt).thread g = s.thread g := State.put_thread s _ g

theorem State.cmdResume_eq {s : State} {gt : Nat} (off : Nat) (h : s.fld (fState gt) = stHalted) :
    s.cmdResume gt off = (s.resumed gt).atBoundary gt := by
  unfold State.cmdResume
  rw [if_pos h]
  rfl

theorem State.cmdResume_goes {s : State} {gt : Nat} (off : Nat) (h : s.fld (fState gt) = stHalted)
    (hu : (s.thread gt).unasked) (hl : (s.thread gt).late = []) (hh : (s.thread gt).haltReq = none) :
    s.cmdResume gt off = s.resumed gt := by
  have ht := State.resumed_thread s gt gt
  rw [State.cmdResume_eq off h]
  exact State.atBoundary_idle (by rw [ht]; exact hu) (by rw [ht]; exact hl) (by rw [ht]; exact hh)

theorem State.cmdResume_runs {s : State} {gt : Nat} (off : Nat) (h : s.running gt) : s.cmdResume gt off = s := by
  unfold State.cmdResume
  rw [if_neg (by rcases h with h | h <;> rw [h] <;> decide), if_pos h]

theorem State.cmdResume_refuses {s : State} {gt : Nat} (off : Nat)
    (h : s.fld (fState gt) = stIdle ∨ s.fld (fState gt) = stFrozen ∨ s.fld (fState gt) = stFaulted) :
    s.cmdResume gt off = s.refuse (.core (gt / 64)) off := by
  unfold State.cmdResume
  rw [if_neg (by rcases h with h | h | h <;> rw [h] <;> decide), if_neg (by rcases h with h | h | h <;> rw [h] <;> decide)]

/-- A READY thread that raises stays READY: only its own part changes. -/
theorem State.raise_ready {s : State} {gt : Nat} (v : Thread) (r : FaultRec) (h : s.fld (fState gt) ≠ stWait) :
    let t := (s.setThread gt v).raise gt r
    t = { s with threads := t.threads } ∧ s.sameThreadsBut t gt ∧
      (t.thread gt).raised = some { r with pc := v.pc, npc := v.successor, inDelay := v.inDelay } := by
  intro t
  have hv : (s.setThread gt v).thread gt = v := State.thread_setThread_same _ _ _
  have hraised : (t.thread gt).raised = some { r with pc := v.pc, npc := v.successor, inDelay := v.inDelay } := by
    rw [State.raise_thread, hv]
  have e : ∃ w, t = (s.setThread gt v).setThread gt w := ⟨_, if_neg h⟩
  obtain ⟨w, e⟩ := e
  refine ⟨by rw [e]; rfl, fun g hg => ?_, hraised⟩
  rw [e, State.thread_setThread_other _ _ hg, State.thread_setThread_other _ _ hg]

/-- An error that arrived while the thread was HALTED. -/
theorem State.cmdResume_raises {s : State} {gt : Nat} (off : Nat) {l : Nat × FaultRec} {rest : Map FaultRec}
    (h : s.fld (fState gt) = stHalted) (hu : (s.thread gt).unasked) (hf : (s.thread gt).raised = none)
    (hl : (s.thread gt).late = l :: rest) (htw : (s.thread gt).twin = none) (hb : (s.thread gt).boundary = true) :
    let t := s.cmdResume gt off
    t = { s.resumed gt with threads := t.threads } ∧ s.sameThreadsBut t gt ∧ ∃ r, (t.thread gt).raised = some r ∧
      r.imprecise = true ∧ r.cls = l.2.cls ∧ r.detail = l.2.detail ∧ r.oppc = l.2.oppc ∧ r.pc = (s.thread gt).pc := by
  have ht (g : Nat) := State.resumed_thread s gt g
  have hrun := State.resumed_running s gt
  obtain ⟨st, e⟩ := State.atBoundary_raises (s := s.resumed gt) (gt := gt) (by rw [ht]; exact hu) hrun
    (by rw [ht]; exact hb) (by rw [ht]; exact hf) (by rw [ht]; exact hl) (by rw [ht]; exact htw)
  have hready : (s.resumed gt).fld (fState gt) ≠ stWait := by
    rw [State.resumed_ready s gt]; decide
  obtain ⟨h1, h2, h3⟩ := State.raise_ready { (s.resumed gt).thread gt with late := [] } (lateFault l.2 rest st) hready
  intro t
  have et : t = _ := (State.cmdResume_eq off h).trans e
  rw [← et] at h1 h2 h3
  exact ⟨h1, fun g hg => (h2 g hg).trans (ht g), _, h3, rfl, rfl, rfl, rfl, by rw [ht]⟩

/-! ## STOP (R71, R72, R76) -/

theorem State.cmdStop_asks {s : State} {gt : Nat} (off : Nat) (h : s.fld (fState gt) = stReady)
    (hb : (s.thread gt).boundary = false) :
    s.cmdStop gt off = s.modThread gt (fun t => { t with stopReq := true }) := by
  unfold State.cmdStop
  simp only [h, hb, Bool.not_false, and_self, if_true]
  rw [if_neg (by decide), if_neg (by decide)]

theorem State.cmdStop_refuses {s : State} {gt : Nat} (off : Nat) (h : s.fld (fState gt) = stFrozen) :
    s.cmdStop gt off = s.refuse (.core (gt / 64)) off := if_pos h

theorem State.cmdStop_stops {s : State} {gt : Nat} (off : Nat) (h0 : s.fld (fState gt) ≠ stIdle)
    (h1 : s.fld (fState gt) ≠ stFrozen) (hb : s.fld (fState gt) = stReady → (s.thread gt).boundary = true) :
    s.cmdStop gt off = (s.stopThread gt).flushDelayed gt := by
  unfold State.cmdStop
  simp only []
  rw [if_neg h1, if_neg h0, if_neg (by rintro ⟨k, hk⟩; rw [hb k] at hk; cases hk)]
  rfl

/-- The thread that STOP stops. -/
def Thread.stopped (t : Thread) : Thread := { t.dropped with inDelay := false }

theorem State.stopThread_eq (s : State) (gt : Nat) : s.stopThread gt =
    (s.modThread gt Thread.stopped).put [(fHaltCause gt, 0), (fPriorWait gt, 0), (fState gt, stIdle)] := rfl

/-- What stopping a thread leaves, before its delayed writes settle. -/
theorem State.stopThread_leaves (s : State) (gt : Nat) :
    let w := s.stopThread gt
    w = { s with regs := w.regs, threads := w.threads } ∧ s.sameThreadsBut w gt ∧
      w.regs = (s.put [(fHaltCause gt, 0), (fPriorWait gt, 0), (fState gt, stIdle)]).regs ∧
      w.thread gt = (s.thread gt).stopped := by
  intro w
  have e : w = _ := State.stopThread_eq s gt
  generalize [(fHaltCause gt, (0 : Word)), (fPriorWait gt, 0), (fState gt, stIdle)] = l at *
  have ht (g : Nat) : w.thread g = (s.modThread gt Thread.stopped).thread g := by rw [e, State.put_thread]
  refine ⟨?_, fun g hg => (ht g).trans (State.thread_modThread_other _ _ hg), ?_,
    (ht gt).trans (State.thread_modThread_same _ _ _)⟩
  · rw [e, State.put_onlyRegs]
    rfl
  · rw [e]
    exact State.put_regs_congr (s := s) (t := s.modThread gt Thread.stopped) rfl l

end Sys2Proof.Machine
end

section
/-!
SUPPORT. START of a thread (R75, R112, R288), and the statements of thread commands and of debug commands.
-/
namespace Sys2Proof.Machine

/-! ## START -/

/-- The generation of a thread's role. -/
def fRole (gt : Nat) : Fld := ⟨0x10518000 + 8 * gt, 11, 0⟩

/-- What START writes of its thread's registers. -/
def startFields (s : State) (gt : Nat) : List (Fld × Word) :=
  [(fPend gt, 0), (fInHandler gt, 0), (fInFault gt, 0), (fCurLead gt, s.fld (fLeadAllowed gt)), (fWrapped gt, 0),
    (fRole gt, BitVec.ofNat 32 ((s.fld (fRole gt)).toNat + 1)), (fState gt, stReady)]

/-- The thread that START begins. -/
def Thread.started (t : Thread) (entry : Word) : Thread :=
  { t with
    pc := entry, npc := entry + 4, inDelay := false, rs := []
    lp0 := { t.lp0 with active := false }
    lp1 := { t.lp1 with active := false }
    lp2 := { t.lp2 with active := false }
    fn := false, fz := false, fc := false, fv := false
    waiting := none, pairOpen := none, raised := none, late := [], broke := none, twinStop := none
    haltReq := none, stopReq := false, freezeReq := false, stepping := false, held := false
    ahead := none, shadowHi := 0, hop := 0, evHop := [], noEntry := false }

def Thread.noInbox (t : Thread) : Thread := { t with inbox := [] }

section
variable (g : GT)
theorem canon_role : canon (fRole g.val).addr = (fRole g.val).addr := canon_id (.inr (by simp only [fRole]; omega))

theorem startFields_canon (s : State) : ∀ p ∈ startFields s g.val, canon p.1.addr = p.1.addr := by
  simp only [startFields, List.forall_mem_cons]
  exact ⟨canon_tReg g (by decide), canon_tReg g (by decide), canon_tCfg g (by decide), canon_tCfg g (by decide),
    canon_tCfg g (by decide), canon_role g, canon_tReg g (by decide), by simp⟩

theorem startFields_pairwise (s : State) : (startFields s g.val).Pairwise (fun p q => q.1.indep p.1) := by
  refine pairwise_indep (startFields_canon g s) ?_
  simp only [startFields, List.pairwise_cons, List.forall_mem_cons, List.not_mem_nil, IsEmpty.forall_iff, implies_true,
    List.Pairwise.nil, and_true, fPend, fInHandler, fInFault, fCurLead, fWrapped, fRole, fState, tReg, tCfg, coreBase]
  omega
end

theorem bitsOf_low12 (w : Word) : (bitsOf w 11 0).toNat = w.toNat % 4096 := by
  simp [bitsOf, bitMask]
  exact Nat.and_two_pow_sub_one_eq_mod w.toNat 12

/-- START in the order of the model: each value is read when it is written. -/
theorem State.startThread_eq (s : State) (gt : Nat) :
    let s1 := (s.modThread gt (fun t => t.started (s.reg (tReg gt 0x08) &&& ~~~ 3))).put
      [(fPend gt, 0), (fInHandler gt, 0), (fInFault gt, 0)]
    let s2 := s1.put [(fCurLead gt, s1.fld (fLeadAllowed gt)), (fWrapped gt, 0)]
    s.startThread gt = ((s2.setFld (fRole gt) (BitVec.ofNat 32 ((s2.fld (fRole gt)).toNat + 1))).modThread gt
      Thread.noInbox).setFld (fState gt) stReady := rfl

section
variable (s : State) (g : GT)
theorem fLeadAllowed_indep : ∀ p ∈ [(fPend g.val, (0 : Word)), (fInHandler g.val, 0), (fInFault g.val, 0)],
    p.1.indep (fLeadAllowed g.val) := by
  have hl : canon (fLeadAllowed g.val).addr = (fLeadAllowed g.val).addr := canon_tCfg g (by decide)
  simp only [List.forall_mem_cons]
  refine ⟨Fld.indep_of (canon_tReg g (by decide)) hl ?_, Fld.indep_of (canon_tReg g (by decide)) hl ?_,
    Fld.indep_of (canon_tCfg g (by decide)) hl ?_, by simp⟩ <;>
    simp only [fPend, fInHandler, fInFault, fLeadAllowed, tReg, tCfg] <;> omega

end

/-- Values that are read when they are written, of fields that no earlier write touches, are those of the first state. -/
theorem State.startWrites_regs {s t : State} {gt : Nat} {a1 a2 a3 a4 a5 a6 a7 a0 : Fld} {f : Thread → Thread}
    (hlead : ∀ p ∈ [(a1, (0 : Word)), (a2, 0), (a3, 0)], p.1.indep a0)
    (hpair : [(a1, (0 : Word)), (a2, 0), (a3, 0), (a4, s.fld a0), (a5, 0), (a6, BitVec.ofNat 32 ((s.fld a6).toNat + 1)),
      (a7, stReady)].Pairwise (fun p q => q.1.indep p.1))
    (e : let s1 := (s.modThread gt f).put [(a1, 0), (a2, 0), (a3, 0)]
      let s2 := s1.put [(a4, s1.fld a0), (a5, 0)]
      t = ((s2.setFld a6 (BitVec.ofNat 32 ((s2.fld a6).toNat + 1))).modThread gt Thread.noInbox).setFld a7 stReady) :
    t.regs = (s.put [(a1, 0), (a2, 0), (a3, 0), (a4, s.fld a0), (a5, 0),
      (a6, BitVec.ofNat 32 ((s.fld a6).toNat + 1)), (a7, stReady)]).regs := by
  let s1 := (s.modThread gt f).put [(a1, 0), (a2, 0), (a3, 0)]
  have h1 : s1.fld a0 = s.fld a0 := State.fld_put_indep _ hlead
  let s2 := s1.put [(a4, s1.fld a0), (a5, 0)]
  have hrole : ∀ l : List (Fld × Word), (∀ p ∈ l, p.1 ∈ [a1, a2, a3, a4, a5]) → ∀ p ∈ l, p.1.indep a6 := by
    intro l hl p hp
    simp only [List.pairwise_cons, List.forall_mem_cons] at hpair
    obtain ⟨h1, h2, h3, h4, h5, -⟩ := hpair
    have hm := hl p hp
    simp only [List.mem_cons, List.not_mem_nil, or_false] at hm
    rcases hm with h | h | h | h | h <;> rw [h] <;> refine Fld.indep_symm ?_
    · exact h1.2.2.2.2.1
    · exact h2.2.2.2.1
    · exact h3.2.2.1
    · exact h4.2.1
    · exact h5.1
  have h2 : s2.fld a6 = s.fld a6 :=
    (State.fld_put_indep _ (hrole _ (by simp))).trans (State.fld_put_indep _ (hrole _ (by simp)))
  let s3 := s2.setFld a6 (BitVec.ofNat 32 ((s2.fld a6).toNat + 1))
  let all (lead : Word) (role : Nat) : List (Fld × Word) :=
    [(a1, 0), (a2, 0), (a3, 0), (a4, lead), (a5, 0), (a6, BitVec.ofNat 32 (role + 1)), (a7, stReady)]
  calc t.regs = ((s3.modThread gt Thread.noInbox).put [(a7, stReady)]).regs := by rw [e]; rfl
    _ = (s3.put [(a7, stReady)]).regs := State.put_regs_congr (s := s3) (t := s3.modThread gt Thread.noInbox) rfl _
    _ = ((s.modThread gt f).put (all (s1.fld a0) (s2.fld a6).toNat)).regs := rfl
    _ = ((s.modThread gt f).put (all (s.fld a0) (s.fld a6).toNat)).regs := by rw [h1, h2]
    _ = (s.put (all (s.fld a0) (s.fld a6).toNat)).regs :=
      State.put_regs_congr (s := s) (t := s.modThread gt f) rfl _

section
variable (s : State) (g : GT)

/-- The registers that START leaves. -/
theorem State.startThread_regs : (s.startThread g.val).regs = (s.put (startFields s g.val)).regs :=
  State.startWrites_regs (fLeadAllowed_indep g) (startFields_pairwise g s) (State.startThread_eq s g.val)
end

theorem State.startThread_thread (s : State) (gt : Nat) : (s.startThread gt).thread gt =
    ((s.thread gt).started (s.reg (tReg gt 0x08) &&& ~~~ 3)).noInbox := by
  rw [State.startThread_eq, State.thread_setFld, State.thread_modThread_same, State.thread_setFld, State.put_thread,
    State.put_thread, State.thread_modThread_same]

theorem State.startThread_near (s : State) (gt : Nat) :
    s.near (s.startThread gt) ∧ s.sameThreadsBut (s.startThread gt) gt := by
  have e := State.startThread_eq s gt
  generalize [(fPend gt, (0 : Word)), (fInHandler gt, 0), (fInFault gt, 0)] = l at e
  generalize fRole gt = a6 at e
  generalize fState gt = a7 at e
  generalize fCurLead gt = a4 at e
  generalize fLeadAllowed gt = a0 at e
  generalize fWrapped gt = a5 at e
  have hput (u : State) (l : List (Fld × Word)) : u.near (u.put l) := by
    unfold State.near
    rw [State.put_onlyRegs]
  refine ⟨?_, fun g hg => ?_⟩
  · rw [e]
    exact State.near_trans (State.near_trans (State.near_trans (State.near_trans (State.near_trans
      (State.near_setThread s gt _) (hput _ _)) (hput _ _)) (State.near_setFld _ _ _)) (State.near_setThread _ gt _))
      (State.near_setFld _ _ _)
  · rw [e, State.thread_setFld, State.thread_modThread_other _ _ hg, State.thread_setFld, State.put_thread,
      State.put_thread, State.thread_modThread_other _ _ hg]

/-- What START leaves of its thread's registers. -/
theorem State.startThread_fields (s : State) (g : GT) :
    let t := s.startThread g.val
    s.keeps t [fState g.val, fPend g.val, fInHandler g.val, fInFault g.val, fCurLead g.val, fWrapped g.val, fRole g.val] ∧
    t.fld (fState g.val) = stReady ∧ t.fld (fPend g.val) = 0 ∧ t.bit (fInHandler g.val) = false ∧
    t.bit (fInFault g.val) = false ∧ t.fld (fCurLead g.val) = s.fld (fLeadAllowed g.val) ∧
    t.bit (fWrapped g.val) = false ∧ (t.fld (fRole g.val)).toNat = ((s.fld (fRole g.val)).toNat + 1) % 4096 := by
  intro t
  have hr : t.regs = _ := State.startThread_regs s g
  have hp := startFields_pairwise g s
  have hfld (x : Fld) : t.fld x = (s.put (startFields s g.val)).fld x := State.fld_congr hr x
  have hmem {x : Fld} {v : Word} (hm : (x, v) ∈ startFields s g.val) (hx : x.ok) (hv : v.toNat < 2 ^ (x.hi - x.lo + 1)) :
      t.fld x = v := (hfld x).trans (State.fld_put_mem s hp hm hx hv)
  have hzero {x : Fld} (hm : (x, (0 : Word)) ∈ startFields s g.val) (hx : x.ok) : t.fld x = 0 :=
    hmem hm hx (Nat.two_pow_pos _)
  have hbit {x : Fld} (hm : (x, (0 : Word)) ∈ startFields s g.val) (hx : x.ok) : t.bit x = false := by
    rw [State.bit, hzero hm hx]; rfl
  have hlead : (s.fld (fLeadAllowed g.val)).toNat < 2 ^ 1 := bitsOf_lt _ _ _
  refine ⟨?_, hmem (by simp [startFields]) (fState_ok _) (by simp [fState, stReady]),
    hzero (by simp [startFields]) (by simp [Fld.ok, fPend]), hbit (by simp [startFields]) (by simp [Fld.ok, fInHandler]),
    hbit (by simp [startFields]) (by simp [Fld.ok, fInFault]),
    hmem (by simp [startFields]) (by simp [Fld.ok, fCurLead]) hlead,
    hbit (by simp [startFields]) (by simp [Fld.ok, fWrapped]), ?_⟩
  · refine State.keeps_trans (State.keeps_put s (l := startFields s g.val) ?_) (State.keeps_of_regs hr _)
    simp [startFields]
  · rw [hfld, State.fld_put_bits s hp (x := fRole g.val)
      (v := BitVec.ofNat 32 ((s.fld (fRole g.val)).toNat + 1)) (by simp [startFields]) (by simp [Fld.ok, fRole])]
    have hlt : (s.fld (fRole g.val)).toNat < 2 ^ 12 := bitsOf_lt _ _ _
    rw [show (fRole g.val).hi - (fRole g.val).lo = 11 from rfl, bitsOf_low12, BitVec.toNat_ofNat]
    omega

end Sys2Proof.Machine
end

section
/-!
SUPPORT. The statements of thread commands (R69 to R76, R105, R452, R483) and of debug commands (R536 to R540).
-/
namespace Sys2Proof.Machine

/-! ## Commands at a core's block -/

theorem ownAgent_eq (g : GT) : ownAgent g.val = .thread g := by
  unfold ownAgent
  congr 1
  apply Fin.ext
  simp

section
variable {s : State} {g : GT} (cmd : Word) (f : State → State) (hc : s.corePresent (g.val / 64) = true)
include hc

/-- A thread's command to itself settles as a write of its own. -/
theorem State.threadCommand_own : s.threadCommand (.thread g) g.val cmd f = s.delayWrite g.val (tReg g.val 0) cmd := by
  unfold State.threadCommand
  rw [State.atBlock_direct (b := .core (g.val / 64)) _ _ (fun v h => by cases h) hc, State.ownOr, if_pos (ownAgent_eq g).symm]

theorem State.threadCommand_other {who : Agent} (hd : direct who) (hw : who ≠ .thread g) :
    s.threadCommand who g.val cmd f = f s := by
  unfold State.threadCommand
  rw [State.atBlock_direct (b := .core (g.val / 64)) _ _ hd hc, State.ownOr, if_neg (by rw [ownAgent_eq]; exact hw)]
end

/-! ## START is judged (R72, R452, R483) -/

theorem State.unreleased_iff (s : State) : s.unreleased = true ↔ s.fld fMode = modeStart := by
  simp [State.unreleased]

/-- The thread may be started. -/
def State.mayStart (s : State) (gt : Nat) : Prop := s.fld (fState gt) = stIdle ∧ s.ownerFree gt = false ∧
  (s.fld fMode ≠ modeStart ∨ s.renaming (gt / 64) = true)

theorem State.mayStart_iff (s : State) (gt : Nat) : s.mayStart gt ↔ s.fld (fState gt) = stIdle ∧
    ¬ (s.ownerFree gt = true ∨ (s.unreleased = true ∧ (!s.renaming (gt / 64)) = true)) := by
  unfold State.mayStart
  rw [State.unreleased_iff, not_or, Bool.not_eq_true, not_and_or, Bool.not_eq_true', Bool.not_eq_false]

theorem State.cmdStart_starts {s : State} {gt : Nat} (off : Nat) (h : s.mayStart gt) :
    s.cmdStart gt off = s.startThread gt := by
  obtain ⟨h1, h2⟩ := (State.mayStart_iff s gt).1 h
  unfold State.cmdStart
  rw [if_pos h1, if_neg h2]

theorem State.cmdStart_refuses {s : State} {gt : Nat} (off : Nat) (h : ¬ s.mayStart gt) :
    s.cmdStart gt off = s.refuse (.core (gt / 64)) off := by
  rw [State.mayStart_iff, not_and, not_not] at h
  unfold State.cmdStart
  split
  next hi => exact if_pos (h hi)
  next => rfl

/-- Settles O21: a thread's own command by its delay, and another's by the thread's status. -/
theorem threadCommands : Obligations.ThreadCommands := by
  unfold Obligations.ThreadCommands
  intro who g s gt u st no entry role later hc
  have own {i : Instr} {cmd : Word} {f : State → State}
      (e : exec i s = .next (s.threadCommand (.thread g) gt cmd f)) : exec i s = .next (later cmd) := by
    rw [e, State.threadCommand_own cmd f hc]; rfl
  refine ⟨⟨own rfl, own rfl, own rfl, own rfl⟩, ?_⟩
  intro hd hw mayStart
  have hstart : exec (.threadStart who g) s = .next (s.cmdStart gt (ctlOff gt)) :=
    congrArg _ (State.threadCommand_other 1 _ hc hd hw)
  have hhalt : exec (.threadHalt who g) s = .next (s.cmdHalt gt (ctlOff gt) false) :=
    congrArg _ (State.threadCommand_other 2 _ hc hd hw)
  have hresume : exec (.threadResume who g) s = .next (s.cmdResume gt (ctlOff gt)) :=
    congrArg _ (State.threadCommand_other 4 _ hc hd hw)
  have hstop : exec (.threadStop who g) s = .next (s.cmdStop gt (ctlOff gt)) :=
    congrArg _ (State.threadCommand_other 8 _ hc hd hw)
  rw [hhalt, hresume, hstop, hstart]
  refine ⟨?starts, fun hm => congrArg _ (State.cmdStart_refuses _ hm), ?halts, fun hf => congrArg _ (State.cmdHalt_refuses _ _ hf),
    ?resumes, fun hf => congrArg _ (State.cmdResume_refuses _ hf), fun hs hb => congrArg _ (State.cmdStop_asks _ hs hb),
    ?stops, fun hf => congrArg _ (State.cmdStop_refuses _ hf)⟩
  case starts =>
    intro hm
    refine ⟨_, hstart, ?_⟩
    rw [State.cmdStart_starts _ hm]
    obtain ⟨hn, ho⟩ := State.startThread_near s gt
    obtain ⟨k, k1, k2, k3, k4, k5, k6, k7⟩ := State.startThread_fields s g
    refine ⟨hn, ho, k, k1, k2, k3, k4, k5, k6, k7, ?_⟩
    rw [State.startThread_thread]
    refine ⟨rfl, rfl, rfl, rfl, rfl, rfl, rfl, rfl, rfl, rfl, fun ht => ?_⟩
    simp only [Thread.flags, Thread.isShadow, Thread.noInbox, Thread.started, show (s.thread gt).twin = none from ht,
      bne_self_eq_false]
  case halts =>
    intro hr hb hl hs hf ht hlate hbr hfz
    exact ⟨_, hhalt, State.cmdHalt_halts ⟨hs, ht, hbr, hfz⟩ hr hb hl hf hlate⟩
  case resumes =>
    intro hst hs hf ht hbr hfz hh ready
    refine ⟨fun hl => congrArg _ (State.cmdResume_goes _ hst ⟨hs, ht, hbr, hfz⟩ hl hh), fun l rest hl htw hb => ?_⟩
    exact ⟨_, hresume, State.cmdResume_raises _ hst ⟨hs, ht, hbr, hfz⟩ hf hl htw hb⟩
  case stops =>
    intro h0 h1 hb
    obtain ⟨w1, w2, w3, w4⟩ := State.stopThread_leaves s gt
    refine ⟨_, hstop, s.stopThread gt, State.cmdStop_stops _ h0 h1 hb, w1, w2, w3, ?_⟩
    rw [w4]
    exact ⟨rfl, rfl, rfl, rfl⟩

/-! ## Debug commands -/

section
variable {s : State} {gt : Nat}

theorem State.dbgHalt_refuses (h : s.fld (fState gt) = stFrozen ∨ s.fld (fState gt) = stFaulted) :
    s.dbgHalt gt = s.refuse .power 0x74 := if_pos h

theorem State.dbgHalt_idle (h : s.fld (fState gt) = stIdle ∨ (s.fld (fState gt) = stHalted ∧ (s.thread gt).twin = none)) :
    s.dbgHalt gt = s := by
  unfold State.dbgHalt
  rcases h with h | ⟨h, ht⟩
  · simp only [h]
    rw [if_neg (by decide), if_neg (by decide)]
  · simp only [h, ht, if_true]
    rw [if_neg (by decide), if_pos (by decide)]

theorem State.dbgHalt_running (h : s.running gt) (ht : (s.thread gt).twin = none) :
    s.dbgHalt gt = s.cmdHalt gt 0x74 true := by
  have h3 : s.fld (fState gt) ≠ stHalted := by rcases h with h | h <;> rw [h] <;> decide
  have h45 : ¬ (s.fld (fState gt) = stFrozen ∨ s.fld (fState gt) = stFaulted) := by
    rcases h with h | h <;> rw [h] <;> decide
  unfold State.dbgHalt
  simp only [ht]
  rw [if_neg h45, if_pos (h.imp id .inl), if_neg h3]

theorem State.dbgResume_stands (h : s.fld (fState gt) = stHalted ∨ s.running gt) :
    s.dbgResume gt = s.cmdResume gt 0x74 := if_pos h

theorem State.dbgResume_refuses (h : s.fld (fState gt) = stIdle ∨ s.fld (fState gt) = stFrozen ∨ s.fld (fState gt) = stFaulted) :
    s.dbgResume gt = s.refuse .power 0x74 := if_neg (by rcases h with h | h | h <;> rw [h] <;> decide)
end

/-- The codes of a record in FAULT word of a refused debug access. -/
theorem dbgRecord_fields (mode lc need cls : Word) (hm : mode.toNat < 8) (hl : lc.toNat < 8) (hn : need.toNat < 4)
    (hc : cls.toNat < 4) :
    let w := putBits (putBits (putBits (putBits 0 18 16 mode) 14 12 lc) 9 8 need) 1 0 cls
    bitsOf w 18 16 = mode ∧ bitsOf w 14 12 = lc ∧ bitsOf w 9 8 = need ∧ bitsOf w 1 0 = cls := by
  have top (u : Word) (hi lo : Nat) (v : Word) (h : hi < 32) (hlo : lo ≤ hi) (hv : v.toNat < 2 ^ (hi - lo + 1)) :
      bitsOf (putBits u hi lo v) hi lo = v :=
    ((bitsOf_putBits u hi lo v h).resolve_right (by omega)).trans (bitsOf_zero_of_lt _ _ hv)
  refine ⟨?_, ?_, ?_, top _ 1 0 cls (by decide) (by decide) hc⟩
  · rw [bitsOf_putBits_other _ _ _ _ _ _ (by decide), bitsOf_putBits_other _ _ _ _ _ _ (by decide),
      bitsOf_putBits_other _ _ _ _ _ _ (by decide), top _ 18 16 mode (by decide) (by decide) hm]
  · rw [bitsOf_putBits_other _ _ _ _ _ _ (by decide), bitsOf_putBits_other _ _ _ _ _ _ (by decide),
      top _ 14 12 lc (by decide) (by decide) hl]
  · rw [bitsOf_putBits_other _ _ _ _ _ _ (by decide), top _ 9 8 need (by decide) (by decide) hn]

theorem State.dbgClass_lt (s : State) : s.dbgClass.toNat < 4 := by
  have hc : (s.fld fDbgClass).toNat < 4 := bitsOf_lt _ _ _
  unfold State.dbgClass
  split
  · exact hc
  next h =>
    have hle : ¬ (s.fld fDbgClass).toNat ≤ s.dbgCeiling.toNat := fun k => h (BitVec.le_def.2 k)
    omega

end Sys2Proof.Machine
end

section
/-!
SUPPORT. The statement of debug commands on threads (R89, R536 to R540).
-/
namespace Sys2Proof.Machine

/-! ## A debug access refused -/

def fDbgRefused : Fld := ⟨0x10900078, 15, 0⟩
def dbgRecordAt : Nat := 0x1090007C

/-- The record of a refused debug access. -/
def State.dbgRecord (s : State) (need : Word) : Word :=
  putBits (putBits (putBits (putBits 0 18 16 (s.fld fMode)) 14 12 (s.fld fLc)) 9 8 need) 1 0 s.dbgClass

theorem State.debugRefuse_eq (s : State) (need : Word) :
    s.debugRefuse need = (s.countUp fDbgRefused).setReg dbgRecordAt (s.dbgRecord need) := rfl

theorem fDbgRefused_apart : canon fDbgRefused.addr ≠ canon dbgRecordAt := by
  rw [canon_id (.inr (by decide)), canon_id (.inr (by decide))]; decide

theorem State.debugRefuse_records (s : State) {need : Word} (hn : need.toNat < 4) :
    let t := s.debugRefuse need
    t = { s with regs := t.regs } ∧ s.keeps t [fDbgRefused, ⟨dbgRecordAt, 31, 0⟩] ∧
      (t.fld fDbgRefused).toNat = min 0xFFFF ((s.fld fDbgRefused).toNat + 1) ∧
      t.fld ⟨dbgRecordAt, 18, 16⟩ = s.fld fMode ∧ t.fld ⟨dbgRecordAt, 14, 12⟩ = s.fld fLc ∧
      t.fld ⟨dbgRecordAt, 9, 8⟩ = need ∧ t.fld ⟨dbgRecordAt, 1, 0⟩ = s.dbgClass := by
  intro t
  obtain ⟨h1, h2, h3, h4⟩ := dbgRecord_fields (s.fld fMode) (s.fld fLc) need s.dbgClass (bitsOf_lt _ _ _)
    (bitsOf_lt _ _ _) hn s.dbgClass_lt
  have e : t = _ := State.debugRefuse_eq s need
  have hok : fDbgRefused.ok := by simp [Fld.ok, fDbgRefused]
  have hcount := State.fld_countUp s fDbgRefused 1 hok
  have hmax : 2 ^ (fDbgRefused.hi + 1 - fDbgRefused.lo) - 1 = 0xFFFF := by simp [fDbgRefused]
  have hap := fDbgRefused_apart
  unfold State.dbgRecord at e
  rw [hmax] at hcount
  generalize fDbgRefused = x at *
  generalize dbgRecordAt = a at *
  refine ⟨by rw [e]; rfl, ?_, ?_, ?_, ?_, ?_, ?_⟩
  · rw [e]
    exact State.keeps_trans (State.keeps_setFld s _ List.mem_cons_self) (State.keeps_setReg _ a _ (by simp))
  · rw [e, State.fld_setReg_other _ _ hap, hcount]
  · rw [e, State.fld_setReg_same, h1]
  · rw [e, State.fld_setReg_same, h2]
  · rw [e, State.fld_setReg_same, h3]
  · rw [e, State.fld_setReg_same, h4]

/-! ## Judging a debug command -/

theorem State.dbgNeed_eq (s : State) (gt : Nat) :
    s.dbgNeed gt = if s.owner (ownThread gt) = some (s.fld fDbgVc).toNat then 2 else 3 := by
  unfold State.dbgNeed State.dbgOwns
  simp only [beq_iff_eq]
  rfl

theorem State.dbgNeed_lt (s : State) (gt : Nat) : (s.dbgNeed gt).toNat < 4 := by
  rw [State.dbgNeed_eq]
  split <;> decide

section
variable {s : State} {who : Agent} {gt : Nat} (f : State → State)
theorem State.dbgCmd_refuses (hw : who = .debug) (hc : s.dbgClass < s.dbgNeed gt) :
    s.dbgCmd who gt f = s.debugRefuse (s.dbgNeed gt) := if_pos ⟨hw, hc⟩

variable (h : who ≠ .debug ∨ s.dbgNeed gt ≤ s.dbgClass)
include h
theorem State.dbgCmd_absent (hc : s.corePresent (gt / 64) = false) : s.dbgCmd who gt f = s := by
  unfold State.dbgCmd
  rw [if_neg (by rw [not_and, BitVec.not_lt]; exact fun hw => h.resolve_left (not_not.2 hw)), if_neg (by simp [hc])]
theorem State.dbgCmd_acts (hc : s.corePresent (gt / 64) = true) : s.dbgCmd who gt f = f s := by
  unfold State.dbgCmd
  rw [if_neg (by rw [not_and, BitVec.not_lt]; exact fun hw => h.resolve_left (not_not.2 hw)), if_pos hc]
end

theorem State.dbgStep_steps {s : State} {gt : Nat} (hst : s.fld (fState gt) = stHalted)
    (he : s.cmdResume gt 0x74 = s.resumed gt) :
    s.dbgStep gt = (s.resumed gt).modThread gt (fun t => { t with stepping := true }) := by
  unfold State.dbgStep
  rw [if_pos hst, he]

theorem State.dbgStep_refuses {s : State} {gt : Nat} (h : s.fld (fState gt) ≠ stHalted) :
    s.dbgStep gt = s.refuse .power 0x74 := if_neg h

/-- RESUME of a HALTED thread in which nothing but an entered fault is due. -/
theorem State.dbgResume_goes {s : State} {gt : Nat} (h : s.fld (fState gt) = stHalted)
    (hu : (s.thread gt).unasked) (hl : (s.thread gt).late = []) (hh : (s.thread gt).haltReq = none) :
    s.dbgResume gt = s.resumed gt ∧
      s.dbgStep gt = (s.resumed gt).modThread gt (fun t => { t with stepping := true }) :=
  ⟨(State.dbgResume_stands (.inl h)).trans (State.cmdResume_goes _ h hu hl hh),
    State.dbgStep_steps h (State.cmdResume_goes _ h hu hl hh)⟩

theorem execDbgClassChange_off (cls : BitVec 2) (v : VC) {s : State} (h : s.fld fMode = modeOff) :
    execDbgClassChange cls v s = .next s := by
  unfold execDbgClassChange
  rw [if_pos h]
theorem execDbgClassChange_on (cls : BitVec 2) (v : VC) {s : State} (h : s.fld fMode ≠ modeOff) :
    execDbgClassChange cls v s = .next (s.put [(fDbgClass, cls.setWidth 32), (fDbgVc, BitVec.ofNat 32 v.val)]) := by
  unfold execDbgClassChange
  rw [if_neg h]
  rfl

/-- Settles O55: a refused access by its record, and each command by the thread's status. -/
theorem debugCommandsActOnThreads : Obligations.DebugCommandsActOnThreads := by
  unfold Obligations.DebugCommandsActOnThreads
  intro who g cls v s gt u st need all resumed no
  have hneed : s.dbgNeed gt = need := State.dbgNeed_eq s gt
  refine ⟨fun hw hc => ?refused, fun h hp => ?absent, fun h hp => ?acts, fun hm => ?off, fun hm => ?classed⟩
  case off => exact execDbgClassChange_off cls v hm
  case classed => exact execDbgClassChange_on cls v hm
  case refused =>
    rw [← hneed] at hc
    have hrec := State.debugRefuse_records s (State.dbgNeed_lt s gt)
    rw [State.dbgNeed_eq s gt] at hrec
    have run (f : State → State) : (.next (s.dbgCmd who gt f) : Host.Outcome State Fault Refusal) = .next (s.debugRefuse need) := by
      rw [State.dbgCmd_refuses f hw hc, hneed]
    exact ⟨⟨_, run _, hrec⟩, ⟨_, run _, hrec⟩, ⟨_, run _, hrec⟩⟩
  case absent =>
    rw [← hneed] at h
    exact ⟨congrArg _ (State.dbgCmd_absent _ h hp), congrArg _ (State.dbgCmd_absent _ h hp),
      congrArg _ (State.dbgCmd_absent _ h hp)⟩
  case acts =>
    rw [← hneed] at h
    have hhalt : exec (.dbgHalt who g) s = .next (s.dbgHalt gt) := congrArg _ (State.dbgCmd_acts _ h hp)
    have hresume : exec (.dbgResume who g) s = .next (s.dbgResume gt) := congrArg _ (State.dbgCmd_acts _ h hp)
    have hstep : exec (.dbgStep who g) s = .next (s.dbgStep gt) := congrArg _ (State.dbgCmd_acts _ h hp)
    rw [hhalt, hresume, hstep]
    refine ⟨fun hs => congrArg _ (State.dbgHalt_refuses hs), fun hs => congrArg _ (State.dbgHalt_idle hs), ?halts,
      ?resumes, fun hs => ?_, fun hs => congrArg _ (State.dbgResume_refuses hs),
      fun hs => congrArg _ (State.dbgStep_refuses hs)⟩
    case halts =>
      intro hr ht hb hl hs hf hts hlate hbr hfz
      refine ⟨_, hhalt, ?_⟩
      rw [State.dbgHalt_running hr ht]
      obtain ⟨h1, h2, h3, h4, h5, h6, -, h8⟩ :=
        State.cmdHalt_halts (off := 0x74) (d := true) ⟨hs, hts, hbr, hfz⟩ hr hb hl hf hlate
      exact ⟨h1, h2, h3, h4, h5, h6, h8⟩
    case resumes =>
      intro hst hs hts hl hbr hfz hh
      obtain ⟨h1, h2⟩ := State.dbgResume_goes hst ⟨hs, hts, hbr, hfz⟩ hl hh
      exact ⟨congrArg _ h1, congrArg _ h2⟩
    case _ => rw [State.dbgResume_stands (.inr hs), State.cmdResume_runs _ hs]

end Sys2Proof.Machine
end

section
/-!
SUPPORT. The instruction cache and the line buffer (R79 to R85).
-/
namespace Sys2Proof.Machine

/-! ## A line filled -/

/-- The line buffer of two lines after a line was used. -/
def frontLine (k : Nat) (ls : List Nat) : List Nat := (k :: ls.filter (fun z => z != k)).take 2

theorem Thread.useLine_eq (t : Thread) (k : Nat) : t.useLine k = { t with lineBuf := frontLine k t.lineBuf } := rfl

/-- The core takes a line into its cache: lookups are on, and a way is unlocked. -/
def State.caches? (s : State) (n : Nat) : Prop := s.bit (fIcEnable n) = true ∧ s.fld (fLockWays n) ≠ 0xF

/-- Only registers, threads and the instruction caches differ. -/
def State.nearCache (s t : State) : Prop := t = { s with regs := t.regs, threads := t.threads, icache := t.icache }
theorem State.nearCache_trans {s t u : State} (h : s.nearCache t) (k : t.nearCache u) : s.nearCache u := by
  unfold State.nearCache at *; rw [k, h]
theorem State.nearCache_setFld (s : State) (x : Fld) (v : Word) : s.nearCache (s.setFld x v) := rfl
theorem State.nearCache_modThread (s : State) (g : Nat) (f : Thread → Thread) : s.nearCache (s.modThread g f) := rfl

/-- What a fill leaves beside the thread. -/
def State.lineFilled (s t : State) (gt l way beats : Nat) : Prop :=
  t = { s with regs := t.regs, threads := t.threads, icache := t.icache } ∧ s.sameThreadsBut t gt ∧
    s.keeps t [fIcmiss gt] ∧ (t.fld (fIcmiss gt)).toNat = min 0xFFFFFFFF ((s.fld (fIcmiss gt)).toNat + beats) ∧
    (s.bit (fIcEnable (gt / 64)) = true → s.fld (fLockWays (gt / 64)) ≠ 0xF → (l, way) ∈ Map.get [] t.icache (gt / 64)) ∧
    (¬ (s.bit (fIcEnable (gt / 64)) = true ∧ s.fld (fLockWays (gt / 64)) ≠ 0xF) → t.icache = s.icache)

/-- The thread that a line reached. -/
def Thread.filled (t : Thread) (l : Nat) : Thread :=
  { t with lineBuf := frontLine l t.lineBuf, ahead := if t.ahead = some l then none else t.ahead }

/-- The lines of a core's cache that a line leaves when it comes into a way. -/
def keptLines (l way : Nat) (c : List (Nat × Nat)) : List (Nat × Nat) :=
  c.filter (fun p => p.1 != l && !(p.2 == way && p.1 % 128 == l % 128))

section
variable {s : State} {gt : Nat} (l way : Nat)

theorem State.lineFill_cached (h : s.caches? (gt / 64)) : s.lineFill gt l way =
    { s.modThread gt (fun t => t.filled l) with
      icache := Map.set [] s.icache (gt / 64) ((l, way) :: keptLines l way (Map.get [] s.icache (gt / 64))) } :=
  if_pos (Bool.and_eq_true_iff.2 ⟨h.1, bne_iff_ne.2 h.2⟩)

theorem State.lineFill_uncached (h : ¬ s.caches? (gt / 64)) :
    s.lineFill gt l way = s.modThread gt (fun t => t.filled l) :=
  if_neg fun k => h ⟨(Bool.and_eq_true_iff.1 k).1, bne_iff_ne.1 (Bool.and_eq_true_iff.1 k).2⟩

/-- What a line's fill leaves: everything but the thread's part and the caches. -/
theorem State.lineFill_leaves (s : State) (gt : Nat) : s.nearCache (s.lineFill gt l way) ∧
    (s.lineFill gt l way).regs = s.regs ∧
    (s.lineFill gt l way).threads = (s.modThread gt (fun t => t.filled l)).threads := by
  by_cases h : s.caches? (gt / 64)
  · rw [State.lineFill_cached l way h]; exact ⟨rfl, rfl, rfl⟩
  · rw [State.lineFill_uncached l way h]; exact ⟨rfl, rfl, rfl⟩
end

theorem State.lostBeats_counts (s : State) (gt : Nat) (lost : Word) :
    ((s.lostBeats gt lost).fld (fIcmiss gt)).toNat = min 0xFFFFFFFF ((s.fld (fIcmiss gt)).toNat + lost.toNat) := by
  have hok : (fIcmiss gt).ok := by simp [Fld.ok, fIcmiss]
  have hw : (fIcmiss gt).hi - (fIcmiss gt).lo + 1 = 32 := by simp [fIcmiss]
  unfold State.lostBeats
  generalize fIcmiss gt = x at *
  rw [State.fld_setFld_same _ _ _ hok (by rw [hw]; exact (BitVec.isLt _)), BitVec.toNat_ofNat, Nat.mod_eq_of_lt (by omega)]

/-- A line comes. -/
theorem State.lineFill_filled (s : State) (gt l way : Nat) (lost : Word) :
    let t := (s.lineFill gt l way).lostBeats gt lost
    s.lineFilled t gt l way lost.toNat ∧ t.thread gt = (s.thread gt).filled l := by
  intro t
  obtain ⟨hnear, hregs, hth⟩ := State.lineFill_leaves l way s gt
  have hcount := State.lostBeats_counts (s.lineFill gt l way) gt lost
  have hthread (g : Nat) : t.thread g = (s.modThread gt (fun t => t.filled l)).thread g := State.thread_congr hth g
  have hkeep : s.keeps t [fIcmiss gt] :=
    State.keeps_trans (State.keeps_of_regs hregs _) (State.keeps_setFld _ _ List.mem_cons_self)
  rw [State.fld_congr hregs] at hcount
  refine ⟨⟨State.nearCache_trans hnear (State.nearCache_setFld _ _ _), fun g hg => ?_, hkeep, hcount, fun he hl => ?_,
    fun h => ?_⟩, ?_⟩
  · rw [hthread, State.thread_modThread_other _ _ hg]
  · show (l, way) ∈ Map.get [] (s.lineFill gt l way).icache (gt / 64)
    rw [State.lineFill_cached l way (s := s) ⟨he, hl⟩, Map.get_set_same]
    exact List.mem_cons_self
  · show (s.lineFill gt l way).icache = s.icache
    rw [State.lineFill_uncached l way (s := s) h]
    rfl
  · rw [hthread, State.thread_modThread_same]

/-- A line comes, for a thread that had it under way. -/
theorem State.modThread_lineFill_filled (s : State) (gt l way : Nat) (lost : Word) (f : Thread → Thread) :
    let t := ((s.modThread gt f).lineFill gt l way).lostBeats gt lost
    s.lineFilled t gt l way lost.toNat ∧ t.thread gt = (f (s.thread gt)).filled l := by
  intro t
  obtain ⟨⟨h1, h2, h3, h4, h5, h6⟩, h7⟩ := State.lineFill_filled (s.modThread gt f) gt l way lost
  rw [State.thread_modThread_same] at h7
  exact ⟨⟨State.nearCache_trans (State.nearCache_modThread s gt f) h1,
    fun g hg => (h2 g hg).trans (State.thread_modThread_other _ _ hg), h3, h4, h5, h6⟩, h7⟩

/-! ## Refills (R80 to R85) -/

section
variable {s : State} {g : GT} {a l : Nat}

theorem State.lineNeeded_eq (ha : s.checkAccess g.val 7 .fetch (s.thread g.val).pc.toNat 4 = .ok a)
    (hl : lineOf (underlying a) = l) (hh : s.lineHit g.val l = false) : s.lineNeeded g.val = some a := by
  unfold State.lineNeeded
  simp only [ha, hl, hh, Bool.false_eq_true, if_false]

/-- The way of a refill is not one that is locked while another is not. -/
def State.mayFill (s : State) (gt : Nat) (way : Fin 4) : Prop :=
  (s.fld (fLockWays (gt / 64))).getLsbD way.val = false ∨ s.fld (fLockWays (gt / 64)) = 0xF

theorem State.mayFill_iff {way : Fin 4} (h : s.mayFill g.val way) :
    ((s.fld (fLockWays (g.val / 64))).getLsbD way.val && s.fld (fLockWays (g.val / 64)) != 0xF) = false := by
  rcases h with h | h
  · rw [h, Bool.false_and]
  · rw [h]
    exact Bool.and_false _

variable {line : BitVec 42} {way : Fin 4} {lost : Word} (hway : s.mayFill g.val way)
  (hn : s.lineNeeded g.val = some a) (hl : lineOf (underlying a) = line.toNat)
include hway hn hl

/-- A line fetched from far has come. -/
theorem execIcacheRefill_came {id : Nat} {d : Line} (hf : (s.thread g.val).fetching = some (line.toNat, id))
    (hd : (s.thread g.val).fetched = some d) : execIcacheRefill g line way lost s =
      .next (((s.modThread g.val (fun t => { t with fetching := none, fetched := none })).lineFill g.val line.toNat
        way.val).lostBeats g.val lost) := by
  unfold execIcacheRefill
  simp only [State.mayFill_iff hway, hf, hd, hn, Option.any_some, hl, beq_self_eq_true, Bool.false_eq_true, if_false, if_true]

section
variable (hf : (s.thread g.val).fetching = none) (hst : s.fld (fState g.val) = stReady) (hdet : s.det g.val = false)
  (hr : (s.thread g.val).raised = none) (hdr : s.drainingAt a = false)
include hf hst hdet hr hdr

/-- A needed line of a bank. -/
theorem execIcacheRefill_near (hfar : farAt a = false) : execIcacheRefill g line way lost s =
    .next ((s.lineFill g.val line.toNat way.val).lostBeats g.val lost) := by
  unfold execIcacheRefill
  simp only [State.mayFill_iff hway, hf, hn, Bool.false_eq_true, if_false]
  simp [hst, hdet, hr, hdr, hfar, hl]

/-- A needed line of the system region is asked of the ledger. -/
theorem execIcacheRefill_far (hfar : farAt a = true) :
    execIcacheRefill g line way lost s = .next (s.lineAsk g.val line.toNat) := by
  unfold execIcacheRefill
  simp only [State.mayFill_iff hway, hf, hn, Bool.false_eq_true, if_false]
  simp [hst, hdet, hr, hdr, hfar, hl]
end
end

/-- A request behind others of the ledger is held. -/
theorem State.ledgerSend_held {s : State} {e : LEntry} (hr : isRemote e.addr = false) (hq : s.ledgerQ ≠ []) :
    s.ledgerSend e = { s with ledgerQ := s.ledgerQ ++ [s.tagged e] } := by
  have hroute : s.noRoute (s.tagged e) = false := by
    simp only [State.noRoute, State.tagged, hr, Bool.false_and]
  unfold State.ledgerSend
  simp only [hroute, Bool.false_eq_true, if_false, List.isEmpty_iff, hq, and_false]

theorem State.lineAsk_asks {s : State} {g : GT} {l : Nat} (hl : 0x100000000000 ≤ l * 64) (hq : s.ledgerQ ≠ []) :
    let u := s.thread g.val
    let t := s.lineAsk g.val l
    t.thread g.val = { u with fetching := some (l, u.nextOp), fetched := none, nextOp := u.nextOp + 1 } ∧
      t.icache = s.icache ∧ t.ledgerQ = s.ledgerQ ++
        [⟨.access (.fetch g.val u.nextOp), g.val, l * 64, 64, none, s.vcTagOf (ownThread g.val), 0, false⟩] := by
  intro u t
  let v := s.modThread g.val (fun t => { t with fetching := some (l, u.nextOp), fetched := none, nextOp := u.nextOp + 1 })
  let e := accessEntry (.fetch g.val u.nextOp) g.val (l * 64) 64 none
  have hv : t = v.ledgerSend e := rfl
  have hnear : isRemote e.addr = false := by
    have h : ¬ l * 64 < 0x500000000 := by omega
    simp [isRemote, e, accessEntry, h]
  rw [State.ledgerSend_held (s := v) hnear hq] at hv
  have htag : v.reqTag g.val = s.vcTagOf (ownThread g.val) := by
    unfold State.reqTag
    rw [if_pos g.isLt, State.vcTagOf, State.vcTagOf, State.owner_congr (s := s) (t := v) rfl]
    rfl
  rw [hv]
  refine ⟨(State.thread_congr (s := v) rfl g.val).trans (State.thread_modThread_same s g.val _), rfl, ?_⟩
  show s.ledgerQ ++ [v.tagged e] = _
  rw [State.tagged, show e.reqr = g.val from rfl, htag]
  rfl

/-! ## The line buffer of an instruction that issues (R80) -/

/-- The lines that an instruction's issue leaves in its buffer. -/
theorem State.fetchAhead_lines {s : State} {gt a : Nat} (ha : s.checkAccess gt 7 .fetch (s.thread gt).pc.toNat 4 = .ok a)
    (hd : s.det gt = false) :
    let k := lineOf (underlying a)
    let ls := (s.thread gt).lineBuf
    ((s.fetchAhead gt).thread gt).lineBuf =
      if 32 ≤ a % 64 ∧ (k + 1 ∈ ls ∨ s.icacheHit gt (k + 1) = true) then frontLine k (frontLine (k + 1) ls)
      else frontLine k ls := by
  intro k ls
  unfold State.fetchAhead
  simp only [ha, hd, Bool.false_eq_true, if_false, State.thread_modThread_same, Thread.useLine_eq, List.contains_iff_mem]
  by_cases h32 : a % 64 < 32
  · rw [if_pos h32, if_neg (by omega)]
  · have h32' : 32 ≤ a % 64 := by omega
    rw [if_neg h32]
    by_cases hm : k + 1 ∈ ls
    · rw [if_pos hm, if_pos ⟨h32', .inl hm⟩]
    · rw [if_neg hm]
      by_cases hh : s.icacheHit gt (k + 1) = true
      · rw [if_pos hh, if_pos ⟨h32', .inr hh⟩]
      · rw [if_neg hh, if_neg (by rintro ⟨-, h | h⟩ <;> contradiction)]

theorem execNop_lines {x : Issue} {s : State} (h : s.issues x {}) :
    ∃ t, execNop x s = .next t ∧ (t.thread x.gt.val).lineBuf = ((s.fetchAhead x.gt.val).thread x.gt.val).lineBuf := by
  obtain ⟨-, q2, -⟩ := State.issue_ran (body := fun s => .done s .seq) h (.inl rfl) rfl (State.fetchAhead_placed s _)
  exact ⟨_, rfl, q2.line⟩

end Sys2Proof.Machine
end

section
/-!
SUPPORT. Slot tables: what a commit judges and what the wheel's start applies (R58 to R62, R456).
-/
namespace Sys2Proof.Machine

/-! ## The commit (R59, R456) -/

/-- A table that gives no thread more than 16 slots, nor two slots nearer than four. -/
def slotsLegal (own : List (Nat × Nat)) : Prop := ∀ p ∈ own, (own.filter (fun q => q.2 == p.2)).length ≤ 16 ∧
  ∀ q ∈ own, q.1 ≠ p.1 → q.2 = p.2 → 4 ≤ slotDistance p.1 q.1

theorem tableLegal_iff (own : List (Nat × Nat)) : tableLegal own = true ↔ slotsLegal own := by
  unfold tableLegal slotsLegal
  rw [List.all_eq_true]
  refine forall₂_congr fun p _ => ?_
  rw [Bool.and_eq_true, decide_eq_true_iff, List.all_eq_true]
  refine and_congr_right fun _ => forall₂_congr fun q _ => ?_
  rw [Bool.or_eq_true, Bool.or_eq_true, beq_iff_eq, bne_iff_ne, decide_eq_true_iff]
  tauto

/-- A thread of a virtual complex may not commit. -/
theorem State.slotPathBad_iff (s : State) {who : Agent} (h : direct who) : s.slotPathBad who = true ↔
    ∃ g : GT, who = .thread g ∧ (s.owner (ownThread g.val)).isSome = true := by
  unfold State.slotPathBad
  cases who with
  | thread g => simp
  | window v => exact absurd rfl (h v)
  | _ => simp

section
variable {s : State} {who : Agent} {c : Core} (hd : direct who) (hc : s.corePresent c.val = true)
include hd hc

theorem execSlotCommit_eq : execSlotCommit who c s = .next (s.slotCommitBy who c.val) :=
  congrArg _ (State.atBlock_direct (b := .core c.val) _ _ hd hc)

theorem execSlotCommit_captures (hp : ¬ ∃ g : GT, who = .thread g ∧ (s.owner (ownThread g.val)).isSome = true)
    (hl : slotsLegal (ownedSlots (s.pendingTable c.val))) : execSlotCommit who c s = .next
      (({ s with capture := Map.set [] s.capture c.val (s.pendingTable c.val) } : State).put [(fSlotPending c.val, 1)]) := by
  rw [execSlotCommit_eq hd hc, State.slotCommitBy, if_neg (mt (State.slotPathBad_iff s hd).1 hp), State.slotCommit]
  exact congrArg _ (if_pos ((tableLegal_iff _).2 hl))

theorem execSlotCommit_refuses (h : (∃ g : GT, who = .thread g ∧ (s.owner (ownThread g.val)).isSome = true) ∨
    ¬ slotsLegal (ownedSlots (s.pendingTable c.val))) : execSlotCommit who c s = .next (s.refuse (.core c.val) 4) := by
  rw [execSlotCommit_eq hd hc, State.slotCommitBy]
  split
  next => rfl
  next hp =>
    have hl := h.resolve_left (mt (State.slotPathBad_iff s hd).2 hp)
    exact congrArg _ (if_neg (mt (tableLegal_iff _).1 hl))
end

/-! ## The table becomes live (R60) -/

/-- The words of a table written from the first slot on. -/
def State.writeSlots (s : State) (n : Nat) (tb : List Word) (k : Nat) : State :=
  (List.range k).foldl (fun s i => s.setReg (slotLive n i) (tb.getD i 0)) s

theorem State.writeSlots_succ (s : State) (n : Nat) (tb : List Word) (k : Nat) :
    s.writeSlots n tb (k + 1) = (s.writeSlots n tb k).setReg (slotLive n k) (tb.getD k 0) := by
  simp only [State.writeSlots, List.range_succ, List.foldl_append, List.foldl_cons, List.foldl_nil]

theorem canon_slotLive (c : Core) {i : Nat} (hi : i < 64) : canon (slotLive c.val i) = slotLive c.val i :=
  canon_id (.inl (by have := c.isLt; unfold slotLive; omega))

theorem slotLive_ne (c : Core) {i k : Nat} (hi : i < 64) (hk : k < 64) (h : i ≠ k) :
    canon (slotLive c.val i) ≠ canon (slotLive c.val k) := by
  rw [canon_slotLive c hi, canon_slotLive c hk]; unfold slotLive; omega

/-- The first k slots are live, and no other register changed. -/
theorem State.writeSlots_regs (s : State) (c : Core) (tb : List Word) {k : Nat} (hk : k ≤ 64) :
    (∀ i < k, (s.writeSlots c.val tb k).reg (slotLive c.val i) = tb.getD i 0) ∧
      s.writeSlots c.val tb k = { s with regs := (s.writeSlots c.val tb k).regs } ∧
      (∀ a, (∀ i < 64, canon a ≠ canon (slotLive c.val i)) → (s.writeSlots c.val tb k).reg a = s.reg a) := by
  induction k with
  | zero => exact ⟨fun i hi => absurd hi (Nat.not_lt_zero i), rfl, fun _ _ => rfl⟩
  | succ k ih =>
    obtain ⟨h1, h2, h3⟩ := ih (by omega)
    rw [State.writeSlots_succ]
    refine ⟨fun i hi => ?_, ?_, fun a ha => ?_⟩
    · by_cases he : i = k
      · rw [he, State.reg_setReg_same]
      · rw [State.reg_setReg_other _ _ (slotLive_ne c (by omega) (by omega) he), h1 i (by omega)]
    · rw [State.setReg, h2]
    · rw [State.reg_setReg_other _ _ (ha k (by omega)), h3 a ha]

/-! ## A deterministic thread whose slots changed (R62) -/

/-- Thread k of a core. -/
def coreThread (c : Core) (k : Nat) (hk : k < 64) : GT := ⟨64 * c.val + k, by have := c.isLt; omega⟩

/-- The thread counts a break when its slots change: it is deterministic, and READY or waits. -/
def State.slotsBreak (s : State) (gt k : Nat) (old new : List Word) : Prop :=
  s.det gt = true ∧ s.running gt ∧ slotsFor old k ≠ slotsFor new k

/-- What the wheel's start does of one thread. -/
def State.slotStep (old new : List Word) (n : Nat) (s : State) (k : Nat) : State :=
  let gt := 64 * n + k
  let st := s.fld (fState gt)
  if s.det gt ∧ (st = stReady ∨ st = stWait) ∧ slotsFor old k ≠ slotsFor new k then
    (s.contractBreak gt none).atBoundary gt
  else s

/-- The pending bit is cleared, and the captured tables are those that remain. -/
def State.slotsTaken (s : State) (n : Nat) (rest : Map (List Word)) : State :=
  { s.setBit (fSlotPending n) false with capture := rest }

theorem State.slotsTaken_reg (s : State) (n : Nat) (rest : Map (List Word)) {a : Nat}
    (h : canon a ≠ canon (fSlotPending n).addr) : (s.slotsTaken n rest).reg a = s.reg a := State.reg_setBit_other s false h
theorem State.slotsTaken_pending (s : State) (n : Nat) (rest : Map (List Word)) :
    (s.slotsTaken n rest).bit (fSlotPending n) = false :=
  State.bit_setBit_same s _ _ (by simp [Fld.ok, fSlotPending])
theorem State.slotsTaken_thread (s : State) (n : Nat) (rest : Map (List Word)) (g : Nat) :
    (s.slotsTaken n rest).thread g = s.thread g := rfl

theorem State.slotApply_eq {s : State} {n : Nat} (h : s.bit (fSlotPending n) = true) :
    let new := Map.get [] s.capture n
    let s1 := s.writeSlots n new 64
    s.slotApply n = (List.range 64).foldl (State.slotStep (s.liveTable n) new n)
      (s1.slotsTaken n (Map.erase s1.capture n)) := if_pos h

theorem State.countUp_congr {s t : State} {x : Fld} (hx : x.ok) (h : t.fld x = s.fld x) :
    (t.countUp x).fld x = (s.countUp x).fld x := by
  apply BitVec.eq_of_toNat_eq
  rw [State.fld_countUp _ _ _ hx, State.fld_countUp _ _ _ hx, h]

theorem State.slotStep_breaks {s : State} {gt n k : Nat} {old new : List Word} (hg : 64 * n + k = gt)
    (h : s.slotsBreak gt k old new) : s.slotStep old new n k = (s.contractBreak gt none).atBoundary gt := by
  subst hg
  exact if_pos h
theorem State.slotStep_stays {s : State} {gt n k : Nat} {old new : List Word} (hg : 64 * n + k = gt)
    (h : ¬ s.slotsBreak gt k old new) : s.slotStep old new n k = s := by
  subst hg
  exact if_neg h

/-- A thread's step keeps everything but the thread, its status, its beats and its count of breaks. -/
theorem State.slotStep_touched {s : State} {g : GT} {n k : Nat} (old new : List Word) (hg : 64 * n + k = g.val)
    (h : (s.thread g.val).stopReq = false ∨ (s.thread g.val).boundary = false) :
    let t := s.slotStep old new n k
    s.touched t g.val [tReg g.val 0x14] ∧
      (s.slotsBreak g.val k old new → t.fld (fContract g.val) = (s.countUp (fContract g.val)).fld (fContract g.val)) ∧
      (¬ s.slotsBreak g.val k old new → t.fld (fContract g.val) = s.fld (fContract g.val)) := by
  intro t
  by_cases hb : s.slotsBreak g.val k old new
  · have et : t = _ := State.slotStep_breaks hg hb
    obtain ⟨⟨h1, h2, -⟩, b, hth⟩ := State.contractBreak_counted (gt := g) none hb.1
    obtain ⟨hst, -⟩ := State.atBoundary_still (s.contractBreak g.val none) g.val (by rw [hth]; exact h)
    have hreg := State.stepped_tReg g hst (o := 0x14) (by decide) (by decide)
    rw [et]
    refine ⟨State.touched_trans h1 hst, fun _ => Eq.trans ?_ h2, fun hn => absurd hb hn⟩
    simp only [State.fld, fContract, hreg]
  · have et : t = s := State.slotStep_stays hg hb
    rw [et]
    exact ⟨State.stepped_touched (State.stepped_refl _ _), fun h => absurd h hb, fun _ => rfl⟩

/-! ## The threads of a core in turn -/

/-- The registers that the threads' steps may write. -/
def stepWords (gt : Nat) : List Nat := [tReg gt 0x04, tReg gt 0x24, tReg gt 0x2C] ++ [tReg gt 0x14]

/-- The first k threads of a core have had their step: what is not theirs is as it was. -/
structure State.SlotsTold (s v : State) (c : Core) (old new : List Word) (k : Nat) : Prop where
  near : s.near v
  threads : ∀ j, k ≤ j → v.thread (64 * c.val + j) = s.thread (64 * c.val + j)
  regs : ∀ a, (∀ j < k, ∀ b ∈ stepWords (64 * c.val + j), canon a ≠ canon b) → v.reg a = s.reg a
  breaks : ∀ j < k, (s.slotsBreak (64 * c.val + j) j old new →
      v.fld (fContract (64 * c.val + j)) = (s.countUp (fContract (64 * c.val + j))).fld (fContract (64 * c.val + j))) ∧
    (¬ s.slotsBreak (64 * c.val + j) j old new → v.fld (fContract (64 * c.val + j)) = s.fld (fContract (64 * c.val + j)))

theorem stepWords_apart {g h : GT} (hne : g ≠ h) {o : Nat} (ho : o < 0x40) (ha : o % 4 = 0) :
    ∀ b ∈ stepWords h.val, canon (tReg g.val o) ≠ canon b := by
  have hv : g.val ≠ h.val := fun e => hne (Fin.ext e)
  have key {p : Nat} (hp : p < 0x40) : canon (tReg g.val o) ≠ canon (tReg h.val p) := by
    rw [canon_tReg g ho, canon_tReg h hp]
    unfold tReg coreBase
    omega
  simp only [stepWords, List.cons_append, List.nil_append, List.forall_mem_cons]
  exact ⟨key (by decide), key (by decide), key (by decide), key (by decide), by simp⟩

/-- The words of a thread's own set are as they were until its step. -/
theorem State.SlotsTold.own {s v : State} {c : Core} {old new : List Word} {k : Nat} (h : s.SlotsTold v c old new k)
    {j : Nat} (hj : k ≤ j) (hj' : j < 64) {o : Nat} (ho : o < 0x40) (ha : o % 4 = 0) :
    v.reg (tReg (64 * c.val + j) o) = s.reg (tReg (64 * c.val + j) o) := by
  refine h.regs _ fun i hi b hb => ?_
  exact stepWords_apart (g := coreThread c j hj') (h := coreThread c i (by omega))
    (fun e => by have := congrArg Fin.val e; simp only [coreThread] at this; omega) ho ha b hb

theorem State.SlotsTold.step {s v : State} {c : Core} {old new : List Word} {k : Nat} (h : s.SlotsTold v c old new k)
    (hk : k < 64) (hs : ∀ j < 64, (s.thread (64 * c.val + j)).stopReq = false ∨ (s.thread (64 * c.val + j)).boundary = false) :
    s.SlotsTold (v.slotStep old new c.val k) c old new (k + 1) := by
  have hth := h.threads k (le_refl k)
  have hown {o : Nat} (ho : o < 0x40) (ha : o % 4 = 0) := h.own (j := k) (le_refl k) hk ho ha
  obtain ⟨⟨t1, t2, t3⟩, hyes, hno⟩ := State.slotStep_touched (s := v) (g := coreThread c k hk) old new
    (n := c.val) rfl (by rw [show (coreThread c k hk).val = 64 * c.val + k from rfl, hth]; exact hs k hk)
  have hfld {x : Fld} {o : Nat} (hx : x.addr = tReg (64 * c.val + k) o) (ho : o < 0x40) (ha : o % 4 = 0) :
      v.fld x = s.fld x := by
    rw [State.fld, State.fld, hx, hown ho ha]
  have hcontract : v.fld (fContract (64 * c.val + k)) = s.fld (fContract (64 * c.val + k)) :=
    hfld (o := 0x14) (by rw [fContract]) (by decide) (by decide)
  have hbreak : v.slotsBreak (64 * c.val + k) k old new ↔ s.slotsBreak (64 * c.val + k) k old new := by
    unfold State.slotsBreak State.running State.det State.bit
    rw [hfld (x := fDet (64 * c.val + k)) (o := 0x10) (by rw [fDet]) (by decide) (by decide),
      hfld (x := fState (64 * c.val + k)) (o := 0x04) (by rw [fState]) (by decide) (by decide)]
  have hok : (fContract (64 * c.val + k)).ok := by simp [Fld.ok, fContract]
  refine ⟨State.near_trans h.near t1, fun j hj => ?_, fun a ha => ?_, fun j hj => ?_⟩
  · exact (t2 _ (by simp only [coreThread]; omega)).trans (h.threads j (by omega))
  · exact (t3 a (ha k (by omega))).trans (h.regs a fun j hj => ha j (by omega))
  · by_cases he : j = k
    · subst he
      refine ⟨fun hb => ?_, fun hb => (hno (mt hbreak.1 hb)).trans hcontract⟩
      exact (hyes (hbreak.2 hb)).trans (State.countUp_congr hok hcontract)
    · obtain ⟨b1, b2⟩ := h.breaks j (by omega)
      have hkeep : (v.slotStep old new c.val k).fld (fContract (64 * c.val + j)) = v.fld (fContract (64 * c.val + j)) := by
        have hr := t3 (tReg (64 * c.val + j) 0x14) (stepWords_apart (g := coreThread c j (by omega))
          (h := coreThread c k hk) (fun e => by have := congrArg Fin.val e; simp only [coreThread] at this; omega)
          (by decide) (by decide))
        simp only [State.fld, fContract, hr]
      exact ⟨fun hb => hkeep.trans (b1 hb), fun hb => hkeep.trans (b2 hb)⟩

theorem State.slotsTold_all {s : State} {c : Core} (old new : List Word)
    (hs : ∀ j < 64, (s.thread (64 * c.val + j)).stopReq = false ∨ (s.thread (64 * c.val + j)).boundary = false)
    {k : Nat} (hk : k ≤ 64) :
    s.SlotsTold ((List.range k).foldl (State.slotStep old new c.val) s) c old new k := by
  induction k with
  | zero => exact ⟨rfl, fun _ _ => rfl, fun _ _ => rfl, fun j hj => absurd hj (Nat.not_lt_zero j)⟩
  | succ k ih =>
    rw [List.range_succ, List.foldl_append, List.foldl_cons, List.foldl_nil]
    exact (ih (by omega)).step (by omega) hs

/-! ## The wheel's start (R60, R62) -/

/-- The state in which the threads have their steps: the captured table is live. -/
def State.slotsLive (s : State) (n : Nat) (tb : List Word) : State :=
  (s.writeSlots n tb 64).slotsTaken n (Map.erase s.capture n)

section
variable (s : State) (c : Core)

theorem canon_fSlotPending : canon (fSlotPending c.val).addr = (fSlotPending c.val).addr :=
  canon_id (.inl (by have := c.isLt; simp only [fSlotPending]; omega))

theorem slotLive_ne_pending {i : Nat} (hi : i < 64) :
    canon (slotLive c.val i) ≠ canon (fSlotPending c.val).addr := by
  rw [canon_fSlotPending c, canon_slotLive c hi]; simp only [slotLive, fSlotPending]; omega

variable {s} {tb : List Word}
theorem State.slotApply_starts (h : s.bit (fSlotPending c.val) = true) :
    let new := Map.get [] s.capture c.val
    s.slotApply c.val = (List.range 64).foldl (State.slotStep (s.liveTable c.val) new c.val) (s.slotsLive c.val new) := by
  intro new
  obtain ⟨-, h2, -⟩ := State.writeSlots_regs s c new (le_refl 64)
  have hcap : (s.writeSlots c.val new 64).capture = s.capture := by rw [h2]
  rw [State.slotApply_eq h, hcap, State.slotsLive]

theorem State.slotsLive_regs {a : Nat} (h1 : ∀ i < 64, canon a ≠ canon (slotLive c.val i))
    (h2 : canon a ≠ canon (fSlotPending c.val).addr) : (s.slotsLive c.val tb).reg a = s.reg a := by
  obtain ⟨-, -, hother⟩ := State.writeSlots_regs s c tb (le_refl 64)
  rw [State.slotsLive, State.slotsTaken_reg _ _ _ h2, hother a h1]

theorem State.slotsLive_slot {i : Nat} (hi : i < 64) : (s.slotsLive c.val tb).reg (slotLive c.val i) = tb.getD i 0 := by
  obtain ⟨hslot, -⟩ := State.writeSlots_regs s c tb (le_refl 64)
  rw [State.slotsLive, State.slotsTaken_reg _ _ _ (slotLive_ne_pending c hi), hslot i hi]

theorem State.slotsLive_pending : (s.slotsLive c.val tb).bit (fSlotPending c.val) = false := by
  unfold State.slotsLive
  generalize s.writeSlots c.val tb 64 = v
  exact State.slotsTaken_pending v c.val _

theorem State.slotsLive_thread (g : Nat) : (s.slotsLive c.val tb).thread g = s.thread g := by
  obtain ⟨-, h2, -⟩ := State.writeSlots_regs s c tb (le_refl 64)
  rw [State.slotsLive, State.slotsTaken_thread]
  exact State.thread_congr (by rw [h2]) g

/-- The registers that the threads' steps write lie apart from a core's slots. -/
theorem tReg_ne_slots (g : GT) {o : Nat} (ho : o < 0x40) :
    (∀ i < 64, canon (tReg g.val o) ≠ canon (slotLive c.val i)) ∧ canon (tReg g.val o) ≠ canon (fSlotPending c.val).addr := by
  refine ⟨fun i hi => ?_, ?_⟩
  · rw [canon_tReg g ho, canon_slotLive c hi]; unfold tReg coreBase slotLive; omega
  · rw [canon_tReg g ho, canon_fSlotPending c]; simp only [tReg, coreBase, fSlotPending]; omega

theorem State.slotsLive_own (g : GT) {o : Nat} (ho : o < 0x40) :
    (s.slotsLive c.val tb).reg (tReg g.val o) = s.reg (tReg g.val o) :=
  State.slotsLive_regs c (tReg_ne_slots c g ho).1 (tReg_ne_slots c g ho).2

/-- No step of a thread of the core writes an address apart from the threads' sets. -/
theorem stepWords_ne {a : Nat} (h : ∀ (g : GT) {o : Nat}, o < 0x40 → canon (tReg g.val o) ≠ canon a) :
    ∀ j < 64, ∀ b ∈ stepWords (64 * c.val + j), canon a ≠ canon b := by
  intro j hj
  have key {o : Nat} (ho : o < 0x40) := (h (coreThread c j hj) ho).symm
  simp only [stepWords, List.cons_append, List.nil_append, List.forall_mem_cons]
  exact ⟨key (by decide), key (by decide), key (by decide), key (by decide), by simp⟩

/-- What the wheel's start leaves. -/
theorem State.slotApply_applies (hp : s.bit (fSlotPending c.val) = true)
    (hs : ∀ k < 64, (s.thread (64 * c.val + k)).stopReq = false ∨ (s.thread (64 * c.val + k)).boundary = false) :
    let new := Map.get [] s.capture c.val
    let t := s.slotApply c.val
    (∀ i < 64, t.reg (slotLive c.val i) = new.getD i 0) ∧ t.bit (fSlotPending c.val) = false ∧
      t.capture = Map.erase s.capture c.val ∧
      ∀ k < 64, (s.slotsBreak (64 * c.val + k) k (s.liveTable c.val) new →
          t.fld (fContract (64 * c.val + k)) = (s.countUp (fContract (64 * c.val + k))).fld (fContract (64 * c.val + k))) ∧
        (¬ s.slotsBreak (64 * c.val + k) k (s.liveTable c.val) new →
          t.fld (fContract (64 * c.val + k)) = s.fld (fContract (64 * c.val + k))) := by
  intro new t
  have et : t = _ := State.slotApply_starts c hp
  obtain ⟨hnear, -, hregs, hbreaks⟩ := State.slotsTold_all (s := s.slotsLive c.val new) (s.liveTable c.val) new
    (fun j hj => by rw [State.slotsLive_thread]; exact hs j hj) (le_refl 64)
  rw [← et] at hnear hregs hbreaks
  refine ⟨fun i hi => ?_, ?_, ?_, fun k hk => ?_⟩
  · rw [hregs _ (stepWords_ne c fun g o ho => (tReg_ne_slots c g ho).1 i hi), State.slotsLive_slot c hi]
  · rw [State.bit, State.fld, hregs _ (stepWords_ne c fun g o ho => (tReg_ne_slots c g ho).2)]
    exact State.slotsLive_pending c
  · rw [hnear]; rfl
  · have hown {x : Fld} {o : Nat} (hx : x.addr = tReg (64 * c.val + k) o) (ho : o < 0x40) :
        (s.slotsLive c.val new).fld x = s.fld x := by
      have hr := State.slotsLive_own (s := s) (tb := new) c (coreThread c k hk) ho
      simp only [coreThread] at hr
      rw [State.fld, State.fld, hx, hr]
    have hcontract := hown (x := fContract (64 * c.val + k)) (o := 0x14) (by rw [fContract]) (by decide)
    have hbreak : (s.slotsLive c.val new).slotsBreak (64 * c.val + k) k (s.liveTable c.val) new ↔
        s.slotsBreak (64 * c.val + k) k (s.liveTable c.val) new := by
      unfold State.slotsBreak State.running State.det State.bit
      rw [hown (x := fDet (64 * c.val + k)) (o := 0x10) (by rw [fDet]) (by decide),
        hown (x := fState (64 * c.val + k)) (o := 0x04) (by rw [fState]) (by decide)]
    obtain ⟨b1, b2⟩ := hbreaks k hk
    exact ⟨fun hb => (b1 (hbreak.2 hb)).trans (State.countUp_congr (by simp [Fld.ok, fContract]) hcontract),
      fun hb => (b2 (mt hbreak.1 hb)).trans hcontract⟩
end

/-- Settles O22: the commit by its legality, the wheel's start thread by thread, a refill by where the line comes
from, and the line buffer by what issuing leaves in it. -/
theorem slotTablesAndInstructionCache : Obligations.SlotTablesAndInstructionCache := by
  unfold Obligations.SlotTablesAndInstructionCache
  refine ⟨fun who c s => ?slots, fun who c g line way lost s => ?cache⟩
  case slots =>
    intro n tb own legal mayNot
    refine ⟨fun hd hc => ⟨fun hp hl => execSlotCommit_captures hd hc hp hl, fun h => execSlotCommit_refuses hd hc h⟩,
      fun hp => congrArg _ (if_neg (by rw [hp]; exact Bool.false_ne_true)), fun hp hs => ⟨_, rfl, State.slotApply_applies c hp hs⟩⟩
  case cache =>
    intro gt n l u locks front ahead filled
    refine ⟨fun hd hc => congrArg _ (State.atBlock_direct (b := .core c.val) _ _ hd hc), fun a hway ha hl hh => ?_, ?_⟩
    · have hn := State.lineNeeded_eq ha hl hh
      refine ⟨fun id d hf hd => ⟨_, execIcacheRefill_came hway hn hl hf hd, State.modThread_lineFill_filled s gt l way.val lost _⟩,
        fun hf hst hdet hr hdr => ⟨fun hfar => ⟨_, execIcacheRefill_near hway hn hl hf hst hdet hr hdr hfar, ?_⟩,
          fun hsys hq => ⟨_, execIcacheRefill_far hway hn hl hf hst hdet hr hdr ?_, State.lineAsk_asks ?_ hq⟩⟩⟩
      · exact State.lineFill_filled s gt l way.val lost
      · simp only [farAt, decide_eq_true_eq]
        omega
      · have hu : underlying a = a := if_neg (by omega)
        have hline : a / 64 = line.toNat := by rw [hu] at hl; exact hl
        omega
    · intro x a hx h hdet ha k
      subst hx
      obtain ⟨t, e, hb⟩ := execNop_lines h
      exact ⟨t, e, hb.trans (State.fetchAhead_lines ha hdet)⟩

end Sys2Proof.Machine
end

section
/-!
SUPPORT. Twin pairs: their registers, SEED, and the window's end (R95, R424, R425, R435).
-/
namespace Sys2Proof.Machine

/-! ## Fields outside those written -/

/-- A field that shares no bit with those written reads as before. -/
theorem State.keeps_fld {s t : State} {fs : List Fld} (h : s.keeps t fs) {y : Fld} (hy : ∀ x ∈ fs, x.indep y) :
    t.fld y = s.fld y := by
  apply BitVec.eq_of_getLsbD_eq
  intro i _
  simp only [State.fld, getLsbD_bitsOf]
  by_cases hi : y.lo + i ≤ y.hi
  · refine congrArg _ (h y.addr (y.lo + i) fun x hx hc hin => ?_)
    rcases hy x hx with hne | ⟨-, hb⟩
    · exact hne hc
    · omega
  · simp only [hi, decide_false, Bool.false_and]

/-- A register in which none of the fields written lies. -/
theorem State.keeps_reg {s t : State} {fs : List Fld} (h : s.keeps t fs) {a : Nat}
    (ha : ∀ x ∈ fs, x.indep ⟨a, 31, 0⟩) : t.reg a = s.reg a := by
  apply BitVec.eq_of_getLsbD_eq
  intro i hi
  refine h a i fun x hx hc hin => ?_
  rcases ha x hx with hne | ⟨-, hb⟩
  · exact hne hc
  · simp only at hb
    omega

theorem State.keeps_of_touched {s t : State} {gt : Nat} {as : List Nat} (h : s.touched t gt as) :
    s.keeps t ((([tReg gt 0x04, tReg gt 0x24, tReg gt 0x2C] ++ as)).map fun a => ⟨a, 31, 0⟩) := by
  intro a i ha
  by_cases hi : i ≤ 31
  · rw [h.2.2 a fun b hb hc => ha ⟨b, 31, 0⟩ (List.mem_map_of_mem hb) hc ⟨Nat.zero_le _, hi⟩]
  · rw [BitVec.getLsbD_of_ge _ i (by omega), BitVec.getLsbD_of_ge _ i (by omega)]

theorem State.keeps_modThread (s : State) (gt : Nat) (f : Thread → Thread) (fs : List Fld) :
    s.keeps (s.modThread gt f) fs := State.keeps_of_regs rfl _

theorem canon_twinReg (p o : Nat) : canon (twinReg p o) = twinReg p o := canon_id (.inr (by unfold twinReg; omega))

/-- Registers of a pair and of a thread lie apart. -/
theorem tReg_ne_twinReg (g : GT) {o : Nat} (ho : o < 0x40) (p o' : Nat) : tReg g.val o ≠ twinReg p o' := by
  have := g.isLt; unfold tReg coreBase twinReg; omega
theorem tCfg_ne_twinReg (g : GT) {o : Nat} (ho : o < 0x20) (p o' : Nat) : tCfg g.val o ≠ twinReg p o' := by
  have := g.isLt; unfold tCfg coreBase twinReg; omega

theorem twinReg_indep_fields {p o hi lo : Nat} {fs : List Fld} (h : ∀ x ∈ fs, canon x.addr = x.addr ∧ x.addr ≠ twinReg p o) :
    ∀ x ∈ fs, x.indep ⟨twinReg p o, hi, lo⟩ := fun x hx =>
  Fld.indep_of (h x hx).1 (canon_twinReg p o) (.inl (h x hx).2.symm)

/-! ## SEED (R424, R425) -/

/-- The fields that seeding a member writes. -/
def seedFields (gt : Nat) : List Fld :=
  [⟨tReg gt 8, 31, 0⟩, fState gt, fPend gt, fInHandler gt, fInFault gt, fCurLead gt, fWrapped gt, fRole gt]

theorem seedFields_apart (g : GT) (p o : Nat) : ∀ x ∈ seedFields g.val, canon x.addr = x.addr ∧ x.addr ≠ twinReg p o := by
  have ht {o' : Nat} (ho : o' < 0x40) := And.intro (canon_tReg g ho) (tReg_ne_twinReg g ho p o)
  have hc {o' : Nat} (ho : o' < 0x20) := And.intro (canon_tCfg g ho) (tCfg_ne_twinReg g ho p o)
  have hr : (fRole g.val).addr ≠ twinReg p o := by have := g.isLt; simp only [fRole, twinReg]; omega
  simp only [seedFields, List.forall_mem_cons]
  exact ⟨ht (by decide), ht (by decide), ht (by decide), ht (by decide), hc (by decide), hc (by decide), hc (by decide),
    ⟨canon_role g, hr⟩, by simp⟩

theorem seedFields_other {g h : GT} (hne : g ≠ h) : ∀ x ∈ seedFields g.val, x.indep (fState h.val) := by
  have hv : g.val ≠ h.val := fun e => hne (Fin.ext e)
  have hs : canon (fState h.val).addr = (fState h.val).addr := canon_tReg h (by decide)
  have ht {x : Fld} {o' : Nat} (hx : x.addr = tReg g.val o') (ho : o' < 0x40) : x.indep (fState h.val) :=
    Fld.indep_of (by rw [hx]; exact canon_tReg g ho) hs (.inl (by rw [hx]; simp only [fState, tReg, coreBase]; omega))
  have hc {x : Fld} {o' : Nat} (hx : x.addr = tCfg g.val o') (ho : o' < 0x20) : x.indep (fState h.val) :=
    Fld.indep_of (by rw [hx]; exact canon_tCfg g ho) hs (.inl (by rw [hx]; simp only [fState, tReg, tCfg, coreBase]; omega))
  have hr : (fRole g.val).indep (fState h.val) :=
    Fld.indep_of (canon_role g) hs (.inl (by have := h.isLt; simp only [fState, tReg, coreBase, fRole]; omega))
  simp only [seedFields, List.forall_mem_cons]
  exact ⟨ht rfl (by decide), ht (by rw [fState]) (by decide), ht (by rw [fPend]) (by decide),
    ht (by rw [fInHandler]) (by decide), hc (by rw [fInFault]) (by decide), hc (by rw [fCurLead]) (by decide),
    hc (by rw [fWrapped]) (by decide), hr, by simp⟩

/-- The member of a pair as it begins. -/
def Thread.seeded (t : Thread) (p : Nat) (shadow : Bool) : Thread :=
  ({ t with
    twin := some (p, shadow), sig := if shadow then 0 else 0xFFFFFFFF
    winInstr := 0, winBytes := 0, winSeq := 0, winEnd := false } : Thread).setFlags ⟨false, false, false, false⟩

theorem State.seedMember_eq (s : State) (p gt : Nat) (shadow : Bool) : s.seedMember p gt shadow =
    ((s.setReg (tReg gt 8) (s.reg (twinReg p 8))).startThread gt).modThread gt (fun t => t.seeded p shadow) := rfl

/-- What seeding a member leaves. -/
theorem State.seedMember_leaves (s : State) (p : Nat) (g : GT) (shadow : Bool) :
    let t := s.seedMember p g.val shadow
    s.near t ∧ s.sameThreadsBut t g.val ∧ s.keeps t (seedFields g.val) ∧ t.fld (fState g.val) = stReady ∧
      (t.thread g.val).twin = some (p, shadow) ∧ (t.thread g.val).pc = s.reg (twinReg p 8) &&& ~~~ 3 ∧
      (t.thread g.val).g = (s.thread g.val).g := by
  intro t
  let v := s.setReg (tReg g.val 8) (s.reg (twinReg p 8))
  obtain ⟨hn, ho⟩ := State.startThread_near v g.val
  obtain ⟨hk, hs, -⟩ := State.startThread_fields v g
  have hth := State.startThread_thread v g.val
  have hreg : v.reg (tReg g.val 8) = s.reg (twinReg p 8) := State.reg_setReg_same _ _ _
  have et : t = (v.startThread g.val).modThread g.val (fun t => t.seeded p shadow) := State.seedMember_eq s p g.val shadow
  have htt : t.thread g.val = ((v.startThread g.val).thread g.val).seeded p shadow := by
    rw [et, State.thread_modThread_same]
  rw [hth, hreg] at htt
  refine ⟨?_, fun k hk => ?_, ?_, ?_, ?_, ?_, ?_⟩
  · rw [et]
    exact State.near_trans (State.near_trans (State.near_setReg s _ _) hn) (State.near_setThread _ _ _)
  · rw [et, State.thread_modThread_other _ _ hk, ho k hk, State.thread_setReg]
  · rw [et]
    refine State.keeps_trans (t := v) ?_ (State.keeps_trans (t := v.startThread g.val) ?_ ?_)
    · exact State.keeps_setReg s (tReg g.val 8) _ List.mem_cons_self
    · exact State.keeps_mono hk fun _ hf => List.mem_cons_of_mem _ hf
    · exact State.keeps_modThread _ _ _ _
  · rw [et, State.fld_modThread]
    exact hs
  · rw [htt]; rfl
  · rw [htt]; rfl
  · rw [htt]; rfl

/-- The shadow's registers are the complements of its primary's. -/
theorem copyComplement_get (g : Map Word) {r : Nat} (h0 : r ≠ 0) (hr : r < 32) :
    Map.get 0 (copyComplement g) r = ~~~ (Map.get 0 g r) := by
  have key (k : Nat) (hk : k ≤ 32) (h : r < k) :
      Map.get 0 ((List.range k).foldl (fun m r => if r = 0 then m else Map.set 0 m r (~~~ (Map.get 0 g r))) []) r =
        ~~~ (Map.get 0 g r) := by
    induction k with
    | zero => exact absurd h (Nat.not_lt_zero r)
    | succ k ih =>
      rw [List.range_succ, List.foldl_append, List.foldl_cons, List.foldl_nil]
      by_cases he : r = k
      · rw [if_neg (he ▸ h0), he, Map.get_set_same]
      · by_cases hz : k = 0
        · omega
        · rw [if_neg hz, Map.get_set_other _ _ _ _ he, ih (by omega) (by omega)]
  exact key 32 (le_refl 32) hr

end Sys2Proof.Machine
end

section
/-!
SUPPORT. A pair is seeded, ends a window and has its reports compared (R424, R425, R435, R437).
-/
namespace Sys2Proof.Machine

section
variable (s : State) (p : Nat)
theorem State.twinPrimary_lt : s.twinPrimary p < 2048 := bitsOf_lt (s.reg (twinReg p 0)) 10 0
theorem State.twinShadow_lt : s.twinShadow p < 2048 := bitsOf_lt (s.reg (twinReg p 0)) 26 16
/-- The members of a pair as threads. -/
def State.primary : GT := ⟨s.twinPrimary p, s.twinPrimary_lt p⟩
def State.shadow : GT := ⟨s.twinShadow p, s.twinShadow_lt p⟩
end

/-! ## Seeding -/

/-- The pair's own registers and queues as SEED sets them. -/
def State.seedPair (s : State) (p : Nat) : State :=
  (((((s.modThread (s.twinShadow p) (fun t => { t with g := copyComplement (s.thread (s.twinPrimary p)).g })).modPair p
    (fun _ => {})).setReg (twinReg p 0x14) 0).setBit (fBroken' p) false).setBit (fAgreeLate p) false).setFld
    (fTwinState p) twRunning

theorem State.seed_eq (s : State) (p : Nat) : s.seed p false =
    ((s.seedPair p).seedMember p (s.twinPrimary p) false).seedMember p (s.twinShadow p) true := rfl

theorem twinState_ok (p : Nat) : (fTwinState p).ok := by simp [Fld.ok, fTwinState]

theorem State.thread_modPair (s : State) (p : Nat) (f : Pair → Pair) (g : Nat) :
    (s.modPair p f).thread g = s.thread g := rfl
theorem State.near_pairs {s t : State} (h : s.near t) : t.pairs = s.pairs := by rw [h]

theorem State.seedPair_leaves (s : State) (p : Nat) :
    let t := s.seedPair p
    t.fld (fTwinState p) = twRunning ∧ t.pair p = {} ∧ t.reg (twinReg p 8) = s.reg (twinReg p 8) ∧
      (t.thread (s.twinShadow p)).g = copyComplement (s.thread (s.twinPrimary p)).g := by
  have ha : (fBroken' p).addr = twinReg p 0x10 := by rw [fBroken']
  have hb : (fAgreeLate p).addr = twinReg p 0x10 := by rw [fAgreeLate]
  have hc : (fTwinState p).addr = twinReg p 0x10 := by rw [fTwinState]
  have hok := twinState_ok p
  have hw : twRunning.toNat < 2 ^ ((fTwinState p).hi - (fTwinState p).lo + 1) := by simp [fTwinState, twRunning]
  have h10 : canon (twinReg p 8) ≠ canon (twinReg p 0x10) := by
    rw [canon_twinReg, canon_twinReg]; unfold twinReg; omega
  have h14 : canon (twinReg p 8) ≠ canon (twinReg p 0x14) := by
    rw [canon_twinReg, canon_twinReg]; unfold twinReg; omega
  unfold State.seedPair
  generalize fBroken' p = x at *
  generalize fAgreeLate p = y at *
  generalize fTwinState p = z at *
  generalize twinReg p 8 = e at *
  generalize twinReg p 0x14 = e' at *
  rw [← ha] at h10
  refine ⟨State.fld_setFld_same _ _ _ hok hw, ?_, ?_, ?_⟩
  · exact Map.get_set_same {} s.pairs p {}
  · rw [State.reg_setFld_other _ _ (by rw [hc, ← ha]; exact h10), State.reg_setBit_other _ _ (by rw [hb, ← ha]; exact h10),
      State.reg_setBit_other _ _ h10, State.reg_setReg_other _ _ h14]
    rfl
  · rw [State.thread_setFld, State.thread_setBit, State.thread_setBit, State.thread_setReg, State.thread_modPair,
      State.thread_modThread_same]

/-- SEED of a pair of two threads. -/
theorem State.seed_leaves {s : State} {p : Nat} (hne : s.primary p ≠ s.shadow p) :
    let a := s.twinPrimary p
    let b := s.twinShadow p
    let entry := s.reg (twinReg p 8) &&& ~~~ 3
    let t := s.seed p false
    t.fld (fTwinState p) = twRunning ∧ t.pair p = {} ∧ t.fld (fState a) = stReady ∧ t.fld (fState b) = stReady ∧
      (t.thread a).twin = some (p, false) ∧ (t.thread b).twin = some (p, true) ∧ (t.thread a).pc = entry ∧
      (t.thread b).pc = entry ∧
      (∀ r : Reg, r ≠ 0 → Map.get 0 (t.thread b).g r.toNat = ~~~ (Map.get 0 (s.thread a).g r.toNat)) := by
  intro a b entry t
  have hab : a ≠ b := fun e => hne (Fin.ext e)
  let v := s.seedPair p
  let w := v.seedMember p a false
  have et : t = w.seedMember p b true := State.seed_eq s p
  obtain ⟨v1, v2, v3, v4⟩ := State.seedPair_leaves s p
  obtain ⟨n1, o1, k1, s1, t1, pc1, -⟩ := State.seedMember_leaves v p (s.primary p) false
  obtain ⟨n2, o2, k2, s2, t2, pc2, g2⟩ := State.seedMember_leaves w p (s.shadow p) true
  have hw : w.reg (twinReg p 8) = v.reg (twinReg p 8) :=
    State.keeps_reg k1 (twinReg_indep_fields (seedFields_apart (s.primary p) p 8))
  have htw : t.fld (fTwinState p) = twRunning := by
    rw [et, fTwinState]
    rw [fTwinState] at v1
    exact (State.keeps_fld k2 (twinReg_indep_fields (seedFields_apart (s.shadow p) p 0x10))).trans
      ((State.keeps_fld k1 (twinReg_indep_fields (seedFields_apart (s.primary p) p 0x10))).trans v1)
  have hpair : t.pair p = {} := by
    rw [et, ← v2]
    exact congrArg (fun m => Map.get {} m p) ((State.near_pairs n2).trans (State.near_pairs n1))
  refine ⟨htw, hpair, ?_, ?_, ?_, ?_, ?_, ?_, fun r hr => ?_⟩
  · rw [et]
    exact (State.keeps_fld k2 (seedFields_other (Ne.symm hne))).trans s1
  · rw [et]; exact s2
  · rw [et]
    exact (congrArg Thread.twin (o2 a hab)).trans t1
  · rw [et]; exact t2
  · rw [et]
    exact (congrArg Thread.pc (o2 a hab)).trans (pc1.trans (by rw [v3]))
  · rw [et]
    exact pc2.trans (by rw [hw, v3])
  · have hr0 : r.toNat ≠ 0 := fun h => hr (BitVec.eq_of_toNat_eq h)
    have hg : (t.thread b).g = copyComplement (s.thread a).g := by
      rw [et]
      exact g2.trans ((congrArg Thread.g (o1 b (Ne.symm hab))).trans v4)
    rw [hg, copyComplement_get _ hr0 r.isLt]

theorem State.maySeed_apart {s : State} {p : Nat} (h : s.maySeed p = true) : s.primary p ≠ s.shadow p := by
  intro e
  have he : s.twinPrimary p = s.twinShadow p := Fin.mk.inj_iff.1 e
  simp [State.maySeed, he] at h

/-! ## Commands of a pair -/

section
variable {s : State} {who : Agent} {pr : Fin 256} (hd : direct who) (hp : s.powered 47 = true) (hf : s.twinFeat = true)
include hd hp hf
theorem execTwinSeed_eq : execTwinSeed who pr s = .next (s.twinSeed pr.val) := by
  unfold execTwinSeed
  rw [State.atBlock_direct (b := .win) _ _ hd hp, if_pos hf]
theorem execTwinBreak_eq : execTwinBreak who pr s = .next (s.twinBreak pr.val) := by
  unfold execTwinBreak
  rw [State.atBlock_direct (b := .win) _ _ hd hp, if_pos hf]
end

/-! ## The window's end (R95, R435) -/

section
variable {s : State} {g : GT} {p : Nat} {sh : Bool} (ht : (s.thread g.val).twin = some (p, sh))
  (he : (s.thread g.val).winEnd = true) (hb : (s.thread g.val).boundary = true) (hr : (s.thread g.val).raised = none)
include ht he hb hr

theorem execWindowEnd_waits (hl : 2 ≤ (if sh then (s.pair p).repS else (s.pair p).repP).length) :
    execWindowEnd g s = .next (s.holdBreak g.val) := by
  unfold execWindowEnd
  simp only [ht, he, hb, hr, Bool.not_true, Option.isSome_none, Bool.or_self, Bool.false_eq_true, if_false]
  rw [if_pos hl]

theorem execWindowEnd_reports (hl : ¬ 2 ≤ (if sh then (s.pair p).repS else (s.pair p).repP).length) :
    let u := s.thread g.val
    let r : Report := ⟨u.sig, u.winBytes, u.winInstr, u.winSeq⟩
    execWindowEnd g s = .next (((s.modPair p (fun q =>
        if sh then { q with repS := q.repS ++ [r] } else { q with repP := q.repP ++ [r] })).modThread g.val (fun x =>
      { x with
        sig := if sh then 0 else 0xFFFFFFFF
        winInstr := 0
        winBytes := 0
        winSeq := (u.winSeq + 1) % 2 ^ 16
        winEnd := false
        held := false
        broke :=
          if u.held = true ∧ s.det g.val = true ∧ s.bit (fTrap g.val) = true ∧ u.broke = none then some none
          else u.broke })).atBoundary g.val) := by
  unfold execWindowEnd
  simp only [ht, he, hb, hr, Bool.not_true, Option.isSome_none, Bool.or_self, Bool.false_eq_true, if_false]
  rw [if_neg hl]
  simp only [Bool.and_eq_true, Option.isNone_iff_eq_none, and_assoc]
  rfl
end

/-! ## Reports that agree (R437, R443) -/

/-- The count of the comparisons of a pair. -/
def fTries (p : Nat) : Fld := ⟨twinReg p 0x14, 15, 0⟩

theorem State.comparing_iff (s : State) (p : Nat) :
    s.comparing p = true ↔ s.fld (fTwinState p) = twRunning ∨ s.fld (fTwinState p) = twRerun := by
  simp [State.comparing]

/-- The oldest reports leave the queues. -/
def State.compared (s : State) (p : Nat) (xs ys : List Report) : State :=
  (s.modPair p (fun q => { q with repP := xs, repS := ys })).countWrap (fTries p)

theorem twinReg_indep {p o o' hi lo hi' lo' : Nat} (h : o ≠ o') :
    Fld.indep ⟨twinReg p o, hi, lo⟩ ⟨twinReg p o', hi', lo'⟩ :=
  Fld.indep_of (canon_twinReg p o) (canon_twinReg p o') (.inl (by simp only [twinReg]; omega))

theorem State.compared_state (s : State) (p : Nat) (xs ys : List Report) :
    (s.compared p xs ys).fld (fTwinState p) = s.fld (fTwinState p) :=
  State.fld_setFld_indep (s.modPair p (fun q => { q with repP := xs, repS := ys })) _ (twinReg_indep (by decide))

theorem State.compared_pair (s : State) (p : Nat) (xs ys : List Report) :
    (s.compared p xs ys).pair p = { s.pair p with repP := xs, repS := ys } := Map.get_set_same _ _ _ _

/-- The rerun has one report less to compare. -/
def State.rerunLess (s : State) (p : Nat) : State := s.modPair p (fun q => { q with rerun := (s.pair p).rerun - 1 })
/-- The rerun has ended. -/
def State.rerunEnds (s : State) (p : Nat) : State :=
  ((s.setFld (fTwinState p) twRunning).setFld (fDecision p) 1).countUp ⟨twinReg p 0x2C, 15, 8⟩

theorem State.rerunEnds_fields (s : State) (p : Nat) :
    (s.rerunEnds p).fld (fTwinState p) = twRunning ∧ (s.rerunEnds p).fld (fDecision p) = 1 := by
  have h1 : (fDecision p).indep (fTwinState p) := .inr ⟨by rw [fDecision, fTwinState], by simp [fDecision, fTwinState]⟩
  have h2 : Fld.indep ⟨twinReg p 0x2C, 15, 8⟩ (fTwinState p) := twinReg_indep (by decide)
  have h3 : Fld.indep ⟨twinReg p 0x2C, 15, 8⟩ (fDecision p) := twinReg_indep (by decide)
  have hok := twinState_ok p
  have hdok : (fDecision p).ok := by simp [Fld.ok, fDecision]
  have hw : twRunning.toNat < 2 ^ ((fTwinState p).hi - (fTwinState p).lo + 1) := by simp [fTwinState, twRunning]
  have hdw : (1 : Word).toNat < 2 ^ ((fDecision p).hi - (fDecision p).lo + 1) := by simp [fDecision]
  unfold State.rerunEnds State.countUp
  generalize fDecision p = x at *
  generalize fTwinState p = y at *
  generalize (⟨twinReg p 0x2C, 15, 8⟩ : Fld) = z at *
  refine ⟨?_, ?_⟩
  · rw [State.fld_setFld_indep _ _ h2, State.fld_setFld_indep _ _ h1, State.fld_setFld_same _ _ _ hok hw]
  · rw [State.fld_setFld_indep _ _ h3, State.fld_setFld_same _ _ _ hdok hdw]

section
variable {s : State} {pr : Fin 256} {brk : Bool} {v : Nat} {x y : Report} {xs ys : List Report}
  (hv : s.serveUnit pr.val = some v) (hx : (s.pair pr.val).repP = x :: xs) (hy : (s.pair pr.val).repS = y :: ys)
include hv hx hy

theorem execTwinCompare_idle (h : s.comparing pr.val = false) : execTwinCompare pr brk s = .next s := by
  unfold execTwinCompare
  simp only [hv, hx, hy, h, Bool.not_false, if_true]

theorem execTwinCompare_differ (h : s.comparing pr.val = true) (hm : reportsMatch x y = false) :
    execTwinCompare pr brk s = .next (s.mismatch pr.val v 1 (some x) (some y) brk) := by
  unfold execTwinCompare
  simp only [hv, hx, hy, h, hm, Bool.not_true, Bool.false_eq_true, if_false]

theorem execTwinCompare_agree (h : s.comparing pr.val = true) (hm : reportsMatch x y = true) :
    execTwinCompare pr brk s = .next (
      if s.fld (fTwinState pr.val) = twRerun then
        (if (s.pair pr.val).rerun ≤ 1 then ((s.compared pr.val xs ys).rerunLess pr.val).rerunEnds pr.val
          else (s.compared pr.val xs ys).rerunLess pr.val)
      else s.compared pr.val xs ys) := by
  have hc := State.compared_state s pr.val xs ys
  have hq : ((s.compared pr.val xs ys).pair pr.val).rerun = (s.pair pr.val).rerun := by rw [State.compared_pair]
  rw [← hc, ← hq]
  unfold execTwinCompare
  simp only [hv, hx, hy, h, hm, Bool.not_true, Bool.false_eq_true, if_false, if_true]
  rfl
end

end Sys2Proof.Machine
end

section
/-!
SUPPORT. A pair breaks (R447), and minor faults (R528).
-/
namespace Sys2Proof.Machine

/-! ## A minor fault -/

/-- The fields that a minor fault writes. -/
def fMinor : Fld := ⟨0x10808000, 1, 1⟩
def fMinorCount : Fld := ⟨0x1080800C, 15, 0⟩

theorem canon_fMinor : canon fMinor.addr = fMinor.addr := canon_id (.inr (by decide))
theorem canon_fMinorCount : canon fMinorCount.addr = fMinorCount.addr := canon_id (.inr (by decide))

/-- Registers, threads and the events on their way to the router differ, and none of these is lost. -/
structure State.Sends (s t : State) (fs : List Fld) : Prop where
  near : t = { s with regs := t.regs, threads := t.threads, routed := t.routed }
  events : ∀ e ∈ s.routed, e ∈ t.routed
  keeps : s.keeps t fs

theorem State.Sends.refl (s : State) (fs : List Fld) : s.Sends s fs := ⟨rfl, fun _ h => h, State.keeps_of_regs rfl _⟩
theorem State.Sends.trans {s t u : State} {fs : List Fld} (h : s.Sends t fs) (k : t.Sends u fs) : s.Sends u fs := by
  refine ⟨?_, fun e he => k.events e (h.events e he), State.keeps_trans h.keeps k.keeps⟩
  rw [k.near, h.near]
theorem State.Sends.mono {s t : State} {fs gs : List Fld} (h : s.Sends t fs) (k : ∀ x ∈ fs, x ∈ gs) : s.Sends t gs :=
  ⟨h.near, h.events, State.keeps_mono h.keeps k⟩
theorem State.Sends.setFld (s : State) {fs : List Fld} {x : Fld} (v : Word) (h : x ∈ fs) : s.Sends (s.setFld x v) fs :=
  ⟨rfl, fun _ h => h, State.keeps_setFld s v h⟩
theorem State.Sends.setReg (s : State) {fs : List Fld} {a : Nat} (v : Word) (h : (⟨a, 31, 0⟩ : Fld) ∈ fs) :
    s.Sends (s.setReg a v) fs := ⟨rfl, fun _ h => h, State.keeps_setReg s a v h⟩
theorem State.Sends.modThread (s : State) (g : Nat) (f : Thread → Thread) (fs : List Fld) : s.Sends (s.modThread g f) fs :=
  ⟨rfl, fun _ h => h, State.keeps_of_regs rfl _⟩
theorem State.Sends.routeEvent (s : State) (port : Nat) (b : Bool) (hop : Nat) (fs : List Fld) :
    s.Sends (s.routeEvent port b hop) fs :=
  ⟨rfl, fun _ h => List.mem_append_left _ h, State.keeps_of_regs rfl _⟩
theorem State.Sends.shows {s t : State} {fs : List Fld} (h : s.Sends t fs) {port : Nat} {b : Bool} {hop : Nat}
    (hs : s.shows port b hop) : t.shows port b hop := by
  unfold State.shows at *
  split
  next hc =>
    rw [if_pos hc] at hs
    obtain ⟨l, hl⟩ := hs
    exact ⟨l, h.events _ hl⟩
  next hc =>
    rw [if_neg hc] at hs
    rw [h.near]
    exact hs

/-- An event of a producer in CCLK goes to the router at once. -/
theorem State.present_cclk (s : State) {port : Nat} (b : Bool) (hc : portInCclk port = true) :
    s.present port b 0 = s.routeEvent port b 0 := if_pos hc

theorem State.present_shows (s : State) {port : Nat} (b : Bool) (hc : portInCclk port = true) :
    (s.present port b 0).shows port b 0 := by
  rw [State.present_cclk s b hc, State.shows, if_pos hc]
  exact ⟨_, List.mem_append_right _ (List.mem_singleton_self _)⟩

theorem State.faultMinor_eq (s : State) :
    s.faultMinor = ((s.setBit fMinor true).countUp fMinorCount).present 0x17AC false 0 := rfl

theorem State.faultMinor_sends (s : State) {fs : List Fld} (h1 : fMinor ∈ fs) (h2 : fMinorCount ∈ fs) :
    s.Sends s.faultMinor fs := by
  rw [State.faultMinor_eq, State.present_cclk _ _ (by decide)]
  exact ((State.Sends.setFld s _ h1).trans (State.Sends.setFld _ _ h2)).trans (State.Sends.routeEvent _ _ _ _ _)

theorem State.faultMinor_shows (s : State) : s.faultMinor.shows 0x17AC false 0 := by
  rw [State.faultMinor_eq]
  exact State.present_shows _ _ (by decide)

theorem State.faultMinor_thread (s : State) (g : Nat) : s.faultMinor.thread g = s.thread g := by
  rw [State.faultMinor_eq, State.present_cclk _ _ (by decide)]
  exact State.thread_congr (s := s) rfl g

theorem twinReg_minor {p o : Nat} (ho : o % 0x40 = o) (h : 0xC < o) (hi lo : Nat) :
    fMinor.indep ⟨twinReg p o, hi, lo⟩ ∧ fMinorCount.indep ⟨twinReg p o, hi, lo⟩ := by
  refine ⟨Fld.indep_of canon_fMinor (canon_twinReg p o) (.inl ?_),
    Fld.indep_of canon_fMinorCount (canon_twinReg p o) (.inl ?_)⟩ <;>
    simp only [fMinor, fMinorCount, twinReg] <;> omega

/-! ## The members of a pair that is no more -/

/-- The thread's part of a pair is gone. -/
def Thread.unpaired (p : Nat) (t : Thread) : Thread :=
  match t.twin with
  | some (q, _) => if q = p then { t with twin := none, winEnd := false } else t
  | none => t

theorem Map.get_map {α : Type} (f : α → α) (d : α) (h : f d = d) (m : Map α) (k : Nat) :
    Map.get d (m.map fun x => (x.1, f x.2)) k = f (Map.get d m k) := by
  induction m with
  | nil => exact h.symm
  | cons x m ih =>
    simp only [List.map_cons, Map.get]
    split
    · rfl
    · exact ih

theorem State.unmember_thread (s : State) (p m : Nat) : (s.unmember p).thread m = (s.thread m).unpaired p :=
  Map.get_map (Thread.unpaired p) {} rfl s.threads m

theorem Thread.unpaired_twin {p : Nat} {t : Thread} (h : ∀ k sh, t.twin = some (k, sh) → k = p) : (t.unpaired p).twin = none := by
  unfold Thread.unpaired
  split
  next q sh e => rw [if_pos (h q sh e)]
  next e => exact e

theorem Thread.unpaired_boundary (p : Nat) (t : Thread) : (t.unpaired p).boundary = t.boundary := by
  unfold Thread.unpaired
  split
  · split <;> rfl
  · rfl

/-! ## The break (R447) -/

/-- A core's decision stands when its test had not failed. -/
theorem State.halfDecision_none {s : State} {p : Nat} (hP : (s.pair p).coreP ≠ some false)
    (hS : (s.pair p).coreS ≠ some false) : s.halfDecision p = s := by
  unfold State.halfDecision
  split
  next h _ => exact absurd h hP
  next _ h => exact absurd h hS
  next => rfl

/-- HALT of a thread that stands at no boundary is asked of it. -/
theorem State.cmdHalt_asks {s : State} {gt : Nat} (off : Nat) (d : Bool) (hr : s.running gt)
    (hb : (s.thread gt).boundary = false) :
    s.cmdHalt gt off d = s.modThread gt (fun t => { t with haltReq := some d }) := by
  have hrun : (s.fld (fState gt) == stReady || s.fld (fState gt) == stWait) = true := by
    rcases hr with h | h <;> simp [h]
  unfold State.cmdHalt
  simp only []
  rw [if_pos hr]
  unfold State.atBoundary
  simp only [State.fld_modThread, State.thread_modThread_same, hrun, Bool.not_true, Bool.false_eq_true, if_false]
  exact if_pos (by rw [Bool.not_eq_true']; exact hb)

/-- The pair is no more: its status, its queues and its members. -/
def State.pairEnds (s : State) (p : Nat) : State :=
  ((((s.setBit (fBroken' p) true).setFld (fTwinState p) twBroken).modPair p (fun _ => {})).unmember p)

theorem State.pairEnds_fields (s : State) (p : Nat) :
    (s.pairEnds p).fld (fTwinState p) = twBroken ∧ (s.pairEnds p).bit (fBroken' p) = true := by
  have hi : (fTwinState p).indep (fBroken' p) := .inr ⟨by rw [fBroken', fTwinState], by simp [fBroken', fTwinState]⟩
  have hok := twinState_ok p
  have hbok : (fBroken' p).ok := by simp [Fld.ok, fBroken']
  have hw : twBroken.toNat < 2 ^ ((fTwinState p).hi - (fTwinState p).lo + 1) := by simp [fTwinState, twBroken]
  have hregs : (s.pairEnds p).regs = ((s.setBit (fBroken' p) true).setFld (fTwinState p) twBroken).regs := rfl
  rw [State.bit, State.fld_congr hregs, State.fld_congr hregs]
  generalize fTwinState p = x at *
  generalize fBroken' p = y at *
  refine ⟨State.fld_setFld_same _ _ _ hok hw, ?_⟩
  rw [State.fld_setFld_indep _ _ hi, ← State.bit, State.bit_setBit_same _ _ _ hbok]

theorem State.pairEnds_keeps (s : State) (p : Nat) : s.keeps (s.pairEnds p) [fBroken' p, fTwinState p] := by
  have hregs : (s.pairEnds p).regs = ((s.setBit (fBroken' p) true).setFld (fTwinState p) twBroken).regs := rfl
  refine State.keeps_trans (State.keeps_trans (State.keeps_setFld s _ ?_) (State.keeps_setFld _ _ ?_))
    (State.keeps_of_regs hregs _)
  · exact List.mem_cons_self
  · exact List.mem_cons_of_mem _ List.mem_cons_self

theorem State.pairEnds_thread (s : State) (p m : Nat) : (s.pairEnds p).thread m = (s.thread m).unpaired p := by
  unfold State.pairEnds
  rw [State.unmember_thread, State.thread_modPair, State.thread_setFld, State.thread_setBit]

theorem twinStatus_indep {p : Nat} {y : Fld} (hy : canon y.addr = y.addr) (h : y.addr ≠ twinReg p 0x10) :
    ∀ x ∈ [fBroken' p, fTwinState p], x.indep y := by
  simp only [List.forall_mem_cons]
  exact ⟨Fld.indep_of (canon_twinReg p 0x10) hy (.inl h), Fld.indep_of (canon_twinReg p 0x10) hy (.inl h), by simp⟩

theorem State.pairEnds_shadow (s : State) (p : Nat) : (s.pairEnds p).twinShadow p = s.twinShadow p := by
  unfold State.twinShadow
  rw [State.keeps_fld (State.pairEnds_keeps s p) (twinStatus_indep (canon_twinReg p 0) (by simp only [twinReg]; omega))]

theorem State.pairEnds_state (s : State) (p : Nat) (g : GT) : (s.pairEnds p).fld (fState g.val) = s.fld (fState g.val) :=
  State.keeps_fld (State.pairEnds_keeps s p) (twinStatus_indep (canon_tReg g (by decide)) (tReg_ne_twinReg g (by decide) p 0x10))

theorem State.pairEnds_pair (s : State) (p : Nat) : (s.pairEnds p).pair p = {} ∧ (s.pairEnds p).mem = s.mem :=
  ⟨by rw [State.pair, show (s.pairEnds p).pairs = Map.set {} s.pairs p {} from rfl, Map.get_set_same], rfl⟩

/-- A thread is asked to halt with the debug cause. -/
def State.asksHalt (s : State) (b : Nat) (c : Prop) [Decidable c] : State :=
  if c then s.modThread b (fun t => { t with haltReq := some true }) else s

theorem State.asksHalt_leaves (s : State) (b : Nat) (c : Prop) [Decidable c] :
    let t := s.asksHalt b c
    t.regs = s.regs ∧ t.pairs = s.pairs ∧ t.mem = s.mem ∧ (∀ m, (t.thread m).twin = (s.thread m).twin) ∧
      (c → (t.thread b).haltReq = some true) := by
  intro t
  by_cases h : c
  · have et : t = s.modThread b (fun t => { t with haltReq := some true }) := if_pos h
    rw [et]
    refine ⟨rfl, rfl, rfl, fun m => ?_, fun _ => by rw [State.thread_modThread_same]⟩
    by_cases hmb : m = b
    · rw [hmb, State.thread_modThread_same]
    · rw [State.thread_modThread_other _ _ hmb]
  · have et : t = s := if_neg h
    rw [et]
    exact ⟨rfl, rfl, rfl, fun _ => rfl, fun hc => absurd hc h⟩

/-- A minor fault leaves a pair's status. -/
theorem State.faultMinor_status (s : State) (p hi lo : Nat) :
    s.faultMinor.fld ⟨twinReg p 0x10, hi, lo⟩ = s.fld ⟨twinReg p 0x10, hi, lo⟩ := by
  have hs := State.faultMinor_sends s (fs := [fMinor, fMinorCount]) List.mem_cons_self (List.mem_cons_of_mem _ List.mem_cons_self)
  obtain ⟨h1, h2⟩ := twinReg_minor (p := p) (o := 0x10) (by decide) (by decide) hi lo
  refine State.keeps_fld hs.keeps ?_
  simp only [List.forall_mem_cons]
  exact ⟨h1, h2, by simp⟩

theorem State.faultMinor_near (s : State) : s.faultMinor.pairs = s.pairs ∧ s.faultMinor.mem = s.mem := by
  have hs := State.faultMinor_sends s (fs := [fMinor, fMinorCount]) List.mem_cons_self (List.mem_cons_of_mem _ List.mem_cons_self)
  generalize s.faultMinor = t at *
  exact ⟨by rw [hs.near], by rw [hs.near]⟩

section
variable {s : State} {p : Nat} (hst : s.fld (fTwinState p) ≠ twOff ∧ s.fld (fTwinState p) ≠ twBroken)
  (hq : s.fld (fTwinState p) = twSelftest → (s.pair p).coreP ≠ some false ∧ (s.pair p).coreS ≠ some false)
  (hb : (s.thread (s.twinShadow p)).boundary = false ∨
    (s.fld (fState (s.twinShadow p)) ≠ stReady ∧ s.fld (fState (s.twinShadow p)) ≠ stWait))
include hst hq hb

theorem State.twinBreak_eq : s.twinBreak p =
    ((s.pairEnds p).asksHalt (s.twinShadow p) (s.running (s.twinShadow p))).faultMinor := by
  have hsh := State.pairEnds_shadow s p
  have hrun : (s.pairEnds p).running (s.twinShadow p) ↔ s.running (s.twinShadow p) := by
    unfold State.running
    rw [show s.twinShadow p = (s.shadow p).val from rfl, State.pairEnds_state]
  have hhalt : s.running (s.twinShadow p) → (s.pairEnds p).cmdHalt (s.twinShadow p) 0 true =
      (s.pairEnds p).modThread (s.twinShadow p) (fun t => { t with haltReq := some true }) := by
    intro h
    refine State.cmdHalt_asks 0 true (hrun.2 h) ?_
    rw [State.pairEnds_thread, Thread.unpaired_boundary]
    exact hb.resolve_right fun ⟨k1, k2⟩ => h.elim k1 k2
  have hhalf : s.fld (fTwinState p) = twSelftest → ((s.setBit (fBroken' p) true).setFld (fTwinState p) twBroken).halfDecision p =
      (s.setBit (fBroken' p) true).setFld (fTwinState p) twBroken :=
    fun h => State.halfDecision_none (hq h).1 (hq h).2
  have hsame : (if s.fld (fTwinState p) = twSelftest then
      ((s.setBit (fBroken' p) true).setFld (fTwinState p) twBroken).halfDecision p
      else (s.setBit (fBroken' p) true).setFld (fTwinState p) twBroken) = (s.setBit (fBroken' p) true).setFld (fTwinState p) twBroken :=
    ite_eq_right_iff.2 hhalf
  unfold State.twinBreak State.asksHalt
  simp only []
  rw [if_neg (not_or.2 hst), hsame]
  rw [show (((s.setBit (fBroken' p) true).setFld (fTwinState p) twBroken).modPair p (fun _ => {})).unmember p = s.pairEnds p from rfl,
    hsh]
  refine congrArg State.faultMinor ?_
  by_cases h : s.running (s.twinShadow p)
  · rw [if_pos (hrun.2 h), if_pos h, hhalt h]
  · rw [if_neg (mt hrun.1 h), if_neg h]

/-- What a break of a pair leaves. -/
theorem State.twinBreak_leaves
    (hm : ∀ m, m = s.twinPrimary p ∨ m = s.twinShadow p → ∀ k sh, (s.thread m).twin = some (k, sh) → k = p) :
    let a := s.twinPrimary p
    let b := s.twinShadow p
    let t := s.twinBreak p
    t.fld (fTwinState p) = twBroken ∧ t.bit (fBroken' p) = true ∧ (t.thread a).twin = none ∧ (t.thread b).twin = none ∧
      t.pair p = {} ∧ t.shows 0x17AC false 0 ∧ (s.fld (fState b) = stReady → (t.thread b).haltReq = some true) ∧
      t.mem = s.mem := by
  intro a b t
  have et : t = ((s.pairEnds p).asksHalt b (s.running b)).faultMinor := State.twinBreak_eq hst hq hb
  obtain ⟨hregs, hpairs, hmem, htwin, hask⟩ := State.asksHalt_leaves (s.pairEnds p) b (s.running b)
  obtain ⟨f1, f2⟩ := State.pairEnds_fields s p
  obtain ⟨e1, e2⟩ := State.pairEnds_pair s p
  have hth := State.pairEnds_thread s p
  generalize s.pairEnds p = v at *
  generalize v.asksHalt b (s.running b) = w at *
  have hthread (m : Nat) : (t.thread m).twin = ((s.thread m).unpaired p).twin := by
    rw [et, State.faultMinor_thread, htwin, hth]
  obtain ⟨n1, n2⟩ := State.faultMinor_near w
  refine ⟨?_, ?_, ?_, ?_, ?_, ?_, fun hr => ?_, ?_⟩
  · rw [et, fTwinState, State.faultMinor_status, ← fTwinState, State.fld_congr hregs, f1]
  · rw [et, State.bit, fBroken', State.faultMinor_status, ← fBroken', State.fld_congr hregs, ← State.bit, f2]
  · rw [hthread, Thread.unpaired_twin (hm a (.inl rfl))]
  · rw [hthread, Thread.unpaired_twin (hm b (.inr rfl))]
  · rw [State.pair, et, n1, hpairs, ← State.pair, e1]
  · rw [et]; exact State.faultMinor_shows w
  · rw [et, State.faultMinor_thread]
    exact hask (.inl hr)
  · rw [et, n2, hmem, e2]
end

end Sys2Proof.Machine
end

section
/-!
SUPPORT. A member of a pair stops at a mismatch (R442).
-/
namespace Sys2Proof.Machine

/-! ## What a member's stop writes -/

/-- The registers of a thread's fault record. -/
def recordWords (gt : Nat) : List Nat :=
  [tReg gt 0x30, tReg gt 0x34, tReg gt 0x38, tReg gt 0x3C, tCfg gt 8, tCfg gt 0xC]

/-- What the stop of a member writes: its status, its counters of beats and its fault record. -/
def memberFields (gt : Nat) : List Fld :=
  ([tReg gt 0x04, tReg gt 0x24, tReg gt 0x2C] ++ recordWords gt).map fun a => ⟨a, 31, 0⟩

/-- A field that lies in no register of the status or of the record. -/
theorem memberFields_indep (g : GT) {y : Fld} (hc : canon y.addr = y.addr)
    (h : ∀ o, o < 0x40 → o ≠ 0x10 → y.addr ≠ tReg g.val o) (k : ∀ o, o < 0x20 → o ≠ 0 → y.addr ≠ tCfg g.val o) :
    ∀ x ∈ memberFields g.val, x.indep y := by
  have ht {o : Nat} (ho : o < 0x40) (hn : o ≠ 0x10) : Fld.indep ⟨tReg g.val o, 31, 0⟩ y :=
    Fld.indep_of (canon_tReg g ho) hc (.inl (h o ho hn))
  have hk {o : Nat} (ho : o < 0x20) (hn : o ≠ 0) : Fld.indep ⟨tCfg g.val o, 31, 0⟩ y :=
    Fld.indep_of (canon_tCfg g ho) hc (.inl (k o ho hn))
  simp only [memberFields, recordWords, List.cons_append, List.nil_append, List.map_cons, List.map_nil, List.forall_mem_cons]
  exact ⟨ht (by decide) (by decide), ht (by decide) (by decide), ht (by decide) (by decide), ht (by decide) (by decide),
    ht (by decide) (by decide), ht (by decide) (by decide), ht (by decide) (by decide), hk (by decide) (by decide),
    hk (by decide) (by decide), by simp⟩

theorem memberFields_high (g : GT) {y : Fld} (h : 0x10320000 ≤ y.addr) : ∀ x ∈ memberFields g.val, x.indep y := by
  have := g.isLt
  refine memberFields_indep g (canon_id (.inr h)) (fun o ho _ => ?_) fun o ho _ => ?_
  · unfold tReg coreBase; omega
  · unfold tCfg coreBase; omega

theorem memberFields_state {g h : GT} (hne : g ≠ h) : ∀ x ∈ memberFields g.val, x.indep (fState h.val) := by
  have hv : g.val ≠ h.val := fun e => hne (Fin.ext e)
  refine memberFields_indep g (canon_tReg h (by decide)) (fun o ho _ => ?_) fun o ho _ => ?_
  · simp only [fState, tReg, coreBase]; omega
  · simp only [fState, tReg, tCfg, coreBase]; omega

theorem memberFields_det (g h : GT) : ∀ x ∈ memberFields g.val, x.indep (fDet h.val) := by
  refine memberFields_indep g (canon_tReg h (by decide)) (fun o ho hn => ?_) fun o ho _ => ?_
  · simp only [fDet, tReg, coreBase]; omega
  · simp only [fDet, tReg, tCfg, coreBase]; omega

theorem State.sends_of_touched {s t : State} {gt : Nat} (h : s.touched t gt (recordWords gt)) :
    s.Sends t (memberFields gt) := by
  refine ⟨?_, fun e he => ?_, State.keeps_of_touched h⟩
  · rw [h.1]
  · rw [h.1]; exact he

/-! ## The stop of a member (R442) -/

/-- What the stop of a member leaves. -/
structure State.StopsMember (s t : State) (g : GT) (d : Byte) : Prop where
  sends : s.Sends t (memberFields g.val)
  others : s.sameThreadsBut t g.val
  unasked : (t.thread g.val).stopReq = false
  asked : s.fld (fState g.val) = stReady → (s.thread g.val).boundary = false → (t.thread g.val).twinStop = some d

theorem State.writeRecord_touched (s : State) (gt : Nat) (r : FaultRec) :
    s.touched (s.writeRecord gt r) gt (recordWords gt) ∧ ∀ g, (s.writeRecord gt r).thread g = s.thread g := by
  have hm : ∀ a ∈ recordWords gt, a ∈ recordWords gt := fun _ h => h
  simp only [recordWords, List.forall_mem_cons] at hm
  obtain ⟨h1, h2, h3, h4, h5, h6, -⟩ := hm
  unfold State.writeRecord
  simp only []
  refine ⟨?_, fun g => ?_⟩
  · refine State.touched_touched (State.touched_touched (State.touched_touched (State.touched_touched
      (State.touched_touched (State.touched_setReg s gt _ h1) (State.touched_setReg _ gt _ h2))
      (State.touched_setReg _ gt _ h3)) (State.touched_setReg _ gt _ h4)) (State.touched_setReg _ gt _ h5))
      (State.touched_setReg _ gt _ h6)
  · rw [State.thread_setReg, State.thread_setReg, State.thread_setReg, State.thread_setReg, State.thread_setReg,
      State.thread_setReg]

/-- A member that waits at no boundary, or that stands. -/
theorem State.takeTwin_stops (s : State) (g : GT) (r : FaultRec) :
    s.Sends (s.takeTwin g.val r) (memberFields g.val) ∧ s.sameThreadsBut (s.takeTwin g.val r) g.val ∧
      ((s.takeTwin g.val r).thread g.val).stopReq = false := by
  have hg := g.isLt
  have hc : portInCclk (0x1200 + g.val / 2) = true := by
    unfold portInCclk
    rw [if_neg (by omega), if_pos (by omega)]
  obtain ⟨hw, hth⟩ := State.writeRecord_touched s g.val r
  unfold State.takeTwin
  rw [State.present_cclk _ _ hc]
  generalize s.writeRecord g.val r = v at *
  have hf : v.stepped (v.enterFaulted g.val) g.val :=
    State.stepped_trans (State.stepped_modThread v g.val _) (State.stepped_setFld _ g.val (fState g.val) _ List.mem_cons_self)
  have hd : ((v.enterFaulted g.val).thread g.val).stopReq = false := by
    unfold State.enterFaulted
    rw [State.thread_setFld, State.thread_modThread_same]
    rfl
  have ht := State.touched_trans hw hf
  generalize v.enterFaulted g.val = w at *
  refine ⟨(State.sends_of_touched ht).trans (State.Sends.routeEvent _ _ _ _ _), fun k hk => ?_, ?_⟩
  · exact ht.2.1 k hk
  · exact hd

theorem State.atBoundary_stands {s : State} {gt : Nat} (hr : s.fld (fState gt) = stReady)
    (hb : (s.thread gt).boundary = false) : s.atBoundary gt = s := by
  unfold State.atBoundary
  simp only []
  rw [if_neg (by simp [hr]), if_pos (by simp [hb])]

theorem State.stopMember_stops (s : State) (g : GT) (d : Byte) (hs : (s.thread g.val).stopReq = false) :
    s.StopsMember (s.stopMember g.val d) g d := by
  unfold State.stopMember
  simp only []
  split
  next hr =>
    have hth := State.thread_modThread_same s g.val (fun t => { t with twinStop := some d })
    have hfld := State.fld_modThread s g.val (fun t => { t with twinStop := some d }) (fState g.val)
    have hv : s.stepped (s.modThread g.val (fun t => { t with twinStop := some d })) g.val := State.stepped_modThread s g.val _
    generalize s.modThread g.val (fun t => { t with twinStop := some d }) = v at *
    have hreq : (v.thread g.val).stopReq = false := by rw [hth]; exact hs
    obtain ⟨hq, hstill, -⟩ := State.atBoundary_quiet v g.val hreq
    have ht : s.touched (v.atBoundary g.val) g.val (recordWords g.val) :=
      State.stepped_touched (State.stepped_trans hv hq)
    refine ⟨State.sends_of_touched ht, ht.2.1, ?_, fun h1 h2 => ?_⟩
    · rw [hstill.stop, hreq]
    · rw [State.atBoundary_stands (by rw [hfld, h1]) (by rw [hth]; exact h2), hth]
  next hr =>
    have hn : s.fld (fState g.val) ≠ stReady := fun h => hr (.inl h)
    split
    · obtain ⟨h1, h2, h3⟩ := State.takeTwin_stops s g
        { precise 8 d with pc := (s.thread g.val).pc, npc := (s.thread g.val).successor }
      exact ⟨h1, h2, h3, fun h => absurd h hn⟩
    · exact ⟨State.Sends.refl s _, fun _ _ => rfl, hs, fun h => absurd h hn⟩

/-- Both members of a pair stop, the primary first. -/
theorem State.stopMembers_stop {s : State} {g h : GT} (hne : g ≠ h) (d : Byte) (hg : (s.thread g.val).stopReq = false)
    (hh : (s.thread h.val).stopReq = false) :
    let t := (s.stopMember g.val d).stopMember h.val d
    s.Sends t (memberFields g.val ++ memberFields h.val) ∧
      (∀ m, (s.thread m).stopReq = false → (t.thread m).stopReq = false) ∧
      ∀ m, m = g.val ∨ m = h.val → s.fld (fState m) = stReady → (s.thread m).boundary = false →
        (t.thread m).twinStop = some d := by
  intro t
  have hv : g.val ≠ h.val := fun e => hne (Fin.ext e)
  have A := State.stopMember_stops s g d hg
  have e1 := A.others h.val hv.symm
  have f1 : (s.stopMember g.val d).fld (fState h.val) = s.fld (fState h.val) :=
    State.keeps_fld A.sends.keeps (memberFields_state hne)
  have B := State.stopMember_stops (s.stopMember g.val d) h d (by rw [e1]; exact hh)
  have et : t = (s.stopMember g.val d).stopMember h.val d := rfl
  clear_value t
  rw [← et] at B
  clear et
  generalize s.stopMember g.val d = v at *
  refine ⟨?_, fun m hm => ?_, fun m hm hr hb => ?_⟩
  · exact (A.sends.mono fun x hx => List.mem_append_left _ hx).trans (B.sends.mono fun x hx => List.mem_append_right _ hx)
  · by_cases h2 : m = h.val
    · rw [h2]; exact B.unasked
    · rw [B.others m h2]
      by_cases h1 : m = g.val
      · rw [h1]; exact A.unasked
      · rw [A.others m h1]; exact hm
  · rcases hm with rfl | rfl
    · rw [B.others _ hv]; exact A.asked hr hb
    · exact B.asked (f1.trans hr) (by rw [e1]; exact hb)

end Sys2Proof.Machine
end

section
/-!
SUPPORT. A pair's reports differ: the record, and both members stop (R442).
-/
namespace Sys2Proof.Machine

/-! ## The record of a mismatch -/

/-- The registers of a mismatch's report and of the minor fault that it is. -/
def reportFields (p : Nat) : List Fld :=
  [⟨twinReg p 0x18, 31, 0⟩, ⟨twinReg p 0x1C, 31, 0⟩, ⟨twinReg p 0x20, 31, 0⟩, ⟨twinReg p 0x24, 31, 0⟩,
    ⟨twinReg p 0x28, 15, 0⟩, ⟨twinReg p 0x28, 31, 16⟩, fMinor, fMinorCount]

/-- The count of a pair's mismatches. -/
def fMismatches (p : Nat) : Fld := ⟨twinReg p 0x2C, 7, 0⟩

/-- What a mismatch writes of the winnower. -/
def mismatchFields (p : Nat) : List Fld := fMismatches p :: fTwinState p :: reportFields p

theorem reportFields_indep {p : Nat} {y : Fld} (hc : canon y.addr = y.addr)
    (h : ∀ o, 0x14 ≤ o → o < 0x2C → y.addr ≠ twinReg p o) (hm : fMinor.indep y) (hn : fMinorCount.indep y) :
    ∀ x ∈ reportFields p, x.indep y := by
  have ht {o hi lo : Nat} (h1 : 0x14 ≤ o) (h2 : o < 0x2C) : Fld.indep ⟨twinReg p o, hi, lo⟩ y :=
    Fld.indep_of (canon_twinReg p o) hc (.inl (h o h1 h2))
  simp only [reportFields, List.forall_mem_cons]
  exact ⟨ht (by decide) (by decide), ht (by decide) (by decide), ht (by decide) (by decide), ht (by decide) (by decide),
    ht (by decide) (by decide), ht (by decide) (by decide), hm, hn, by simp⟩

theorem mismatchFields_indep {p : Nat} {y : Fld} (hc : canon y.addr = y.addr)
    (h : ∀ o, 0x10 ≤ o → o < 0x40 → y.addr ≠ twinReg p o) (hm : fMinor.indep y) (hn : fMinorCount.indep y) :
    ∀ x ∈ mismatchFields p, x.indep y := by
  have ht {o hi lo : Nat} (h1 : 0x10 ≤ o) (h2 : o < 0x40) : Fld.indep ⟨twinReg p o, hi, lo⟩ y :=
    Fld.indep_of (canon_twinReg p o) hc (.inl (h o h1 h2))
  simp only [mismatchFields, List.forall_mem_cons]
  exact ⟨ht (by decide) (by decide), ht (by decide) (by decide),
    reportFields_indep hc (fun o h1 h2 => h o (by omega) (by omega)) hm hn⟩

/-- The report of one member is recorded, if there is one. -/
theorem State.lastReport_sends (s : State) (p : Nat) (b : Bool) (r : Option Report) (sig : Word) :
    s.Sends (s.lastReport p b r sig) (reportFields p) ∧ ∀ g, (s.lastReport p b r sig).thread g = s.thread g := by
  cases r with
  | none => exact ⟨State.Sends.refl s _, fun _ => rfl⟩
  | some r =>
    have hm : ∀ a ∈ reportFields p, a ∈ reportFields p := fun _ h => h
    simp only [reportFields, List.forall_mem_cons] at hm
    obtain ⟨m1, m2, m3, m4, m5, m6, -⟩ := hm
    have h1 : (⟨twinReg p (if b then 0x1C else 0x18), 31, 0⟩ : Fld) ∈ reportFields p := by cases b; exacts [m1, m2]
    have h2 : (⟨twinReg p (if b then 0x24 else 0x20), 31, 0⟩ : Fld) ∈ reportFields p := by cases b; exacts [m3, m4]
    have h3 : (⟨twinReg p 0x28, if b then 31 else 15, if b then 16 else 0⟩ : Fld) ∈ reportFields p := by
      cases b; exacts [m5, m6]
    unfold State.lastReport
    simp only []
    refine ⟨?_, fun g => by rw [State.thread_setFld, State.thread_setReg, State.thread_setReg]⟩
    exact ((State.Sends.setReg s _ h1).trans (State.Sends.setReg _ _ h2)).trans (State.Sends.setFld _ _ h3)

/-- The mismatch is recorded, counted and presented. -/
def State.noted (s : State) (p : Nat) (rp rs : Option Report) : State :=
  (((((s.countUp (fMismatches p)).lastReport p false rp ((rp.map (fun r => r.sig)).getD 0)).lastReport p true rs
    ((rs.map (fun r => r.sig ^^^ sigMask r.bytes)).getD 0)).present 0x17AB false 0).faultMinor).setFld (fTwinState p) twStopped

/-- The mismatch is noted and both members stop. -/
def State.pairStops (s : State) (p : Nat) (rp rs : Option Report) (d : Byte) : State :=
  ((s.noted p rp rs).stopMember (s.twinPrimary p) d).stopMember (s.twinShadow p) d

theorem State.noted_leaves (s : State) (p : Nat) (rp rs : Option Report) :
    let t := s.noted p rp rs
    s.Sends t (mismatchFields p) ∧ (∀ g, t.thread g = s.thread g) ∧ t.fld (fTwinState p) = twStopped ∧
      t.fld (fMismatches p) = (s.countUp (fMismatches p)).fld (fMismatches p) ∧ t.shows 0x17AB false 0 := by
  intro t
  have hcount : s.Sends (s.countUp (fMismatches p)) (mismatchFields p) := State.Sends.setFld s _ List.mem_cons_self
  have hct (g : Nat) := State.thread_countUp s (fMismatches p) 1 g
  have hreport : ∀ x ∈ reportFields p, x ∈ mismatchFields p := fun x hx => List.mem_cons_of_mem _ (List.mem_cons_of_mem _ hx)
  have hminor : fMinor ∈ reportFields p ∧ fMinorCount ∈ reportFields p := by simp [reportFields]
  have hstate : fTwinState p ∈ mismatchFields p := List.mem_cons_of_mem _ List.mem_cons_self
  have hi : (fTwinState p).indep (fMismatches p) :=
    Fld.indep_of (canon_twinReg p 0x10) (canon_twinReg p 0x2C) (.inl (by simp only [fTwinState, fMismatches, twinReg]; omega))
  obtain ⟨n1, n2⟩ := twinReg_minor (p := p) (o := 0x2C) (by decide) (by decide) 7 0
  have hrep : ∀ x ∈ reportFields p, x.indep (fMismatches p) :=
    reportFields_indep (canon_twinReg p 0x2C) (fun o h1 h2 => by simp only [fMismatches, twinReg]; omega) n1 n2
  have hok := twinState_ok p
  have hw : twStopped.toNat < 2 ^ ((fTwinState p).hi - (fTwinState p).lo + 1) := by simp [fTwinState, twStopped]
  have et : t = s.noted p rp rs := rfl
  unfold State.noted at et
  clear_value t
  generalize s.countUp (fMismatches p) = c at *
  obtain ⟨r1, o1⟩ := State.lastReport_sends c p false rp ((rp.map (fun r => r.sig)).getD 0)
  generalize c.lastReport p false rp ((rp.map (fun r => r.sig)).getD 0) = c1 at *
  obtain ⟨r2, o2⟩ := State.lastReport_sends c1 p true rs ((rs.map (fun r => r.sig ^^^ sigMask r.bytes)).getD 0)
  generalize c1.lastReport p true rs ((rs.map (fun r => r.sig ^^^ sigMask r.bytes)).getD 0) = c2 at *
  have r3 : c2.Sends (c2.present 0x17AB false 0) (reportFields p) := by
    rw [State.present_cclk _ _ (by decide)]
    exact State.Sends.routeEvent _ _ _ _ _
  have o3 (g : Nat) : (c2.present 0x17AB false 0).thread g = c2.thread g := by
    rw [State.present_cclk _ _ (by decide)]
    exact State.thread_congr (s := c2) rfl g
  have p3 := State.present_shows c2 false (port := 0x17AB) (by decide)
  generalize c2.present 0x17AB false 0 = c3 at *
  have r4 := State.faultMinor_sends c3 hminor.1 hminor.2
  have o4 := State.faultMinor_thread c3
  generalize c3.faultMinor = c4 at *
  have r := ((r1.trans r2).trans r3).trans r4
  have r5 : c4.Sends t (mismatchFields p) := by
    rw [et]
    exact State.Sends.setFld _ _ hstate
  refine ⟨(hcount.trans (r.mono hreport)).trans r5, fun g => ?_, ?_, ?_, ?_⟩
  · rw [et, State.thread_setFld, o4, o3, o2, o1, hct]
  · rw [et, State.fld_setFld_same _ _ _ hok hw]
  · rw [et, State.fld_setFld_indep _ _ hi, State.keeps_fld r.keeps hrep]
  · exact r5.shows (r4.shows p3)

/-! ## Both members stop -/

/-- A pair has stopped: its mismatches are counted and presented, and a member that was under way is asked to stop. -/
def State.stoppedAs (s t : State) (p : Nat) (d : Byte) : Prop :=
  t.fld (fMismatches p) = (s.countUp (fMismatches p)).fld (fMismatches p) ∧ t.shows 0x17AB false 0 ∧ t.mem = s.mem ∧
    ∀ m, m = s.twinPrimary p ∨ m = s.twinShadow p → s.fld (fState m) = stReady → (s.thread m).boundary = false →
      (t.thread m).twinStop = some d

/-- The fields that a stop of a pair writes. -/
def State.stopFields (s : State) (p : Nat) : List Fld :=
  mismatchFields p ++ (memberFields (s.primary p).val ++ memberFields (s.shadow p).val)

theorem State.stopFields_indep {s : State} {p : Nat} {y : Fld} (h : ∀ x ∈ mismatchFields p, x.indep y)
    (k : ∀ g : GT, ∀ x ∈ memberFields g.val, x.indep y) : ∀ x ∈ s.stopFields p, x.indep y := by
  intro x hx
  rcases List.mem_append.1 hx with hx | hx
  · exact h x hx
  · rcases List.mem_append.1 hx with hx | hx
    · exact k _ x hx
    · exact k _ x hx

theorem mismatchFields_state (p : Nat) (g : GT) : ∀ x ∈ mismatchFields p, x.indep (fState g.val) := by
  have hc : canon (fState g.val).addr = (fState g.val).addr := canon_tReg g (by decide)
  have ht (o : Nat) : (fState g.val).addr ≠ twinReg p o := tReg_ne_twinReg g (by decide) p o
  have hlt : (fState g.val).addr < 0x10800000 := by have := g.isLt; simp only [fState, tReg, coreBase]; omega
  generalize fState g.val = y at *
  exact mismatchFields_indep hc (fun o _ _ => ht o) (Fld.indep_of canon_fMinor hc (.inl (by simp only [fMinor]; omega)))
    (Fld.indep_of canon_fMinorCount hc (.inl (by simp only [fMinorCount]; omega)))

theorem State.pairStops_leaves {s : State} {p : Nat} (rp rs : Option Report) (d : Byte) (hne : s.primary p ≠ s.shadow p)
    (hg : (s.thread (s.twinPrimary p)).stopReq = false) (hh : (s.thread (s.twinShadow p)).stopReq = false) :
    let t := s.pairStops p rp rs d
    s.Sends t (s.stopFields p) ∧ t.fld (fTwinState p) = twStopped ∧ s.stoppedAs t p d ∧
      ∀ m, (s.thread m).stopReq = false → (t.thread m).stopReq = false := by
  intro t
  obtain ⟨r1, o1, f1, c1, p1⟩ := State.noted_leaves s p rp rs
  have et : t = ((s.noted p rp rs).stopMember (s.primary p).val d).stopMember (s.shadow p).val d := rfl
  generalize s.noted p rp rs = v at *
  obtain ⟨r2, q2, a2⟩ := State.stopMembers_stop (s := v) hne d (by rw [o1]; exact hg) (by rw [o1]; exact hh)
  rw [← et] at r2 q2 a2
  clear et
  clear_value t
  have hmem (g : GT) {o hi lo : Nat} : ∀ x ∈ memberFields g.val, x.indep ⟨twinReg p o, hi, lo⟩ :=
    memberFields_high g (by simp only [twinReg]; omega)
  have hk {o hi lo : Nat} : t.fld ⟨twinReg p o, hi, lo⟩ = v.fld ⟨twinReg p o, hi, lo⟩ :=
    State.keeps_fld r2.keeps fun x hx => (List.mem_append.1 hx).elim (hmem _ x) (hmem _ x)
  have hsend : s.Sends t (s.stopFields p) := (r1.mono fun x hx => List.mem_append_left _ hx).trans
    (r2.mono fun x hx => List.mem_append_right _ hx)
  refine ⟨hsend, ?_, ⟨?_, r2.shows p1, ?_, fun m hm hr hb => ?_⟩, fun m hm => q2 m (by rw [o1]; exact hm)⟩
  · rw [fTwinState] at f1 ⊢
    rw [hk, f1]
  · rw [fMismatches] at c1 ⊢
    rw [hk, c1]
  · rw [hsend.near]
  · refine a2 m hm ?_ (by rw [o1]; exact hb)
    rw [← hr]
    rcases hm with rfl | rfl
    · exact State.keeps_fld r1.keeps (mismatchFields_state p (s.primary p))
    · exact State.keeps_fld r1.keeps (mismatchFields_state p (s.shadow p))

end Sys2Proof.Machine
end

section
/-!
SUPPORT. The automatic sequence of a pair asks for the tests of its cores (R443 to R445).
-/
namespace Sys2Proof.Machine

/-! ## The cores that a pair names -/

/-- The core of a thread number that a register holds. -/
theorem bitsOf_core (w : Word) (hi lo : Nat) : (bitsOf w hi lo).toNat / 64 = (bitsOf w hi (lo + 6)).toNat := by
  have hs : bitsOf w hi (lo + 6) = bitsOf w hi lo >>> 6 := by
    apply BitVec.eq_of_getLsbD_eq
    intro i _
    rw [BitVec.getLsbD_ushiftRight, getLsbD_bitsOf, getLsbD_bitsOf, show lo + 6 + i = lo + (6 + i) by omega]
  rw [hs, BitVec.toNat_ushiftRight, Nat.shiftRight_eq_div_pow]

theorem State.fld_core (s : State) (a hi lo : Nat) : (s.fld ⟨a, hi, lo⟩).toNat / 64 = (s.fld ⟨a, hi, lo + 6⟩).toNat :=
  bitsOf_core (s.reg a) hi lo

/-- Two states in which other pairs than p stand alike and name the same cores. -/
def State.sameTwins (s t : State) (p : Nat) : Prop :=
  ∀ q, q ≠ p → t.fld (fTwinState q) = s.fld (fTwinState q) ∧ t.twinPrimary q / 64 = s.twinPrimary q / 64 ∧
    t.twinShadow q / 64 = s.twinShadow q / 64

theorem State.sameTwins_of_keeps {s t : State} {p : Nat} {fs : List Fld} (h : s.keeps t fs)
    (hs : ∀ q, q ≠ p → ∀ x ∈ fs, x.indep (fTwinState q))
    (hc : ∀ q, q ≠ p → ∀ hi lo, lo = 6 ∨ lo = 22 → ∀ x ∈ fs, x.indep ⟨twinReg q 0, hi, lo⟩) : s.sameTwins t p := by
  intro q hq
  refine ⟨State.keeps_fld h (hs q hq), ?_, ?_⟩
  · have e : t.fld ⟨twinReg q 0, 10, 6⟩ = s.fld ⟨twinReg q 0, 10, 6⟩ := State.keeps_fld h (hc q hq 10 6 (.inl rfl))
    rw [State.twinPrimary, State.twinPrimary, State.fld_core, State.fld_core, e]
  · have e : t.fld ⟨twinReg q 0, 26, 22⟩ = s.fld ⟨twinReg q 0, 26, 22⟩ := State.keeps_fld h (hc q hq 26 22 (.inr rfl))
    rw [State.twinShadow, State.twinShadow, State.fld_core, State.fld_core, e]

theorem State.sameTwins_of_fields {s t : State} {p : Nat} (h : ∀ q o hi lo, q ≠ p → t.fld ⟨twinReg q o, hi, lo⟩ = s.fld ⟨twinReg q o, hi, lo⟩) :
    s.sameTwins t p := fun q hq =>
  ⟨h q 0x10 2 0 hq, congrArg (fun w => w.toNat / 64) (h q 0 10 0 hq), congrArg (fun w => w.toNat / 64) (h q 0 26 16 hq)⟩

/-! ## What other pairs' sequences have found (R445) -/

/-- What the sequence of one pair has found of core n. -/
def State.found (s : State) (p n : Nat) (x : Nat × Pair) : Option Bool :=
  if x.1 = p ∨ (s.fld (fTwinState x.1) ≠ twSelftest ∧ s.fld (fTwinState x.1) ≠ twRerun) then none
  else if s.twinPrimary x.1 / 64 = n then x.2.coreP
  else if s.twinShadow x.1 / 64 = n then x.2.coreS
  else none

theorem State.testedFor_eq (s : State) (p n : Nat) : s.testedFor p n = s.pairs.findSome? (s.found p n) := rfl

theorem State.found_own (s : State) (p n : Nat) (q : Pair) : s.found p n (p, q) = none := if_pos (.inl rfl)

theorem State.testedFor_congr {s t : State} {p : Nat} (hp : t.pairs = s.pairs) (h : s.sameTwins t p) (n : Nat) :
    t.testedFor p n = s.testedFor p n := by
  have hf : t.found p n = s.found p n := by
    funext x
    by_cases hx : x.1 = p
    · rw [State.found, State.found, if_pos (.inl hx), if_pos (.inl hx)]
    · obtain ⟨h1, h2, h3⟩ := h x.1 hx
      rw [State.found, State.found, h1, h2, h3]
  rw [State.testedFor_eq, State.testedFor_eq, hp, hf]

theorem Map.findSome?_erase {α β : Type} {f : Nat × α → Option β} {k : Nat} (h : ∀ v, f (k, v) = none) (m : Map α) :
    (Map.erase m k).findSome? f = m.findSome? f := by
  unfold Map.erase
  induction m with
  | nil => rfl
  | cons x m ih =>
    by_cases hx : x.1 = k
    · rw [List.filter_cons_of_neg (by simp [hx]), List.findSome?_cons, show f x = none by rw [show x = (k, x.2) from Prod.ext hx rfl, h], ih]
    · rw [List.filter_cons_of_pos (by simp [hx]), List.findSome?_cons, List.findSome?_cons, ih]

theorem Map.findSome?_insert {α β : Type} {f : Nat × α → Option β} {k : Nat} (h : ∀ v, f (k, v) = none) (m : Map α) (v : α) :
    (Map.insert m k v).findSome? f = m.findSome? f := by
  induction m with
  | nil => rw [Map.insert, List.findSome?_cons, h]
  | cons x m ih =>
    rw [Map.insert]
    split
    · rw [List.findSome?_cons, h]
    · rw [List.findSome?_cons, List.findSome?_cons, ih]

theorem State.testedFor_modPair (s : State) (p n : Nat) (f : Pair → Pair) : (s.modPair p f).testedFor p n = s.testedFor p n := by
  have h : ∀ v, s.found p n (p, v) = none := s.found_own p n
  rw [State.testedFor_eq, State.testedFor_eq]
  change (Map.set {} s.pairs p (f (s.pair p))).findSome? (s.found p n) = _
  unfold Map.set
  split
  · exact Map.findSome?_erase h _
  · exact (Map.findSome?_insert h _ _).trans (Map.findSome?_erase h _)

/-! ## A core goes under self-test (R445) -/

/-- Threads come to a boundary: no register beyond the threads' own changes, no thread's contract, and none is asked
to stop. -/
structure State.Calm (s t : State) : Prop where
  near : s.near t
  high : ∀ a, 0x10320000 ≤ a → t.reg a = s.reg a
  det : ∀ g : GT, t.det g.val = s.det g.val
  unasked : ∀ m, (s.thread m).stopReq = false → (t.thread m).stopReq = false

theorem State.Calm.refl (s : State) : s.Calm s := ⟨rfl, fun _ _ => rfl, fun _ => rfl, fun _ h => h⟩
theorem State.Calm.trans {s t u : State} (h : s.Calm t) (k : t.Calm u) : s.Calm u :=
  ⟨State.near_trans h.near k.near, fun a ha => (k.high a ha).trans (h.high a ha), fun g => (k.det g).trans (h.det g),
    fun m hm => k.unasked m (h.unasked m hm)⟩
theorem State.Calm.fld {s t : State} (h : s.Calm t) {y : Fld} (hy : 0x10320000 ≤ y.addr) : t.fld y = s.fld y := by
  rw [State.fld, State.fld, h.high _ hy]

theorem State.atBoundary_calm (s : State) (g : GT) (h : (s.thread g.val).stopReq = false) : s.Calm (s.atBoundary g.val) := by
  obtain ⟨hs, hstill, -⟩ := State.atBoundary_quiet s g.val h
  refine ⟨hs.1, fun a ha => State.stepped_reg g hs ha, fun k => ?_, fun m hm => ?_⟩
  · exact congrArg (· != 0)
      (State.keeps_fld (State.sends_of_touched (State.stepped_touched hs)).keeps (memberFields_det g k))
  · by_cases e : m = g.val
    · rw [e, hstill.stop, h]
    · rw [hs.2.1 m e]; exact hm

/-- The threads of a core come to a boundary where none of them is deterministic. -/
theorem State.boundaries_calm {s : State} {n : Nat} (hn : n < 32) (k : Nat) (hk : k ≤ 64)
    (hd : ∀ j < 64, s.det (64 * n + j) = false) (hu : ∀ j < 64, (s.thread (64 * n + j)).stopReq = false) :
    s.Calm ((List.range k).foldl (fun s t => (s.contractBreak (64 * n + t) none).atBoundary (64 * n + t)) s) := by
  induction k with
  | zero => exact State.Calm.refl s
  | succ k ih =>
    have h := ih (by omega)
    rw [List.range_succ, List.foldl_append, List.foldl_cons, List.foldl_nil]
    generalize (List.range k).foldl (fun s t => (s.contractBreak (64 * n + t) none).atBoundary (64 * n + t)) s = v at *
    have hdv : v.det (64 * n + k) = false := (h.det ⟨64 * n + k, by omega⟩).trans (hd k (by omega))
    have hb : v.contractBreak (64 * n + k) none = v := if_neg (by simp [hdv])
    rw [hb]
    exact h.trans (State.atBoundary_calm v ⟨64 * n + k, by omega⟩ (h.unasked _ (hu k (by omega))))

/-- What asking a core for its self-test leaves. -/
theorem State.startSelftest_leaves {s : State} {n : Nat} (hn : n < 32)
    (hd : ∀ j < 64, s.det (64 * n + j) = false) (hu : ∀ j < 64, (s.thread (64 * n + j)).stopReq = false) :
    let t := s.startSelftest n
    ({ s with selfTest := t.selfTest } : State).Calm t ∧ n ∈ t.selfTest ∧ ∀ m, m ≠ n → (m ∈ t.selfTest ↔ m ∈ s.selfTest) := by
  intro t
  by_cases hc : n ∈ s.selfTest
  · have et : t = s := if_pos (by simpa using hc)
    rw [et]
    exact ⟨State.Calm.refl s, hc, fun _ _ => Iff.rfl⟩
  · have et : t = (List.range 64).foldl (fun s t => (s.contractBreak (64 * n + t) none).atBoundary (64 * n + t))
        { s with selfTest := s.selfTest ++ [n] } := if_neg (by simpa using hc)
    have h := State.boundaries_calm (s := { s with selfTest := s.selfTest ++ [n] }) hn 64 le_rfl hd hu
    rw [← et] at h
    clear_value t
    have hs : t.selfTest = s.selfTest ++ [n] := by rw [h.near]
    rw [hs]
    refine ⟨h, by simp, fun m hm => ?_⟩
    rw [List.mem_append, List.mem_singleton]
    exact or_iff_left hm

end Sys2Proof.Machine
end

section
/-!
SUPPORT. The automatic sequence of a pair begins, and the rerun that fails (R443 to R445).
-/
namespace Sys2Proof.Machine

/-! ## A core is asked for (R443, R445) -/

/-- What a sequence that asks for a core leaves alone. -/
structure State.Awaits (s t : State) (p : Nat) : Prop where
  high : ∀ a, 0x10320000 ≤ a → t.reg a = s.reg a
  det : ∀ g : GT, t.det g.val = s.det g.val
  unasked : ∀ m, (s.thread m).stopReq = false → (t.thread m).stopReq = false
  tested : ∀ n, t.testedFor p n = s.testedFor p n

theorem State.Awaits.twinField {s t : State} {p : Nat} (h : s.Awaits t p) (q o hi lo : Nat) :
    t.fld ⟨twinReg q o, hi, lo⟩ = s.fld ⟨twinReg q o, hi, lo⟩ := by
  have hr := h.high (twinReg q o) (by unfold twinReg; omega)
  rw [State.fld, State.fld, hr]

/-- The result that another pair's sequence has for core n. -/
def State.takeResult (s : State) (p n : Nat) (r : Bool) (q : Pair) : Pair :=
  { q with
    coreP := if s.twinPrimary p / 64 = n then some r else q.coreP
    coreS := if s.twinShadow p / 64 = n then some r else q.coreS }

theorem State.askSelftest_known {s : State} {p n : Nat} {r : Bool} (h : s.testedFor p n = some r) :
    s.askSelftest p n = s.modPair p (s.takeResult p n r) := by
  unfold State.askSelftest
  rw [h]
  rfl

theorem State.askSelftest_unknown {s : State} {p n : Nat} (h : s.testedFor p n = none) :
    s.askSelftest p n = s.startSelftest n := by
  unfold State.askSelftest
  rw [h]

theorem State.modPair_awaits (s : State) (p : Nat) (f : Pair → Pair) : s.Awaits (s.modPair p f) p :=
  ⟨fun _ _ => rfl, fun _ => rfl, fun _ h => h, fun n => State.testedFor_modPair s p n f⟩

/-- A core that no sequence has tested goes under test. -/
theorem State.askSelftest_starts {s : State} {p n : Nat} (hn : n < 32) (hd : ∀ j < 64, s.det (64 * n + j) = false)
    (hu : ∀ j < 64, (s.thread (64 * n + j)).stopReq = false) (h : s.testedFor p n = none) :
    let t := s.askSelftest p n
    s.Awaits t p ∧ t.pair p = s.pair p ∧ n ∈ t.selfTest ∧ ∀ m, m ≠ n → (m ∈ t.selfTest ↔ m ∈ s.selfTest) := by
  intro t
  have et : t = s.startSelftest n := State.askSelftest_unknown h
  obtain ⟨hc, hin, hout⟩ := State.startSelftest_leaves hn hd hu
  rw [← et] at hc hin hout
  clear_value t
  have hp : t.pairs = s.pairs := by rw [hc.near]
  have hf (q o hi lo : Nat) : t.fld ⟨twinReg q o, hi, lo⟩ = s.fld ⟨twinReg q o, hi, lo⟩ := by
    have hr : t.reg (twinReg q o) = s.reg (twinReg q o) := hc.high (twinReg q o) (by unfold twinReg; omega)
    rw [State.fld, State.fld, hr]
  refine ⟨⟨hc.high, hc.det, hc.unasked, ?_⟩, ?_, hin, hout⟩
  · exact State.testedFor_congr hp (State.sameTwins_of_fields fun q o hi lo _ => hf q o hi lo)
  · rw [State.pair, State.pair, hp]

/-! ## The sequence (R443) -/

/-- The pair awaits its cores' tests, in unit u. -/
def State.underTest (s : State) (p u : Nat) : State :=
  (s.setFld (fTwinState p) twSelftest).modPair p (fun q => { q with coreP := none, coreS := none, unit := none, served := u })

/-- The automatic sequence of a pair begins. -/
def State.sequence (s : State) (p u a b : Nat) : State :=
  (((s.underTest p u).askSelftest p (a / 64)).askSelftest p (b / 64)).fenceDecision p

theorem State.fenceDecision_awaits {s : State} {p : Nat} (h : (s.pair p).coreS = none) : s.fenceDecision p = s := by
  unfold State.fenceDecision
  simp only [h]
  split
  next hS => cases hS
  next hS => cases hS
  next hS => cases hS
  next => rfl

theorem State.underTest_awaits (s : State) (p u : Nat) :
    let t := s.underTest p u
    (∀ g : GT, t.det g.val = s.det g.val) ∧ (∀ m, t.thread m = s.thread m) ∧ (∀ n, t.testedFor p n = s.testedFor p n) ∧
      t.twinPrimary p = s.twinPrimary p ∧ t.twinShadow p = s.twinShadow p ∧ t.fld (fTwinState p) = twSelftest ∧
      (t.pair p).coreP = none ∧ (t.pair p).coreS = none ∧ t.selfTest = s.selfTest := by
  intro t
  have hok := twinState_ok p
  have hw : twSelftest.toNat < 2 ^ ((fTwinState p).hi - (fTwinState p).lo + 1) := by simp [fTwinState, twSelftest]
  have hdet (g : GT) : (fTwinState p).indep (fDet g.val) :=
    Fld.indep_of (canon_twinReg p 0x10) (canon_tReg g (by decide)) (.inl (tReg_ne_twinReg g (by decide) p 0x10))
  have hother : ∀ q, q ≠ p → (fTwinState p).indep (fTwinState q) := fun q hq =>
    Fld.indep_of (canon_twinReg p 0x10) (canon_twinReg q 0x10) (.inl (by simp only [fTwinState, twinReg]; omega))
  have hmembers (q hi lo : Nat) : (fTwinState p).indep ⟨twinReg q 0, hi, lo⟩ :=
    Fld.indep_of (canon_twinReg p 0x10) (canon_twinReg q 0) (.inl (by simp only [fTwinState, twinReg]; omega))
  have hkeep : s.keeps (s.setFld (fTwinState p) twSelftest) [fTwinState p] := State.keeps_setFld s _ List.mem_cons_self
  have htwins : s.sameTwins (s.setFld (fTwinState p) twSelftest) p :=
    State.sameTwins_of_keeps hkeep (fun q hq => by simpa using hother q hq) fun q _ hi lo _ => by simpa using hmembers q hi lo
  have hpair : t.pair p = { s.pair p with coreP := none, coreS := none, unit := none, served := u } :=
    Map.get_set_same _ _ _ _
  have et : t = (s.setFld (fTwinState p) twSelftest).modPair p
    (fun q => { q with coreP := none, coreS := none, unit := none, served := u }) := rfl
  clear_value t
  have hf : (s.setFld (fTwinState p) twSelftest).fld (fTwinState p) = twSelftest := State.fld_setFld_same _ _ _ hok hw
  have hp0 : (s.setFld (fTwinState p) twSelftest).pairs = s.pairs := rfl
  have hs0 : (s.setFld (fTwinState p) twSelftest).selfTest = s.selfTest := rfl
  have ht0 (m : Nat) := State.thread_setFld s (fTwinState p) twSelftest m
  generalize fTwinState p = x at *
  generalize s.setFld x twSelftest = v at *
  have hregs : t.regs = v.regs := by rw [et]; rfl
  have hk {y : Fld} (hy : x.indep y) : t.fld y = s.fld y :=
    (State.fld_congr hregs y).trans (State.keeps_fld hkeep (by simpa using hy))
  refine ⟨fun g => congrArg (· != 0) (hk (hdet g)), fun m => ?_, fun n => ?_, ?_, ?_, ?_, ?_, ?_, ?_⟩
  · rw [et, State.thread_modPair, ht0]
  · rw [et, State.testedFor_modPair, State.testedFor_congr hp0 htwins]
  · exact congrArg BitVec.toNat (hk (hmembers p 10 0))
  · exact congrArg BitVec.toNat (hk (hmembers p 26 16))
  · rw [State.fld_congr hregs, hf]
  · rw [hpair]
  · rw [hpair]
  · rw [et]; exact hs0

/-- The sequence asks for the cores that no other pair's has tested. -/
theorem State.sequence_tests {s : State} {p u a b : Nat} (ha : a = s.twinPrimary p) (hb : b = s.twinShadow p)
    (hne : a / 64 ≠ b / 64)
    (hd : ∀ j < 64, s.det (64 * (a / 64) + j) = false ∧ s.det (64 * (b / 64) + j) = false)
    (hu : ∀ j < 64, (s.thread (64 * (a / 64) + j)).stopReq = false ∧ (s.thread (64 * (b / 64) + j)).stopReq = false)
    (hn : s.testedFor p (b / 64) = none) :
    let t := s.sequence p u a b
    t.fld (fTwinState p) = twSelftest ∧ b / 64 ∈ t.selfTest ∧ (t.pair p).coreP = s.testedFor p (a / 64) ∧
      (s.testedFor p (a / 64) = none → a / 64 ∈ t.selfTest) ∧
      (∀ c, s.testedFor p (a / 64) = some c → a / 64 ∉ s.selfTest → a / 64 ∉ t.selfTest) := by
  intro t
  have hla : a / 64 < 32 := by have := s.twinPrimary_lt p; omega
  have hlb : b / 64 < 32 := by have := s.twinShadow_lt p; omega
  obtain ⟨e1, e2, e3, e4, e5, e6, e7, e8, e9⟩ := State.underTest_awaits s p u
  have et : t = (((s.underTest p u).askSelftest p (a / 64)).askSelftest p (b / 64)).fenceDecision p := rfl
  clear_value t
  generalize s.underTest p u = v at *
  have hdv {n : Nat} (hl : n < 32) (h : ∀ j < 64, s.det (64 * n + j) = false) : ∀ j < 64, v.det (64 * n + j) = false :=
    fun j hj => (e1 ⟨64 * n + j, by omega⟩).trans (h j hj)
  have huv {n : Nat} (h : ∀ j < 64, (s.thread (64 * n + j)).stopReq = false) : ∀ j < 64, (v.thread (64 * n + j)).stopReq = false :=
    fun j hj => by rw [e2]; exact h j hj
  -- the primary's core
  obtain ⟨w, ew, hw, hcP, hcS, hin, hout⟩ : ∃ w, v.askSelftest p (a / 64) = w ∧ v.Awaits w p ∧
      (w.pair p).coreP = s.testedFor p (a / 64) ∧ (w.pair p).coreS = none ∧
      (s.testedFor p (a / 64) = none → a / 64 ∈ w.selfTest) ∧
      (∀ c, s.testedFor p (a / 64) = some c → w.selfTest = s.selfTest) := by
    refine ⟨_, rfl, ?_⟩
    cases hr : s.testedFor p (a / 64) with
    | none =>
      obtain ⟨h1, h2, h3, -⟩ := State.askSelftest_starts (p := p) hla (hdv hla fun j hj => (hd j hj).1)
        (huv fun j hj => (hu j hj).1) ((e3 _).trans hr)
      exact ⟨h1, by rw [h2, e7], by rw [h2, e8], fun _ => h3, fun c h => absurd h.symm (Option.some_ne_none c)⟩
    | some c =>
      rw [State.askSelftest_known ((e3 _).trans hr)]
      have hp : (v.modPair p (v.takeResult p (a / 64) c)).pair p = v.takeResult p (a / 64) c (v.pair p) :=
        Map.get_set_same _ _ _ _
      refine ⟨State.modPair_awaits v p _, ?_, ?_, fun h => absurd h (Option.some_ne_none c), fun _ _ => e9⟩
      · rw [hp, State.takeResult, e4, ← ha]
        exact if_pos rfl
      · rw [hp, State.takeResult, e5, ← hb]
        exact (if_neg hne.symm).trans e8
  -- the shadow's core
  obtain ⟨h1, h2, h3, h4⟩ := State.askSelftest_starts (s := w) (p := p) hlb
    (fun j hj => (hw.det ⟨64 * (b / 64) + j, by omega⟩).trans (hdv hlb (fun j hj => (hd j hj).2) j hj))
    (fun j hj => hw.unasked _ (huv (fun j hj => (hu j hj).2) j hj)) ((hw.tested _).trans ((e3 _).trans hn))
  rw [ew] at et
  generalize w.askSelftest p (b / 64) = x at *
  rw [State.fenceDecision_awaits (by rw [h2, hcS])] at et
  rw [et]
  refine ⟨?_, h3, by rw [h2, hcP], fun h => (h4 _ hne).2 (hin h), fun c h hs => ?_⟩
  · rw [fTwinState] at e6 ⊢
    rw [h1.twinField, hw.twinField, e6]
  · rw [h4 _ hne, hout c h]
    exact hs

end Sys2Proof.Machine
end

section
/-!
SUPPORT. A mismatch of a pair that runs, and of one in a rerun (R442 to R444).
-/
namespace Sys2Proof.Machine

/-! ## The cases of a mismatch -/

theorem State.mismatch_running {s : State} {p u : Nat} {d : Byte} {rp rs : Option Report} {brk : Bool}
    (h : s.fld (fTwinState p) ≠ twRerun) : s.mismatch p u d rp rs brk =
      if (s.pairStops p rp rs d).fld fMode = modeRun ∧ (s.pairStops p rp rs d).bit ⟨twinReg p 4, 20, 20⟩ ∧ !brk then
        (s.pairStops p rp rs d).sequence p u (s.twinPrimary p) (s.twinShadow p)
      else s.pairStops p rp rs d := by
  have hr : decide (s.fld (fTwinState p) = twRerun) = false := decide_eq_false h
  unfold State.mismatch
  simp only []
  rw [hr]
  rfl

theorem State.mismatch_rerun {s : State} {p u : Nat} {d : Byte} {rp rs : Option Report} {brk : Bool}
    (h : s.fld (fTwinState p) = twRerun) : s.mismatch p u d rp rs brk =
      if ((s.pairStops p rp rs 3).setFld (fDecision p) 2).bit ⟨twinReg p 4, 21, 21⟩ then
        ((s.pairStops p rp rs 3).setFld (fDecision p) 2).faultSafe 2
      else (s.pairStops p rp rs 3).setFld (fDecision p) 2 := by
  have hr : decide (s.fld (fTwinState p) = twRerun) = true := decide_eq_true h
  unfold State.mismatch
  simp only []
  rw [hr]
  rfl

/-! ## What the stop of a pair leaves as it was -/

section
variable {s : State} {p : Nat}

theorem State.stopFields_mode : ∀ x ∈ s.stopFields p, x.indep fMode := by
  have hc : canon fMode.addr = fMode.addr := canon_id (.inr (by decide))
  refine State.stopFields_indep (mismatchFields_indep hc (fun o _ _ => ?_) ?_ ?_) fun g => memberFields_high g (by decide)
  · simp only [fMode, twinReg]; omega
  · exact Fld.indep_of canon_fMinor hc (.inl (by decide))
  · exact Fld.indep_of canon_fMinorCount hc (.inl (by decide))

theorem State.stopFields_control (hi lo : Nat) : ∀ x ∈ s.stopFields p, x.indep ⟨twinReg p 4, hi, lo⟩ := by
  refine State.stopFields_indep (mismatchFields_indep (canon_twinReg p 4) (fun o _ _ => ?_) ?_ ?_)
    fun g => memberFields_high g ?_
  · simp only [twinReg]; omega
  · exact Fld.indep_of canon_fMinor (canon_twinReg p 4) (.inl (by simp only [fMinor, twinReg]; omega))
  · exact Fld.indep_of canon_fMinorCount (canon_twinReg p 4) (.inl (by simp only [fMinorCount, twinReg]; omega))
  · simp only [twinReg]; omega

/-- The core numbers of any pair: bits of the one register that a minor fault and pair 448's members would share. -/
theorem State.stopFields_members (q hi : Nat) {lo : Nat} (hl : 2 ≤ lo) : ∀ x ∈ s.stopFields p, x.indep ⟨twinReg q 0, hi, lo⟩ := by
  refine State.stopFields_indep (mismatchFields_indep (canon_twinReg q 0) (fun o _ _ => ?_) ?_ ?_)
    fun g => memberFields_high g ?_
  · simp only [twinReg]; omega
  · exact Fld.indep_of canon_fMinor (canon_twinReg q 0) (.inr (.inr hl))
  · exact Fld.indep_of canon_fMinorCount (canon_twinReg q 0) (.inl (by simp only [fMinorCount, twinReg]; omega))
  · simp only [twinReg]; omega

theorem State.stopFields_status {q : Nat} (hq : q ≠ p) : ∀ x ∈ s.stopFields p, x.indep (fTwinState q) := by
  obtain ⟨h1, h2⟩ := twinReg_minor (p := q) (o := 0x10) (by decide) (by decide) 2 0
  rw [fTwinState]
  refine State.stopFields_indep (mismatchFields_indep (canon_twinReg q 0x10) (fun o _ _ => ?_) h1 h2)
    fun g => memberFields_high g ?_
  · simp only [twinReg]; omega
  · simp only [twinReg]; omega

theorem State.stopFields_det (g : GT) : ∀ x ∈ s.stopFields p, x.indep (fDet g.val) := by
  have hc : canon (fDet g.val).addr = (fDet g.val).addr := canon_tReg g (by decide)
  have ht (o : Nat) : (fDet g.val).addr ≠ twinReg p o := tReg_ne_twinReg g (by decide) p o
  have hlt : (fDet g.val).addr < 0x10800000 := by have := g.isLt; simp only [fDet, tReg, coreBase]; omega
  refine State.stopFields_indep ?_ fun k => memberFields_det k g
  generalize fDet g.val = y at *
  exact mismatchFields_indep hc (fun o _ _ => ht o) (Fld.indep_of canon_fMinor hc (.inl (by simp only [fMinor]; omega)))
    (Fld.indep_of canon_fMinorCount hc (.inl (by simp only [fMinorCount]; omega)))
end

/-- Of pair p below 256 the members' register is no minor fault's. -/
theorem State.stopFields_pair {s : State} {p : Nat} (hp : p < 256) (hi lo : Nat) :
    ∀ x ∈ s.stopFields p, x.indep ⟨twinReg p 0, hi, lo⟩ := by
  refine State.stopFields_indep (mismatchFields_indep (canon_twinReg p 0) (fun o _ _ => ?_) ?_ ?_)
    fun g => memberFields_high g ?_
  · simp only [twinReg]; omega
  · exact Fld.indep_of canon_fMinor (canon_twinReg p 0) (.inl (by simp only [fMinor, twinReg]; omega))
  · exact Fld.indep_of canon_fMinorCount (canon_twinReg p 0) (.inl (by simp only [fMinorCount, twinReg]; omega))
  · simp only [twinReg]; omega

/-! ## The outcomes -/

/-- The automatic sequence of a pair falls due (R443, R448). -/
def State.autoDue (s : State) (p : Nat) (brk : Bool) : Prop :=
  s.fld fMode = modeRun ∧ s.bit ⟨twinReg p 4, 20, 20⟩ = true ∧ brk = false

/-- The sequence tests the cores that no other pair's has tested. -/
def State.testsCores (s t : State) (p : Nat) (r : Option Bool) : Prop :=
  t.fld (fTwinState p) = twSelftest ∧ s.twinShadow p / 64 ∈ t.selfTest ∧ (t.pair p).coreP = r ∧
    (r = none → s.twinPrimary p / 64 ∈ t.selfTest) ∧
    (r = some true → s.twinPrimary p / 64 ∉ s.selfTest → s.twinPrimary p / 64 ∉ t.selfTest)

section
variable {s : State} {p : Nat} (hne : s.twinPrimary p / 64 ≠ s.twinShadow p / 64)
  (hu : ∀ j < 64, (s.thread (s.twinPrimary p / 64 * 64 + j)).stopReq = false ∧
    (s.thread (s.twinShadow p / 64 * 64 + j)).stopReq = false)
  (u : Nat) (d : Byte) (rp rs : Option Report) (brk : Bool)
include hne hu

theorem State.pairStops_apart :
    let t := s.pairStops p rp rs d
    s.Sends t (s.stopFields p) ∧ t.fld (fTwinState p) = twStopped ∧ s.stoppedAs t p d ∧
      (∀ m, (s.thread m).stopReq = false → (t.thread m).stopReq = false) := by
  have h1 : s.primary p ≠ s.shadow p := fun e => hne (by rw [Fin.mk.inj_iff.1 e])
  have ha := (hu (s.twinPrimary p % 64) (Nat.mod_lt _ (by decide))).1
  have hb := (hu (s.twinShadow p % 64) (Nat.mod_lt _ (by decide))).2
  rw [Nat.div_add_mod'] at ha hb
  exact State.pairStops_leaves rp rs d h1 ha hb

theorem State.pairStops_due :
    ((s.pairStops p rp rs d).fld fMode = modeRun ∧ (s.pairStops p rp rs d).bit ⟨twinReg p 4, 20, 20⟩ ∧ !brk) ↔
      s.autoDue p brk := by
  obtain ⟨hs, -⟩ := State.pairStops_apart hne hu d rp rs
  have h1 := State.keeps_fld hs.keeps State.stopFields_mode
  have h2 := State.keeps_fld hs.keeps (State.stopFields_control 20 20)
  rw [h1, State.bit, h2, State.autoDue, State.bit, Bool.not_eq_true']

/-- A pair that runs stops where no sequence falls due. -/
theorem State.mismatch_stops (h : s.fld (fTwinState p) = twRunning) (hn : ¬ s.autoDue p brk) :
    let t := s.mismatch p u d rp rs brk
    s.stoppedAs t p d ∧ t.fld (fTwinState p) = twStopped := by
  intro t
  have et : t = s.pairStops p rp rs d := by
    refine (State.mismatch_running (by rw [h]; decide)).trans (if_neg ?_)
    rw [State.pairStops_due hne hu]
    exact hn
  obtain ⟨-, h1, h2, -⟩ := State.pairStops_apart hne hu d rp rs
  rw [et]
  exact ⟨h2, h1⟩

/-- A pair that runs begins the sequence that falls due. -/
theorem State.mismatch_tests (hp : p < 256) (h : s.fld (fTwinState p) = twRunning) (hn : s.autoDue p brk)
    (hd : ∀ j < 64, s.det (s.twinPrimary p / 64 * 64 + j) = false ∧ s.det (s.twinShadow p / 64 * 64 + j) = false)
    (ht : s.testedFor p (s.twinShadow p / 64) = none) :
    s.testsCores (s.mismatch p u d rp rs brk) p (s.testedFor p (s.twinPrimary p / 64)) := by
  have et : s.mismatch p u d rp rs brk = (s.pairStops p rp rs d).sequence p u (s.twinPrimary p) (s.twinShadow p) := by
    refine (State.mismatch_running (by rw [h]; decide)).trans (if_pos ?_)
    rw [State.pairStops_due hne hu]
    exact hn
  obtain ⟨hs, -, -, hreq⟩ := State.pairStops_apart hne hu d rp rs
  rw [et]
  clear et
  generalize s.pairStops p rp rs d = v at *
  have hla : s.twinPrimary p / 64 < 32 := by have := s.twinPrimary_lt p; omega
  have hlb : s.twinShadow p / 64 < 32 := by have := s.twinShadow_lt p; omega
  have hP : v.twinPrimary p = s.twinPrimary p :=
    congrArg BitVec.toNat (State.keeps_fld hs.keeps (State.stopFields_pair hp 10 0))
  have hS : v.twinShadow p = s.twinShadow p :=
    congrArg BitVec.toNat (State.keeps_fld hs.keeps (State.stopFields_pair hp 26 16))
  have hdet (g : GT) : v.det g.val = s.det g.val :=
    congrArg (· != 0) (State.keeps_fld hs.keeps (State.stopFields_det g))
  have htest (n : Nat) : v.testedFor p n = s.testedFor p n := by
    refine State.testedFor_congr (by rw [hs.near]) (State.sameTwins_of_keeps hs.keeps (fun q hq => State.stopFields_status hq)
      fun q _ hi lo hl => State.stopFields_members q hi ?_) n
    omega
  have hself : v.selfTest = s.selfTest := by rw [hs.near]
  have key := State.sequence_tests (s := v) (p := p) (u := u) hP.symm hS.symm hne
    (fun j hj => ?_) (fun j hj => ?_) ((htest _).trans ht)
  · obtain ⟨k1, k2, k3, k4, k5⟩ := key
    rw [htest] at k3 k4 k5
    exact ⟨k1, k2, k3, k4, fun h1 h2 => k5 true h1 (by rw [hself]; exact h2)⟩
  · rw [Nat.mul_comm 64, Nat.mul_comm 64]
    exact ⟨(hdet ⟨s.twinPrimary p / 64 * 64 + j, by omega⟩).trans (hd j hj).1,
      (hdet ⟨s.twinShadow p / 64 * 64 + j, by omega⟩).trans (hd j hj).2⟩
  · rw [Nat.mul_comm 64, Nat.mul_comm 64]
    exact ⟨hreq _ (hu j hj).1, hreq _ (hu j hj).2⟩

/-- A rerun that fails stops the pair, and the decision is recorded. -/
theorem State.mismatch_fails (h : s.fld (fTwinState p) = twRerun) (hf : s.bit ⟨twinReg p 4, 21, 21⟩ = false) :
    let t := s.mismatch p u d rp rs brk
    s.stoppedAs t p 3 ∧ t.fld (fTwinState p) = twStopped ∧ t.fld (fDecision p) = 2 := by
  intro t
  obtain ⟨hs, h1, ⟨h2, h3, h4, h5⟩, -⟩ := State.pairStops_apart hne hu 3 rp rs
  have hb := State.keeps_fld hs.keeps (State.stopFields_control 21 21)
  have hi1 : (fDecision p).indep ⟨twinReg p 4, 21, 21⟩ :=
    Fld.indep_of (canon_twinReg p 0x10) (canon_twinReg p 4) (.inl (by simp only [fDecision, twinReg]; omega))
  have hi2 : (fDecision p).indep (fTwinState p) := .inr ⟨by rw [fDecision, fTwinState], by simp [fDecision, fTwinState]⟩
  have hi3 : (fDecision p).indep (fMismatches p) :=
    Fld.indep_of (canon_twinReg p 0x10) (canon_twinReg p 0x2C) (.inl (by simp only [fDecision, fMismatches, twinReg]; omega))
  have hdok : (fDecision p).ok := by simp [Fld.ok, fDecision]
  have hdw : (2 : Word).toNat < 2 ^ ((fDecision p).hi - (fDecision p).lo + 1) := by simp [fDecision]
  have et : t = if ((s.pairStops p rp rs 3).setFld (fDecision p) 2).bit ⟨twinReg p 4, 21, 21⟩ then
      ((s.pairStops p rp rs 3).setFld (fDecision p) 2).faultSafe 2
      else (s.pairStops p rp rs 3).setFld (fDecision p) 2 := State.mismatch_rerun h
  clear_value t
  generalize s.pairStops p rp rs 3 = v at *
  generalize fDecision p = x at *
  have hbit : (v.setFld x 2).bit ⟨twinReg p 4, 21, 21⟩ = false := by
    rw [State.bit, State.fld_setFld_indep _ _ hi1, hb]
    exact hf
  rw [hbit, if_neg (by decide)] at et
  have hsend : v.Sends (v.setFld x 2) [x] := State.Sends.setFld v 2 List.mem_cons_self
  rw [et]
  refine ⟨⟨?_, hsend.shows h3, ?_, fun m hm hr hb => ?_⟩, ?_, State.fld_setFld_same _ _ _ hdok hdw⟩
  · rw [State.fld_setFld_indep _ _ hi3, h2]
  · rw [hsend.near]; exact h4
  · rw [State.thread_setFld]
    exact h5 m hm hr hb
  · rw [State.fld_setFld_indep _ _ hi2, h1]
end

end Sys2Proof.Machine
end

section
/-!
SUPPORT. Reports that differ, or one that waited too long (R438, R442).
-/
namespace Sys2Proof.Machine

section
variable {s : State} {p : Nat} {brk : Bool}

/-- An instruction that answers a mismatch stops the pair, or begins its sequence. -/
theorem mismatch_both {i : Instr} {d : Byte} {u : Nat} {rp rs : Option Report} (hp : p < 256)
    (hi : s.comparing p = true → exec i s = .next (s.mismatch p u d rp rs brk))
    (hne : s.twinPrimary p / 64 ≠ s.twinShadow p / 64)
    (hu : ∀ j < 64, (s.thread (s.twinPrimary p / 64 * 64 + j)).stopReq = false ∧
      (s.thread (s.twinShadow p / 64 * 64 + j)).stopReq = false) :
    (s.fld (fTwinState p) = twRunning → ¬ s.autoDue p brk →
      s.after i (fun t => s.stoppedAs t p d ∧ t.fld (fTwinState p) = twStopped)) ∧
    (s.fld (fTwinState p) = twRunning → s.autoDue p brk →
      (∀ j < 64, s.det (s.twinPrimary p / 64 * 64 + j) = false ∧ s.det (s.twinShadow p / 64 * 64 + j) = false) →
      s.testedFor p (s.twinShadow p / 64) = none → s.testedFor p (s.twinPrimary p / 64) ≠ some false →
      s.after i (fun t => s.testsCores t p (s.testedFor p (s.twinPrimary p / 64)))) ∧
    (s.fld (fTwinState p) = twRerun → s.bit ⟨twinReg p 4, 21, 21⟩ = false →
      s.after i (fun t => s.stoppedAs t p 3 ∧ t.fld (fTwinState p) = twStopped ∧ t.fld (fDecision p) = 2)) := by
  refine ⟨fun h hn => ⟨_, hi ?_, ?_⟩, fun h hn hd ht _ => ⟨_, hi ?_, ?_⟩, fun h hf => ⟨_, hi ?_, ?_⟩⟩
  · exact (State.comparing_iff s p).2 (.inl h)
  · exact State.mismatch_stops hne hu u d rp rs brk h hn
  · exact (State.comparing_iff s p).2 (.inl h)
  · exact State.mismatch_tests hne hu u d rp rs brk hp h hn hd ht
  · exact (State.comparing_iff s p).2 (.inr h)
  · exact State.mismatch_fails hne hu u d rp rs brk h hf
end

/-- One report that waited too long for the other. -/
theorem execTwinReportTimeout_lone {s : State} {pr : Fin 256} {brk : Bool} (h : s.comparing pr.val = true)
    (hl : (s.pair pr.val).repP = [] ↔ (s.pair pr.val).repS ≠ []) (ha : s.twinPrimary pr.val / 64 ∉ s.selfTest)
    (hb : s.twinShadow pr.val / 64 ∉ s.selfTest) :
    execTwinReportTimeout pr brk s = .next (s.mismatch pr.val ((s.serveUnit pr.val).getD (pr.val % 8)) 2
      (s.pair pr.val).repP.head? (s.pair pr.val).repS.head? brk) := by
  have hx : (s.pair pr.val).repP.head?.isSome ≠ (s.pair pr.val).repS.head?.isSome := by
    cases hP : (s.pair pr.val).repP <;> cases hS : (s.pair pr.val).repS <;> simp_all
  unfold execTwinReportTimeout
  simp only []
  rw [if_pos]
  exact ⟨h, hx, by simpa using ha, by simpa using hb⟩

theorem State.rerunEnds_pairs (s : State) (p : Nat) : (s.rerunEnds p).pairs = s.pairs := rfl

theorem State.twinBreak_idle {s : State} {p : Nat} (h : s.fld (fTwinState p) = twOff ∨ s.fld (fTwinState p) = twBroken) :
    s.twinBreak p = s := if_pos h

/-- A rerun whose reports agree has one less to compare, and the last ends it. -/
theorem State.rerun_leaves {s : State} {p : Nat} (xs ys : List Report) (h : s.fld (fTwinState p) = twRerun) :
    let v := (s.compared p xs ys).rerunLess p
    let t := if (s.pair p).rerun ≤ 1 then v.rerunEnds p else v
    (t.pair p).repP = xs ∧ (t.pair p).repS = ys ∧ (t.pair p).rerun = (s.pair p).rerun - 1 ∧
      (1 < (s.pair p).rerun → t.fld (fTwinState p) = twRerun) ∧
      ((s.pair p).rerun ≤ 1 → t.fld (fTwinState p) = twRunning ∧ t.fld (fDecision p) = 1) := by
  intro v t
  have hq : (s.compared p xs ys).pair p = { s.pair p with repP := xs, repS := ys } := State.compared_pair s p xs ys
  have hs : (s.compared p xs ys).fld (fTwinState p) = twRerun := (State.compared_state s p xs ys).trans h
  have hv : v.pair p = { s.pair p with repP := xs, repS := ys, rerun := (s.pair p).rerun - 1 } := by
    have hl : v.pair p = { (s.compared p xs ys).pair p with rerun := ((s.compared p xs ys).pair p).rerun - 1 } :=
      Map.get_set_same _ _ _ _
    rw [hl, hq]
  have hvs : v.fld (fTwinState p) = twRerun := hs
  have ht : t.pair p = v.pair p := by
    by_cases hr : (s.pair p).rerun ≤ 1
    · rw [show t = v.rerunEnds p from if_pos hr, State.pair, State.rerunEnds_pairs, ← State.pair]
    · rw [show t = v from if_neg hr]
  rw [ht, hv]
  refine ⟨rfl, rfl, rfl, fun hr => ?_, fun hr => ?_⟩
  · rw [show t = v from if_neg (Nat.not_le.2 hr), hvs]
  · rw [show t = v.rerunEnds p from if_pos hr]
    exact State.rerunEnds_fields v p

/-- Settles O45: SEED and BREAK by what they write of the pair and of its two members; a comparison by its cases, and
a mismatch by what the stop of both members leaves, on which the sequence builds. -/
theorem twinPairs : Obligations.TwinPairs := by
  unfold Obligations.TwinPairs
  intro who pr g brk s p gt a b st q tries u entry
  refine ⟨fun hd hp hf => ⟨fun h => ?_, fun h => ?_, fun h => ?_, fun h1 h2 h3 h4 h5 => ?_⟩,
    fun sh h1 h2 h3 h4 => ⟨fun h => ?_, fun h => ?_⟩,
    fun x xs y ys v hv hx hy => ⟨fun h1 h2 => ?_, fun h hm => ?_, fun h hm => ?_⟩, ?_, ?_⟩
  · exact (execTwinSeed_eq hd hp hf).trans (congrArg _ (if_neg (by rw [h]; decide)))
  · refine ⟨_, (execTwinSeed_eq hd hp hf).trans (congrArg _ (if_pos h)), ?_⟩
    exact State.seed_leaves (State.maySeed_apart h)
  · exact (execTwinBreak_eq hd hp hf).trans (congrArg _ (State.twinBreak_idle h))
  · exact ⟨_, execTwinBreak_eq hd hp hf, State.twinBreak_leaves ⟨h1, h2⟩ h3 h5 h4⟩
  · exact execWindowEnd_waits h1 h2 h3 h4 h
  · exact execWindowEnd_reports h1 h2 h3 h4 (Nat.not_le.2 h)
  · refine execTwinCompare_idle hv hx hy ?_
    rw [← Bool.not_eq_true, State.comparing_iff]
    exact not_or.2 ⟨h1, h2⟩
  · refine (execTwinCompare_agree hv hx hy ((State.comparing_iff s p).2 (.inl h)) hm).trans (congrArg _ (if_neg ?_))
    rw [show s.fld (fTwinState p) = twRunning from h]
    decide
  · refine ⟨_, (execTwinCompare_agree hv hx hy ((State.comparing_iff s p).2 (.inr h)) hm).trans
      (congrArg _ (if_pos h)), ?_⟩
    exact State.rerun_leaves xs ys h
  · rintro ⟨x, xs, y, ys, v, hv, hx, hy, hm⟩ hne hu
    exact mismatch_both pr.isLt (fun h => execTwinCompare_differ hv hx hy h hm) hne hu
  · rintro ⟨hl, ha, hb⟩ hne hu
    exact mismatch_both pr.isLt (fun h => execTwinReportTimeout_lone h hl ha hb) hne hu

end Sys2Proof.Machine
end

section
/-!
SUPPORT. Instructions that go on with their thread's registers written: NOP, TOTASK, the flag moves, and the reads of
loop registers, features and descriptors (R116, R159, R183).
-/
namespace Sys2Proof.Machine

/-! ## An operation that writes its thread alone -/

section
variable {s s' : State} {x : Issue} {i : Ins} {body : State → Exec}
  (h : s.issues x i) (hv : i.via = false ∨ (s.thread x.gt.val).twin = none)
include h hv

/-- The operation left no more than its thread changed, which keeps its general registers but the listed ones. -/
theorem State.issue_ranWith {ds : List Reg} (hb : body (s.fetchAhead x.gt.val) = .done s' .seq)
    (hst : (s.fetchAhead x.gt.val).stepped s' x.gt.val)
    (hp : ((s.fetchAhead x.gt.val).thread x.gt.val).Placed (s'.thread x.gt.val))
    (hr : ((s.fetchAhead x.gt.val).thread x.gt.val).sameRest (s'.thread x.gt.val))
    (hg : ((s.fetchAhead x.gt.val).thread x.gt.val).sameRegsBut (s'.thread x.gt.val) ds)
    (hl : (s'.thread x.gt.val).lineBuf = ((s.fetchAhead x.gt.val).thread x.gt.val).lineBuf) :
    s.ran (s.issue x i body) x.gt.val ds ∧ Thread.Same (s'.thread x.gt.val) ((s.issue x i body).thread x.gt.val) := by
  obtain ⟨f1, ⟨f2, -, f3⟩, -⟩ := State.fetchAhead_unmoved s x.gt.val
  obtain ⟨q1, q2, q3⟩ := State.issue_ran h hv hb ((State.fetchAhead_placed s _).trans hp)
  exact ⟨⟨State.stepped_trans f1 (State.stepped_trans hst q1), q3, Thread.sameRest_trans f3 (Thread.sameRest_trans hr q2.rest),
    fun r hd => (q2.rd r).trans ((hg r hd).trans (f2 r List.not_mem_nil)), q2.line.trans hl⟩, q2⟩

theorem State.issue_nothing (hb : body (s.fetchAhead x.gt.val) = .done (s.fetchAhead x.gt.val) .seq) :
    s.ran (s.issue x i body) x.gt.val [] ∧
      ((s.issue x i body).thread x.gt.val).flags = (s.thread x.gt.val).flags := by
  obtain ⟨q1, q2⟩ := State.issue_ranWith h hv hb (State.stepped_refl _ _) (Thread.Placed.refl _)
    (Thread.Same.refl _).rest (fun _ _ => rfl) rfl
  exact ⟨q1, q2.flags.trans (State.fetchAhead_flags s _)⟩

theorem State.issue_setsFlags {fl : Flags} (hb : body (s.fetchAhead x.gt.val) =
      .done ((s.fetchAhead x.gt.val).modThread x.gt.val (fun t => t.setFlags fl)) .seq) :
    s.ran (s.issue x i body) x.gt.val [] ∧ ((s.issue x i body).thread x.gt.val).flags = fl := by
  have ht := State.thread_modThread_same (s.fetchAhead x.gt.val) x.gt.val (fun t => t.setFlags fl)
  obtain ⟨q1, q2⟩ := State.issue_ranWith h hv hb (ds := []) (State.stepped_modThread _ _ _)
    (by rw [ht]; exact Thread.setFlags_placed _ _) (by rw [ht]; exact Thread.setFlags_sameRest _ _)
    (by rw [ht]; exact fun r _ => Thread.rd_setFlags _ _ r) (by rw [ht]; exact Thread.lineBuf_setFlags _ _)
  exact ⟨q1, by rw [q2.flags, ht, Thread.flags_setFlags]⟩

theorem State.issue_writesReg {d : Reg} {r : Word} (hb : body (s.fetchAhead x.gt.val) =
      .done ((s.fetchAhead x.gt.val).modThread x.gt.val (fun t => t.wr d r)) .seq) :
    s.yields (.next (s.issue x i body)) x.gt.val d r (s.thread x.gt.val).flags := by
  obtain ⟨h1, h2, h3⟩ := State.issue_thread h hv hb ((State.fetchAhead_placed s _).trans (Thread.wr_placed _ d r))
  rw [← State.fetchAhead_flags s, ← Thread.flags_wr _ d r]
  refine State.yields_of rfl h1 h2 h3 ?_ (Thread.lineBuf_wr _ _ _) fun q => ?_
  · exact Thread.sameRest_trans (State.fetchAhead_sameRest s _) (Thread.wr_sameRest _ _ _)
  · rw [Thread.rd_wr, State.fetchAhead_rd]
end

/-! ## Single bits of a word -/

theorem putBits_set_bit (w : Word) {i : Nat} (hi : i < 32) : putBits w i i 1 = w ||| BitVec.twoPow 32 i := by
  apply BitVec.eq_of_getLsbD_eq
  intro j hj
  rw [getLsbD_putBits, BitVec.getLsbD_or, BitVec.getLsbD_twoPow]
  by_cases h : i = j
  · subst h
    simp [hi]
  · rw [if_neg (by omega)]
    simp [h, hj]

theorem putBits_clear_bit (w : Word) {i : Nat} (hi : i < 32) : putBits w i i 0 = w &&& ~~~ (BitVec.twoPow 32 i) := by
  apply BitVec.eq_of_getLsbD_eq
  intro j hj
  rw [getLsbD_putBits, BitVec.getLsbD_and, BitVec.getLsbD_not, BitVec.getLsbD_twoPow]
  by_cases h : i = j
  · subst h
    simp [hi]
  · rw [if_neg (by omega)]
    simp [h, hj]

/-! ## TOTASK (R116) -/

theorem State.leaveLead_touched (s : State) (gt : Nat) : s.touched (s.setBit (fCurLead gt) false) gt [tCfg gt 0] := by
  have ha : (fCurLead gt).addr = tCfg gt 0 := by rw [fCurLead]
  generalize fCurLead gt = x at *
  exact State.touched_setFld s gt x _ (by rw [ha]; exact List.mem_singleton_self _)

theorem State.leaveLead_reg (s : State) (gt : Nat) :
    (s.setBit (fCurLead gt) false).reg (tCfg gt 0) = s.reg (tCfg gt 0) &&& ~~~ 2 := by
  rw [State.setBit, State.setFld, fCurLead, State.reg_setReg_same, boolWord_false, putBits_clear_bit _ (i := 1) (by decide)]
  rfl

theorem execTotask_leaves {x : Issue} {s : State} (h : s.issues x { pairOk := false }) :
    ∃ t, execTotask x s = .next t ∧ s.touched t x.gt.val [tCfg x.gt.val 0] ∧
      (s.thread x.gt.val).wentOn (t.thread x.gt.val) ∧ (s.thread x.gt.val).keptBut (t.thread x.gt.val) [] ∧
      t.reg (tCfg x.gt.val 0) = s.reg (tCfg x.gt.val 0) &&& ~~~ 2 := by
  obtain ⟨f1, f2, -⟩ := State.fetchAhead_unmoved s x.gt.val
  let w := (s.fetchAhead x.gt.val).setBit (fCurLead x.gt.val) false
  have hth : w.thread x.gt.val = (s.fetchAhead x.gt.val).thread x.gt.val := State.thread_setBit _ _ _ _
  obtain ⟨q1, q2, q3⟩ := State.issue_ran (s' := w) (body := fun s => .done (s.setBit (fCurLead x.gt.val) false) .seq)
    h (.inl rfl) rfl (by rw [hth]; exact State.fetchAhead_placed s _)
  rw [hth] at q2
  refine ⟨_, rfl, ?_, q3, Thread.keptBut_same f2 q2, ?_⟩
  · exact State.touched_trans (State.touched_touched (State.stepped_touched f1) (State.leaveLead_touched _ _)) q1
  · refine (State.stepped_tCfg x.gt q1 (by decide)).trans ((State.leaveLead_reg _ _).trans ?_)
    rw [State.fetchAhead_reg]

/-! ## What the moves read -/

theorem Flags.toWord_eq (fl : Flags) : fl.toWord = (0 : BitVec 28) ++ BitVec.ofBool fl.n ++ BitVec.ofBool fl.z ++
    BitVec.ofBool fl.c ++ BitVec.ofBool fl.v := by
  obtain ⟨n, z, c, v⟩ := fl
  revert n z c v
  decide

/-- Field fi of loop register k. -/
theorem Thread.loop_field (t : Thread) (k fi : BitVec 2) :
    (t.loop k.toNat).field fi.toNat =
      (let l : Loop := if k = 0 then t.lp0 else if k = 1 then t.lp1 else t.lp2
       match fi with
        | 0 => l.start
        | 1 => l.stop
        | 2 => l.count
        | 3 => if l.active then 1 else 0) := by
  have hk : t.loop k.toNat = if k = 0 then t.lp0 else if k = 1 then t.lp1 else t.lp2 := by
    match k with
    | 0 | 1 | 2 | 3 => rfl
  rw [hk]
  match fi with
  | 0 | 1 | 2 | 3 => rfl

theorem execLprd_reads {x : Issue} {k : BitVec 2} (d : Reg) (fi : BitVec 2) {s : State}
    (h : s.issues x { wf := k != 3, writes := [d], pairOk := false }) :
    s.yields (execLprd x d k fi s) x.gt.val d (((s.thread x.gt.val).loop k.toNat).field fi.toNat)
      (s.thread x.gt.val).flags := by
  refine State.issue_writesReg h (.inl rfl) ?_
  rw [← State.fetchAhead_loop s]
  rfl

theorem State.feat_eq (s : State) (gt : Nat) (n : Fin 8) : s.feat gt n.val =
    (if n = 1 then
      (match s.owner (ownThread gt) with
        | some v => BitVec.ofNat 32 (2 ^ 17 + v * 2 ^ 11 + gt)
        | none => BitVec.ofNat 32 gt)
    else s.reg (0x10000100 + 4 * n.val)) := by
  unfold State.feat
  by_cases h : n = 1
  · rw [if_pos h, if_pos (show n.val = 1 from congrArg Fin.val h)]
    cases s.owner (ownThread gt) with
    | none => simp only [Nat.zero_add]
    | some v => rfl
  · rw [if_neg h, if_neg (show ¬ n.val = 1 from fun e => h (Fin.ext e))]

theorem State.feat_fetchAhead (s : State) (gt g n : Nat) : (s.fetchAhead gt).feat g n = s.feat g n := by
  simp only [State.feat, State.fetchAhead_reg, State.owner_congr (State.fetchAhead_regs s gt)]

theorem execRdfeat_reads {x : Issue} (d : Reg) (n : Fin 8) {s : State} (h : s.issuesAlone x (insRdfeat d)) :
    s.yields (execRdfeat x d n s) x.gt.val d (s.feat x.gt.val n.val) (s.thread x.gt.val).flags := by
  rw [← State.feat_fetchAhead s x.gt.val]
  exact State.issue_writesReg h.1 (.inr h.2) rfl

/-- Settles O9: NOP, MVTF and the reads by what their operation writes of the thread, TOTASK by its register. -/
theorem movesFeaturesAndSegmentReads : Obligations.MovesFeaturesAndSegmentReads := by
  unfold Obligations.MovesFeaturesAndSegmentReads
  refine ⟨fun x d a k fi s => ?_, fun x d n si w s => ?_⟩
  · intro gt u l
    refine ⟨fun h => ⟨_, rfl, State.issue_nothing h (.inl rfl) rfl⟩, execTotask_leaves, fun h => ?_, fun h => ?_,
      fun h => ?_⟩
    · rw [← Flags.toWord_eq]
      refine State.issue_writesReg h (.inl rfl) ?_
      rw [← State.fetchAhead_flags s]
      rfl
    · refine ⟨_, rfl, State.issue_setsFlags h (.inl rfl) ?_⟩
      show _ = Exec.done ((s.fetchAhead gt).modThread gt (fun t => t.setFlags (Flags.ofWord (u.rd a)))) .seq
      rw [← State.fetchAhead_rd s]
      rfl
    · have e := execLprd_reads d fi h
      rw [Thread.loop_field] at e
      exact e
  · intro gt u
    refine ⟨fun h => ?_, fun h => ?_⟩
    · have e := execRdfeat_reads d n h
      rw [State.feat_eq] at e
      exact e
    · rw [← State.fetchAhead_reg s gt]
      exact State.issue_writesReg h.1 (.inr h.2) rfl

end Sys2Proof.Machine
end

section
/-!
SUPPORT. The return stack, the loop registers, and control transfers with a delay slot (R133, R136 to R142, R180, R181,
R183, R185).
-/
namespace Sys2Proof.Machine

/-! ## An operation that faults -/

/-- An instruction whose operation faults, having changed nothing. -/
theorem State.issue_raises {s : State} {x : Issue} {i : Ins} {body : State → Exec} {c : BitVec 4} {d : Byte}
    (h : s.issues x i) (hv : i.via = false ∨ (s.thread x.gt.val).twin = none)
    (hb : body (s.fetchAhead x.gt.val) = .fault (s.fetchAhead x.gt.val) (precise c d)) :
    s.raisedAt (s.issue x i body) x.gt.val c d := by
  rw [State.issue_fault h hv hb]
  exact State.raisedAt_of s _ _ _ _

/-! ## Pushing (R136, R137) -/

/-- A push that finds the stack full is refused. -/
abbrev State.stackFull (s : State) (gt : Nat) : Prop := 8 ≤ (s.thread gt).rs.length ∧ s.bit (fRsTrap gt) = true

theorem State.push_full {s : State} {gt : Nat} (v : Word) (h : s.stackFull gt) : s.push gt v = none := by
  obtain ⟨h1, h2⟩ := h
  simp [State.push, h1, h2]

theorem State.push_wrapped {s t : State} {gt : Nat} {v : Word} (h : s.push gt v = some t) : t.reg (tCfg gt 0x10) =
    if 8 ≤ (s.thread gt).rs.length then s.reg (tCfg gt 0x10) ||| 0x10 else s.reg (tCfg gt 0x10) := by
  unfold State.push at h
  by_cases hl : 8 ≤ (s.thread gt).rs.length
  · simp only [hl, if_true] at h ⊢
    split at h
    · cases h
    · cases h
      rw [State.setBit, State.setFld, fWrapped, State.reg_setReg_same, State.reg_setThread, boolWord_true,
        putBits_set_bit _ (i := 4) (by decide)]
      rfl
  · simp only [hl, if_false] at h ⊢
    cases h
    exact State.reg_setThread _ _ _ _

/-- A value has been pushed, WRAPPED set where the stack was full, and nothing else changed but what an instruction
changes. -/
def State.pushed (s t : State) (gt : Nat) (v : Word) : Prop :=
  s.touched t gt [tCfg gt 0x10] ∧ ((s.thread gt).pushed v).keptBut (t.thread gt) [] ∧
    t.reg (tCfg gt 0x10) =
      (if 8 ≤ (s.thread gt).rs.length then s.reg (tCfg gt 0x10) ||| 0x10 else s.reg (tCfg gt 0x10))

theorem State.pushed_stepped {s t u : State} {g : GT} {v : Word} (h : s.pushed t g.val v) (k : t.stepped u g.val)
    (hs : Thread.Same (t.thread g.val) (u.thread g.val)) : s.pushed u g.val v := by
  obtain ⟨h1, h2, h3⟩ := h
  exact ⟨State.touched_trans h1 k, Thread.keptBut_same h2 hs, (State.stepped_tCfg g k (by decide)).trans h3⟩

theorem Thread.pushed_keptBut {u w : Thread} (v : Word) (h : u.keptBut w []) : (u.pushed v).keptBut (w.pushed v) [] := by
  obtain ⟨h1, h2, hrs, hrest⟩ := h
  exact ⟨h1, h2, by rw [Thread.pushed, Thread.pushed, hrs], hrest⟩

theorem State.fetchAhead_push {s : State} {gt : Nat} (v : Word) (h : ¬ s.stackFull gt) :
    ∃ t, (s.fetchAhead gt).push gt v = some t ∧ s.pushed t gt v ∧ (s.thread gt).Placed (t.thread gt) := by
  obtain ⟨f1, f2, -⟩ := State.fetchAhead_unmoved s gt
  have hroom : ((s.fetchAhead gt).thread gt).rs.length < 8 ∨ (s.fetchAhead gt).bit (fRsTrap gt) = false := by
    rw [State.fetchAhead_rs, State.fetchAhead_bit]
    rcases Nat.lt_or_ge (s.thread gt).rs.length 8 with hl | hl
    · exact .inl hl
    · exact .inr (Bool.not_eq_true _ ▸ fun e => h ⟨hl, e⟩)
  obtain ⟨t, ht, hto, hth⟩ := State.push_room v hroom
  refine ⟨t, ht, ⟨State.touched_touched (State.stepped_touched f1) hto, ?_, ?_⟩, ?_⟩
  · rw [hth]
    exact Thread.pushed_keptBut v f2
  · rw [State.push_wrapped ht, State.fetchAhead_rs, State.fetchAhead_reg]
  · rw [hth]
    exact State.fetchAhead_placed s gt

/-- The operation of an instruction that pushes: RSPUSH, CALL and CALLR. -/
def pushBody (gt : Nat) (v : Thread → Word) (nx : Thread → Next) (s : State) : Exec :=
  match s.push gt (v (s.thread gt)) with
  | some s' => .done s' (nx (s.thread gt))
  | none => .fault s (precise 5 1)

theorem execRspush_eq (x : Issue) (a : Reg) (s : State) : execRspush x a s = .next (s.issue x
    { reads := [a], pairOk := false } (pushBody x.gt.val (fun t => t.rd a &&& ~~~ 3) (fun _ => .seq))) := rfl
theorem execCall1_eq (x : Issue) (rs : List Reg) (target : Thread → Word) (s : State) : execCall1 x rs target s =
    s.issue x (insXfer rs) (pushBody x.gt.val (fun t => t.pc + 8) (fun t => .delay (target t) true)) := rfl

section
variable {s : State} {x : Issue} {i : Ins} {v : Thread → Word} {nx : Thread → Next} (h : s.issues x i)
  (hv : i.via = false)
include h hv

theorem State.issue_push_full (hf : s.stackFull x.gt.val) :
    s.raisedAt (s.issue x i (pushBody x.gt.val v nx)) x.gt.val 5 1 := by
  refine State.issue_raises h (.inl hv) ?_
  rw [pushBody, State.push_full _ ?_]
  unfold State.stackFull
  rw [State.fetchAhead_rs, State.fetchAhead_bit]
  exact hf

variable (hf : ¬ s.stackFull x.gt.val)
  (hval : v ((s.fetchAhead x.gt.val).thread x.gt.val) = v (s.thread x.gt.val))
include hf hval

theorem State.issue_push_goes (hn : nx = fun _ => .seq) :
    s.pushed (s.issue x i (pushBody x.gt.val v nx)) x.gt.val (v (s.thread x.gt.val)) ∧
      (s.thread x.gt.val).wentOn ((s.issue x i (pushBody x.gt.val v nx)).thread x.gt.val) := by
  obtain ⟨s', e, hp, hpl⟩ := State.fetchAhead_push (v (s.thread x.gt.val)) hf
  obtain ⟨q1, q2, q3⟩ := State.issue_ran (body := pushBody x.gt.val v nx) h (.inl hv)
    (by rw [pushBody, hval, e, hn]) hpl
  exact ⟨State.pushed_stepped hp q1 q2, q3⟩

theorem State.issue_push_delays {target : Word}
    (hn : nx ((s.fetchAhead x.gt.val).thread x.gt.val) = .delay target true) :
    s.pushed (s.issue x i (pushBody x.gt.val v nx)) x.gt.val (v (s.thread x.gt.val)) ∧
      (s.thread x.gt.val).tookDelay ((s.issue x i (pushBody x.gt.val v nx)).thread x.gt.val) target := by
  obtain ⟨s', e, hp, hpl⟩ := State.fetchAhead_push (v (s.thread x.gt.val)) hf
  obtain ⟨q1, q2, q3⟩ := State.issue_delay (body := pushBody x.gt.val v nx) h (.inl hv)
    (by rw [pushBody, hval, e]; exact congrArg _ hn) hpl
  exact ⟨State.pushed_stepped hp q1 q2, q3⟩
end

/-! ## Popping (R138) -/

/-- A thread without its newest return address. -/
def Thread.popped (t : Thread) : Thread := { t with rs := t.rs.tail }

theorem Thread.popped_keptBut {u w : Thread} (h : u.keptBut w []) : u.popped.keptBut w.popped [] := by
  obtain ⟨h1, h2, hrs, hrest⟩ := h
  exact ⟨h1, h2, by rw [Thread.popped, Thread.popped, hrs], hrest⟩
theorem Thread.popped_cons {t : Thread} {v : Word} {r : List Word} (h : t.rs = v :: r) :
    t.popped = { t with rs := r } := by rw [Thread.popped, h]; rfl

theorem State.pop_cons {s : State} {gt : Nat} {v : Word} {r : List Word} (h : (s.thread gt).rs = v :: r) :
    s.pop gt = some (v, s.setThread gt (s.thread gt).popped) := by
  simp [State.pop, Thread.popped, h]
theorem State.pop_nil {s : State} {gt : Nat} (h : (s.thread gt).rs = []) : s.pop gt = none := by
  simp [State.pop, h]

/-- The operation of RSPOP. -/
def rspopBody (gt : Nat) (d : Reg) (s : State) : Exec :=
  match s.pop gt with
  | some (v, s') => .done (s'.modThread gt (fun t => t.wr d v)) .seq
  | none => .fault s (precise 5 2)
/-- The operation of RET. -/
def retBody (gt : Nat) (s : State) : Exec :=
  match s.pop gt with
  | some (v, s') => .done s' (.delay v true)
  | none => .fault s (precise 5 2)
theorem execRspop_eq (x : Issue) (d : Reg) (s : State) :
    execRspop x d s = .next (s.issue x { writes := [d], pairOk := false } (rspopBody x.gt.val d)) := rfl
theorem execRet_eq (x : Issue) (s : State) : execRet x s = .next (s.issue x (insXfer []) (retBody x.gt.val)) := rfl

section
variable {x : Issue} {s : State}

theorem execRspop_empty {d : Reg} (h : s.issues x { writes := [d], pairOk := false })
    (hr : (s.thread x.gt.val).rs = []) : ∃ t, execRspop x d s = .next t ∧ s.raisedAt t x.gt.val 5 2 := by
  refine ⟨_, execRspop_eq x d s, State.issue_raises h (.inl rfl) ?_⟩
  rw [rspopBody, State.pop_nil ((State.fetchAhead_rs s _).trans hr)]

theorem execRspop_pops {d : Reg} {v : Word} {r : List Word} (h : s.issues x { writes := [d], pairOk := false })
    (hr : (s.thread x.gt.val).rs = v :: r) :
    ∃ t, execRspop x d s = .next t ∧ s.stepped t x.gt.val ∧ (s.thread x.gt.val).wentOn (t.thread x.gt.val) ∧
      ({ s.thread x.gt.val with rs := r } : Thread).keptBut (t.thread x.gt.val) [d] ∧
      (t.thread x.gt.val).rd d = (if d = 0 then 0 else v) := by
  obtain ⟨f1, f2, -⟩ := State.fetchAhead_unmoved s x.gt.val
  let w := (s.fetchAhead x.gt.val).setThread x.gt.val ((s.fetchAhead x.gt.val).thread x.gt.val).popped
  have hb : rspopBody x.gt.val d (s.fetchAhead x.gt.val) = .done (w.modThread x.gt.val (fun t => t.wr d v)) .seq := by
    rw [rspopBody, State.pop_cons ((State.fetchAhead_rs s _).trans hr)]
  have hth : (w.modThread x.gt.val (fun t => t.wr d v)).thread x.gt.val =
      (((s.fetchAhead x.gt.val).thread x.gt.val).popped).wr d v := by
    rw [State.thread_modThread_same, State.thread_setThread_same]
  obtain ⟨q1, q2, q3⟩ := State.issue_ran h (.inl rfl) hb (by
    rw [hth]
    exact (State.fetchAhead_placed s _).trans (Thread.wr_placed _ d v))
  rw [hth] at q2
  obtain ⟨k1, k2, k3⟩ := Thread.popped_keptBut f2
  have hrd (q : Reg) : ((s.issue x { writes := [d], pairOk := false } (rspopBody x.gt.val d)).thread x.gt.val).rd q =
      if q = d ∧ d ≠ 0 then v else (s.thread x.gt.val).popped.rd q := by
    rw [q2.rd, Thread.rd_wr, k1 q List.not_mem_nil]
  rw [← Thread.popped_cons hr]
  refine ⟨_, execRspop_eq x d s, State.stepped_trans f1 (State.stepped_trans (State.stepped_setThread _ _ _)
    (State.stepped_trans (State.stepped_modThread _ _ _) q1)), q3, ⟨fun q hq => ?_, ?_, ?_⟩, ?_⟩
  · rw [hrd, if_neg (fun k => hq (List.mem_singleton.2 k.1))]
  · rw [q2.flags, Thread.flags_wr, k2]
  · exact Thread.sameRest_trans k3 (Thread.sameRest_trans (Thread.wr_sameRest _ _ _) q2.rest)
  · rw [hrd, Thread.rd_written]

theorem execRet_empty (h : s.issues x (insXfer [])) (hr : (s.thread x.gt.val).rs = []) :
    ∃ t, execRet x s = .next t ∧ s.raisedAt t x.gt.val 5 2 := by
  refine ⟨_, execRet_eq x s, State.issue_raises h (.inl rfl) ?_⟩
  rw [retBody, State.pop_nil ((State.fetchAhead_rs s _).trans hr)]

/-- The thread takes a transfer with a delay slot and is otherwise as given. -/
def State.transfers (s t : State) (gt : Nat) (v : Thread) (target : Word) : Prop :=
  s.stepped t gt ∧ v.keptBut (t.thread gt) [] ∧ (s.thread gt).tookDelay (t.thread gt) target

theorem execRet_returns {v : Word} {r : List Word} (h : s.issues x (insXfer []))
    (hr : (s.thread x.gt.val).rs = v :: r) :
    ∃ t, execRet x s = .next t ∧ s.transfers t x.gt.val { s.thread x.gt.val with rs := r } v := by
  obtain ⟨f1, f2, -⟩ := State.fetchAhead_unmoved s x.gt.val
  have hb : retBody x.gt.val (s.fetchAhead x.gt.val) = .done ((s.fetchAhead x.gt.val).setThread x.gt.val
      ((s.fetchAhead x.gt.val).thread x.gt.val).popped) (.delay v true) := by
    rw [retBody, State.pop_cons ((State.fetchAhead_rs s _).trans hr)]
  obtain ⟨q1, q2, q3⟩ := State.issue_delay h (.inl rfl) hb (by
    rw [State.thread_setThread_same]
    exact State.fetchAhead_placed s _)
  rw [State.thread_setThread_same] at q2
  rw [← Thread.popped_cons hr]
  exact ⟨_, execRet_eq x s, State.stepped_trans f1 (State.stepped_trans (State.stepped_setThread _ _ _) q1),
    Thread.keptBut_same (Thread.popped_keptBut f2) q2, q3⟩
end

/-! ## Branches and calls (R133, R180, R181) -/

theorem shiftLeft_two (w : Word) : w <<< 2 = 4 * w := by
  rw [BitVec.shiftLeft_eq_mul_twoPow, BitVec.mul_comm]
  rfl

section
variable {s : State} {x : Issue} {i : Ins} (h : s.issues x i) (hv : i.via = false)
include h hv

theorem State.issue_transfers {body : State → Exec} {target : Word} {taken : Bool}
    (hb : body (s.fetchAhead x.gt.val) = .done (s.fetchAhead x.gt.val) (.delay target taken)) :
    s.transfers (s.issue x i body) x.gt.val (s.thread x.gt.val) target := by
  obtain ⟨f1, f2, -⟩ := State.fetchAhead_unmoved s x.gt.val
  obtain ⟨q1, q2, q3⟩ := State.issue_delay h (.inl hv) hb (State.fetchAhead_placed s _)
  exact ⟨State.stepped_trans f1 q1, Thread.keptBut_same f2 q2, q3⟩
end

/-- The columns and the operation of B. -/
def insB (cond : BitVec 4) : Ins := { insXfer [] with wf := cond != 0xF, rdFlags := true }
def bBody (gt : Nat) (cond : BitVec 4) (d : BitVec 21) (s : State) : Exec :=
  if (s.thread gt).flags.holds cond then .done s (.delay (target21 (s.thread gt).pc d) true)
  else .done s (.delay ((s.thread gt).pc + 8) false)
theorem execB_eq (x : Issue) (cond : BitVec 4) (d : BitVec 21) (s : State) :
    execB x cond d s = .next (s.issue x (insB cond) (bBody x.gt.val cond d)) := rfl

theorem execB_transfers {x : Issue} {cond : BitVec 4} (d : BitVec 21) {s : State} (h : s.issues x (insB cond)) :
    ∃ t, execB x cond d s = .next t ∧ s.transfers t x.gt.val (s.thread x.gt.val)
      (if (s.thread x.gt.val).flags.holds cond then (s.thread x.gt.val).pc + 4 * d.signExtend 32
        else (s.thread x.gt.val).pc + 8) := by
  refine ⟨_, execB_eq x cond d s, State.issue_transfers (taken := (s.thread x.gt.val).flags.holds cond) h rfl ?_⟩
  rw [bBody, State.fetchAhead_flags, State.fetchAhead_pc, target21, shiftLeft_two]
  cases (s.thread x.gt.val).flags.holds cond <;> rfl

theorem execBr_transfers {x : Issue} {a : Reg} {s : State} (h : s.issues x (insXfer [a])) :
    ∃ t, execBr x a s = .next t ∧
      s.transfers t x.gt.val (s.thread x.gt.val) ((s.thread x.gt.val).rd a &&& ~~~ 3) := by
  refine ⟨_, rfl, State.issue_transfers (taken := true) h rfl ?_⟩
  rw [State.fetchAhead_rd]

/-- A call pushes the address after its delay slot, or raises RSTACK overflow. -/
theorem execCall1_calls {x : Issue} {rs : List Reg} {target : Thread → Word} {s : State} (h : s.issues x (insXfer rs))
    (ht : target ((s.fetchAhead x.gt.val).thread x.gt.val) = target (s.thread x.gt.val)) :
    let t := execCall1 x rs target s
    (s.stackFull x.gt.val → s.raisedAt t x.gt.val 5 1) ∧
    (¬ s.stackFull x.gt.val → s.pushed t x.gt.val ((s.thread x.gt.val).pc + 8) ∧
      (s.thread x.gt.val).tookDelay (t.thread x.gt.val) (target (s.thread x.gt.val))) := by
  intro t
  rw [show t = s.issue x (insXfer rs) _ from execCall1_eq x rs target s]
  refine ⟨fun hf => State.issue_push_full h rfl hf, fun hf => ?_⟩
  exact State.issue_push_delays (v := fun t => t.pc + 8) h rfl hf (by rw [State.fetchAhead_pc]) (by rw [ht])

theorem Flags.holds_cases (f : Flags) :
    f.holds 0x0 = f.z ∧ f.holds 0x1 = !f.z ∧ f.holds 0x2 = f.c ∧ f.holds 0x3 = !f.c ∧
    f.holds 0x4 = f.n ∧ f.holds 0x5 = !f.n ∧ f.holds 0x6 = f.v ∧ f.holds 0x7 = !f.v ∧
    f.holds 0x8 = (f.c && !f.z) ∧ f.holds 0x9 = (!f.c || f.z) ∧ f.holds 0xA = (f.n == f.v) ∧
    f.holds 0xB = (f.n != f.v) ∧ f.holds 0xC = (!f.z && (f.n == f.v)) ∧
    f.holds 0xD = (f.z || (f.n != f.v)) ∧ f.holds 0xE = true :=
  ⟨rfl, rfl, rfl, rfl, rfl, rfl, rfl, rfl, rfl, rfl, rfl, rfl, rfl, rfl, rfl⟩

/-- Settles O11: B and BR by their target, RET by what it pops, and the calls by whether their push finds room. -/
theorem transfersTakeDelaySlot : Obligations.TransfersTakeDelaySlot := by
  unfold Obligations.TransfersTakeDelaySlot
  refine ⟨?_, Flags.holds_cases⟩
  intro x cond d21 d25 a s gt u goes calls
  have hcall {i : Instr} {rs : List Reg} {target : Thread → Word} (h : s.issues x (insXfer rs))
      (ht : target ((s.fetchAhead gt).thread gt) = target u) (e : exec i s = .next (execCall1 x rs target s)) :
      calls i (target u) := by
    obtain ⟨hfull, hroom⟩ := execCall1_calls h ht
    show if s.stackFull gt then _ else _
    by_cases hf : s.stackFull gt
    · rw [if_pos hf]
      exact ⟨_, e, hfull hf⟩
    · rw [if_neg hf]
      obtain ⟨⟨h1, h2, h3⟩, h4⟩ := hroom hf
      exact ⟨_, e, h1, h2, h4, h3⟩
  refine ⟨execB_transfers d21, fun h => ⟨execBr_transfers h, hcall (target := fun t => t.rd a &&& ~~~ 3) h ?_ rfl⟩, fun h => ⟨?_, ?_⟩⟩
  · exact congrArg (· &&& ~~~ 3) (State.fetchAhead_rd s gt a)
  · rw [← shiftLeft_two]
    exact hcall (target := fun t => target25 t.pc d25) h (by rw [State.fetchAhead_pc]) rfl
  · cases hr : u.rs with
    | nil => exact execRet_empty h hr
    | cons v r => exact execRet_returns h hr

/-! ## Loops (R139, R142, R185) -/

theorem Thread.setLoop_places (t : Thread) (k : Nat) (l : Loop) :
    (t.setLoop k l).pc = t.pc ∧ (t.setLoop k l).npc = t.npc := by
  unfold Thread.setLoop
  split
  · exact ⟨rfl, rfl⟩
  · split <;> exact ⟨rfl, rfl⟩

theorem Thread.loopFault_congr {u v : Thread} (h : u.sameLoops v) (k : Nat) (a b : Word) :
    v.loopFault k a b = u.loopFault k a b := by
  simp only [Thread.loopFault, Thread.sameLoops_loop h]

/-- A loop register has been written, and the thread goes on with it. -/
def State.loopSet (s t : State) (gt k : Nat) (l : Loop) : Prop :=
  s.stepped t gt ∧ (s.thread gt).keptBut (t.thread gt) [] ∧ ((s.thread gt).setLoop k l).wentOn (t.thread gt)

section
variable {s : State} {x : Issue} {i : Ins} (h : s.issues x i) (hv : i.via = false) (k : Nat) (l : Loop)
include h hv

theorem State.issue_loopSet {body : State → Exec} (hb : body (s.fetchAhead x.gt.val) = .done
      ((s.fetchAhead x.gt.val).setThread x.gt.val (((s.fetchAhead x.gt.val).thread x.gt.val).setLoop k l)) .seq) :
    s.loopSet (s.issue x i body) x.gt.val k l := by
  obtain ⟨f1, f2, f3, f4, f5, f6⟩ := State.fetchAhead_unmoved s x.gt.val
  let w := ((s.fetchAhead x.gt.val).thread x.gt.val).setLoop k l
  have hw : ((s.fetchAhead x.gt.val).setThread x.gt.val w).thread x.gt.val = w := State.thread_setThread_same _ _ _
  have hsame : Thread.Same _ w := Thread.setLoop_same ((s.fetchAhead x.gt.val).thread x.gt.val) k l
  obtain ⟨q1, q2, -⟩ := State.issue_quiet h (.inl hv) hb
    (by rw [hw, Thread.noneDue, Thread.setLoop_delayed, State.fetchAhead_delayed]; exact h.2.2.2.2.1)
    (by rw [hw, hsame.stop, State.fetchAhead_stopReq]; exact h.2.2.2.2.2)
  rw [hw] at q2
  obtain ⟨p1, p2⟩ := Thread.setLoop_places ((s.fetchAhead x.gt.val).thread x.gt.val) k l
  obtain ⟨u1, u2⟩ := Thread.setLoop_places (s.thread x.gt.val) k l
  refine ⟨State.stepped_trans f1 (State.stepped_trans (State.stepped_setThread _ _ _) q1),
    Thread.keptBut_same f2 (hsame.trans ((Thread.advance_same _ _).trans q2.toSame)), Thread.wentOn_still ?_ q2⟩
  refine Thread.advance_wentOn (p1.trans (f4.trans u1.symm)) (p2.trans (f5.trans u2.symm)) ?_
    (Thread.sameLoops_setLoop f3 k l)
  rw [Thread.setLoop_inDelay, Thread.setLoop_inDelay, f6]

/-- The loop register has been written, and the thread goes on at an address of its own. -/
theorem State.issue_loopSkips {body : State → Exec} {a b : Word} (hb : body (s.fetchAhead x.gt.val) = .done
      ((s.fetchAhead x.gt.val).setThread x.gt.val (((s.fetchAhead x.gt.val).thread x.gt.val).setLoop k l))
      (.goto a b false false)) :
    let t := s.issue x i body
    s.stepped t x.gt.val ∧ (s.thread x.gt.val).keptBut (t.thread x.gt.val) [] ∧ (t.thread x.gt.val).pc = a ∧
      (t.thread x.gt.val).npc = b ∧ (t.thread x.gt.val).inDelay = false ∧
      ((s.thread x.gt.val).setLoop k l).sameLoops (t.thread x.gt.val) := by
  intro t
  obtain ⟨f1, f2, f3, -⟩ := State.fetchAhead_unmoved s x.gt.val
  have hsame := Thread.setLoop_same ((s.fetchAhead x.gt.val).thread x.gt.val) k l
  obtain ⟨q1, q2, q3, q4, q5, q6⟩ := State.issue_goto h (.inl hv) hb
    (by rw [State.thread_setThread_same, Thread.setLoop_delayed, State.fetchAhead_delayed])
    (by rw [State.thread_setThread_same, hsame.stop, State.fetchAhead_stopReq])
  rw [State.thread_setThread_same] at q2 q6
  exact ⟨State.stepped_trans f1 (State.stepped_trans (State.stepped_setThread _ _ _) q1),
    Thread.keptBut_same f2 (hsame.trans q2), q3, q4, q5,
    Thread.sameLoops_trans (Thread.sameLoops_setLoop f3 k l) q6⟩
end

/-- The columns of LOOP and LPWR. -/
def insLoop (k : BitVec 2) (a : Reg) (imm : BitVec 15) : Ins := { insXfer [a] with wf := k != 3 && imm != 0 }
def insLpwr (k : BitVec 2) (a : Reg) : Ins := { wf := k != 3, reads := [a], pairOk := false }

/-- The operation of LOOP. -/
def loopBody (gt k : Nat) (a : Reg) (imm : BitVec 15) (s : State) : Exec :=
  let t := s.thread gt
  let stop := t.pc + 4 * zimm15 imm
  match t.loopFault k (t.pc + 4) stop with
  | some d => .fault s (precise 6 d)
  | none =>
    if t.rd a = 0 then
      .done (s.setThread gt (t.setLoop k { t.loop k with active := false })) (.goto (stop + 4) (stop + 8) false false)
    else .done (s.setThread gt (t.setLoop k ⟨t.pc + 4, stop, t.rd a, true⟩)) .seq
theorem execLoop_eq (x : Issue) (k : BitVec 2) (a : Reg) (imm : BitVec 15) (s : State) :
    execLoop x k a imm s = .next (s.issue x (insLoop k a imm) (loopBody x.gt.val k.toNat a imm)) := rfl

section
variable {x : Issue} {k : BitVec 2} {a : Reg} {imm : BitVec 15} {s : State} (h : s.issues x (insLoop k a imm))
include h

theorem execLoop_raises {d : Byte} (hf : (s.thread x.gt.val).loopFault k.toNat ((s.thread x.gt.val).pc + 4)
      ((s.thread x.gt.val).pc + 4 * imm.setWidth 32) = some d) :
    ∃ t, execLoop x k a imm s = .next t ∧ s.raisedAt t x.gt.val 6 d := by
  refine ⟨_, execLoop_eq x k a imm s, State.issue_raises h (.inl rfl) ?_⟩
  unfold loopBody
  simp only [State.fetchAhead_pc, Thread.loopFault_congr (State.fetchAhead_sameLoops s x.gt.val), zimm15, hf]

variable (hf : (s.thread x.gt.val).loopFault k.toNat ((s.thread x.gt.val).pc + 4)
    ((s.thread x.gt.val).pc + 4 * imm.setWidth 32) = none)
include hf

theorem execLoop_skips (hr : (s.thread x.gt.val).rd a = 0) :
    let u := s.thread x.gt.val
    ∃ t, execLoop x k a imm s = .next t ∧ s.stepped t x.gt.val ∧ u.keptBut (t.thread x.gt.val) [] ∧
      (t.thread x.gt.val).pc = u.pc + 4 * imm.setWidth 32 + 4 ∧ (t.thread x.gt.val).npc = u.pc + 4 * imm.setWidth 32 + 8 ∧
      (t.thread x.gt.val).inDelay = false ∧
      (u.setLoop k.toNat { u.loop k.toNat with active := false }).sameLoops (t.thread x.gt.val) := by
  intro u
  refine ⟨_, execLoop_eq x k a imm s, State.issue_loopSkips h rfl k.toNat { u.loop k.toNat with active := false } ?_⟩
  unfold loopBody
  simp only [State.fetchAhead_pc, State.fetchAhead_rd, State.fetchAhead_loop,
    Thread.loopFault_congr (State.fetchAhead_sameLoops s x.gt.val), zimm15, hf, hr, if_true, u]

theorem execLoop_arms (hr : (s.thread x.gt.val).rd a ≠ 0) :
    let u := s.thread x.gt.val
    ∃ t, execLoop x k a imm s = .next t ∧ s.loopSet t x.gt.val k.toNat
      ⟨u.pc + 4, u.pc + 4 * imm.setWidth 32, u.rd a, true⟩ := by
  intro u
  refine ⟨_, execLoop_eq x k a imm s, State.issue_loopSet h rfl k.toNat _ ?_⟩
  unfold loopBody
  simp only [State.fetchAhead_pc, State.fetchAhead_rd,
    Thread.loopFault_congr (State.fetchAhead_sameLoops s x.gt.val), zimm15, hf, hr, if_false, u]
end

/-- The loop register k that LPWR leaves when it writes a field, or the DETAIL of its fault. -/
def Thread.loopMove (t : Thread) (k fi : Nat) (v : Word) : Except Byte Loop :=
  let l := t.loop k
  match fi with
  | 0 => if l.active then .error 2 else .ok { l with start := v }
  | 1 => if l.active then .error 2 else .ok { l with stop := v }
  | 2 => .ok { l with count := v }
  | _ =>
    if v.getLsbD 0 then
      match t.loopFault k l.start l.stop with
      | some d => .error d
      | none => .ok { l with active := true }
    else .ok { l with active := false }

theorem Thread.loopMove_congr {u v : Thread} (h : u.sameLoops v) (k fi : Nat) (w : Word) :
    v.loopMove k fi w = u.loopMove k fi w := by
  simp only [Thread.loopMove, Thread.sameLoops_loop h, Thread.loopFault_congr h]

/-- The operation of LPWR. -/
def lpwrBody (gt k fi : Nat) (a : Reg) (s : State) : Exec :=
  match (s.thread gt).loopMove k fi ((s.thread gt).rd a) with
  | .ok l => .done (s.setThread gt ((s.thread gt).setLoop k l)) .seq
  | .error d => .fault s (precise 6 d)

theorem execLpwr_eq (x : Issue) (k fi : BitVec 2) (a : Reg) (s : State) :
    execLpwr x k fi a s = .next (s.issue x (insLpwr k a) (lpwrBody x.gt.val k.toNat fi.toNat a)) := by
  unfold execLpwr
  refine congrArg (fun b => Host.Outcome.next (s.issue x (insLpwr k a) b)) (funext fun v => ?_)
  unfold lpwrBody Thread.loopMove
  match fi.toNat with
  | 0 | 1 => simp only []; split <;> rfl
  | 2 => rfl
  | n + 3 =>
    simp only []
    split
    · generalize (v.thread x.gt.val).loopFault _ _ _ = o
      cases o <;> rfl
    · rfl

theorem execLpwr_moves {x : Issue} {k fi : BitVec 2} {a : Reg} {s : State} (h : s.issues x (insLpwr k a)) :
    ∃ t, execLpwr x k fi a s = .next t ∧
      match (s.thread x.gt.val).loopMove k.toNat fi.toNat ((s.thread x.gt.val).rd a) with
      | .ok l => s.loopSet t x.gt.val k.toNat l
      | .error d => s.raisedAt t x.gt.val 6 d := by
  refine ⟨_, execLpwr_eq x k fi a s, ?_⟩
  have hm := Thread.loopMove_congr (State.fetchAhead_sameLoops s x.gt.val) k.toNat fi.toNat ((s.thread x.gt.val).rd a)
  cases e : (s.thread x.gt.val).loopMove k.toNat fi.toNat ((s.thread x.gt.val).rd a) with
  | ok l =>
    refine State.issue_loopSet h rfl _ _ ?_
    rw [lpwrBody, State.fetchAhead_rd, hm, e]
  | error d =>
    refine State.issue_raises h (.inl rfl) ?_
    rw [lpwrBody, State.fetchAhead_rd, hm, e]

/-- Settles O10: RSPUSH by whether its push finds room, RSPOP by what it pops, LOOP by its fault and its count, and
LPWR by the loop register that it leaves. -/
theorem returnStackAndLoops : Obligations.ReturnStackAndLoops := by
  unfold Obligations.ReturnStackAndLoops
  refine ⟨fun x d a s => ?_, fun x k fi a imm s => ?_⟩
  · intro gt u
    refine ⟨fun h => ?_, fun h => ?_⟩
    · show if s.stackFull gt then _ else _
      by_cases hf : s.stackFull gt
      · rw [if_pos hf]
        exact ⟨_, execRspush_eq x a s, State.issue_push_full h rfl hf⟩
      · rw [if_neg hf]
        obtain ⟨⟨h1, h2, h3⟩, h4⟩ := State.issue_push_goes (v := fun t => t.rd a &&& ~~~ 3) h rfl hf
          (by rw [State.fetchAhead_rd]) rfl
        exact ⟨_, execRspush_eq x a s, h1, h4, h2, h3⟩
    · cases hr : u.rs with
      | nil => exact execRspop_empty h hr
      | cons v r => exact execRspop_pops h hr
  · intro gt u l start stop
    refine ⟨fun h => ?_, fun h => ?_⟩
    · cases hf : u.loopFault k.toNat start stop with
      | some dt => exact execLoop_raises h hf
      | none =>
        by_cases hr : u.rd a = 0
        · obtain ⟨t, e, h1, h2, h3⟩ := execLoop_skips h hf hr
          exact ⟨t, e, h1, h2, by rw [if_pos hr]; exact h3⟩
        · obtain ⟨t, e, h1, h2, h3⟩ := execLoop_arms h hf hr
          exact ⟨t, e, h1, h2, by rw [if_neg hr]; exact h3⟩
    · intro put bad
      obtain ⟨t, e, hm⟩ := execLpwr_moves (fi := fi) h
      have hput {m : Loop} (hl : u.loopMove k.toNat fi.toNat (u.rd a) = .ok m) : put m := by
        rw [hl] at hm
        exact ⟨t, e, hm⟩
      have hbad {dt : Byte} (hl : u.loopMove k.toNat fi.toNat (u.rd a) = .error dt) : bad dt := by
        rw [hl] at hm
        exact ⟨t, e, hm⟩
      match fi with
      | 0 | 1 =>
        show if l.active then bad 2 else put _
        by_cases ha : l.active = true
        · rw [if_pos ha]
          exact hbad (if_pos ha)
        · rw [if_neg ha]
          exact hput (if_neg ha)
      | 2 => exact hput rfl
      | 3 =>
        show if (u.rd a).getLsbD 0 then _ else put _
        by_cases hv : (u.rd a).getLsbD 0 = true
        · rw [if_pos hv]
          cases hf : u.loopFault k.toNat l.start l.stop with
          | some dt => exact hbad ((if_pos hv).trans (by rw [hf]))
          | none => exact hput ((if_pos hv).trans (by rw [hf]))
        · rw [if_neg hv]
          exact hput (if_neg hv)

end Sys2Proof.Machine
end

section
/-!
SUPPORT. The entry of a raised fault into its thread's handler or into FAULTED (R153, R156, R157).
-/
namespace Sys2Proof.Machine

/-! ## Whole registers set in turn -/

theorem State.setWords_cons (s : State) (p : Nat × Word) (l : List (Nat × Word)) :
    s.setWords (p :: l) = (s.setReg p.1 p.2).setWords l := rfl

theorem State.setWords_other (s : State) {l : List (Nat × Word)} {a : Nat} (h : ∀ p ∈ l, canon a ≠ canon p.1) :
    (s.setWords l).reg a = s.reg a := by
  induction l generalizing s with
  | nil => rfl
  | cons p l ih =>
    rw [State.setWords_cons, ih _ fun q hq => h q (List.mem_cons_of_mem _ hq),
      State.reg_setReg_other _ _ (h p List.mem_cons_self)]

/-- Of registers apart set in turn, each reads the word it was given. -/
theorem State.setWords_mem (s : State) {l : List (Nat × Word)} (hp : l.Pairwise (fun p q => canon p.1 ≠ canon q.1))
    {a : Nat} {v : Word} (hm : (a, v) ∈ l) : (s.setWords l).reg a = v := by
  induction l generalizing s with
  | nil => exact absurd hm List.not_mem_nil
  | cons p l ih =>
    obtain ⟨hhead, htail⟩ := List.pairwise_cons.1 hp
    rw [State.setWords_cons]
    rcases List.mem_cons.1 hm with rfl | hm
    · rw [State.setWords_other _ hhead, State.reg_setReg_same]
    · exact ih _ htail hm

/-! ## The record (R153) -/

theorem toNat_concat {n m : Nat} (x : BitVec n) (y : BitVec m) : (x ++ y).toNat = x.toNat * 2 ^ m + y.toNat := by
  rw [BitVec.toNat_append, ← Nat.shiftLeft_add_eq_or_of_lt y.isLt, Nat.shiftLeft_eq]

/-- The sum that writes FAULT_INFO is the word with its fields side by side. -/
theorem State.faultInfo_eq (s : State) (gt : Nat) (r : FaultRec) :
    s.faultInfo gt r = faultWord r (s.bit (fInFault gt)) (s.bit (fCurLead gt)) (s.bit (fInHandler gt)) := by
  have hb (x : Bool) (i : Nat) : (if x then 2 ^ i else 0) = x.toNat * 2 ^ i := by cases x <;> simp
  refine BitVec.eq_of_toNat_eq ?_
  unfold State.faultInfo
  simp only [hb]
  rw [BitVec.toNat_ofNat]
  refine (congrArg (· % 2 ^ 32) (a₂ := (faultWord r _ _ _).toNat) ?_).trans (Nat.mod_eq_of_lt (BitVec.isLt _))
  unfold faultWord
  have h1 : (1 : BitVec 1).toNat = 1 := rfl
  have h0 : (0 : BitVec 2).toNat = 0 := rfl
  simp only [toNat_concat, BitVec.toNat_ofBool, h1, h0]
  omega

/-- The words of a fault's record. -/
def State.recordPairs (s : State) (gt : Nat) (r : FaultRec) : List (Nat × Word) :=
  [(tReg gt 0x30, s.faultInfo gt r), (tReg gt 0x34, r.pc &&& ~~~ 3), (tReg gt 0x38, r.addr.setWidth 32),
    (tReg gt 0x3C, BitVec.ofNat 32 (r.addr.toNat / 2 ^ 32)), (tCfg gt 8, r.npc &&& ~~~ 3),
    (tCfg gt 0xC, r.oppc &&& ~~~ 3)]

theorem State.writeRecord_eq (s : State) (gt : Nat) (r : FaultRec) :
    s.writeRecord gt r = s.setWords (s.recordPairs gt r) := rfl

theorem State.recordPairs_addrs (s : State) (gt : Nat) (r : FaultRec) :
    (s.recordPairs gt r).map Prod.fst = recordWords gt := rfl

/-- The registers of the record lie apart. -/
theorem recordWords_apart (g : GT) : (recordWords g.val).Pairwise (fun a b => canon a ≠ canon b) := by
  have ht {o p : Nat} (ho : o < 0x40) (hp : p < 0x40) (h : o ≠ p) : canon (tReg g.val o) ≠ canon (tReg g.val p) := by
    rw [canon_tReg g ho, canon_tReg g hp]; unfold tReg; omega
  have hc {o p : Nat} (ho : o < 0x20) (hp : p < 0x20) (h : o ≠ p) : canon (tCfg g.val o) ≠ canon (tCfg g.val p) := by
    rw [canon_tCfg g ho, canon_tCfg g hp]; unfold tCfg; omega
  have hx {o p : Nat} (ho : o < 0x40) (hp : p < 0x20) := (canon_tCfg_ne_tReg g hp ho).symm
  simp only [recordWords, List.pairwise_cons, List.mem_cons, List.not_mem_nil, or_false, forall_eq_or_imp, forall_eq,
    List.Pairwise.nil, and_true, IsEmpty.forall_iff, implies_true]
  refine ⟨⟨ht ?_ ?_ ?_, ht ?_ ?_ ?_, ht ?_ ?_ ?_, hx ?_ ?_, hx ?_ ?_⟩, ⟨ht ?_ ?_ ?_, ht ?_ ?_ ?_, hx ?_ ?_, hx ?_ ?_⟩,
    ⟨ht ?_ ?_ ?_, hx ?_ ?_, hx ?_ ?_⟩, ⟨hx ?_ ?_, hx ?_ ?_⟩, hc ?_ ?_ ?_⟩ <;> decide

/-- The record of a fault stands in its thread's registers, with the thread's marks at its entry as given. -/
def State.hasRecord (t : State) (gt : Nat) (r : FaultRec) (inFault lead inHandler : Bool) : Prop :=
  t.reg (tReg gt 0x30) = faultWord r inFault lead inHandler ∧
  t.reg (tReg gt 0x34) = r.pc &&& ~~~ 3 ∧ t.reg (tReg gt 0x38) = r.addr.extractLsb' 0 32 ∧
  t.reg (tReg gt 0x3C) = (r.addr.extractLsb' 32 16).setWidth 32 ∧
  t.reg (tCfg gt 0x8) = r.npc &&& ~~~ 3 ∧ t.reg (tCfg gt 0xC) = r.oppc &&& ~~~ 3

theorem State.writeRecord_hasRecord (s : State) (g : GT) (r : FaultRec) :
    (s.writeRecord g.val r).hasRecord g.val r (s.bit (fInFault g.val)) (s.bit (fCurLead g.val))
      (s.bit (fInHandler g.val)) := by
  have hp : (s.recordPairs g.val r).Pairwise (fun p q => canon p.1 ≠ canon q.1) :=
    (List.pairwise_map (f := Prod.fst) (R := fun a b => canon a ≠ canon b)).1 (recordWords_apart g)
  have hm {a : Nat} {v : Word} (h : (a, v) ∈ s.recordPairs g.val r) : (s.writeRecord g.val r).reg a = v := by
    rw [State.writeRecord_eq]; exact State.setWords_mem s hp h
  unfold State.hasRecord
  rw [← State.faultInfo_eq, ← extract_low, ← extract_high]
  refine ⟨hm ?_, hm ?_, hm ?_, hm ?_, hm ?_, hm ?_⟩ <;> unfold State.recordPairs
  · exact .head _
  · exact .tail _ (.head _)
  · exact .tail _ (.tail _ (.head _))
  · exact .tail _ (.tail _ (.tail _ (.head _)))
  · exact .tail _ (.tail _ (.tail _ (.tail _ (.head _))))
  · exact .tail _ (.tail _ (.tail _ (.tail _ (.tail _ (.head _)))))

theorem State.hasRecord_congr {s t : State} {gt : Nat} {r : FaultRec} {a b c : Bool} (h : s.hasRecord gt r a b c)
    (k : ∀ w ∈ recordWords gt, t.reg w = s.reg w) : t.hasRecord gt r a b c := by
  simp only [recordWords, List.forall_mem_cons] at k
  obtain ⟨k1, k2, k3, k4, k5, k6, -⟩ := k
  obtain ⟨h1, h2, h3, h4, h5, h6⟩ := h
  exact ⟨k1.trans h1, k2.trans h2, k3.trans h3, k4.trans h4, k5.trans h5, k6.trans h6⟩

/-- The registers of a record are none of those a thread's step writes, nor its control word. -/
theorem recordWords_kept {s t : State} (g : GT) (h : s.touched t g.val [tCfg g.val 0]) :
    ∀ w ∈ recordWords g.val, t.reg w = s.reg w := by
  have ht {o : Nat} (ho : o < 0x40) (h1 : o ≠ 0x04) (h2 : o ≠ 0x24) (h3 : o ≠ 0x2C) :
      t.reg (tReg g.val o) = s.reg (tReg g.val o) := by
    refine h.2.2 _ fun b hb => ?_
    simp only [List.mem_append, List.mem_cons, List.not_mem_nil, or_false] at hb
    rcases hb with (rfl | rfl | rfl) | rfl
    · rw [canon_tReg g ho, canon_tReg g (by decide)]; unfold tReg; omega
    · rw [canon_tReg g ho, canon_tReg g (by decide)]; unfold tReg; omega
    · rw [canon_tReg g ho, canon_tReg g (by decide)]; unfold tReg; omega
    · exact (canon_tCfg_ne_tReg g (by decide) ho).symm
  have hc {o : Nat} (ho : o < 0x20) (h1 : o ≠ 0) : t.reg (tCfg g.val o) = s.reg (tCfg g.val o) := by
    refine h.2.2 _ fun b hb => ?_
    simp only [List.mem_append, List.mem_cons, List.not_mem_nil, or_false] at hb
    rcases hb with (rfl | rfl | rfl) | rfl
    · exact canon_tCfg_ne_tReg g ho (by decide)
    · exact canon_tCfg_ne_tReg g ho (by decide)
    · exact canon_tCfg_ne_tReg g ho (by decide)
    · rw [canon_tCfg g ho, canon_tCfg g (by decide)]; unfold tCfg; omega
  simp only [recordWords, List.forall_mem_cons]
  refine ⟨ht ?_ ?_ ?_ ?_, ht ?_ ?_ ?_ ?_, ht ?_ ?_ ?_ ?_, ht ?_ ?_ ?_ ?_, hc ?_ ?_, hc ?_ ?_, by simp⟩ <;> decide

theorem recordWords_ne_status (g : GT) : ∀ w ∈ recordWords g.val, canon (tReg g.val 4) ≠ canon w := by
  have ht {o : Nat} (ho : o < 0x40) (h : o ≠ 4) : canon (tReg g.val 4) ≠ canon (tReg g.val o) := by
    rw [canon_tReg g ho, canon_tReg g (by decide)]; unfold tReg; omega
  have hc {o : Nat} (ho : o < 0x20) := (canon_tCfg_ne_tReg g ho (p := 4) (by decide)).symm
  simp only [recordWords, List.forall_mem_cons]
  refine ⟨ht ?_ ?_, ht ?_ ?_, ht ?_ ?_, ht ?_ ?_, hc ?_, hc ?_, by simp⟩ <;> decide

/-- Writing the record leaves the thread's status as it was. -/
theorem State.writeRecord_inHandler (s : State) (g : GT) (r : FaultRec) :
    (s.writeRecord g.val r).bit (fInHandler g.val) = s.bit (fInHandler g.val) := by
  have hreg : (s.writeRecord g.val r).reg (tReg g.val 4) = s.reg (tReg g.val 4) := by
    rw [State.writeRecord_eq]
    refine State.setWords_other s fun p hp => ?_
    refine recordWords_ne_status g p.1 ?_
    rw [← State.recordPairs_addrs s g.val r]
    exact List.mem_map_of_mem hp
  simp only [State.bit, State.fld, fInHandler, hreg]

/-! ## The signature and the record -/

/-- The bytes a fault enters into a twin member's signature. -/
def FaultRec.bytes (r : FaultRec) : List Byte :=
  [5, BitVec.ofNat 8 r.cls.toNat, r.detail, 0] ++ toBytes 4 (r.pc &&& ~~~ 3).toNat

/-- The fault is recorded: in the thread's signature and in its registers. -/
def State.noteFault (s : State) (gt : Nat) (r : FaultRec) : State :=
  (s.modThread gt (fun t => t.record r.bytes)).writeRecord gt r

theorem State.noteFault_thread (s : State) (gt : Nat) (r : FaultRec) :
    (s.noteFault gt r).thread gt = (s.thread gt).record r.bytes := by
  rw [State.noteFault, (State.writeRecord_touched _ gt r).2, State.thread_modThread_same]

theorem State.noteFault_touched (s : State) (gt : Nat) (r : FaultRec) :
    s.touched (s.noteFault gt r) gt (recordWords gt) :=
  State.touched_touched (State.stepped_touched (State.stepped_modThread s gt _)) (State.writeRecord_touched _ gt r).1

theorem State.noteFault_hasRecord (s : State) (g : GT) (r : FaultRec) :
    (s.noteFault g.val r).hasRecord g.val r (s.bit (fInFault g.val)) (s.bit (fCurLead g.val))
      (s.bit (fInHandler g.val)) := State.writeRecord_hasRecord (s.modThread g.val _) g r

/-! ## Into the handler (R156) -/

/-- The thread at its fault handler's address. -/
def Thread.faulted (u : Thread) (pc : Word) : Thread :=
  { u with raised := none, pc := pc, npc := pc + 4, inDelay := false, pairOpen := none }

/-- The thread enters its fault handler: IN_FAULT is set, CUR_LEAD written, and a beat counted. -/
def State.toHandler (s : State) (gt : Nat) (lead pc : Word) : State :=
  (((s.setBit (fInFault gt) true).setFld (fCurLead gt) lead).modThread gt (fun t => t.faulted pc)).countWrap (fBeats gt)

theorem State.toHandler_thread (s : State) (gt : Nat) (lead pc : Word) :
    (s.toHandler gt lead pc).thread gt = (s.thread gt).faulted pc := by
  unfold State.toHandler
  generalize fInFault gt = a
  generalize fCurLead gt = b
  generalize fBeats gt = c
  rw [State.thread_countWrap, State.thread_modThread_same, State.thread_setFld, State.thread_setBit]

theorem State.toHandler_touched (s : State) (gt : Nat) (lead pc : Word) :
    s.touched (s.toHandler gt lead pc) gt [tCfg gt 0] := by
  have ha : (fInFault gt).addr ∈ [tCfg gt 0] := by simp [fInFault]
  have hb : (fCurLead gt).addr ∈ [tCfg gt 0] := by simp [fCurLead]
  have hc : (fBeats gt).addr ∈ [tReg gt 0x04, tReg gt 0x24, tReg gt 0x2C] := by simp [fBeats]
  unfold State.toHandler
  generalize fInFault gt = a at *
  generalize fCurLead gt = b at *
  generalize fBeats gt = c at *
  exact State.touched_trans (State.touched_touched (State.touched_setFld s gt a _ ha)
    (State.touched_setFld _ gt b _ hb)) (State.stepped_trans (State.stepped_modThread _ gt _)
    (State.stepped_countWrap _ gt c _ hc))

theorem State.toHandler_bits (s : State) (g : GT) (lead pc : Word) (hl : lead.toNat < 2) :
    (s.toHandler g.val lead pc).bit (fInFault g.val) = true ∧
      (s.toHandler g.val lead pc).fld (fCurLead g.val) = lead ∧
      (s.toHandler g.val lead pc).bit (fInHandler g.val) = s.bit (fInHandler g.val) := by
  have ha : (fInFault g.val).addr = tCfg g.val 0 := rfl
  have hb : (fCurLead g.val).addr = tCfg g.val 0 := rfl
  have hc : (fBeats g.val).addr = tReg g.val 0x24 := rfl
  have hd : (fInHandler g.val).addr = tReg g.val 4 := rfl
  have oka : (fInFault g.val).ok := by simp [Fld.ok, fInFault]
  have okb : (fCurLead g.val).ok := by simp [Fld.ok, fCurLead]
  have hba : (fCurLead g.val).hi < (fInFault g.val).lo := by simp [fInFault, fCurLead]
  have hw : lead.toNat < 2 ^ ((fCurLead g.val).hi - (fCurLead g.val).lo + 1) := by simpa [fCurLead] using hl
  have h0 : canon (tCfg g.val 0) ≠ canon (tReg g.val 0x24) := canon_tCfg_ne_tReg g (by decide) (by decide)
  have h1 : canon (tReg g.val 4) ≠ canon (tCfg g.val 0) := (canon_tCfg_ne_tReg g (by decide) (by decide)).symm
  have h2 := beats_ne_state g
  unfold State.toHandler
  generalize fInFault g.val = a at *
  generalize fCurLead g.val = b at *
  generalize fBeats g.val = c at *
  generalize fInHandler g.val = d at *
  generalize tCfg g.val 0 = p at *
  generalize tReg g.val 0x24 = q at *
  generalize tReg g.val 4 = r at *
  have skip {y : Fld} (u : State) (h : canon y.addr ≠ canon q) : (u.countWrap c).fld y = u.fld y :=
    State.fld_countWrap_addr _ (by rw [hc]; exact h)
  refine ⟨?_, ?_, ?_⟩
  · rw [State.bit, skip _ (by rw [ha]; exact h0), State.fld_modThread,
      State.fld_setFld_bits _ _ (ha.trans hb.symm) (.inr hba), ← State.bit, State.bit_setBit_same _ _ _ oka]
  · rw [skip _ (by rw [hb]; exact h0), State.fld_modThread, State.fld_setFld_same _ _ _ okb hw]
  · rw [State.bit, skip _ (by rw [hd]; exact h2), State.fld_modThread, State.fld_setFld_addr _ _ (by rw [hd, hb]; exact h1),
      ← State.bit, State.bit_setBit_addr _ _ (by rw [hd, ha]; exact h1)]

/-- The thread as a program in the handler sees it is the thread that raised the fault. -/
theorem Thread.faulted_keeps (u : Thread) (pc : Word) (bs : List Byte) :
    Thread.Same u ((u.record bs).faulted pc) ∧ u.sameLoops ((u.record bs).faulted pc) :=
  have h := Thread.record_still u bs
  ⟨h.toSame.trans ⟨rfl, rfl, rfl, rfl, rfl, rfl, rfl, rfl, rfl, rfl, rfl, rfl, rfl, rfl, rfl, rfl⟩, h.loops⟩

/-! ## Into FAULTED (R157) -/

/-- The thread enters FAULTED, presents its fault producer and is reported to fault collection. -/
def State.toFaulted (s : State) (gt : Nat) : State :=
  ((s.enterFaulted gt).present (0x1200 + gt / 2) (gt % 2 == 1) 0).faultMinor

theorem State.enterFaulted_stepped (s : State) (gt : Nat) : s.stepped (s.enterFaulted gt) gt :=
  State.stepped_trans (State.stepped_modThread s gt _)
    (State.stepped_setFld _ gt (fState gt) _ List.mem_cons_self)

theorem State.enterFaulted_thread (s : State) (gt : Nat) : (s.enterFaulted gt).thread gt = (s.thread gt).dropped := by
  rw [State.enterFaulted, State.thread_setFld, State.thread_modThread_same]

theorem State.enterFaulted_state (s : State) (gt : Nat) : (s.enterFaulted gt).fld (fState gt) = stFaulted :=
  State.fld_setFld_same _ _ _ (fState_ok gt) (by simp [fState, stFaulted])

theorem portInCclk_fault (g : GT) : portInCclk (0x1200 + g.val / 2) = true := by
  have hg := g.isLt
  unfold portInCclk
  rw [if_neg (by omega), if_pos (by omega)]

theorem State.toFaulted_thread (s : State) (g : GT) : (s.toFaulted g.val).thread g.val = (s.thread g.val).dropped := by
  rw [State.toFaulted, State.faultMinor_thread, State.present_cclk _ _ (portInCclk_fault g),
    ← State.enterFaulted_thread]
  exact State.thread_congr rfl _

/-- Beside the thread's status only the fault collection's registers are written. -/
theorem State.toFaulted_keeps (s : State) (g : GT) :
    (s.enterFaulted g.val).keeps (s.toFaulted g.val) [fMinor, fMinorCount] := by
  rw [State.toFaulted, State.present_cclk _ _ (portInCclk_fault g)]
  refine State.keeps_trans (State.keeps_of_regs rfl _) (State.faultMinor_sends _ ?_ ?_).keeps
  · exact List.mem_cons_self
  · exact List.mem_cons_of_mem _ List.mem_cons_self

/-- A field of a thread is none of fault collection's. -/
theorem minor_indep {y : Fld} (hc : canon y.addr = y.addr) (h : y.addr < 0x10800000) :
    ∀ x ∈ [fMinor, fMinorCount], x.indep y := by
  simp only [List.forall_mem_cons]
  refine ⟨Fld.indep_of canon_fMinor hc (.inl ?_), Fld.indep_of canon_fMinorCount hc (.inl ?_), by simp⟩
  · simp only [fMinor]; omega
  · simp only [fMinorCount]; omega

theorem tReg_lt (g : GT) {o : Nat} (ho : o < 0x40) : tReg g.val o < 0x10800000 := by
  have := g.isLt; unfold tReg coreBase; omega
theorem tCfg_lt (g : GT) {o : Nat} (ho : o < 0x20) : tCfg g.val o < 0x10800000 := by
  have := g.isLt; unfold tCfg coreBase; omega

theorem recordWords_place (g : GT) : ∀ w ∈ recordWords g.val, canon w = w ∧ w < 0x10800000 := by
  have ht {o : Nat} (ho : o < 0x40) := And.intro (canon_tReg g ho) (tReg_lt g ho)
  have hc {o : Nat} (ho : o < 0x20) := And.intro (canon_tCfg g ho) (tCfg_lt g ho)
  simp only [recordWords, List.forall_mem_cons]
  refine ⟨ht ?_, ht ?_, ht ?_, ht ?_, hc ?_, hc ?_, by simp⟩ <;> decide

theorem State.toFaulted_state (s : State) (g : GT) : (s.toFaulted g.val).fld (fState g.val) = stFaulted := by
  rw [State.keeps_fld (State.toFaulted_keeps s g) (minor_indep (canon_tReg g (by decide)) (tReg_lt g (by decide))),
    State.enterFaulted_state]

theorem State.toFaulted_recordWords (s : State) (g : GT) :
    ∀ w ∈ recordWords g.val, (s.toFaulted g.val).reg w = s.reg w := by
  intro w hw
  obtain ⟨hc, hlt⟩ := recordWords_place g w hw
  rw [← recordWords_kept g (State.stepped_touched (State.enterFaulted_stepped s g.val)) w hw]
  exact State.keeps_reg (State.toFaulted_keeps s g) (minor_indep hc hlt)

/-- Fault collection notes a minor fault. -/
theorem State.faultMinor_reg (s : State) : s.faultMinor.reg 0x10808000 = s.reg 0x10808000 ||| 2 := by
  have hc : canon 0x10808000 ≠ canon fMinorCount.addr := by
    rw [canon_fMinorCount, show canon 0x10808000 = 0x10808000 from canon_fMinor]; decide
  rw [State.faultMinor_eq, State.present_cclk _ _ (by decide)]
  refine (State.reg_congr (s := (s.setBit fMinor true).countUp fMinorCount) rfl _).trans ?_
  rw [State.countUp, State.reg_setFld_other _ _ hc]
  exact (State.reg_setReg_same _ _ _).trans (putBits_set_bit (s.reg 0x10808000) (i := 1) (by decide))

/-- A thread that has entered FAULTED meets no boundary. -/
theorem State.atBoundary_faulted {s : State} {gt : Nat} (h : s.fld (fState gt) = stFaulted) : s.atBoundary gt = s := by
  unfold State.atBoundary
  simp only []
  rw [if_pos (by rw [h]; decide), if_neg (by rw [h]; rintro ⟨k, -⟩; exact absurd k (by decide))]

/-! ## The entry -/

theorem State.takeFault_handler {s : State} {gt : Nat} {r : FaultRec} (hc : r.cls ≠ 8)
    (h1 : s.bit (fFaultEnable gt) = true) (h2 : s.bit (fInFault gt) = false) :
    s.takeFault gt r = (s.noteFault gt r).toHandler gt (s.fld (fLeadAllowed gt)) (s.fld (fFaultBase gt) * 64) := by
  unfold State.takeFault
  rw [if_neg hc]
  simp only []
  rw [if_pos ⟨h1, by rw [h2]; rfl⟩]
  rfl

theorem State.takeFault_faulted {s : State} {gt : Nat} {r : FaultRec} (hc : r.cls ≠ 8)
    (h : s.bit (fFaultEnable gt) = false ∨ s.bit (fInFault gt) = true) :
    s.takeFault gt r = (s.noteFault gt r).toFaulted gt := by
  unfold State.takeFault
  rw [if_neg hc]
  simp only []
  rw [if_neg]
  · rfl
  · rintro ⟨h1, h2⟩
    rcases h with h | h <;> simp [h] at h1 h2

theorem execFaultEntry_takes {g : GT} {s : State} {r : FaultRec} (hr : (s.thread g.val).raised = some r)
    (h : s.entersHandler g.val r = false ∨ s.hasBeats g.val = true) :
    execFaultEntry g s = .next ((s.takeFault g.val r).atBoundary g.val) := by
  unfold execFaultEntry
  rw [hr]
  simp only []
  rw [if_neg]
  rcases h with h | h <;> simp [h]

theorem State.entersHandler_eq {s : State} {gt : Nat} {r : FaultRec} (hc : r.cls ≠ 8) :
    s.entersHandler gt r = (s.bit (fFaultEnable gt) && !s.bit (fInFault gt)) := by
  have : (r.cls != 8) = true := bne_iff_ne.2 hc
  simp only [State.entersHandler, this, Bool.true_and]

theorem execFaultEntry_waits {g : GT} {s : State} {r : FaultRec} (hr : (s.thread g.val).raised = some r)
    (hc : r.cls ≠ 8) (h1 : s.bit (fFaultEnable g.val) = true) (h2 : s.bit (fInFault g.val) = false)
    (hb : s.hasBeats g.val = false) : execFaultEntry g s = .next s := by
  unfold execFaultEntry
  rw [hr]
  simp only []
  rw [if_pos]
  simp [State.entersHandler_eq hc, h1, h2, hb]

theorem execFaultEntry_handler {g : GT} {s : State} {r : FaultRec} (hr : (s.thread g.val).raised = some r)
    (hc : r.cls ≠ 8) (h1 : s.bit (fFaultEnable g.val) = true) (h2 : s.bit (fInFault g.val) = false)
    (hb : s.hasBeats g.val = true) (hs : (s.thread g.val).stopReq = false) :
    let u := s.thread g.val
    ∃ t, execFaultEntry g s = .next t ∧
      t.hasRecord g.val r (s.bit (fInFault g.val)) (s.bit (fCurLead g.val)) (s.bit (fInHandler g.val)) ∧
      s.touched t g.val (recordWords g.val ++ [tCfg g.val 0]) ∧
      u.keptBut (t.thread g.val) [] ∧ u.sameLoops (t.thread g.val) ∧
      t.bit (fInHandler g.val) = s.bit (fInHandler g.val) ∧ t.bit (fInFault g.val) = true ∧
      t.bit (fCurLead g.val) = s.bit (fLeadAllowed g.val) ∧
      (t.thread g.val).pc = s.reg (tCfg g.val 4) &&& ~~~ 63 ∧ (t.thread g.val).npc = (t.thread g.val).pc + 4 ∧
      (t.thread g.val).inDelay = false := by
  intro u
  have hpc : s.fld (fFaultBase g.val) * 64 = s.reg (tCfg g.val 4) &&& ~~~ 63 := by
    rw [State.fld, fFaultBase]; exact vector_line _
  have hl : (s.fld (fLeadAllowed g.val)).toNat < 2 := by
    rw [State.fld, fLeadAllowed]; exact bitsOf_lt (s.reg (tCfg g.val 0)) 0 0
  have hrec := State.noteFault_hasRecord s g r
  have hmark : (s.noteFault g.val r).bit (fInHandler g.val) = s.bit (fInHandler g.val) :=
    State.writeRecord_inHandler (s.modThread g.val _) g r
  have hu := State.noteFault_thread s g.val r
  have htouch := State.noteFault_touched s g.val r
  rw [execFaultEntry_takes hr (.inr hb), State.takeFault_handler hc h1 h2, hpc]
  generalize s.noteFault g.val r = v at *
  obtain ⟨b1, b2, b3⟩ := State.toHandler_bits v g (s.fld (fLeadAllowed g.val)) (s.reg (tCfg g.val 4) &&& ~~~ 63) hl
  have hw := State.toHandler_thread v g.val (s.fld (fLeadAllowed g.val)) (s.reg (tCfg g.val 4) &&& ~~~ 63)
  have hvw := State.toHandler_touched v g.val (s.fld (fLeadAllowed g.val)) (s.reg (tCfg g.val 4) &&& ~~~ 63)
  rw [hu] at hw
  obtain ⟨hsame, hloops⟩ := Thread.faulted_keeps u (s.reg (tCfg g.val 4) &&& ~~~ 63) r.bytes
  generalize v.toHandler g.val (s.fld (fLeadAllowed g.val)) (s.reg (tCfg g.val 4) &&& ~~~ 63) = w at *
  obtain ⟨hstep, hstill, hbit⟩ := State.atBoundary_quiet w g.val (by rw [hw]; exact hsame.stop.trans hs)
  rw [hw] at hstill
  refine ⟨_, rfl, ?_, ?_, ?_, ?_, ?_, ?_, ?_, hstill.pc, ?_, hstill.inDelay⟩
  · exact State.hasRecord_congr hrec (recordWords_kept g (State.touched_trans hvw hstep))
  · exact State.touched_trans (State.touched_touched (touched_mono htouch fun _ h => List.mem_append_left _ h)
      (touched_mono hvw fun _ h => List.mem_append_right _ h)) hstep
  · exact Thread.keptBut_same (Thread.keptBut_same (Thread.keptBut_refl _ _) hsame) hstill.toSame
  · exact ⟨hstill.loops.1.trans hloops.1, hstill.loops.2.1.trans hloops.2.1, hstill.loops.2.2.trans hloops.2.2⟩
  · exact (hbit g.isLt).trans (b3.trans hmark)
  · exact (State.stepped_bit_tCfg g hstep rfl (by decide)).trans b1
  · refine (State.stepped_bit_tCfg g hstep rfl (by decide)).trans ?_
    rw [State.bit, b2, State.bit]
  · rw [hstill.npc, hstill.pc]; rfl

theorem execFaultEntry_faulted {g : GT} {s : State} {r : FaultRec} (hr : (s.thread g.val).raised = some r)
    (hc : r.cls ≠ 8) (h : s.bit (fFaultEnable g.val) = false ∨ s.bit (fInFault g.val) = true) :
    let u := s.thread g.val
    ∃ t, execFaultEntry g s = .next t ∧
      t.hasRecord g.val r (s.bit (fInFault g.val)) (s.bit (fCurLead g.val)) (s.bit (fInHandler g.val)) ∧
      t.fld (fState g.val) = stFaulted ∧ t.thread g.val = (u.record r.bytes).dropped ∧
      t.reg 0x10808000 = s.reg 0x10808000 ||| 2 := by
  intro u
  have he : s.entersHandler g.val r = false := by
    rw [State.entersHandler_eq hc]
    rcases h with h | h <;> simp [h]
  have hrec := State.noteFault_hasRecord s g r
  have hu := State.noteFault_thread s g.val r
  have htouch := State.noteFault_touched s g.val r
  rw [execFaultEntry_takes hr (.inl he), State.takeFault_faulted hc h]
  generalize s.noteFault g.val r = v at *
  refine ⟨_, rfl, ?_⟩
  rw [State.atBoundary_faulted (State.toFaulted_state v g)]
  refine ⟨State.hasRecord_congr hrec (State.toFaulted_recordWords v g), State.toFaulted_state v g, ?_, ?_⟩
  · rw [State.toFaulted_thread, hu]
  · have hhigh : (v.enterFaulted g.val).reg 0x10808000 = s.reg 0x10808000 :=
      State.keeps_reg (State.sends_of_touched (State.touched_trans htouch (State.enterFaulted_stepped v g.val))).keeps
        (memberFields_high g (by decide))
    rw [State.toFaulted, State.present_cclk _ _ (portInCclk_fault g), State.faultMinor_reg, ← hhigh]
    rfl

/-- Settles O16: the record is written first; then the handler is entered, or FAULTED, and no boundary after it undoes
what the entry wrote. -/
theorem faultEntryWritesRecord : Obligations.FaultEntryWritesRecord := by
  unfold Obligations.FaultEntryWritesRecord
  intro g r s gt u rec' hr hc
  refine ⟨fun h1 h2 hb => execFaultEntry_waits hr hc h1 h2 hb, fun h1 h2 hb hs => ?_, fun h => ?_⟩
  · obtain ⟨t, e, hrec, ht, rest⟩ := execFaultEntry_handler hr hc h1 h2 hb hs
    refine ⟨t, e, hrec, touched_mono ht fun a ha => ?_, rest⟩
    simp only [recordWords, List.mem_append, List.mem_cons, List.not_mem_nil, or_false] at ha ⊢
    tauto
  · obtain ⟨t, e, hrec, hst, hth, hreg⟩ := execFaultEntry_faulted hr hc h
    have hsame := (Thread.record_still u r.bytes).toSame
    refine ⟨t, e, hrec, hst, ?_, ?_, ?_, ?_, ?_, hreg⟩ <;> rw [hth]
    · rfl
    · rfl
    · exact hsame.g
    · exact hsame.flags
    · exact hsame.rest.1

end Sys2Proof.Machine
end

section
/-!
SUPPORT. Word accesses to the system region that the data cache does not serve: requests of the ledger (R145, R334,
R362, R364, R366).
-/
namespace Sys2Proof.Machine

/-! ## Addresses of the system region -/

section
variable {a : Nat} (hlo : 0x100000000000 ≤ a)
include hlo

theorem underlying_system : underlying a = a := if_neg (by omega)

theorem nearAt_system (g : GT) : nearAt g.val a = false := by
  have hg := g.isLt
  have hbin : ownBin g.val a = false := by
    unfold ownBin
    simp only []
    rw [if_neg (by omega), decide_eq_false (p := a < 0x800000) (by omega), Bool.and_false]
  have hset : ownSet g.val a = false := by
    unfold ownSet
    rw [decide_eq_false (p := a < _) (by unfold tReg coreBase; omega), Bool.and_false]
  rw [nearAt, hbin, hset]; rfl

theorem blockOf_system : blockOf a = none := by
  unfold blockOf
  repeat rw [if_neg (by omega)]

theorem ownTxw_system (gt : Nat) : ownTxw gt a = none := by rw [ownTxw, blockOf_system hlo]

theorem contractFree_system (g : GT) : contractFree g.val a = false := by
  rw [contractFree, nearAt_system hlo, paddedAt, blockOf_system hlo]; rfl

theorem aliasAt_system : aliasAt a = false := by
  rw [aliasAt, decide_eq_false (p := a < _) (by omega), Bool.and_false]

theorem isRemote_system : isRemote a = false := by
  rw [isRemote, decide_eq_false (p := a < _) (by omega), Bool.and_false]

theorem State.drainingAt_system (s : State) : s.drainingAt a = false := by
  unfold State.drainingAt
  rw [underlying_system hlo, decide_eq_false (p := a < _) (by omega)]
  cases bankOf a <;> rfl

theorem State.threadRegion_system (s : State) (hhi : a < 2 ^ 48) : s.threadRegion a = .system := by
  have hr : s.region a = .system := by
    unfold State.region
    rw [if_neg (by omega), if_neg (by omega), if_neg (by omega), if_neg (by omega), if_neg (by omega),
      if_neg (by omega), if_neg (by omega), if_neg (by omega), if_pos (by omega)]
  rw [State.threadRegion, hr]
end

/-! ## An access that becomes a request -/

/-- The bytes that an access writes, where it is a plain write. -/
def MemAct.written (m : MemAct) : Option (List Byte) :=
  match m with
  | .write bs => some bs
  | _ => none

/-- A word of the system region, at an offset of a segment that the thread may use so, that the data cache does not
serve and that nothing holds back. -/
structure State.SysWord (s : State) (gt i off a : Nat) (k : AccKind) : Prop where
  addr : (s.desc gt i).base + off = a
  low : 0x100000000000 ≤ a
  high : a < 2 ^ 48
  whole : a % 4 = 0
  use : k = .load ∨ k = .store
  reach : s.reaches gt i off 4 (k = .load) (k = .store)
  free : s.det gt = false
  queued : s.ledgerQ ≠ []
  uncached : s.bit (fDcEnable (gt / 64)) = false ∨ s.bit (fSysCache (gt / 64)) = false
  still : s.bit (fFlushBusy (gt / 64)) = false
  clear : (s.thread gt).clearOf a 4

section
variable {s : State} {g : GT} {i off a : Nat} {k : AccKind} (h : s.SysWord g.val i off a k)
include h

theorem State.SysWord.parts : partsOf (s.desc g.val i).base off 4 = [(a, off, 4)] := by
  have hw := h.whole
  rw [partsOf, h.addr, splitParts, if_neg (by omega), List.map_singleton, ← h.addr, Nat.add_sub_cancel_left]

theorem State.SysWord.check : s.checkAccess g.val i k off 4 = .ok a := by
  obtain ⟨hv, hl, hr, hw, hlim⟩ := h.reach
  have hk : k ≠ .fetch ∧ k ≠ .table := by rcases h.use with rfl | rfl <;> decide
  have hrights (o : BitVec 48) : checkRights (s.desc g.val i) (s.bit (fCurLead g.val)) k (k = .load) (k = .store) o = none := by
    unfold checkRights
    cases hd : (s.desc g.val i).lead <;> rcases h.use with rfl | rfl <;> simp_all
  have hhi := h.high
  unfold State.checkAccess
  simp only [h.addr, aliasAt_system h.low, State.threadRegion_system h.low s h.high, Bool.false_eq_true, false_and,
    if_false, Bool.and_false, Bool.or_false, hk.2, decide_false, hrights]
  rw [if_neg (by omega), if_neg (by omega)]

theorem State.SysWord.checkParts (second : Bool) : s.checkParts g.val i k [(a, off, 4)] false second = none := by
  unfold State.checkParts
  simp only [h.check, Bool.false_and, Bool.false_eq_true, if_false]
  rfl

theorem State.SysWord.accessHeld (store : Bool) : s.accessHeld g.val store [(a, off, 4)] = none := by
  have hlo := h.low
  have hover : s.overtakes g.val (a, off, 4) = false := by
    have halias : (decide (0x4000000 ≤ a) && decide (a < 0xC000000)) = false := aliasAt_system hlo
    unfold State.overtakes
    simp only [halias, Bool.false_and, Bool.false_or, List.any_eq_false]
    intro o ho
    cases hr : o.rest with
    | none => simp
    | some p =>
      have := h.clear o ho p hr
      simp only [overlap, Bool.and_eq_true, decide_eq_true_eq]
      omega
  have hfilter : [(a, off, 4)].filter (fun p : Part => !nearAt g.val p.1 && decide (p.1 < 0xC000000)) = [] := by
    rw [List.filter_eq_nil_iff]
    intro p hp
    rw [List.mem_singleton.1 hp]
    simp only [Bool.and_eq_true, decide_eq_true_eq]
    omega
  unfold State.accessHeld
  simp only [hfilter, List.any_cons, List.any_nil, Bool.or_false, State.drainingAt_system hlo, hover, State.flushHolds,
    h.still, ownTxw_system hlo, Bool.false_and, Bool.and_false, List.isEmpty_nil, Bool.not_true, Bool.false_eq_true,
    if_false]

theorem State.SysWord.accessBreak : s.accessBreak g.val [a] = s := by
  have hfree : [a].all (contractFree g.val) = false := by
    rw [List.all_cons, contractFree_system h.low]; rfl
  rw [State.accessBreak, hfree, if_neg (by decide), State.contractBreak, h.free, if_neg (by decide)]

/-- The access is held behind the requests that the ledger holds. -/
theorem State.SysWord.farPart (ref : ReqRef) (act : MemAct) {t : State} (ht : t.regs = s.regs)
    (hq : t.ledgerQ = s.ledgerQ) :
    t.farPart g.val ⟨ref, a, act⟩ = { t with ledgerQ := s.ledgerQ ++
      [⟨.access ref, g.val, a, act.size, act.written, s.vcTagOf (ownThread g.val), 0, false⟩] } := by
  have htag : t.reqTag g.val = s.vcTagOf (ownThread g.val) := by
    rw [State.reqTag, if_pos g.isLt]
    simp only [State.vcTagOf, State.owner_congr ht, State.fld_congr ht]
  unfold State.farPart
  rw [if_neg]
  · rw [State.ledgerSend_held (isRemote_system h.low) (by rw [hq]; exact h.queued), State.tagged, hq]
    exact congrArg (fun e => ({ t with ledgerQ := s.ledgerQ ++ [e] } : State)) (congrArg
      (fun v => (⟨.access ref, g.val, a, act.size, _, v, 0, false⟩ : LEntry)) htag)
  · rintro ⟨-, h1, h2⟩
    rw [State.bit_congr ht] at h1 h2
    rcases h.uncached with hu | hu <;> simp [hu] at h1 h2

theorem State.SysWord.fetchAhead : (s.fetchAhead g.val).SysWord g.val i off a k := by
  have hd : (s.fetchAhead g.val).desc g.val i = s.desc g.val i := by
    simp only [State.desc, State.fetchAhead_reg]
  have hq : (s.fetchAhead g.val).ledgerQ = s.ledgerQ := by rw [(State.fetchAhead_stepped s g.val).1]
  refine ⟨by rw [hd]; exact h.addr, h.low, h.high, h.whole, h.use, ?_, ?_, by rw [hq]; exact h.queued, ?_, ?_, ?_⟩
  · have := h.reach
    unfold State.reaches at *
    rwa [hd, State.fetchAhead_bit]
  · rw [State.det, State.fetchAhead_bit]; exact h.free
  · rw [State.fetchAhead_bit, State.fetchAhead_bit]; exact h.uncached
  · rw [State.fetchAhead_bit]; exact h.still
  · rw [Thread.clearOf, State.fetchAhead_stores]; exact h.clear
end

theorem State.memVia_alone {s : State} {gt : Nat} (m : MemOp) (n : Nat) (h : (s.thread gt).twin = none) :
    s.memVia gt m n = false := by
  simp [State.memVia, h]

/-! ## Loads (R145) -/

/-- The long operation of a word load at a thread. -/
def Thread.loadOp (u : Thread) (m : MemOp) (acc : BitVec 3) (agree padded : Bool) : LongOp :=
  ⟨0, u.pc, m.d, false, BitVec.ofNat 3 m.seg.val, acc, .zext 4, 1, [], none, agree, padded⟩

/-- The operation of a word load issues, and its one part is a request of the ledger. -/
theorem State.SysWord.loadBody {s : State} {g : GT} {a : Nat} {m : MemOp}
    (h : s.SysWord g.val m.seg.val (s.memOff g.val m) a .load) (agree : Bool) :
    let u := s.thread g.val
    ∃ t acc padded, s.loadBody g.val m 4 (.zext 4) agree = .done t .seq ∧
      t.thread g.val = u.addOp (u.loadOp m acc agree padded) ∧
      t.ledgerQ = s.ledgerQ ++
        [⟨.access (.op g.val u.nextOp 0), g.val, a, 4, none, s.vcTagOf (ownThread g.val), 0, false⟩] := by
  intro u
  let acc := accCode .load (s.memBase g.val m + s.memOff g.val m)
  let padded := [(a, s.memOff g.val m, 4)].any (fun p => paddedAt g.val p.1)
  let v := s.setThread g.val (u.addOp (u.loadOp m acc agree padded))
  let q := s.ledgerQ ++ [⟨.access (.op g.val u.nextOp 0), g.val, a, 4, none, s.vcTagOf (ownThread g.val), 0, false⟩]
  have hparts : s.memParts g.val m 4 = [(a, s.memOff g.val m, 4)] := h.parts
  have hload (clash : Bool) : v.loadPart g.val a 4 (.op g.val u.nextOp 0) clash = { v with ledgerQ := q } := by
    unfold State.loadPart
    rw [nearAt_system h.low, if_neg (by decide), State.threadRegion_system h.low _ h.high]
    exact h.farPart (.op g.val u.nextOp 0) (.read 4) (t := v) rfl rfl
  have hissue : s.issueLong g.val m.d (4 == 8) m.seg (accCode .load (s.memBase g.val m + s.memOff g.val m)) (.zext 4) agree
      [(a, s.memOff g.val m, 4)] (opClashes m) = v.loadPart g.val a 4 (.op g.val u.nextOp 0) m.clash := rfl
  refine ⟨{ v with ledgerQ := q }, acc, padded, ?_, ?_, rfl⟩
  rotate_left
  · exact (State.thread_congr (s := v) rfl _).trans (State.thread_setThread_same s g.val _)
  · unfold State.loadBody
    rw [hparts]
    simp only [List.length_singleton, List.map_cons, List.map_nil, List.all_cons, nearAt_system h.low]
    rw [show decide (1 < 1) = false from rfl, h.checkParts, h.accessHeld, h.accessBreak]
    simp only [Bool.false_and, Bool.false_eq_true, if_false]
    rw [hissue, hload]

/-- The operation of LDW. -/
def ldwBody (gt : Nat) (m : MemOp) (s : State) : Exec :=
  s.loadBody gt m 4 (.zext 4) ((s.thread gt).primaryOf.isSome && s.memVia gt m 4)

theorem execLdw_eq (x : Issue) (m : MemOp) (s : State) :
    execLdw x m s = .next (s.issue x (s.insLoad x.gt.val m 4) (ldwBody x.gt.val m)) := rfl

theorem execLdw_far {x : Issue} {m : MemOp} {s : State} {a : Nat}
    (h : s.SysWord x.gt.val m.seg.val (s.memOff x.gt.val m) a .load)
    (hi : s.issuesAlone x (s.insLoad x.gt.val m 4)) :
    ∃ t o, execLdw x m s = .next t ∧ s.longIssued t x.gt.val o ∧ o.d = m.d ∧ o.need = 1 ∧ o.result = none ∧
      t.ledgerQ = s.ledgerQ ++ [⟨.access (.op x.gt.val (s.thread x.gt.val).nextOp 0), x.gt.val, a, 4, none,
        s.vcTagOf (ownThread x.gt.val), 0, false⟩] := by
  have hF := h.fetchAhead
  have hoff : (s.fetchAhead x.gt.val).memOff x.gt.val m = s.memOff x.gt.val m := by
    simp only [State.memOff, State.fetchAhead_rd]
  rw [← hoff] at hF
  obtain ⟨agree, hagree⟩ : ∃ b, ldwBody x.gt.val m (s.fetchAhead x.gt.val) =
    (s.fetchAhead x.gt.val).loadBody x.gt.val m 4 (.zext 4) b := ⟨_, rfl⟩
  obtain ⟨v, acc, padded, hbody, hth, hq⟩ := hF.loadBody agree
  obtain ⟨ls, ah, hf⟩ := State.fetchAhead_thread s x.gt.val
  have htag : (s.fetchAhead x.gt.val).vcTagOf (ownThread x.gt.val) = s.vcTagOf (ownThread x.gt.val) := by
    simp only [State.vcTagOf, State.owner_congr (State.fetchAhead_regs s x.gt.val), State.fetchAhead_fld]
  have hq0 : (s.fetchAhead x.gt.val).ledgerQ = s.ledgerQ := by rw [(State.fetchAhead_stepped s x.gt.val).1]
  rw [hf] at hth hq
  rw [htag, hq0] at hq
  obtain ⟨q1, q2, q3⟩ := State.issue_ran hi.1 (.inr hi.2) (hagree.trans hbody) (by
    rw [hth]; exact ⟨rfl, rfl, rfl, ⟨rfl, rfl, rfl⟩, rfl, rfl⟩)
  rw [hth] at q2
  refine ⟨_, { (s.thread x.gt.val).loadOp m acc agree padded with id := (s.thread x.gt.val).nextOp }, execLdw_eq x m s,
    ⟨q3, ?_, rfl, rfl⟩, rfl, rfl, rfl, ?_⟩
  · have hk : ({ s.thread x.gt.val with
          ops := (s.thread x.gt.val).ops ++ [{ (s.thread x.gt.val).loadOp m acc agree padded with
            id := (s.thread x.gt.val).nextOp }],
          nextOp := (s.thread x.gt.val).nextOp + 1 } : Thread).keptBut
        (({ s.thread x.gt.val with lineBuf := ls, ahead := ah } : Thread).addOp
          (({ s.thread x.gt.val with lineBuf := ls, ahead := ah } : Thread).loadOp m acc agree padded)) [] :=
      Thread.keptBut_refl _ _
    exact Thread.keptBut_same hk q2
  · rw [q1.1]; exact hq

/-! ## Stores (R130, R145) -/

/-- The outstanding store of a word to the system region at a thread. -/
def Thread.farStore (u : Thread) (m : MemOp) (a : Nat) : StoreOp :=
  ⟨u.nextOp, u.pc, BitVec.ofNat 3 m.seg.val, accCode .store a, BitVec.ofNat 48 a, none, false, none, false,
    false || farAt a⟩

/-- The operation of a word store leaves it outstanding, and its one part is a request of the ledger. -/
theorem State.SysWord.storeBody {s : State} {g : GT} {a : Nat} {m : MemOp}
    (h : s.SysWord g.val m.seg.val (s.memOff g.val m) a .store) (hs : (s.thread g.val).isShadow = false)
    {bs : List Byte} (hbs : bs.length = 4) :
    let u := s.thread g.val
    ∃ t, s.storeBody g.val m 4 bs = .done t .seq ∧
      t.thread g.val = { u with stores := u.stores ++ [u.farStore m a], nextOp := u.nextOp + 1 } ∧
      t.ledgerQ = s.ledgerQ ++
        [⟨.access (.store g.val u.nextOp), g.val, a, 4, some bs, s.vcTagOf (ownThread g.val), 0, false⟩] := by
  intro u
  let v := s.setThread g.val { u with stores := u.stores ++ [u.farStore m a], nextOp := u.nextOp + 1 }
  have hparts : s.memParts g.val m 4 = [(a, s.memOff g.val m, 4)] := h.parts
  have hv : (v.thread g.val).isShadow = false := by
    rw [State.thread_setThread_same]; exact hs
  let q := s.ledgerQ ++
    [⟨.access (.store g.val u.nextOp), g.val, a, 4, some bs, s.vcTagOf (ownThread g.val), 0, false⟩]
  have hstore (clash : Bool) : v.storePart g.val a bs (.store g.val u.nextOp) clash = { v with ledgerQ := q } := by
    unfold State.storePart
    simp only [State.threadRegion_system h.low _ h.high, hv, Bool.false_eq_true, if_false]
    rw [h.farPart (.store g.val u.nextOp) (.write bs) (t := v) rfl rfl, show (MemAct.write bs).size = 4 from hbs]
    rfl
  have hone : s.storeOne g.val m.seg a bs none false false m.clash =
      v.storePart g.val a bs (.store g.val u.nextOp) m.clash := by
    rw [State.storeOne, nearAt_system h.low, if_neg (by decide)]
    rfl
  refine ⟨{ v with ledgerQ := q }, ?_, ?_, rfl⟩
  rotate_left
  · exact (State.thread_congr (s := v) rfl _).trans (State.thread_setThread_same s g.val _)
  · unfold State.storeBody
    rw [hparts]
    simp only [List.length_singleton, List.map_cons, List.map_nil]
    rw [show decide (1 < 1) = false from rfl, h.checkParts, h.accessHeld, h.accessBreak]
    simp only [State.storeParts]
    rw [hone, hstore]

theorem execStw_far {x : Issue} {m : MemOp} {s : State} {a : Nat}
    (h : s.SysWord x.gt.val m.seg.val (s.memOff x.gt.val m) a .store) (hi : s.issuesAlone x (insStore m 4)) :
    let u := s.thread x.gt.val
    ∃ t o, execStw x m s = .next t ∧ u.wentOn (t.thread x.gt.val) ∧
      ({ u with stores := u.stores ++ [o], nextOp := u.nextOp + 1 } : Thread).keptBut (t.thread x.gt.val) [] ∧
      o.id = u.nextOp ∧ o.pc = u.pc ∧ o.answer = none ∧
      t.ledgerQ = s.ledgerQ ++ [⟨.access (.store x.gt.val u.nextOp), x.gt.val, a, 4,
        some (toBytes 4 (u.rd m.d).toNat), s.vcTagOf (ownThread x.gt.val), 0, false⟩] := by
  intro u
  let F := s.fetchAhead x.gt.val
  have hF := h.fetchAhead
  have hoff : F.memOff x.gt.val m = s.memOff x.gt.val m := by simp only [State.memOff, F, State.fetchAhead_rd]
  have hbs : (F.thread x.gt.val).storeBytes m.d 4 = toBytes 4 (u.rd m.d).toNat := by
    rw [Thread.storeBytes, if_neg (by decide), State.fetchAhead_rd]
  have htw : (F.thread x.gt.val).twin = none := (State.fetchAhead_twin s x.gt.val).trans hi.2
  have hsh : (F.thread x.gt.val).isShadow = false := by simp only [Thread.isShadow, htw]
  have htag : F.vcTagOf (ownThread x.gt.val) = s.vcTagOf (ownThread x.gt.val) := by
    simp only [State.vcTagOf, State.owner_congr (State.fetchAhead_regs s x.gt.val), F, State.fetchAhead_fld]
  have hq0 : F.ledgerQ = s.ledgerQ := by
    show (s.fetchAhead x.gt.val).ledgerQ = _
    rw [(State.fetchAhead_stepped s x.gt.val).1]
  rw [← hoff] at hF
  obtain ⟨v, hbody, hth, hq⟩ := State.SysWord.storeBody (s := F) hF hsh
    (Thread.storeBytes_length (F.thread x.gt.val) m.d 4)
  obtain ⟨ls, ah, hf⟩ : ∃ ls ah, F.thread x.gt.val = { u with lineBuf := ls, ahead := ah } :=
    State.fetchAhead_thread s x.gt.val
  rw [hbs, htag, hq0, hf] at hq
  rw [hf] at hth
  have hdone : storeRecorded x.gt.val m 4 F = .done (v.modThread x.gt.val (fun t => t.record (recStore 4
      (F.memBase x.gt.val m + F.memOff x.gt.val m) (F.memOff x.gt.val m) m.seg
      ((F.thread x.gt.val).storeBytes m.d 4)))) .seq := by
    unfold storeRecorded
    rw [State.memVia_alone m 4 htw]
    exact State.recorded_alone hbody
  generalize recStore _ _ _ _ _ = bytes at hdone
  obtain ⟨q1, q2, q3⟩ := State.issue_ran hi.1 (.inr hi.2) hdone (by
    rw [State.thread_modThread_same, hth, Thread.record, if_neg (by simp [hi.2, u])]
    exact ⟨rfl, rfl, rfl, ⟨rfl, rfl, rfl⟩, rfl, rfl⟩)
  rw [State.thread_modThread_same, hth] at q2
  have hk : ({ u with stores := u.stores ++ [u.farStore m a], nextOp := u.nextOp + 1 } : Thread).keptBut
      { u with lineBuf := ls, ahead := ah, stores := u.stores ++ [u.farStore m a], nextOp := u.nextOp + 1 } [] :=
    Thread.keptBut_refl _ _
  refine ⟨_, u.farStore m a, congrArg Host.Outcome.next (execStore_eq x m 4 s), q3, ?_, rfl, rfl, rfl, ?_⟩
  · exact Thread.keptBut_same hk ((Thread.record_still _ _).toSame.trans q2)
  · rw [q1.1]; exact hq

/-- Settles O20: the one part of the access is a request behind those that the ledger holds. -/
theorem systemRegionAccessesGoToLedger : Obligations.SystemRegionAccessesGoToLedger := by
  unfold Obligations.SystemRegionAccessesGoToLedger
  intro x m s gt u off a hlo hhi hw hdet hq hcache hflush hclear
  refine ⟨fun hr hi => ?_, fun hr hi => ?_⟩
  · exact execLdw_far ⟨rfl, hlo, hhi, hw, .inl rfl, hr, hdet, hq, hcache, hflush, hclear⟩ hi
  · exact execStw_far ⟨rfl, hlo, hhi, hw, .inr rfl, hr, hdet, hq, hcache, hflush, hclear⟩ hi

end Sys2Proof.Machine
end

section
/-!
SUPPORT. The ledger: a held request takes an entry, and an entry's response or timeout (R363, R364, R366 to R369, R461).
-/
namespace Sys2Proof.Machine

/-! ## Registers of the ledger -/

theorem canon_ledger {a : Nat} (h : 0x106C0000 ≤ a) : canon a = a := canon_id (.inr (by omega))

theorem ledger_ne {a b : Nat} (ha : 0x106C0000 ≤ a) (hb : 0x106C0000 ≤ b) (h : a ≠ b) : canon a ≠ canon b := by
  rwa [canon_ledger ha, canon_ledger hb]

/-! ## Shares (R363, R366) -/

/-- Neither the entries nor the crossing queues matter to an event. -/
theorem State.present_ledger (u : State) (l : Map (Option LEntry)) (b : Bool) :
    ({ u with ledger := l } : State).present 0x17AA b 0 = { u.present 0x17AA b 0 with ledger := l } := by
  have hc : portInCclk 0x17AA = true := by decide
  have hs : ({ u with ledger := l } : State).selectsOf 0x17AA b = u.selectsOf 0x17AA b := by
    unfold State.selectsOf; rfl
  have hv (x : Nat) : ({ u with ledger := l } : State).vecTag x = u.vecTag x := by
    generalize ht : ({ u with ledger := l } : State) = t
    have hr : t.regs = u.regs := by rw [← ht]
    unfold State.vecTag
    simp only [State.owner_congr hr, State.fld_congr hr]
  rw [State.present_cclk _ _ hc, State.present_cclk _ _ hc, State.routeEvent, State.routeEvent, hs]
  simp only [hv]

theorem State.present_near (u : State) (b : Bool) :
    (u.present 0x17AA b 0).xq = u.xq ∧ (u.present 0x17AA b 0).regs = u.regs := by
  rw [State.present_cclk u b (by decide)]
  exact ⟨rfl, rfl⟩

section
variable {u : State} {e : LEntry} {ref : ReqRef} (hu : e.use = .access ref)
include hu

theorem State.shareUp_none (hv : e.vc = none) : u.shareUp e = u.countUp fNovcUsed := by
  rw [State.shareUp, hu, hv]

theorem State.shareUp_some {v g : Nat} (hv : e.vc = some (v, g)) : u.shareUp e =
    if (u.countUp (fCount v)).fld (fCount v) = (u.countUp (fCount v)).fld (fQuota v) then
      (u.countUp (fCount v)).present 0x17AA false 0 else u.countUp (fCount v) := by
  rw [State.shareUp, hu, hv]

/-- Counting an entry in its share leaves the entries and the crossing queues alone. -/
theorem State.shareUp_ledger (l : Map (Option LEntry)) :
    ({ u with ledger := l } : State).shareUp e = { u.shareUp e with ledger := l } ∧ (u.shareUp e).xq = u.xq := by
  cases hv : e.vc with
  | none => rw [State.shareUp_none hu hv, State.shareUp_none hu hv]; exact ⟨rfl, rfl⟩
  | some p =>
    obtain ⟨v, g⟩ := p
    have hl : ({ u with ledger := l } : State).countUp (fCount v) = { u.countUp (fCount v) with ledger := l } := rfl
    have hx : (u.countUp (fCount v)).xq = u.xq := rfl
    rw [State.shareUp_some hu hv, State.shareUp_some hu hv, hl]
    generalize u.countUp (fCount v) = w at *
    have hf (y : Fld) : ({ w with ledger := l } : State).fld y = w.fld y := rfl
    rw [hf, hf]
    split
    · rw [State.present_ledger, (State.present_near w false).1]; exact ⟨rfl, hx⟩
    · exact ⟨rfl, hx⟩

theorem State.shareRoom_none (hv : e.vc = none) :
    u.shareRoom e = decide (u.fld fNovcUsed < u.fld ⟨0x106C0008, 13, 0⟩) := by
  rw [State.shareRoom, hu, hv]

theorem State.shareRoom_some {v g : Nat} (hv : e.vc = some (v, g)) :
    u.shareRoom e = decide (u.fld (fCount v) < u.fld (fQuota v)) := by
  rw [State.shareRoom, hu, hv]
end

/-- The count of a complex below its quota, and its quota, once one more is counted. -/
theorem State.count_counted (u : State) (v : Nat) (h : (u.fld (fCount v)).toNat + 1 ≤ (u.fld (fQuota v)).toNat) :
    ((u.countUp (fCount v)).fld (fCount v)).toNat = (u.fld (fCount v)).toNat + 1 ∧
      (u.countUp (fCount v)).fld (fQuota v) = u.fld (fQuota v) := by
  have hq : (u.fld (fQuota v)).toNat < 2 ^ 14 := bitsOf_lt _ 13 0
  refine ⟨?_, State.fld_countUp_addr u (ledger_ne ?_ ?_ ?_)⟩
  · rw [State.fld_countUp u (fCount v) 1 (by simp [Fld.ok, fCount])]
    simp only [fCount] at *
    omega
  · simp only [fQuota]; omega
  · simp only [fCount]; omega
  · simp only [fQuota, fCount]; omega

section
variable {u : State} {e : LEntry} {ref : ReqRef} {v g : Nat} (hu : e.use = .access ref) (hv : e.vc = some (v, g))
include hu hv

theorem State.shareUp_below (h : (u.fld (fCount v)).toNat + 1 < (u.fld (fQuota v)).toNat) :
    u.shareUp e = u.countUp (fCount v) := by
  obtain ⟨h1, h2⟩ := State.count_counted u v (Nat.le_of_lt h)
  rw [State.shareUp_some hu hv, if_neg]
  intro k
  have := congrArg BitVec.toNat k
  rw [h1, h2] at this
  omega

/-- The count reaches its quota. -/
theorem State.shareUp_reaches (h : (u.fld (fCount v)).toNat + 1 = (u.fld (fQuota v)).toNat) :
    u.shareUp e = (u.countUp (fCount v)).present 0x17AA false 0 := by
  obtain ⟨h1, h2⟩ := State.count_counted u v (Nat.le_of_eq h)
  rw [State.shareUp_some hu hv, if_pos]
  exact BitVec.eq_of_toNat_eq (by rw [h1, h2, h])
end

/-! ## A held request takes an entry (R363, R364) -/

/-- Its line, an index and its way out allow a held request to issue. -/
def State.entryClear (s : State) (e : LEntry) : Prop :=
  s.lineHeld e = false ∧ freeIndex s.ledger 0 < 16384 ∧ s.sipRoom (sipPort e.addr) = true

/-- The state without the i-th of its held requests. -/
def State.unheld (s : State) (i : Nat) : State := { s with ledgerQ := s.ledgerQ.eraseIdx i }

/-- The state in which a request has taken the lowest free entry and waits for its port. -/
def State.entered (s u : State) (e : LEntry) : State :=
  { u with
    ledger := Map.set none s.ledger (freeIndex s.ledger 0) (some { e with tmo := (s.fld ⟨0x106C0000, 4, 0⟩).toNat })
    xq := s.xq ++ [(.toSip (sipPort e.addr), .sip (freeIndex s.ledger 0))] }

section
variable {s : State} {e : LEntry} {ref : ReqRef}

theorem State.canAllocate_iff (hr : isRemote e.addr = false) :
    s.canAllocate (s.tagged e) = true ↔ s.shareRoom (s.tagged e) = true ∧ s.entryClear e := by
  have hw : s.wayRoom (s.tagged e) = s.sipRoom (sipPort e.addr) := by
    unfold State.wayRoom
    rw [if_neg (by rw [show (s.tagged e).addr = e.addr from rfl, hr]; decide)]
    rfl
  have hl : s.lineHeld (s.tagged e) = s.lineHeld e := rfl
  rw [State.canAllocate, hw, hl, State.entryClear, State.indexFree]
  simp only [Bool.and_eq_true, Bool.not_eq_true', decide_eq_true_eq]
  tauto

/-- An entry of no remote window goes to its system initiator port. -/
theorem State.allocate_near (hu : e.use = .access ref) (hr : isRemote e.addr = false) :
    s.allocate e = s.entered (s.shareUp e) e := by
  unfold State.allocate
  simp only []
  rw [if_neg (by rw [hr]; decide), (State.shareUp_ledger hu _).1, State.xqPush, State.entered]
  simp only [(State.shareUp_ledger (u := s) hu []).2]

theorem State.shareRoom_below {v g : Nat} (hu : e.use = .access ref) (hv : s.reqTag e.reqr = some (v, g))
    (h : (s.fld (fCount v)).toNat + 1 ≤ (s.fld (fQuota v)).toNat) : s.shareRoom (s.tagged e) = true := by
  rw [State.shareRoom_some (e := s.tagged e) hu hv, decide_eq_true (BitVec.lt_def.2 (by omega))]

variable {i : Nat} (hi : s.ledgerQ[i]? = some e)
include hi

theorem execLedgerIssue_waits (hc : s.canAllocate (s.tagged e) = false) : execLedgerIssue i s = .next s := by
  unfold execLedgerIssue
  rw [hi]
  simp only []
  rw [if_neg (by rw [hc]; rintro ⟨h, -⟩; cases h)]

/-- The first of the held requests that can issue does. -/
theorem execLedgerIssue_takes (hu : e.use = .access ref) (hr : isRemote e.addr = false)
    (hs : s.shareRoom (s.tagged e) = true) (hc : s.entryClear e)
    (hb : ∀ x ∈ s.ledgerQ.take i, s.canAllocate (s.tagged x) = false) :
    execLedgerIssue i s = .next (s.entered ((s.unheld i).shareUp (s.tagged e)) (s.tagged e)) := by
  have hroute : (s.unheld i).noRoute (s.tagged e) = false := by
    rw [State.noRoute, show (s.tagged e).addr = e.addr from rfl, hr, Bool.false_and]
  unfold execLedgerIssue
  rw [hi]
  simp only []
  rw [if_pos ⟨(State.canAllocate_iff hr).2 ⟨hs, hc⟩, by simpa using hb⟩]
  show Host.Outcome.next (if (s.unheld i).noRoute (s.tagged e) then _ else (s.unheld i).allocate (s.tagged e)) = _
  rw [hroute, if_neg (by decide), State.allocate_near (e := s.tagged e) hu hr]
  rfl

theorem execLedgerIssue_blocked (hr : isRemote e.addr = false) (hc : ¬ s.entryClear e) :
    execLedgerIssue i s = .next s :=
  execLedgerIssue_waits hi (Bool.eq_false_iff.2 fun k => hc ((State.canAllocate_iff hr).1 k).2)

theorem execLedgerIssue_full (hr : isRemote e.addr = false) (hs : s.shareRoom (s.tagged e) = false) :
    execLedgerIssue i s = .next s :=
  execLedgerIssue_waits hi (Bool.eq_false_iff.2 fun k =>
    Bool.false_ne_true (hs.symm.trans ((State.canAllocate_iff hr).1 k).1))

variable (hu : e.use = .access ref) (hr : isRemote e.addr = false) (hc : s.entryClear e)
  (hb : ∀ x ∈ s.ledgerQ.take i, s.canAllocate (s.tagged x) = false)
include hu hr hc hb

theorem execLedgerIssue_alone (hv : s.reqTag e.reqr = none) (h : s.fld fNovcUsed < s.fld ⟨0x106C0008, 13, 0⟩) :
    execLedgerIssue i s = .next (s.entered ((s.unheld i).countUp fNovcUsed) { e with vc := none }) := by
  have hs : s.shareRoom (s.tagged e) = true := by
    rw [State.shareRoom_none (e := s.tagged e) hu hv, decide_eq_true h]
  rw [execLedgerIssue_takes hi hu hr hs hc hb, State.shareUp_none (e := s.tagged e) hu hv, State.tagged, hv]

variable {v g : Nat} (hv : s.reqTag e.reqr = some (v, g))
include hv

theorem execLedgerIssue_below (h : (s.fld (fCount v)).toNat + 1 < (s.fld (fQuota v)).toNat) : execLedgerIssue i s =
    .next (s.entered ((s.unheld i).countUp (fCount v)) { e with vc := some (v, g) }) := by
  rw [execLedgerIssue_takes hi hu hr (State.shareRoom_below hu hv (Nat.le_of_lt h)) hc hb,
    State.shareUp_below (u := s.unheld i) (e := s.tagged e) hu hv h, State.tagged, hv]

theorem execLedgerIssue_reaches (h : (s.fld (fCount v)).toNat + 1 = (s.fld (fQuota v)).toNat) : execLedgerIssue i s =
    .next (s.entered (((s.unheld i).countUp (fCount v)).present 0x17AA false 0) { e with vc := some (v, g) }) := by
  rw [execLedgerIssue_takes hi hu hr (State.shareRoom_below hu hv (Nat.le_of_eq h)) hc hb,
    State.shareUp_reaches (u := s.unheld i) (e := s.tagged e) hu hv h, State.tagged, hv]
end

/-! ## An entry's end (R367, R368, R370, R461) -/

theorem Map.set_none {m : Map (Option LEntry)} {k : Nat} : Map.set none m k none = Map.erase m k := if_pos rfl

/-- The state with one counter of s less. -/
def State.less (s : State) (x : Fld) (u : State) : State := u.put [(x, BitVec.ofNat 32 ((s.fld x).toNat - 1))]

theorem State.countDown_less {s u : State} {x : Fld} (h : u.fld x = s.fld x) : u.countDown x = s.less x u := by
  rw [State.countDown, h]; rfl

theorem State.fld_less {s u : State} {x y : Fld} (h : canon y.addr ≠ canon x.addr) : (s.less x u).fld y = u.fld y :=
  State.fld_setFld_addr _ _ h

/-- An entry that ends is gone from the ledger and from a fence. -/
def State.gone (s : State) (k : Nat) : State := { s with ledger := Map.erase s.ledger k, fence := s.fence.erase k }

theorem State.freeTag_eq (s : State) (k : Nat) : s.freeTag k = s.gone k := by
  rw [State.freeTag, Map.set_none, State.gone]

theorem State.fld_gone (s : State) (k : Nat) (x : Fld) : (s.gone k).fld x = s.fld x := rfl

/-- The bytes with which an entry's request is answered. -/
def LEntry.answer (e : LEntry) (data : Line) : List Byte :=
  match e.wr with
  | some bs => bs
  | none => ((lineBytes data).drop (e.addr % 64)).take e.n

/-- A target error reaches whoever awaits an entry, or its data. -/
def State.entryAnswered (u : State) (e : LEntry) (ref : ReqRef) (err : Bool) (data : Line) : State :=
  if err then u.deliverError ref e.addr else u.deliver ref (e.answer data)

/-- A stale completion is counted and presented. -/
def State.stale (u : State) : State := (u.countUp ⟨0x106C0010, 31, 0⟩).present 0x17AA true 0

section
variable {s u : State} {e : LEntry} {ref : ReqRef} (hu : e.use = .access ref)
include hu

theorem State.finishEntry_access (err : Bool) (data : Line) : u.finishEntry e err data = u.entryAnswered e ref err data := by
  rw [State.finishEntry, hu]; rfl

theorem State.completeEntry_fresh (h : u.freshEntry e = true) (err : Bool) (data : Line) :
    u.completeEntry e err data = u.entryAnswered e ref err data := by
  rw [State.completeEntry, if_pos h, State.finishEntry_access hu]

/-- No half of a split store of a thread that is reset since follows. -/
theorem State.quietHalf_none (hq : ∀ gt id, ref = .store gt id → ∀ o ∈ (u.thread gt).stores, o.id = id → o.quiet = false) :
    u.quietHalf e = u := by
  rw [State.quietHalf, hu]
  cases ref with
  | store gt id =>
    have hany : (u.thread gt).stores.any (fun o => o.id == id && o.quiet) = false := by
      rw [List.any_eq_false]
      intro o ho k
      simp only [Bool.and_eq_true, beq_iff_eq] at k
      rw [hq gt id rfl o ho k.1] at k
      exact absurd k.2 (by decide)
    show (if (u.thread gt).stores.any (fun o => o.id == id && o.quiet) then _ else u) = u
    rw [hany, if_neg (by decide)]
  | _ => rfl

theorem State.completeEntry_stale (h : u.freshEntry e = false)
    (hq : ∀ gt id, ref = .store gt id → ∀ o ∈ (u.thread gt).stores, o.id = id → o.quiet = false) (err : Bool)
    (data : Line) : u.completeEntry e err data = u.stale := by
  rw [State.completeEntry, if_neg (by rw [h]; decide), State.quietHalf_none hu hq]; rfl

theorem State.shareDown_none (hv : e.vc = none) : u.shareDown e = u.countDown fNovcUsed := by
  rw [State.shareDown, hu, hv]

theorem State.shareDown_some {v g : Nat} (hv : e.vc = some (v, g)) : u.shareDown e =
    if g = (u.fld (vcGen v)).toNat then u.countDown (fCount v) else u.countDown (fOldCount v) := by
  rw [State.shareDown, hu, hv]
end

theorem State.freshEntry_none {u : State} {e : LEntry} (hv : e.vc = none) : u.freshEntry e = true := by
  rw [State.freshEntry, hv]

theorem State.freshEntry_some {u : State} {e : LEntry} {v g : Nat} (hv : e.vc = some (v, g)) : u.freshEntry e =
    (decide (g = (u.fld (vcGen v)).toNat) && u.fld (vcState v) != 4 && u.fld (vcState v) != 5) := by
  rw [State.freshEntry, hv]

/-- The status of a complex is none of its counters. -/
theorem State.vc_less (s u : State) (v : Nat) {x : Fld} (hx : x = fCount v ∨ x = fOldCount v) :
    (s.less x u).fld (vcGen v) = u.fld (vcGen v) ∧ (s.less x u).fld (vcState v) = u.fld (vcState v) := by
  refine ⟨State.fld_less (ledger_ne ?_ ?_ ?_), State.fld_less (ledger_ne ?_ ?_ ?_)⟩ <;>
    rcases hx with rfl | rfl <;> simp only [vcGen, vcState, fCount, fOldCount] <;> omega

/-! ## Responses (R367, R368, R577) -/

section
variable {s : State} {tag : BitVec 14} {e : LEntry} {ref : ReqRef}

theorem execSipResponse_free (err : Bool) (data : Line) (h : Map.get none s.ledger tag.toNat = none) :
    execSipResponse tag err data s = .next s.faultMinor := by
  rw [execSipResponse, h]

theorem execLedgerTimeout_idle (h : Map.get none s.ledger tag.toNat = none ∨
    (Map.get none s.ledger tag.toNat = some e ∧ e.limbo = true)) : execLedgerTimeout tag s = .next s := by
  rcases h with h | ⟨h, hl⟩ <;> rw [execLedgerTimeout, h]
  simp only [hl, if_true]

variable (h : Map.get none s.ledger tag.toNat = some e)
include h

theorem execSipResponse_early (err : Bool) (data : Line) (hs : s.sipSent tag.toNat = false) :
    execSipResponse tag err data s = .next s := by
  rw [execSipResponse, h]
  simp only [hs, Bool.not_false, if_true]

/-- The late response of an entry in limbo only frees it. -/
theorem execSipResponse_limbo (err : Bool) (data : Line) (hs : s.sipSent tag.toNat = true) (hl : e.limbo = true) :
    execSipResponse tag err data s =
      .next (s.less fLimbo ((s.gone tag.toNat).countUp ⟨0x106C0018, 31, 0⟩)) := by
  have hf : ((s.gone tag.toNat).countUp ⟨0x106C0018, 31, 0⟩).fld fLimbo = s.fld fLimbo :=
    State.fld_countUp_addr _ (ledger_ne (by decide) (by decide) (by decide))
  rw [execSipResponse, h]
  simp only [hs, hl, Bool.not_true, Bool.false_eq_true, if_false, if_true]
  rw [State.freeTag_eq, State.countDown_less hf]

variable (hl : e.limbo = false)
include hl

theorem execSipResponse_completes (err : Bool) (data : Line) (hs : s.sipSent tag.toNat = true) :
    execSipResponse tag err data s = .next (((s.gone tag.toNat).shareDown e).completeEntry e err data) := by
  rw [execSipResponse, h]
  simp only [hs, hl, Bool.not_true, Bool.false_eq_true, if_false]
  rw [State.freeTag_eq]

variable (hu : e.use = .access ref)
include hu

theorem execSipResponse_alone (err : Bool) (data : Line) (hs : s.sipSent tag.toNat = true) (hv : e.vc = none) :
    execSipResponse tag err data s =
      .next ((s.less fNovcUsed (s.gone tag.toNat)).entryAnswered e ref err data) := by
  rw [execSipResponse_completes h hl err data hs, State.shareDown_none hu hv,
    State.countDown_less (State.fld_gone s tag.toNat fNovcUsed), State.completeEntry_fresh hu (State.freshEntry_none hv)]

section
variable {v g : Nat} (hv : e.vc = some (v, g)) (err : Bool) (data : Line) (hs : s.sipSent tag.toNat = true)
include hv hs

/-- An entry of the present generation counts down the share of its complex. -/
theorem execSipResponse_present (hg : g = (s.fld (vcGen v)).toNat) : execSipResponse tag err data s =
    .next ((s.less (fCount v) (s.gone tag.toNat)).completeEntry e err data) := by
  rw [execSipResponse_completes h hl err data hs, State.shareDown_some hu hv,
    if_pos (by rw [State.fld_gone]; exact hg), State.countDown_less (State.fld_gone s tag.toNat _)]

theorem execSipResponse_fresh (hg : g = (s.fld (vcGen v)).toNat) (h4 : s.fld (vcState v) ≠ 4)
    (h5 : s.fld (vcState v) ≠ 5) : execSipResponse tag err data s =
    .next ((s.less (fCount v) (s.gone tag.toNat)).entryAnswered e ref err data) := by
  obtain ⟨k1, k2⟩ := State.vc_less s (s.gone tag.toNat) v (.inl rfl)
  rw [execSipResponse_present h hl hu hv err data hs hg, State.completeEntry_fresh hu]
  rw [State.freshEntry_some hv, k1, k2, State.fld_gone, State.fld_gone, ← hg]
  rw [decide_eq_true rfl, bne_iff_ne.2 h4, bne_iff_ne.2 h5]
  rfl

variable (hq : ∀ gt id, ref = .store gt id → ∀ o ∈ (s.thread gt).stores, o.id = id → o.quiet = false)
include hq

theorem execSipResponse_reset (hg : g = (s.fld (vcGen v)).toNat)
    (h45 : s.fld (vcState v) = 4 ∨ s.fld (vcState v) = 5) : execSipResponse tag err data s =
    .next (s.less (fCount v) (s.gone tag.toNat)).stale := by
  obtain ⟨-, k2⟩ := State.vc_less s (s.gone tag.toNat) v (.inl rfl)
  rw [execSipResponse_present h hl hu hv err data hs hg, State.completeEntry_stale hu]
  · rw [State.freshEntry_some hv, k2, State.fld_gone]
    rcases h45 with k | k <;> simp [k]
  · exact hq

theorem execSipResponse_old (hg : g ≠ (s.fld (vcGen v)).toNat) : execSipResponse tag err data s =
    .next (s.less (fOldCount v) (s.gone tag.toNat)).stale := by
  obtain ⟨k1, -⟩ := State.vc_less s (s.gone tag.toNat) v (.inr rfl)
  rw [execSipResponse_completes h hl err data hs, State.shareDown_some hu hv,
    if_neg (by rw [State.fld_gone]; exact hg), State.countDown_less (State.fld_gone s tag.toNat _),
    State.completeEntry_stale hu]
  · rw [State.freshEntry_some hv, k1, State.fld_gone]
    simp [hg]
  · exact hq
end

/-- A timeout is a target error, and the entry stays in limbo. -/
theorem execLedgerTimeout_alone (hv : e.vc = none) : execLedgerTimeout tag s =
    .next (((s.less fNovcUsed (({ s with
      ledger := Map.set none s.ledger tag.toNat (some { e with limbo := true })
      fence := s.fence.erase tag.toNat } : State).countUp ⟨0x106C0014, 31, 0⟩)).countUp fLimbo).deliverError ref e.addr) := by
  rw [execLedgerTimeout, h]
  simp only [hl, Bool.false_eq_true, if_false]
  generalize ht : ({ s with
      ledger := Map.set none s.ledger tag.toNat (some { e with limbo := true })
      fence := s.fence.erase tag.toNat } : State) = t
  have hf : (t.countUp ⟨0x106C0014, 31, 0⟩).fld fNovcUsed = s.fld fNovcUsed :=
    (State.fld_countUp_addr _ (ledger_ne (by decide) (by decide) (by decide))).trans (State.fld_congr (by rw [← ht]) _)
  rw [State.shareDown_none hu hv, State.countDown_less hf, State.completeEntry_fresh hu (State.freshEntry_none hv)]
  rfl
end

end Sys2Proof.Machine
end

section
/-!
SUPPORT. Waiting accesses at port B and the global fence (R149, R314, R359).
-/
namespace Sys2Proof.Machine

/-! ## Port B (R149, R314) -/

section
variable {s : State} {i : Nat} {acc : MemAcc} (hi : s.portB[i]? = some acc)
include hi

theorem execPortBRetry_waits {clash : Bool} (h : clash = true ∨ ∃ b ∈ s.portB.take i, acc.sameThread b = true) :
    execPortBRetry i clash s = .next s := by
  rw [execPortBRetry, hi]
  simp only []
  rw [if_pos]
  rcases h with h | ⟨b, hb, hs⟩
  · rw [h, Bool.true_or]
  · rw [Bool.or_eq_true, List.any_eq_true]
    exact .inr ⟨b, hb, hs⟩

theorem execPortBRetry_performs (h : ¬ ∃ b ∈ s.portB.take i, acc.sameThread b = true) :
    execPortBRetry i false s = .next (({ s with portB := s.portB.eraseIdx i } : State).performAt acc) := by
  rw [execPortBRetry, hi]
  simp only []
  rw [if_neg]
  rw [Bool.false_or, List.any_eq_true]
  exact h
end

theorem State.performAt_read (s : State) {acc : MemAcc} {n : Nat} (h : acc.act = .read n) :
    s.performAt acc = s.deliver acc.ref (s.bytes acc.addr n) := by
  rw [State.performAt, h]; rfl

theorem State.performAt_write (s : State) {acc : MemAcc} {bs : List Byte} (h : acc.act = .write bs) :
    s.performAt acc = ((s.setBytes acc.addr bs).icacheDrop (lineOf acc.addr)).deliver acc.ref
      (s.bytes acc.addr bs.length) := by
  rw [State.performAt, h]; rfl

/-! ## The global fence (R359) -/

/-- Something accepted before the fence's token has neither been performed nor entered limbo. -/
def State.fenceWaits (s : State) : Prop :=
  s.fence ≠ [] ∨ (∃ a ∈ s.fenceAcc, a ∈ s.waitingAccs) ∨ (∃ q ∈ s.fenceReq, q ∈ s.homeQ) ∨
    ∃ l e, (l, some e) ∈ s.dir ∧ e.txn.isSome = true ∧ e.used ≤ s.fenceClock

theorem mem_fenceOpen {s : State} {k : Nat} :
    k ∈ s.fenceOpen.fence ↔ ∃ e, (k, some e) ∈ s.ledger ∧ e.limbo = false := by
  show k ∈ s.ledger.filterMap _ ↔ _
  rw [List.mem_filterMap]
  constructor
  · rintro ⟨⟨j, x⟩, hm, hk⟩
    cases x with
    | none => cases hk
    | some e =>
      simp only [] at hk
      cases hl : e.limbo with
      | true => rw [hl, if_pos rfl] at hk; cases hk
      | false =>
        rw [hl, if_neg (by decide)] at hk
        cases hk
        exact ⟨e, hm, hl⟩
  · rintro ⟨e, hm, hl⟩
    exact ⟨(k, some e), hm, by simp only [hl, Bool.false_eq_true, if_false]⟩

theorem State.fenceDone_iff (s : State) : s.fenceDone = true ↔ ¬ s.fenceWaits := by
  have hfree (e : DEntry) : (e.txn.isNone || decide (s.fenceClock < e.used)) = true ↔
      (e.txn.isSome = true → ¬ e.used ≤ s.fenceClock) := by
    cases e.txn <;> simp
  unfold State.fenceDone State.fenceWaits
  simp only [Bool.and_eq_true, List.all_eq_true, List.isEmpty_iff, Bool.not_eq_true', List.contains_eq_mem,
    decide_eq_false_iff_not, not_or, not_not, not_exists, not_and, and_assoc]
  refine and_congr_right fun _ => and_congr_right fun _ => and_congr_right fun _ => ?_
  constructor
  · exact fun h l e hm => (hfree e).1 (h (l, some e) hm)
  · rintro h ⟨l, x⟩ hm
    cases x with
    | none => rfl
    | some e => exact (hfree e).2 (h l e hm)

theorem execFenceComplete_waits {s : State} (h : s.bit fFenceBusy = false ∨ s.fenceWaits) :
    execFenceComplete s = .next s := by
  rw [execFenceComplete, if_neg]
  rw [Bool.and_eq_true, State.fenceDone_iff]
  rintro ⟨h1, h2⟩
  rcases h with h | h
  · rw [h] at h1; cases h1
  · exact h2 h

theorem execFenceComplete_ends {s : State} (hb : s.bit fFenceBusy = true) (h : ¬ s.fenceWaits) :
    execFenceComplete s = .next
      { s.put [(fFenceBusy, 0)] with fence := [], fenceAcc := [], fenceReq := [] } := by
  rw [execFenceComplete, if_pos (by rw [hb, (State.fenceDone_iff s).2 h]; rfl)]
  rfl

theorem execDirFenceGo_eq {s : State} {who : Agent} (hw : direct who) (hp : s.powered 44 = true) :
    execDirFenceGo who s = .next (if s.bit fFenceBusy then s.refuse .dir 4 else s.fenceOpen) :=
  congrArg Host.Outcome.next (State.atBlock_direct 4 _ hw hp)

/-- Settles O37: a request that issues is counted in its share and enters its port's queue; a response by what its entry
is; a waiting access once nothing is before it; a fence by what it took up at its GO. -/
theorem ledgerWaitsAndFences : Obligations.LedgerWaitsAndFences := by
  unfold Obligations.LedgerWaitsAndFences
  refine ⟨fun i tag err data e ref s => ?ledger, fun i clash who acc s => ?waits⟩
  case ledger =>
    intro k quota free held tmo gone less took quiet stale bytes
    have hb : bytes = e.answer data := by
      obtain ⟨_, _, _, _, wr, _, _, _⟩ := e
      cases wr <;> rfl
    refine ⟨fun hi hu hr => ?_, fun h => execSipResponse_free err data h, fun h hs => execSipResponse_early h err data hs,
      fun h hs hl => execSipResponse_limbo h err data hs hl, fun h hl hu => ?_, fun h => execLedgerTimeout_idle h⟩
    · intro clear run
      exact ⟨fun hc => execLedgerIssue_blocked hi hr hc, fun hc hfirst => ⟨fun hv =>
        ⟨fun hroom => execLedgerIssue_alone hi hu hr hc hfirst hv hroom, fun hfull => execLedgerIssue_full hi hr
          ((State.shareRoom_none (e := s.tagged e) hu hv).trans (decide_eq_false (BitVec.not_lt.2 hfull)))⟩,
        fun v g hv => ⟨fun hroom => execLedgerIssue_below hi hu hr hc hfirst hv hroom,
          fun hroom => execLedgerIssue_reaches hi hu hr hc hfirst hv hroom, fun hfull => execLedgerIssue_full hi hr
          ((State.shareRoom_some (e := s.tagged e) hu hv).trans (decide_eq_false (BitVec.not_lt.2 hfull)))⟩⟩⟩
    · intro done
      have hdone (u : State) : done u = u.entryAnswered e ref err data := by
        show (if err = true then u.deliverError ref e.addr else u.deliver ref bytes) = _
        rw [hb]; rfl
      refine ⟨fun hs => ⟨fun hv => ?_, fun v g hv hg h4 h5 => ?_,
        fun v g hv hq hg h45 => execSipResponse_reset h hl hu hv err data hs hq hg h45,
        fun v g hv hq hg => execSipResponse_old h hl hu hv err data hs hq hg⟩,
        fun hv => execLedgerTimeout_alone h hl hu hv⟩
      · rw [hdone]; exact execSipResponse_alone h hl hu err data hs hv
      · rw [hdone]; exact execSipResponse_fresh h hl hu hv err data hs hg h4 h5
  case waits =>
    intro rest before
    refine ⟨fun hi => ⟨fun h => execPortBRetry_waits hi h, fun hc hb n hn => ?_, fun hc hb bs hbs => ?_⟩,
      fun hw hp => ⟨fun hbusy => ?_, fun hbusy => ⟨s.fenceOpen, ?_, rfl, fun k => mem_fenceOpen⟩⟩,
      fun h => execFenceComplete_waits h, fun h1 h2 => execFenceComplete_ends h1 h2⟩
    · rw [hc]
      exact (execPortBRetry_performs hi hb).trans (congrArg _ (State.performAt_read rest hn))
    · rw [hc]
      exact (execPortBRetry_performs hi hb).trans (congrArg _ (State.performAt_write rest hbs))
    · exact (execDirFenceGo_eq hw hp).trans (congrArg _ (if_pos hbusy))
    · exact (execDirFenceGo_eq hw hp).trans (congrArg _ (if_neg (by rw [hbusy]; decide)))

end Sys2Proof.Machine
end
